-- ==== Sys2Proof/Word.lean ====
section
/-! DEFINITION. The word types of the model and their plainest arithmetic. -/

namespace Sys2Proof

/-- One byte of data (R69). -/
abbrev Byte := BitVec 8

/-- A control-space register word (R5). -/
abbrev Word := BitVec 32

/-- A granule of 64 bytes as one bit string, byte 0 in bits [7:0] (R2, R69). -/
abbrev Beat := BitVec 512

/-- A cadence tick: one nanosecond of the rack-wide count (R34). -/
abbrev Tick := Nat

end Sys2Proof
end

