-- ==== Sys2Proof/Config.lean ====
section
/-! DEFINITION. What an instance fixes (its site code), and the FREE VALUES: the results the spec leaves open.
Every `opaque` constant here has no body, so no proof can learn a value of it. -/

namespace Sys2Proof.Config

/-- The values the spec leaves open and the machine goes on: each use reads the next index of `State.free`
(log entry 3). -/
opaque freeNat : Nat → Nat

/-- SHA-384 of a byte string, which R632 and R639 name and do not define (log entry 4). -/
opaque sha384 : List Byte → BitVec 384

/-- ECDSA P-384 verification of (public key, signature, signed bytes), which R632 names and does not define
(log entry 4). -/
opaque ecdsaVerify : List Byte → List Byte → List Byte → Bool

/-- 2^((tj_max - 100) / 20) of R729 as a numerator over 2^32, a real power whose precision the spec does not state;
the argument is TJ_MAX in half degrees above -64 °C (log entry 5). -/
opaque leakPower : Nat → Nat

/-- The site code of MSH_SITE: the field of the site, a board strap (R648). -/
opaque siteFieldRaw : Nat

/-- The site code of MSH_SITE: the site within the field, a board strap (R648). -/
opaque siteSiteRaw : Nat

/-- The field number, 0 to 39 (R77). -/
def siteField : Nat := siteFieldRaw % 40

/-- The site number, 0 to 11 (R77). -/
def siteSite : Nat := siteSiteRaw % 12

/-- The 64 KiB boot ROM that every instance starts from, whose contents the spec does not give (R218; log entry 124). -/
opaque bootRom : Nat → Byte

/-- The four OTP generations as the instance came from wafer test (R639): a plain bit string each, which the spec
leaves to the wafer (log entry 6). -/
opaque otpFactory : Nat → BitVec 1024

/-- The mesh gateway's route toward an instance (wafer, index): the spec names the route and does not define it (R407,
R588; log entry 8). -/
opaque routeRaw : Nat → Nat → Nat

/-- The outbound link of the route. -/
def route (wafer inst : Nat) : Nat := routeRaw wafer inst % 4

end Sys2Proof.Config
end

