-- ==== Sys2Proof/Syntax.lean ====
section
/-! DEFINITION. The commands of Elras-64: the packets, frames and events that reach one instance, one constructor of
`Instr` per row of spec/opcode_table.json. -/

namespace Sys2Proof

/-- What the SECDED code of one protected unit finds when it is read (R527, R805): `many` is three or more flipped
bits. -/
inductive Upset
  | none | single | double | many
deriving DecidableEq, Repr

/-- The physical damage that one bank access meets: upsets of the state word (R104 to R106), bits of the row flipped
at rest (0 to 511 the data bits, 512 + k the parity bit of byte k), the bytes that mismatch at P2, P4 and P6
(R101), and whether a log entry that the access writes reads back wrong (R560). -/
structure Phys where
  sw : Upset
  flips : List Nat
  p2 : BitVec 64
  p4 : BitVec 64
  p6 : BitVec 64
  logBad : Bool
deriving DecidableEq, Repr

/-- What a pacer instruction finds: `perr` that the fetched instruction mismatches its parity (R421), `store` what the
SECDED code of the baton word that it reads finds, and `bibs` what that of each bib entry finds, by bib (R336, R392,
R429). -/
structure InsUps where
  perr : Bool
  store : Upset
  bibs : List (Nat × Upset)
deriving DecidableEq, Repr

/-- What the scrubber's reads of the SECDED stores find in one fine bucket (R538, R611): the bib table, the baton store, the
mirror line store, the error log memory, a journal descriptor and a filter entry; `shSt`: the shadow copy of that
descriptor is stained. -/
structure StoreUpsets where
  bib : Upset
  baton : Upset
  line : Upset
  log : Upset
  jnl : Upset
  filter : Upset
  shSt : Bool
deriving DecidableEq, Repr

/-- A packet as a lane channel receives it: `lane` 0 to 63, `ch` 0 M, 1 V, 2 D (R133); `flits` is what the framing
lines mark (R141); `hdr` is the header flit and `beats` the data beats (R139, R143); `up`: what the SECDED code of the
bib entry or baton word that the request reads finds (R336, R429). -/
structure LanePkt where
  lane : Nat
  ch : Nat
  flits : Nat
  hdr : BitVec 256
  beats : List Beat
  up : Upset
deriving DecidableEq, Repr

/-- A request as it reaches the mesh gateway over link `link` (R804): the origin instance, the requester identity at
the origin, the request header of R143 and its data. -/
structure MeshPkt where
  link : Nat
  owafer : Nat
  oinst : Nat
  oreq : Nat
  hdr : BitVec 256
  beats : List Beat
  up : Upset
deriving DecidableEq, Repr

/-- The answer of another instance to an outbound request of the gateway, named by the gateway's entry (R588). -/
structure MeshAns where
  seq : Nat
  code : Nat
  value : Nat
  stainMap : Nat
  data : List Beat
deriving DecidableEq, Repr

/-- A master of the control bus (R95). -/
inductive Master
  | marshal | debug | supervisor
deriving DecidableEq, Repr

/-- Who writes, and where: a master at a control-space offset (R94), or a marshal at an address of its own space (R218). -/
inductive Bus
  | port (m : Master)
  | core (mi : Nat)
deriving DecidableEq, Repr

/-- Where a marshal command comes from (R641): a mailbox or a partition ring. -/
inductive CmdSrc
  | supervisor | debug | ring (p : Nat)
deriving DecidableEq, Repr

/-- A request that passes the scoreboard (R357), and the bytes of its source beats that arrive damaged at the transform
unit (R326): beat number and byte mask. -/
structure Passing where
  id : Nat
  p4 : List (Nat × BitVec 64)
deriving DecidableEq, Repr

/-- A move of the descriptor ring of partition `p` begins (R511), and what its reads of bib entries meet (R336). -/
structure MoveStart where
  p : Nat
  bibs : List (Nat × Upset)
deriving DecidableEq, Repr

/-- A PART_KILL (R641) and what the clear of its bank rows meets in boundary state words (R109). -/
structure Kill where
  src : CmdSrc
  sw : List (Nat × Nat × Upset)
deriving DecidableEq, Repr

/-- A tier page that the tier delivers for a fill (R497, R500): page `page` of bib number `bib` of move `mv`, the five
record granules, the 1,024 data granules, and the granules that the tier names as uncorrectable (R501). -/
structure TierPage where
  mv : Nat
  bib : Nat
  page : Nat
  record : List Beat
  data : List Beat
  bad : List Nat
deriving DecidableEq, Repr

/-- A boot-stream block (R624). -/
structure Block where
  hdr : BitVec 256
  payload : List Byte
deriving DecidableEq, Repr

/-- What BIST found (R122, R123): the failing data banks (0 to 511) and the tracks whose spare failed, and the marshals
whose self-test failed (R618). -/
structure BistResult where
  banks : List Nat
  spares : List Nat
  marshals : List Nat
deriving DecidableEq, Repr

/-- The clock faults of R678. -/
inductive ClockFaultKind
  | refFail | pllUnder | pllOver | pllUnlock
deriving DecidableEq, Repr

/-- The commands. Each constructor is a row of spec/opcode_table.json; LAWS.json holds the map. -/
inductive Instr
  -- request packets at a lane (R151)
  | read (p : LanePkt) | readT (p : LanePkt) | readS (p : LanePkt) | readX (p : LanePkt)
  | write (p : LanePkt) | writeN (p : LanePkt) | accum (p : LanePkt)
  | atomAdd (p : LanePkt) | atomMin (p : LanePkt) | atomMax (p : LanePkt) | atomSwap (p : LanePkt) | atomCas (p : LanePkt)
  | batonSignal (p : LanePkt) | batonWait (p : LanePkt) | batonRead (p : LanePkt) | tapeArrive (p : LanePkt)
  | fence (p : LanePkt) | hint (p : LanePkt) | paceLaunch (p : LanePkt) | relayPush (p : LanePkt) | relayPop (p : LanePkt)
  -- lane channels and the stages of a request
  | coreCreditPacket (p : LanePkt) | channelUp (lane ch : Nat) | channelDown (lane ch : Nat)
  | creditReturnTimeout (lane ch : Nat)
  | holdPointPass (id : Nat) | issueRelease (id : Nat) | scoreboardPass (p : Passing)
  | accessCommit (bank : Nat) (ph : Phys) | attachedSignalApply (id : Nat) (up : Upset)
  -- the mesh gateway
  | meshRequest (m : MeshPkt) | remoteAnswer (a : MeshAns) | gatewayResend (seq : Nat) | remoteTimeout (seq : Nat)
  | dedupExpiry (owafer oinst oreq tag : Nat)
  -- cadence
  | countFrame (link : Nat) (frame : BitVec 128) | announcementFrame (link : Nat) (frame : BitVec 128)
  | wakePattern (link : Nat) (frame : BitVec 128)
  | sourceLoss | holdoverExpiry | effectiveTick | stepSwitch | stepSwitchDeferred
  | fineBucketBoundary (up : StoreUpsets) | latencyDecay
  -- pacer instructions, executed by stream `st` of pacer `q`; `ups`: what its fetch and reads find
  | nop (q st : Nat) (ups : InsUps) | li (q st : Nat) (ups : InsUps) | add (q st : Nat) (ups : InsUps)
  | addi (q st : Nat) (ups : InsUps) | muli (q st : Nat) (ups : InsUps) | shli (q st : Nat) (ups : InsUps)
  | shri (q st : Nat) (ups : InsUps) | andi (q st : Nat) (ups : InsUps) | jmp (q st : Nat) (ups : InsUps)
  | bnz (q st : Nat) (ups : InsUps) | beq (q st : Nat) (ups : InsUps) | loop (q st : Nat) (ups : InsUps)
  | endl (q st : Nat) (ups : InsUps) | src (q st : Nat) (ups : InsUps) | dst (q st : Nat) (ups : InsUps)
  | mov (q st : Nat) (ups : InsUps) | sig (q st : Nat) (ups : InsUps) | waitb (q st : Nat) (ups : InsUps)
  | rpop (q st : Nat) (ups : InsUps) | rpush (q st : Nat) (ups : InsUps) | sync (q st : Nat) (ups : InsUps)
  | endTask (q st : Nat) (ups : InsUps)
  -- pacer tasks
  | taskEnd (q st : Nat) | taskCutoff (q st : Nat) | pacerRemoteAnswer (a : MeshAns) | pacerRemoteResend (seq : Nat)
  | hintStart (q : Nat) | hintEnd (q : Nat)
  -- tape messages (R453) and release
  | tapeArriveMessage (m : BitVec 128) | tapeReleaseMessage (m : BitVec 128) | tapeFaultMessage (m : BitVec 128)
  | tapeRefusedMessage (m : BitVec 128) | tapeRelease (n : Nat)
  | combWindowExpiry (lane core slot : Nat)
  -- the spill engine
  | moveDescriptorRead (p : Nat) | spill (m : MoveStart) | fill (m : MoveStart)
  | tierPageDelivery (d : TierPage) | tierAck (mv bib page : Nat) | tierTimeout (mv : Nat) | tierPageFailure (mv bib : Nat)
  -- the journal and the buddy
  | shadowWrite (link desc : Nat) (data : Beat) | shadowResubmit | shadowAck (seq : Nat) | shadowTimeout (seq : Nat)
  | keepaliveSend | keepalive (fenced : Bool) | partnerLost
  -- the marshal pair
  | heartbeatTimeout | marshalFailure | failover (m : Master) | marshalTakeover
  | start (m : Master) (w : Word) | checkpointComplete
  | partFault (cls idx : Nat) | recoveryWindowClose
  -- resets and boot
  | warmReset | warmResume | coldReset | bistDone (r : BistResult) | refReady | refclkTimeout | pllLock
  | directory (b : Block) | data (b : Block) | endOfPass (b : Block) | authDone | applyDone
  -- roll-call
  | helloSend | hello (link : Nat) (m : BitVec 128) | helloReply (link : Nat) (m : BitVec 128) (receipt : Nat)
  | neighbourSilent (link : Nat) | fieldStatus (m : BitVec 128) | fieldStatusTimeout | glbSelfWrite (m : Master) (w : Word)
  -- marshal commands (R641, R703, R744)
  | partCreate (c : CmdSrc) | partKill (k : Kill) | bibAlloc (c : CmdSrc) | bibFree (c : CmdSrc) | bibLink (c : CmdSrc)
  | srSet (c : CmdSrc) | ctxSave (c : CmdSrc) | ctxRestore (c : CmdSrc) | otpBurn (c : CmdSrc) | reform (c : CmdSrc)
  | reformRestart
  | pwrIdle (c : CmdSrc) | pwrActive (c : CmdSrc) | pwrDoze (c : CmdSrc) | dozeEntry | dozeDrainTimeout | pwrOff (c : CmdSrc)
  | pwrStepSet (c : CmdSrc) | pwrCap (c : CmdSrc) | pwrFixed (c : CmdSrc) | pwrBoost (c : CmdSrc)
  -- power states and clocks
  | cpmAonWake (m : Master) (w : Word) | wakeRequest (source lane : Nat) | dozeTimerExpiry | laneTrainingRequest (lane : Nat)
  | wakeComplete | retentionBrownout | clockFault (k : ClockFaultKind) | rcFail | safeExit | safeTimeout
  | fmDone (count : Nat)
  -- temperature, supply, energy
  | tempSample (raw : List Int) | tripSwitch | supplyBelowWarn (rail : Nat) | supplyPauseEnd | supplyReset | supplyResetRelease
  | vmonRefresh (mv : List Nat) | pmonRefresh (edges : List Nat) | estimatorWindow (measured : Nat) (milliamps : Nat)
  | monitorToken (sweep : Nat) | noToken
  -- pins
  | pfailAssert | handoffPoint | pfailRelease | warmRstN | coldRstN | warm (m : Master) | cold (m : Master) | vaonApplied
  -- control-space writes with a row of their own
  | bibCommit (m : Master) (n : Nat) (w : Word) (up : Upset) | bibStageWrite (m : Master) (n k : Nat) (w : Word)
  | btnCntWrite (m : Master) (n : Nat) (w : Word) (up : Upset) | btnCtlWrite (m : Master) (n : Nat) (w : Word)
  | tapeHeatWrite (m : Master) (n : Nat) (w : Word) | force (m : Master) (n : Nat)
  | tapeCfgWrite (m : Master) (n : Nat) (link : Bool) (w : Word)
  | rlyLoad (m : Master) (n : Nat) (w : Word) | flush (m : Master) (n : Nat)
  | abort (m : Master) (q : Nat) (w : Word) | pmDataLoWrite (m : Master) (q : Nat) (w : Word) | pmDataHiWrite (m : Master) (q : Nat) (w : Word)
  | partRegionWrite (m : Master) (n k : Nat) (w : Word) | partQosWrite (m : Master) (n : Nat) (w : Word)
  | regSplitWrite (m : Master) (q : Nat) (w : Word) | regCtlWrite (m : Master) (w : Word)
  | trkRepairWrite (m : Master) (n : Nat) (w : Word) | cadCtlWrite (m : Master) (w : Word) | laneCombWrite (m : Master) (n : Nat) (w : Word)
  | splRingCfgWrite (m : Master) (p : Nat) (w : Word) | splTierWrite (m : Master) (t k : Nat) (w : Word)
  | jnlBuddyWrite (m : Master) (w : Word) | jnlHbWrite (m : Master) (w : Word) | meshCtlWrite (m : Master) (w : Word)
  | flipCtlWrite (m : Master) (w : Word) | retry (m : Master) | gaspClr (m : Master) | trippedClear (m : Master)
  | calReset (m : Master) | ctrSelWrite (m : Master) (i : Nat) (w : Word) | clear (m : Master) | snap (m : Master) (andClear : Bool)
  | tdClear (m : Master) | trcClear (m : Master) | trcMark (m : Master) (w : Word)
  | mshLmapWrite (mi : Nat) (w : Word) | dbgCtlWrite (m : Master) (w : Word)
  | registerWrite (b : Bus) (off size : Nat) (w : Word)
  -- the IEEE 1500 wrapper
  | wsBypass | wsExtest | wsIntest | widcode | status | csr (d : BitVec 59) | mem (d : BitVec 97) | wake (b : Bool)
  -- mesh links, rails and what is left
  | meshLinkTrained (k : Nat) | meshLinkDown (k : Nat) | supplyReturn | referenceUsable | logTestDone (pass : Bool)
  | combWriteBackResend (id : Nat) | vaonRemoved | railsRemoved | railsApplied
deriving DecidableEq, Repr

end Sys2Proof
end

