-- ==== Sys2Proof/Decode.lean ====
section
/-! DEFINITION. The reading of a command from a table word. No row of spec/opcode_table.json gives bits, so no word spells a
command; the packets, frames and messages that do have encodings are read where they arrive (R143, R37, R53, R453, R660). -/

namespace Sys2Proof

/-- The command that a word of the table spells: none, since the table gives no row any bits. -/
def decodeTableWord (_nbits _w : Nat) : Option Instr := none

end Sys2Proof
end

