-- ==== Sys2Proof/Machine/Sparse.lean ====
section
/-! DEFINITION. Sparse maps as plain data: lists of (key, value) pairs with strictly rising keys, an unlisted key
reading as a default. Everything repeated in the block (register fields, memory state words, calendars, tags) is one. -/

namespace Sys2Proof.Machine

/-- A sparse map from natural keys. -/
abbrev Sparse (α : Type) := List (Nat × α)

/-- The value listed at a key. -/
def Sparse.find {α : Type} : Sparse α → Nat → Option α
  | [], _ => none
  | (j, v) :: r, k => if j = k then some v else Sparse.find r k

/-- The value at a key, `d` where none is listed. -/
def Sparse.at {α : Type} (m : Sparse α) (k : Nat) (d : α) : α := (Sparse.find m k).getD d

/-- List `v` at key `k`. -/
def Sparse.put {α : Type} : Sparse α → Nat → α → Sparse α
  | [], k, v => [(k, v)]
  | (j, w) :: r, k, v =>
    if k < j then (k, v) :: (j, w) :: r
    else if j = k then (k, v) :: r
    else (j, w) :: Sparse.put r k v

/-- List nothing at key `k`. -/
def Sparse.del {α : Type} : Sparse α → Nat → Sparse α
  | [], _ => []
  | (j, w) :: r, k => if j = k then Sparse.del r k else (j, w) :: Sparse.del r k

/-- Give key `k` the value `v` of a map whose default is `d`: the default is not listed. -/
def Sparse.set {α : Type} [DecidableEq α] (m : Sparse α) (k : Nat) (v d : α) : Sparse α :=
  if v = d then Sparse.del m k else Sparse.put m k v

/-- The keys rise strictly. -/
def Sparse.sorted {α : Type} : Sparse α → Bool
  | [] => true
  | [_] => true
  | (j, _) :: (k, w) :: r => decide (j < k) && Sparse.sorted ((k, w) :: r)

/-- The canonical form of a map with default `d`: rising keys, and the default never listed. -/
def Sparse.wf {α : Type} [DecidableEq α] (m : Sparse α) (d : α) : Bool :=
  Sparse.sorted m && m.all (fun p => decide (p.2 ≠ d))

/-- Keep the entries whose key the test accepts. -/
def Sparse.keep {α : Type} (m : Sparse α) (f : Nat → Bool) : Sparse α := m.filter (fun p => f p.1)

/-- The `w` bits of `x` from bit `lo` up. -/
def bits (x lo w : Nat) : Nat := x / 2 ^ lo % 2 ^ w

/-- One bit of `x`. -/
def bitAt (x i : Nat) : Bool := x / 2 ^ i % 2 == 1

/-- A Bool as a bit. -/
def b2n (b : Bool) : Nat := if b then 1 else 0

/-- A saturating count of `w` bits. -/
def satAdd (w x n : Nat) : Nat := min (x + n) (2 ^ w - 1)

/-- Keep the first `k` bytes of a list, padded with zero bytes. -/
def padBytes (k : Nat) (l : List Byte) : List Byte := (l ++ List.replicate k 0).take k

/-- The number that `l` spells, least significant byte first (R2). -/
def leBytes : List Byte → Nat
  | [] => 0
  | b :: r => b.toNat + 256 * leBytes r

/-- The `k` bytes of `n`, least significant first (R2). -/
def toBytes : Nat → Nat → List Byte
  | 0, _ => []
  | k + 1, n => BitVec.ofNat 8 n :: toBytes k (n / 256)

end Sys2Proof.Machine
end

