-- ==== Sys2Proof/Machine/Formats.lean ====
section
/-! DEFINITION. Element formats and their exact conversions (R289 to R299, R312 to R321), the cyclic checks (R802 and
the CRC-32C of log entry 7) and the bit strings they work on. -/

namespace Sys2Proof.Machine

/-- An exact element value: sign, magnitude `m * 2^e`, or an infinity or a NaN. -/
inductive FVal
  | fin (neg : Bool) (m : Nat) (e : Int)
  | inf (neg : Bool)
  | nan
deriving DecidableEq, Repr

/-- A floating format: exponent bits, fraction bits, bias, the magnitude code of the largest finite value, that of
infinity (none where the format has none) and the canonical NaN (R289, R292). -/
structure FFmt where
  eb : Nat
  fb : Nat
  bias : Int
  big : Nat
  infc : Option Nat
  nanc : Nat
deriving DecidableEq, Repr

/-- E4M3. -/
def fmtE4M3 : FFmt := ⟨4, 3, 7, 0x7E, none, 0x7F⟩
/-- E5M2. -/
def fmtE5M2 : FFmt := ⟨5, 2, 15, 0x7B, some 0x7C, 0x7E⟩
/-- E3M2, no infinity and no NaN. -/
def fmtE3M2 : FFmt := ⟨3, 2, 3, 0x1F, none, 0x20⟩
/-- E2M3, no infinity and no NaN. -/
def fmtE2M3 : FFmt := ⟨2, 3, 1, 0x1F, none, 0x20⟩
/-- E2M1, no infinity and no NaN. -/
def fmtE2M1 : FFmt := ⟨2, 1, 1, 0x7, none, 0x8⟩
/-- BF16. -/
def fmtBF16 : FFmt := ⟨8, 7, 127, 0x7F7F, some 0x7F80, 0x7FC0⟩
/-- FP32. -/
def fmtFP32 : FFmt := ⟨8, 23, 127, 0x7F7FFFFF, some 0x7F800000, 0x7FC00000⟩

/-- Bits of one element of a format. -/
def FFmt.width (f : FFmt) : Nat := f.eb + f.fb + 1

/-- The element format of a format code 0 to 7 (R289); codes 2 to 6 are MX formats with these elements. -/
def elemFmt (code : Nat) : FFmt :=
  match code with
  | 0 => fmtE4M3 | 1 => fmtE5M2 | 2 => fmtE4M3 | 3 => fmtE5M2
  | 4 => fmtE3M2 | 5 => fmtE2M3 | 6 => fmtE2M1 | _ => fmtBF16

/-- Codes 2 to 6 are MX formats. -/
def isMX (code : Nat) : Bool := 2 ≤ code && code ≤ 6

/-- Bytes of one MX block of 32 elements (R293). -/
def blockBytes (code : Nat) : Nat := 4 * (elemFmt code).width

/-- Granules of one MX tile, the scale granule included (R293). -/
def tileGranules (code : Nat) : Nat := blockBytes code + 1

/-- emax of R312. -/
def emaxOf (code : Nat) : Int :=
  match code with
  | 2 => 8 | 3 => 15 | 4 => 4 | _ => 2

/-- The value of an element's bits (R289). -/
def decodeF (f : FFmt) (x : Nat) : FVal :=
  let mag := x % 2 ^ (f.eb + f.fb)
  let neg := bitAt x (f.eb + f.fb)
  if mag > f.big then
    if f.infc = some mag then .inf neg else .nan
  else
    let ex := mag / 2 ^ f.fb
    let fr := mag % 2 ^ f.fb
    if ex = 0 then .fin neg fr (1 - f.bias - f.fb)
    else .fin neg (2 ^ f.fb + fr) (ex - f.bias - f.fb)

/-- An element that a conversion made: its bits, and whether it saturated (R298) or is a NaN (R299). -/
structure Conv where
  x : Nat
  sat : Bool
  nan : Bool
deriving DecidableEq, Repr

/-- `m * 2^k` rounded down, and whether nothing was lost. -/
def shiftFloor (m : Nat) (k : Int) : Nat :=
  if 0 ≤ k then m * 2 ^ k.toNat else m / 2 ^ (-k).toNat

/-- How a magnitude that lies strictly between two codes rounds: to nearest even, or stochastically with the random
value `r` (R314). -/
inductive Rounding
  | even
  | stoch (r : Nat)
deriving DecidableEq, Repr

/-- Round an exact value once to a format (R296 to R299, R314). `ovfInf`: a value too large becomes an infinity, as
an IEEE sum does (R318), rather than the largest finite value (R298). -/
def encodeF (f : FFmt) (ovfInf : Bool) (rd : Rounding) (v : FVal) : Conv :=
  let s (n : Bool) : Nat := if n then 2 ^ (f.eb + f.fb) else 0
  match v with
  | .nan => ⟨f.nanc, false, true⟩
  | .inf n =>
    match f.infc with
    | some c => ⟨s n + c, false, false⟩
    | none => ⟨f.nanc, false, true⟩
  | .fin n m e =>
    if m = 0 then ⟨s n, false, false⟩
    else
      let lg : Int := Nat.log2 m + e
      let q : Int := max lg (1 - f.bias)
      -- units of 2^(q - fb), with 24 bits below
      let d : Int := e - (q - f.fb)
      let n0 := shiftFloor m d
      let code0 := (q + f.bias - 1).toNat * 2 ^ f.fb + n0
      let f24 := shiftFloor m (d + 24) - n0 * 2 ^ 24
      let exact24 := decide (shiftFloor (shiftFloor m (d + 24)) (-(d + 24)) = m) || decide (0 ≤ d + 24)
      let half := 2 ^ 23
      let inexact := decide (f24 ≠ 0) || !exact24
      let tooBig := decide (code0 > f.big) || (decide (code0 = f.big) && inexact)
      let upEven := decide (f24 > half) || (decide (f24 = half) && (!exact24 || decide (code0 % 2 = 1)))
      if ovfInf then
        let c := if upEven then code0 + 1 else code0
        if c > f.big then ⟨s n + f.infc.getD f.big, false, false⟩ else ⟨s n + c, false, false⟩
      else if tooBig then ⟨s n + f.big, true, false⟩
      else
        let up := match rd with
          | .even => upEven
          | .stoch r => decide (r < f24)
        ⟨s n + (if up then code0 + 1 else code0), false, false⟩

/-- A value times `2^k`. -/
def FVal.scale (v : FVal) (k : Int) : FVal :=
  match v with
  | .fin n m e => .fin n m (e + k)
  | w => w

/-- The exact sum of two values (R318): an exact zero of operands of opposite sign is +0, of equal sign keeps it. -/
def FVal.sum (a b : FVal) : FVal :=
  match a, b with
  | .nan, _ => .nan
  | _, .nan => .nan
  | .inf x, .inf y => if x = y then .inf x else .nan
  | .inf x, _ => .inf x
  | _, .inf y => .inf y
  | .fin s1 m1 e1, .fin s2 m2 e2 =>
    let e := min e1 e2
    let v (s : Bool) (m : Nat) (k : Int) : Int := (if s then -1 else 1) * (m * 2 ^ (k - e).toNat : Nat)
    let t := v s1 m1 e1 + v s2 m2 e2
    if t = 0 then .fin (s1 && s2) 0 e
    else .fin (decide (t < 0)) t.natAbs e

/-- One ACCUM element sum (R317 to R319): kind 0 FP32, 1 BF16, 2 INT32; the flag is a NaN sum. -/
def accumElem (kind a b : Nat) : Nat × Bool :=
  if kind = 2 then ((a + b) % 2 ^ 32, false)
  else
    let f := if kind = 0 then fmtFP32 else fmtBF16
    let c := encodeF f true .even ((decodeF f a).sum (decodeF f b))
    (c.x, c.nan)

/-- The scale exponent of an MX block whose largest magnitude is `m * 2^e` (R312). -/
def mxExp (code : Nat) (m : Nat) (e : Int) : Int :=
  if m = 0 then -127 else max (-127) (min 127 ((Nat.log2 m : Int) + e - emaxOf code))

/-- `a ≤ b` on magnitudes `m * 2^e`. -/
def magLe (a b : Nat × Int) : Bool :=
  let e := min a.2 b.2
  decide (a.1 * 2 ^ (a.2 - e).toNat ≤ b.1 * 2 ^ (b.2 - e).toNat)

/-- The mixing function of R315. -/
def srMix (z : Nat) : Nat :=
  let m := 2 ^ 64
  let z1 := (Nat.xor z (z / 2 ^ 30)) * 0xBF58476D1CE4E5B9 % m
  let z2 := (Nat.xor z1 (z1 / 2 ^ 27)) * 0x94D049BB133111EB % m
  Nat.xor z2 (z2 / 2 ^ 31)

/-- The random value of a destination element (R315). -/
def srRandom (key step src pos : Nat) : Nat :=
  let z := srMix (Nat.xor key step)
  let z2 := srMix (Nat.xor (Nat.xor z (src * 2 ^ 40 % 2 ^ 64)) pos)
  bits z2 40 24

/-- The elements of `w` bits of a little-endian bit string (R291). -/
def elemAt (x w j : Nat) : Nat := bits x (w * j) w

/-- One bit of the CRC-16 of R802. -/
def crc16Bit (c : Nat) (d : Bool) : Nat :=
  let f := xor (bitAt c 15) d
  let c2 := c * 2 % 2 ^ 16
  if f then Nat.xor c2 0x1021 else c2

/-- The CRC-16 of `n` bits of `x` from bit 0 upward, continued from `c`. -/
def crc16Go : Nat → Nat → Nat → Nat
  | 0, _, c => c
  | n + 1, x, c => crc16Go n (x / 2) (crc16Bit c (x % 2 == 1))

/-- The CRC-16 of a header's bits [239:0] and the data beats after it (R140). -/
def packetCrc (h : Nat) (beats : List Nat) : Nat :=
  beats.foldl (fun c b => crc16Go 512 b c) (crc16Go 240 (h % 2 ^ 240) 0xFFFF)

/-- The CRC-16 of the low `n` bits of `x`. -/
def crc16 (n x : Nat) : Nat := crc16Go n x 0xFFFF

/-- One byte of CRC-32C, eight bit steps of the reflected Castagnoli polynomial (PRESUMED, log entry 7). -/
def crc32cBits : Nat → Nat → Nat
  | 0, c => c
  | n + 1, c => crc32cBits n (if c % 2 = 1 then Nat.xor (c / 2) 0x82F63B78 else c / 2)

/-- CRC-32C of a byte string (log entry 7). -/
def crc32c (l : List Byte) : Nat :=
  Nat.xor (l.foldl (fun c b => crc32cBits 8 (Nat.xor c b.toNat)) 0xFFFFFFFF) 0xFFFFFFFF

/-- Give a header's bits [239:0] its CRC field [255:240], with the data beats it covers. -/
def withCrc (h : Nat) (beats : List Nat) : Nat := h % 2 ^ 240 + 2 ^ 240 * packetCrc h beats

/-- A word of fields: each (lowest bit, value). -/
def fieldsWord (l : List (Nat × Nat)) : Nat := l.foldl (fun a p => a + p.2 * 2 ^ p.1) 0

/-- A signed number from `w` bits of two's complement. -/
def signedOf (w x : Nat) : Int := if x < 2 ^ (w - 1) then x else (x : Int) - 2 ^ w

/-- The new word of an atomic (R321): op 8 ADD, 9 MIN, 10 MAX, 11 SWAP, 12 CAS; `none`: nothing is written (R113). -/
def atomicNew (op w old operand cmp : Nat) : Option Nat :=
  match op with
  | 0x08 => some ((old + operand) % 2 ^ w)
  | 0x09 => some (if signedOf w old ≤ signedOf w operand then old else operand)
  | 0x0A => some (if signedOf w operand ≤ signedOf w old then old else operand)
  | 0x0B => some operand
  | _ => if old = cmp then some operand else none

end Sys2Proof.Machine
end

