-- ==== Sys2Proof/Machine/Regs.lean ====
section
/-! DEFINITION. The control-space registers of Elras-64, field by field, as the register tables of the spec give them
(R5, R796 to R800): offset, bits, access code (R4), reset value and the encodings that a write accepts (R11). -/

namespace Sys2Proof.Machine

/-- The access codes of R4; `w1cf` is a W1C field of several bits, a count. -/
inductive Acc
  | rw | ro | w1c | w1cf | wo | rws | otp
deriving DecidableEq, Repr

/-- One field of a register: offset of the register, lowest bit, width, access, reset value and the least and the
greatest encoding that a write may set (R11). -/
structure Fld where
  off : Nat
  lo : Nat
  w : Nat
  acc : Acc
  rst : Nat
  mn : Nat
  mx : Nat
deriving DecidableEq, Repr

/-- The key of a field in `State.regs`: its lowest bit's address. -/
def Fld.key (f : Fld) : Nat := 8 * f.off + f.lo

/-- CPM_CAD_STAT.STATE (R64). -/
def F.CPM_CAD_STAT_STATE : Fld :=
  ⟨0x1008, 0, 2, .ro, 0, 0, 3⟩
/-- CPM_CAD_STAT.SRC (R64). -/
def F.CPM_CAD_STAT_SRC : Fld :=
  ⟨0x1008, 2, 2, .ro, 0, 0, 3⟩
/-- CPM_CAD_STAT.HOP (R64). -/
def F.CPM_CAD_STAT_HOP : Fld :=
  ⟨0x1008, 4, 6, .ro, 0, 0, 63⟩
/-- CPM_CAD_STAT.REF_OK (R64). -/
def F.CPM_CAD_STAT_REF_OK : Fld :=
  ⟨0x1008, 10, 1, .ro, 0, 0, 1⟩
/-- CPM_CAD_STAT.ANN_PEND (R64). -/
def F.CPM_CAD_STAT_ANN_PEND : Fld :=
  ⟨0x1008, 11, 1, .ro, 0, 0, 1⟩
/-- CPM_CAD_STAT.ANN_STEP (R64). -/
def F.CPM_CAD_STAT_ANN_STEP : Fld :=
  ⟨0x1008, 12, 4, .ro, 0, 0, 15⟩
/-- CPM_CAD_STAT.JUMP (R64). -/
def F.CPM_CAD_STAT_JUMP : Fld :=
  ⟨0x1008, 16, 1, .w1c, 0, 0, 1⟩
/-- CPM_CAD_STAT.FRAME_ERR (R64). -/
def F.CPM_CAD_STAT_FRAME_ERR : Fld :=
  ⟨0x1008, 17, 1, .w1c, 0, 0, 1⟩
/-- CPM_CAD_STAT.ANN_REJ (R64). -/
def F.CPM_CAD_STAT_ANN_REJ : Fld :=
  ⟨0x1008, 18, 1, .w1c, 0, 0, 1⟩
/-- CPM_CAD_STAT.HOLD_EXPIRED (R64). -/
def F.CPM_CAD_STAT_HOLD_EXPIRED : Fld :=
  ⟨0x1008, 19, 1, .w1c, 0, 0, 1⟩
/-- CPM_CAD_CTL.FORCE_SRC (R65). -/
def F.CPM_CAD_CTL_FORCE_SRC : Fld :=
  ⟨0x100c, 0, 1, .rws, 0, 0, 1⟩
/-- CPM_CAD_CTL.SRC_SEL (R65). -/
def F.CPM_CAD_CTL_SRC_SEL : Fld :=
  ⟨0x100c, 1, 2, .rws, 0, 0, 3⟩
/-- CPM_CAD_CTL.LINK_EN (R65). -/
def F.CPM_CAD_CTL_LINK_EN : Fld :=
  ⟨0x100c, 3, 4, .rws, 15, 0, 15⟩
/-- CPM_CAD_CTL.FWD_EN (R65). -/
def F.CPM_CAD_CTL_FWD_EN : Fld :=
  ⟨0x100c, 7, 1, .rws, 1, 0, 1⟩
/-- CPM_CAD_CTL.HOLD_LIMIT (R65). -/
def F.CPM_CAD_CTL_HOLD_LIMIT : Fld :=
  ⟨0x100c, 8, 8, .rws, 153, 0, 255⟩
/-- CPM_CAD_CTL.IRQ_EN (R65). -/
def F.CPM_CAD_CTL_IRQ_EN : Fld :=
  ⟨0x100c, 16, 1, .rw, 0, 0, 1⟩
/-- CPM_CAD_ERR.FRAME_ERR_CNT (R66). -/
def F.CPM_CAD_ERR_FRAME_ERR_CNT : Fld :=
  ⟨0x1010, 0, 16, .w1cf, 0, 0, 65535⟩
/-- CPM_CAD_ERR.HOLD_ERR_BOUND (R66). -/
def F.CPM_CAD_ERR_HOLD_ERR_BOUND : Fld :=
  ⟨0x1010, 16, 16, .ro, 0, 0, 65535⟩
/-- CPM_LINK_DLYk.DELAY (R67). -/
def F.CPM_LINK_DLY_DELAY (k : Nat) : Fld :=
  ⟨0x1014 + 4 * k, 0, 12, .rws, 0, 0, 4095⟩
/-- PARTn_REGION.BASE_ROW (R84). -/
def F.PART_REGION_BASE_ROW (n : Nat) : Fld :=
  ⟨0x4000 + 1024 * n, 0, 11, .rws, 0, 0, 2047⟩
/-- PARTn_REGION.ROW_CNT (R84). -/
def F.PART_REGION_ROW_CNT (n : Nat) : Fld :=
  ⟨0x4000 + 1024 * n, 16, 12, .rws, 0, 0, 2048⟩
/-- PARTn_REGION.RD_EN (R84). -/
def F.PART_REGION_RD_EN (n : Nat) : Fld :=
  ⟨0x4000 + 1024 * n, 28, 1, .rws, 0, 0, 1⟩
/-- PARTn_REGION.WR_EN (R84). -/
def F.PART_REGION_WR_EN (n : Nat) : Fld :=
  ⟨0x4000 + 1024 * n, 29, 1, .rws, 0, 0, 1⟩
/-- GLB_SELF.INSTANCE (R92). -/
def F.GLB_SELF_INSTANCE : Fld :=
  ⟨0x8, 0, 9, .ro, 0, 0, 479⟩
/-- GLB_SELF.WAFER (R92). -/
def F.GLB_SELF_WAFER : Fld :=
  ⟨0x8, 16, 5, .ro, 0, 0, 31⟩
/-- GLB_SELF.ASSIGNED (R92). -/
def F.GLB_SELF_ASSIGNED : Fld :=
  ⟨0x8, 31, 1, .ro, 0, 0, 1⟩
/-- TRKn_CTL.ZERO_SKIP (R125). -/
def F.TRK_CTL_ZERO_SKIP (n : Nat) : Fld :=
  ⟨0x8000 + 1024 * n, 0, 1, .rws, 1, 0, 1⟩
/-- TRKn_CTL.PERR_IRQ_EN (R125). -/
def F.TRK_CTL_PERR_IRQ_EN (n : Nat) : Fld :=
  ⟨0x8000 + 1024 * n, 1, 1, .rw, 0, 0, 1⟩
/-- TRKn_CTL.SSERR_IRQ_EN (R125). -/
def F.TRK_CTL_SSERR_IRQ_EN (n : Nat) : Fld :=
  ⟨0x8000 + 1024 * n, 2, 1, .rw, 0, 0, 1⟩
/-- TRKn_STAT.BIST_DONE (R126). -/
def F.TRK_STAT_BIST_DONE (n : Nat) : Fld :=
  ⟨0x8004 + 1024 * n, 0, 1, .ro, 0, 0, 1⟩
/-- TRKn_STAT.BIST_FAIL (R126). -/
def F.TRK_STAT_BIST_FAIL (n : Nat) : Fld :=
  ⟨0x8004 + 1024 * n, 1, 1, .ro, 0, 0, 1⟩
/-- TRKn_STAT.SPARE_FAIL (R126). -/
def F.TRK_STAT_SPARE_FAIL (n : Nat) : Fld :=
  ⟨0x8004 + 1024 * n, 2, 1, .ro, 0, 0, 1⟩
/-- TRKn_STAT.SPARE_USED (R126). -/
def F.TRK_STAT_SPARE_USED (n : Nat) : Fld :=
  ⟨0x8004 + 1024 * n, 3, 1, .ro, 0, 0, 1⟩
/-- TRKn_STAT.SOFT_REPAIR (R126). -/
def F.TRK_STAT_SOFT_REPAIR (n : Nat) : Fld :=
  ⟨0x8004 + 1024 * n, 4, 1, .ro, 0, 0, 1⟩
/-- TRKn_STAT.UNREPAIRED (R126). -/
def F.TRK_STAT_UNREPAIRED (n : Nat) : Fld :=
  ⟨0x8004 + 1024 * n, 5, 1, .ro, 0, 0, 1⟩
/-- TRKn_STAT.PERR (R126). -/
def F.TRK_STAT_PERR (n : Nat) : Fld :=
  ⟨0x8004 + 1024 * n, 6, 1, .w1c, 0, 0, 1⟩
/-- TRKn_STAT.SS_CE (R126). -/
def F.TRK_STAT_SS_CE (n : Nat) : Fld :=
  ⟨0x8004 + 1024 * n, 7, 1, .w1c, 0, 0, 1⟩
/-- TRKn_STAT.SS_UE (R126). -/
def F.TRK_STAT_SS_UE (n : Nat) : Fld :=
  ⟨0x8004 + 1024 * n, 8, 1, .w1c, 0, 0, 1⟩
/-- TRKn_REPAIR.OTP_BANK (R127). -/
def F.TRK_REPAIR_OTP_BANK (n : Nat) : Fld :=
  ⟨0x8008 + 1024 * n, 0, 5, .otp, 0, 0, 31⟩
/-- TRKn_REPAIR.OTP_EN (R127). -/
def F.TRK_REPAIR_OTP_EN (n : Nat) : Fld :=
  ⟨0x8008 + 1024 * n, 5, 1, .otp, 0, 0, 1⟩
/-- TRKn_REPAIR.SOFT_BANK (R127). -/
def F.TRK_REPAIR_SOFT_BANK (n : Nat) : Fld :=
  ⟨0x8008 + 1024 * n, 8, 5, .rws, 0, 0, 31⟩
/-- TRKn_REPAIR.SOFT_EN (R127). -/
def F.TRK_REPAIR_SOFT_EN (n : Nat) : Fld :=
  ⟨0x8008 + 1024 * n, 13, 1, .rws, 0, 0, 1⟩
/-- TRKn_BIST_FAIL.FAIL (R129). -/
def F.TRK_BIST_FAIL_FAIL (n : Nat) : Fld :=
  ⟨0x800c + 1024 * n, 0, 32, .ro, 0, 0, 4294967295⟩
/-- TRKn_PERR_CNT.RD_CNT (R130). -/
def F.TRK_PERR_CNT_RD_CNT (n : Nat) : Fld :=
  ⟨0x8010 + 1024 * n, 0, 16, .w1cf, 0, 0, 65535⟩
/-- TRKn_PERR_CNT.WR_CNT (R130). -/
def F.TRK_PERR_CNT_WR_CNT (n : Nat) : Fld :=
  ⟨0x8010 + 1024 * n, 16, 16, .w1cf, 0, 0, 65535⟩
/-- TRKn_SS_CNT.CE_CNT (R131). -/
def F.TRK_SS_CNT_CE_CNT (n : Nat) : Fld :=
  ⟨0x8014 + 1024 * n, 0, 16, .w1cf, 0, 0, 65535⟩
/-- TRKn_SS_CNT.UE_CNT (R131). -/
def F.TRK_SS_CNT_UE_CNT (n : Nat) : Fld :=
  ⟨0x8014 + 1024 * n, 16, 16, .w1cf, 0, 0, 65535⟩
/-- TRKn_SS_ERR_ADDR.WORD (R132). -/
def F.TRK_SS_ERR_ADDR_WORD (n : Nat) : Fld :=
  ⟨0x8018 + 1024 * n, 0, 8, .ro, 0, 0, 255⟩
/-- TRKn_SS_ERR_ADDR.BANK (R132). -/
def F.TRK_SS_ERR_ADDR_BANK (n : Nat) : Fld :=
  ⟨0x8018 + 1024 * n, 8, 6, .ro, 0, 0, 63⟩
/-- TRKn_PERR_ADDR.ROW (R132). -/
def F.TRK_PERR_ADDR_ROW (n : Nat) : Fld :=
  ⟨0x801c + 1024 * n, 0, 11, .ro, 0, 0, 2047⟩
/-- TRKn_PERR_ADDR.BANK (R132). -/
def F.TRK_PERR_ADDR_BANK (n : Nat) : Fld :=
  ⟨0x801c + 1024 * n, 11, 6, .ro, 0, 0, 63⟩
/-- TRKn_PERR_ADDR.WRITE (R132). -/
def F.TRK_PERR_ADDR_WRITE (n : Nat) : Fld :=
  ⟨0x801c + 1024 * n, 17, 1, .ro, 0, 0, 1⟩
/-- LANEn_CTL.CH_EN (R185). -/
def F.LANE_CTL_CH_EN (n : Nat) : Fld :=
  ⟨0x10000 + 1024 * n, 0, 3, .rws, 0, 0, 7⟩
/-- LANEn_CTL.CRC_IRQ_EN (R185). -/
def F.LANE_CTL_CRC_IRQ_EN (n : Nat) : Fld :=
  ⟨0x10000 + 1024 * n, 3, 1, .rw, 0, 0, 1⟩
/-- LANEn_CTL.ERR_IRQ_EN (R185). -/
def F.LANE_CTL_ERR_IRQ_EN (n : Nat) : Fld :=
  ⟨0x10000 + 1024 * n, 4, 1, .rw, 0, 0, 1⟩
/-- LANEn_CTL.BIND (R185). -/
def F.LANE_CTL_BIND (n : Nat) : Fld :=
  ⟨0x10000 + 1024 * n, 8, 8, .rws, 0, 0, 255⟩
/-- LANEn_CTL.WAKE_LEAD (R185). -/
def F.LANE_CTL_WAKE_LEAD (n : Nat) : Fld :=
  ⟨0x10000 + 1024 * n, 16, 8, .rws, 8, 0, 255⟩
/-- LANEn_STAT.LINK_UP (R186). -/
def F.LANE_STAT_LINK_UP (n : Nat) : Fld :=
  ⟨0x10004 + 1024 * n, 0, 3, .ro, 0, 0, 7⟩
/-- LANEn_STAT.CRC_ERR (R186). -/
def F.LANE_STAT_CRC_ERR (n : Nat) : Fld :=
  ⟨0x10004 + 1024 * n, 3, 3, .w1c, 0, 0, 7⟩
/-- LANEn_STAT.PROTO_ERR (R186). -/
def F.LANE_STAT_PROTO_ERR (n : Nat) : Fld :=
  ⟨0x10004 + 1024 * n, 6, 3, .w1c, 0, 0, 7⟩
/-- LANEn_STAT.SEND_PERR (R186). -/
def F.LANE_STAT_SEND_PERR (n : Nat) : Fld :=
  ⟨0x10004 + 1024 * n, 9, 1, .w1c, 0, 0, 1⟩
/-- LANEn_STAT.HOLDING (R186). -/
def F.LANE_STAT_HOLDING (n : Nat) : Fld :=
  ⟨0x10004 + 1024 * n, 10, 3, .ro, 0, 0, 7⟩
/-- LANEn_PART PART, one per index ix (R187). -/
def F.LANE_PART_PART (n : Nat) (ix : Nat) : Fld :=
  ⟨0x10008 + 1024 * n, 0 + 4 * ix, 4, .rws, 0, 0, 15⟩
/-- LANEn_CHk_DROP.CRC_CNT (R188). -/
def F.LANE_CH_DROP_CRC_CNT (n : Nat) (k : Nat) : Fld :=
  ⟨0x10010 + 1024 * n + 4 * k, 0, 16, .w1cf, 0, 0, 65535⟩
/-- LANEn_CHk_DROP.FRAME_CNT (R188). -/
def F.LANE_CH_DROP_FRAME_CNT (n : Nat) (k : Nat) : Fld :=
  ⟨0x10010 + 1024 * n + 4 * k, 16, 16, .w1cf, 0, 0, 65535⟩
/-- LANEn_CHk_RETRY.RESEND_NEW (R189). -/
def F.LANE_CH_RETRY_RESEND_NEW (n : Nat) (k : Nat) : Fld :=
  ⟨0x10020 + 1024 * n + 4 * k, 0, 16, .w1cf, 0, 0, 65535⟩
/-- LANEn_CHk_RETRY.RESEND_DUP (R189). -/
def F.LANE_CH_RETRY_RESEND_DUP (n : Nat) (k : Nat) : Fld :=
  ⟨0x10020 + 1024 * n + 4 * k, 16, 16, .w1cf, 0, 0, 65535⟩
/-- LANEn_CHk_CRD.HCRD_MAX (R190). -/
def F.LANE_CH_CRD_HCRD_MAX (n : Nat) (k : Nat) : Fld :=
  ⟨0x10030 + 1024 * n + 4 * k, 0, 8, .rws, 64, 1, 64⟩
/-- LANEn_CHk_CRD.DCRD_MAX (R190). -/
def F.LANE_CH_CRD_DCRD_MAX (n : Nat) (k : Nat) : Fld :=
  ⟨0x10030 + 1024 * n + 4 * k, 8, 8, .rws, (if k = 0 then 0 else 128), 0, 128⟩
/-- LANEn_CHk_CRD.HCRD_AVAIL (R190). -/
def F.LANE_CH_CRD_HCRD_AVAIL (n : Nat) (k : Nat) : Fld :=
  ⟨0x10030 + 1024 * n + 4 * k, 16, 8, .ro, 0, 0, 255⟩
/-- LANEn_CHk_CRD.DCRD_AVAIL (R190). -/
def F.LANE_CH_CRD_DCRD_AVAIL (n : Nat) (k : Nat) : Fld :=
  ⟨0x10030 + 1024 * n + 4 * k, 24, 8, .ro, 0, 0, 255⟩
/-- LANEn_CHk_TAGS.HELD (R191). -/
def F.LANE_CH_TAGS_HELD (n : Nat) (k : Nat) : Fld :=
  ⟨0x10040 + 1024 * n + 4 * k, 0, 13, .ro, 0, 0, 8191⟩
/-- LANEn_CHk_TAGS.ANSWERED (R191). -/
def F.LANE_CH_TAGS_ANSWERED (n : Nat) (k : Nat) : Fld :=
  ⟨0x10040 + 1024 * n + 4 * k, 13, 13, .ro, 0, 0, 8191⟩
/-- LANEn_ERR_LOG.CHANNEL (R192). -/
def F.LANE_ERR_LOG_CHANNEL (n : Nat) : Fld :=
  ⟨0x10050 + 1024 * n, 0, 2, .ro, 0, 0, 3⟩
/-- LANEn_ERR_LOG.CAUSE (R192). -/
def F.LANE_ERR_LOG_CAUSE (n : Nat) : Fld :=
  ⟨0x10050 + 1024 * n, 2, 4, .ro, 0, 0, 15⟩
/-- LANEn_ERR_LOG.TAG (R192). -/
def F.LANE_ERR_LOG_TAG (n : Nat) : Fld :=
  ⟨0x10050 + 1024 * n, 6, 12, .ro, 0, 0, 4095⟩
/-- LANEn_ERR_LOG.TAG_VALID (R192). -/
def F.LANE_ERR_LOG_TAG_VALID (n : Nat) : Fld :=
  ⟨0x10050 + 1024 * n, 18, 1, .ro, 0, 0, 1⟩
/-- LANEn_ERR_LOG.CORE (R192). -/
def F.LANE_ERR_LOG_CORE (n : Nat) : Fld :=
  ⟨0x10050 + 1024 * n, 19, 3, .ro, 0, 0, 7⟩
/-- LANEn_SEND_PERR.CNT (R193). -/
def F.LANE_SEND_PERR_CNT (n : Nat) : Fld :=
  ⟨0x10054 + 1024 * n, 0, 16, .w1cf, 0, 0, 65535⟩
/-- GLB_CONC_CTL.AGE_LIMIT (R224). -/
def F.GLB_CONC_CTL_AGE_LIMIT : Fld :=
  ⟨0x40, 0, 8, .rws, 64, 0, 255⟩
/-- GLB_CONC_CTL.BOOST_EN (R224). -/
def F.GLB_CONC_CTL_BOOST_EN : Fld :=
  ⟨0x40, 8, 1, .rws, 1, 0, 1⟩
/-- GLB_CONC_STAT.AGED (R225). -/
def F.GLB_CONC_STAT_AGED : Fld :=
  ⟨0x44, 0, 1, .w1c, 0, 0, 1⟩
/-- GLB_CONC_STAT.RET_FULL (R225). -/
def F.GLB_CONC_STAT_RET_FULL : Fld :=
  ⟨0x44, 1, 1, .w1c, 0, 0, 1⟩
/-- LANEn_CHk_PRIOj PRIO, one per index ix (R226). -/
def F.LANE_CH_PRIO_PRIO (n : Nat) (k : Nat) (j : Nat) (ix : Nat) : Fld :=
  ⟨0x10060 + 1024 * n + 8 * k + 4 * j, 0 + 4 * ix, 4, .rws, (if k = 2 then 4 else 5), 0, 15⟩
/-- GLB_PRIOq_j PRIO, one per index ix (R227). -/
def F.GLB_PRIO_PRIO (q : Nat) (j : Nat) (ix : Nat) : Fld :=
  ⟨0x100 + 8 * q + 4 * j, 0 + 4 * ix, 4, .rws, (if q < 16 then 5 else if q < 20 then 6 else if q = 20 then 3 else if q = 21 then 8 else if q = 22 then 2 else 1), 0, 15⟩
/-- REG_CTL.OPEN (R272). -/
def F.REG_CTL_OPEN : Fld :=
  ⟨0x2000, 0, 1, .rws, 0, 0, 1⟩
/-- REG_CTL.EARLY_REL (R272). -/
def F.REG_CTL_EARLY_REL : Fld :=
  ⟨0x2000, 1, 1, .rws, 1, 0, 1⟩
/-- REG_CTL.MISS_IRQ_EN (R272). -/
def F.REG_CTL_MISS_IRQ_EN : Fld :=
  ⟨0x2000, 2, 1, .rw, 0, 0, 1⟩
/-- REG_STAT.ADMITTING (R273). -/
def F.REG_STAT_ADMITTING : Fld :=
  ⟨0x2004, 0, 1, .ro, 0, 0, 1⟩
/-- REG_STAT.P_OPEN (R273). -/
def F.REG_STAT_P_OPEN : Fld :=
  ⟨0x2004, 1, 1, .ro, 0, 0, 1⟩
/-- REG_STAT.P_MARSHAL (R273). -/
def F.REG_STAT_P_MARSHAL : Fld :=
  ⟨0x2004, 2, 1, .ro, 0, 0, 1⟩
/-- REG_STAT.P_CADENCE (R273). -/
def F.REG_STAT_P_CADENCE : Fld :=
  ⟨0x2004, 3, 1, .ro, 0, 0, 1⟩
/-- REG_STAT.P_HOLD (R273). -/
def F.REG_STAT_P_HOLD : Fld :=
  ⟨0x2004, 4, 1, .ro, 0, 0, 1⟩
/-- REG_STAT.P_DIP (R273). -/
def F.REG_STAT_P_DIP : Fld :=
  ⟨0x2004, 5, 1, .ro, 0, 0, 1⟩
/-- REG_STAT.P_FENCE (R273). -/
def F.REG_STAT_P_FENCE : Fld :=
  ⟨0x2004, 6, 1, .ro, 0, 0, 1⟩
/-- REG_STAT.RATE_WIN (R273). -/
def F.REG_STAT_RATE_WIN : Fld :=
  ⟨0x2004, 7, 1, .ro, 0, 0, 1⟩
/-- REG_STAT.MISS (R273). -/
def F.REG_STAT_MISS : Fld :=
  ⟨0x2004, 8, 1, .w1c, 0, 0, 1⟩
/-- REG_STAT.QOS_REJ (R273). -/
def F.REG_STAT_QOS_REJ : Fld :=
  ⟨0x2004, 9, 1, .w1c, 0, 0, 1⟩
/-- REG_BOUNDc.BOUND (R274). -/
def F.REG_BOUND_BOUND (c : Nat) : Fld :=
  ⟨0x2010 + 4 * c, 0, 24, .rws, (if c = 0 then 2000000 else if c = 1 then 200000 else if c = 2 then 50000 else if c = 3 then 20000 else if c = 7 then 262144 else 0), 256, 16777215⟩
/-- REG_TARGETc.TARGET (R275). -/
def F.REG_TARGET_TARGET (c1 : Nat) : Fld :=
  ⟨0x2034 + 4 * c1, 0, 24, .rws, (if c1 = 0 then 20000 else if c1 = 1 then 5000 else 2000), 64, 16777215⟩
/-- REG_RMT.CH_RMT (R276). -/
def F.REG_RMT_CH_RMT : Fld :=
  ⟨0x2040, 0, 8, .rws, 8, 0, 38⟩
/-- REG_REFUSE.BUSY_CNT (R276). -/
def F.REG_REFUSE_BUSY_CNT : Fld :=
  ⟨0x2044, 0, 16, .w1cf, 0, 0, 65535⟩
/-- REG_REFUSE.RATE_CNT (R276). -/
def F.REG_REFUSE_RATE_CNT : Fld :=
  ⟨0x2044, 16, 16, .w1cf, 0, 0, 65535⟩
/-- REG_SPLITq.RD (R276). -/
def F.REG_SPLIT_RD (q : Nat) : Fld :=
  ⟨0x2080 + 4 * q, 0, 4, .rws, 10, 0, 15⟩
/-- REG_SPLITq.WR (R276). -/
def F.REG_SPLIT_WR (q : Nat) : Fld :=
  ⟨0x2080 + 4 * q, 4, 4, .rws, 4, 0, 15⟩
/-- REG_SPLITq.RM (R276). -/
def F.REG_SPLIT_RM (q : Nat) : Fld :=
  ⟨0x2080 + 4 * q, 8, 4, .rws, 2, 0, 15⟩
/-- REG_MISS_LOG.PART (R277). -/
def F.REG_MISS_LOG_PART : Fld :=
  ⟨0x2050, 0, 4, .ro, 0, 0, 15⟩
/-- REG_MISS_LOG.CLASS (R277). -/
def F.REG_MISS_LOG_CLASS : Fld :=
  ⟨0x2050, 4, 3, .ro, 0, 0, 7⟩
/-- REG_MISS_LOG.CAUSE (R277). -/
def F.REG_MISS_LOG_CAUSE : Fld :=
  ⟨0x2050, 7, 2, .ro, 0, 0, 3⟩
/-- REG_MISS_LOG.TRACK (R277). -/
def F.REG_MISS_LOG_TRACK : Fld :=
  ⟨0x2050, 9, 4, .ro, 0, 0, 15⟩
/-- REG_MISS_LOG.REQ (R277). -/
def F.REG_MISS_LOG_REQ : Fld :=
  ⟨0x2050, 13, 8, .ro, 0, 0, 255⟩
/-- REG_MISS_CNT.MISS_CNT (R277). -/
def F.REG_MISS_CNT_MISS_CNT : Fld :=
  ⟨0x2054, 0, 32, .w1cf, 0, 0, 4294967295⟩
/-- REG_MISS_TICK_LO.VAL (R277). -/
def F.REG_MISS_TICK_LO_VAL : Fld :=
  ⟨0x2048, 0, 32, .ro, 0, 0, 4294967295⟩
/-- REG_MISS_TICK_HI.VAL (R277). -/
def F.REG_MISS_TICK_HI_VAL : Fld :=
  ⟨0x204c, 0, 32, .ro, 0, 0, 4294967295⟩
/-- REG_BOOSTi BOOST, one per index ix (R278). -/
def F.REG_BOOST_BOOST (i : Nat) (ix : Nat) : Fld :=
  ⟨0x2100 + 4 * i, 0 + 4 * ix, 4, .ro, 0, 0, 15⟩
/-- REG_CAL_SEL.BUCKET (R279). -/
def F.REG_CAL_SEL_BUCKET : Fld :=
  ⟨0x2200, 0, 12, .rw, 0, 0, 4095⟩
/-- REG_CAL_SEL.COARSE (R279). -/
def F.REG_CAL_SEL_COARSE : Fld :=
  ⟨0x2200, 12, 1, .rw, 0, 0, 1⟩
/-- REG_CAL_SEL.COUNTER (R279). -/
def F.REG_CAL_SEL_COUNTER : Fld :=
  ⟨0x2200, 16, 9, .rw, 0, 0, 277⟩
/-- REG_CAL_DATA.CHARGE (R279). -/
def F.REG_CAL_DATA_CHARGE : Fld :=
  ⟨0x2204, 0, 28, .ro, 0, 0, 268435455⟩
/-- TRKn_CAL_STAT.NOW (R280). -/
def F.TRK_CAL_STAT_NOW (n : Nat) : Fld :=
  ⟨0x8100 + 1024 * n, 0, 12, .ro, 0, 0, 4095⟩
/-- TRKn_CAL_STAT.PEAK (R280). -/
def F.TRK_CAL_STAT_PEAK (n : Nat) : Fld :=
  ⟨0x8100 + 1024 * n, 16, 12, .w1cf, 0, 0, 4095⟩
/-- TRKn_CAL_CNT.OVR (R280). -/
def F.TRK_CAL_CNT_OVR (n : Nat) : Fld :=
  ⟨0x8104 + 1024 * n, 0, 16, .w1cf, 0, 0, 65535⟩
/-- TRKn_CAL_CNT.REF (R280). -/
def F.TRK_CAL_CNT_REF (n : Nat) : Fld :=
  ⟨0x8104 + 1024 * n, 16, 16, .w1cf, 0, 0, 65535⟩
/-- PARTn_QOS.SHARE (R281). -/
def F.PART_QOS_SHARE (n : Nat) : Fld :=
  ⟨0x4020 + 1024 * n, 0, 8, .rws, (if n = 15 then 16 else 0), 0, 255⟩
/-- PARTn_QOS.DL_RES (R281). -/
def F.PART_QOS_DL_RES (n : Nat) : Fld :=
  ⟨0x4020 + 1024 * n, 8, 8, .rws, 0, 0, 255⟩
/-- PARTn_QOS.CLASS_EN (R281). -/
def F.PART_QOS_CLASS_EN (n : Nat) : Fld :=
  ⟨0x4020 + 1024 * n, 16, 7, .rws, (if n = 15 then 0x7F else 0), 0, 127⟩
/-- PARTn_QOS.CLASS_EN7 (R281). -/
def F.PART_QOS_CLASS_EN7 (n : Nat) : Fld :=
  ⟨0x4020 + 1024 * n, 23, 1, .ro, (if n = 15 then 1 else 0), 0, 1⟩
/-- PARTn_MISS.MISS_CNT (R281). -/
def F.PART_MISS_MISS_CNT (n : Nat) : Fld :=
  ⟨0x4024 + 1024 * n, 0, 16, .w1cf, 0, 0, 65535⟩
/-- PARTn_MISS.SPREAD_CNT (R281). -/
def F.PART_MISS_SPREAD_CNT (n : Nat) : Fld :=
  ⟨0x4024 + 1024 * n, 16, 16, .w1cf, 0, 0, 65535⟩
/-- TRKn_XF_CTL.P4_IRQ_EN (R328). -/
def F.TRK_XF_CTL_P4_IRQ_EN (n : Nat) : Fld :=
  ⟨0x8200 + 1024 * n, 0, 1, .rw, 0, 0, 1⟩
/-- TRKn_XF_STAT.P4ERR (R328). -/
def F.TRK_XF_STAT_P4ERR (n : Nat) : Fld :=
  ⟨0x8204 + 1024 * n, 0, 1, .w1c, 0, 0, 1⟩
/-- TRKn_XF_STAT.SAT (R328). -/
def F.TRK_XF_STAT_SAT (n : Nat) : Fld :=
  ⟨0x8204 + 1024 * n, 1, 1, .w1c, 0, 0, 1⟩
/-- TRKn_XF_STAT.NAN (R328). -/
def F.TRK_XF_STAT_NAN (n : Nat) : Fld :=
  ⟨0x8204 + 1024 * n, 2, 1, .w1c, 0, 0, 1⟩
/-- TRKn_XF_P4_CNT.XF_P4_CNT (R329). -/
def F.TRK_XF_P4_CNT_XF_P4_CNT (n : Nat) : Fld :=
  ⟨0x8208 + 1024 * n, 0, 16, .w1cf, 0, 0, 65535⟩
/-- TRKn_XF_SAT_CNT.XF_SAT_CNT (R329). -/
def F.TRK_XF_SAT_CNT_XF_SAT_CNT (n : Nat) : Fld :=
  ⟨0x820c + 1024 * n, 0, 32, .w1cf, 0, 0, 4294967295⟩
/-- TRKn_XF_NAN_CNT.XF_NAN_CNT (R329). -/
def F.TRK_XF_NAN_CNT_XF_NAN_CNT (n : Nat) : Fld :=
  ⟨0x8210 + 1024 * n, 0, 32, .w1cf, 0, 0, 4294967295⟩
/-- TRKn_XF_P4_ADDR.REQ (R330). -/
def F.TRK_XF_P4_ADDR_REQ (n : Nat) : Fld :=
  ⟨0x8214 + 1024 * n, 0, 8, .ro, 0, 0, 255⟩
/-- TRKn_XF_P4_ADDR.SOURCE (R330). -/
def F.TRK_XF_P4_ADDR_SOURCE (n : Nat) : Fld :=
  ⟨0x8214 + 1024 * n, 8, 1, .ro, 0, 0, 1⟩
/-- TRKn_XF_P4_ADDR.ROW (R330). -/
def F.TRK_XF_P4_ADDR_ROW (n : Nat) : Fld :=
  ⟨0x8214 + 1024 * n, 9, 11, .ro, 0, 0, 2047⟩
/-- TRKn_XF_P4_ADDR.BANK (R330). -/
def F.TRK_XF_P4_ADDR_BANK (n : Nat) : Fld :=
  ⟨0x8214 + 1024 * n, 20, 6, .ro, 0, 0, 63⟩
/-- PARTn_SR_KEY_LO.KEY_LO (R331). -/
def F.PART_SR_KEY_LO_KEY_LO (n : Nat) : Fld :=
  ⟨0x4030 + 1024 * n, 0, 32, .rws, 0, 0, 4294967295⟩
/-- PARTn_SR_KEY_HI.KEY_HI (R331). -/
def F.PART_SR_KEY_HI_KEY_HI (n : Nat) : Fld :=
  ⟨0x4034 + 1024 * n, 0, 32, .rws, 0, 0, 4294967295⟩
/-- PARTn_SR_STEP.STEP (R331). -/
def F.PART_SR_STEP_STEP (n : Nat) : Fld :=
  ⟨0x4038 + 1024 * n, 0, 32, .rws, 0, 0, 4294967295⟩
/-- BIBn_CTL.VALID (R332). -/
def F.BIB_CTL_VALID (n : Nat) : Fld :=
  ⟨0x30000 + 16 * n, 0, 1, .rws, 0, 0, 1⟩
/-- BIBn_CTL.PLACE (R332). -/
def F.BIB_CTL_PLACE (n : Nat) : Fld :=
  ⟨0x30000 + 16 * n, 1, 3, .rws, 0, 0, 5⟩
/-- BIBn_CTL.PART (R332). -/
def F.BIB_CTL_PART (n : Nat) : Fld :=
  ⟨0x30000 + 16 * n, 4, 4, .rws, 0, 0, 15⟩
/-- BIBn_CTL.FORMAT (R332). -/
def F.BIB_CTL_FORMAT (n : Nat) : Fld :=
  ⟨0x30000 + 16 * n, 8, 4, .rws, 0, 0, 15⟩
/-- BIBn_CTL.LAYOUT (R332). -/
def F.BIB_CTL_LAYOUT (n : Nat) : Fld :=
  ⟨0x30000 + 16 * n, 12, 2, .rws, 0, 0, 2⟩
/-- BIBn_CTL.SPREAD (R332). -/
def F.BIB_CTL_SPREAD (n : Nat) : Fld :=
  ⟨0x30000 + 16 * n, 14, 3, .rws, 0, 0, 4⟩
/-- BIBn_CTL.MIRROR (R332). -/
def F.BIB_CTL_MIRROR (n : Nat) : Fld :=
  ⟨0x30000 + 16 * n, 17, 1, .rws, 0, 0, 1⟩
/-- BIBn_CTL.CHAINED (R332). -/
def F.BIB_CTL_CHAINED (n : Nat) : Fld :=
  ⟨0x30000 + 16 * n, 18, 1, .rws, 0, 0, 1⟩
/-- BIBn_CTL.PIN (R332). -/
def F.BIB_CTL_PIN (n : Nat) : Fld :=
  ⟨0x30000 + 16 * n, 19, 1, .rws, 0, 0, 1⟩
/-- BIBn_CTL.NEXT (R332). -/
def F.BIB_CTL_NEXT (n : Nat) : Fld :=
  ⟨0x30000 + 16 * n, 20, 12, .rws, 0, 0, 4095⟩
/-- BIBn_LOC.LOC (R332). -/
def F.BIB_LOC_LOC (n : Nat) : Fld :=
  ⟨0x30004 + 16 * n, 0, 32, .rws, 0, 0, 4294967295⟩
/-- BIBn_LEN.LEN (R332). -/
def F.BIB_LEN_LEN (n : Nat) : Fld :=
  ⟨0x30008 + 16 * n, 0, 23, .rws, 0, 1, 4194304⟩
/-- BIBn_AUX.MIRROR_G (R332). -/
def F.BIB_AUX_MIRROR_G (n : Nat) : Fld :=
  ⟨0x3000c + 16 * n, 0, 20, .rws, 0, 0, 1048575⟩
/-- GLB_BIB_STAT.WR_IGN (R372). -/
def F.GLB_BIB_STAT_WR_IGN : Fld :=
  ⟨0x50, 0, 1, .w1c, 0, 0, 1⟩
/-- GLB_BIB_STAT.NR (R372). -/
def F.GLB_BIB_STAT_NR : Fld :=
  ⟨0x50, 1, 1, .w1c, 0, 0, 1⟩
/-- GLB_BIB_STAT.UE (R372). -/
def F.GLB_BIB_STAT_UE : Fld :=
  ⟨0x50, 2, 1, .w1c, 0, 0, 1⟩
/-- GLB_BIB_STAT.LAST_BIB (R372). -/
def F.GLB_BIB_STAT_LAST_BIB : Fld :=
  ⟨0x50, 3, 12, .ro, 0, 0, 4095⟩
/-- GLB_BIB_CNT.NR_CNT (R372). -/
def F.GLB_BIB_CNT_NR_CNT : Fld :=
  ⟨0x54, 0, 16, .w1cf, 0, 0, 65535⟩
/-- GLB_BIB_CNT.IGN_CNT (R372). -/
def F.GLB_BIB_CNT_IGN_CNT : Fld :=
  ⟨0x54, 16, 16, .w1cf, 0, 0, 65535⟩
/-- GLB_SB_STAT.USED (R372). -/
def F.GLB_SB_STAT_USED : Fld :=
  ⟨0x58, 0, 9, .ro, 0, 0, 511⟩
/-- GLB_SB_STAT.PEAK (R372). -/
def F.GLB_SB_STAT_PEAK : Fld :=
  ⟨0x58, 9, 9, .w1cf, 0, 0, 511⟩
/-- GLB_SB_STAT.SB_FULL (R372). -/
def F.GLB_SB_STAT_SB_FULL : Fld :=
  ⟨0x58, 18, 1, .w1c, 0, 0, 1⟩
/-- GLB_SB_HOLD.HOLD_CNT (R372). -/
def F.GLB_SB_HOLD_HOLD_CNT : Fld :=
  ⟨0x5c, 0, 32, .w1cf, 0, 0, 4294967295⟩
/-- RLYn_CTL.EN (R373). -/
def F.RLY_CTL_EN (n : Nat) : Fld :=
  ⟨0x24000 + 128 * n, 0, 1, .rws, 0, 0, 1⟩
/-- RLYn_CTL.PART (R373). -/
def F.RLY_CTL_PART (n : Nat) : Fld :=
  ⟨0x24000 + 128 * n, 1, 4, .rws, 0, 0, 15⟩
/-- RLYn_CTL.WAKE_EN (R373). -/
def F.RLY_CTL_WAKE_EN (n : Nat) : Fld :=
  ⟨0x24000 + 128 * n, 5, 1, .rws, 0, 0, 1⟩
/-- RLYn_CTL.WAKE_TGT (R373). -/
def F.RLY_CTL_WAKE_TGT (n : Nat) : Fld :=
  ⟨0x24000 + 128 * n, 6, 9, .rws, 0, 0, 511⟩
/-- RLYn_CTL.ABORT_Q (R373). -/
def F.RLY_CTL_ABORT_Q (n : Nat) : Fld :=
  ⟨0x24000 + 128 * n, 15, 7, .rws, 0, 0, 127⟩
/-- RLYn_CTL.ABORT_Q_EN (R373). -/
def F.RLY_CTL_ABORT_Q_EN (n : Nat) : Fld :=
  ⟨0x24000 + 128 * n, 22, 1, .rws, 0, 0, 1⟩
/-- RLYn_STAT.COUNT (R373). -/
def F.RLY_STAT_COUNT (n : Nat) : Fld :=
  ⟨0x24004 + 128 * n, 0, 7, .ro, 0, 0, 127⟩
/-- RLYn_STAT.WAITING (R373). -/
def F.RLY_STAT_WAITING (n : Nat) : Fld :=
  ⟨0x24004 + 128 * n, 7, 6, .ro, 0, 0, 63⟩
/-- RLYn_CNT.FULL_CNT (R373). -/
def F.RLY_CNT_FULL_CNT (n : Nat) : Fld :=
  ⟨0x24008 + 128 * n, 0, 16, .w1cf, 0, 0, 65535⟩
/-- RLYn_CNT.LOST_CNT (R373). -/
def F.RLY_CNT_LOST_CNT (n : Nat) : Fld :=
  ⟨0x24008 + 128 * n, 16, 16, .w1cf, 0, 0, 65535⟩
/-- RLYn_PEEK_SEL.INDEX (R373). -/
def F.RLY_PEEK_SEL_INDEX (n : Nat) : Fld :=
  ⟨0x2400c + 128 * n, 0, 6, .rw, 0, 0, 63⟩
/-- RLYn_PEEK.BIB (R373). -/
def F.RLY_PEEK_BIB (n : Nat) : Fld :=
  ⟨0x24010 + 128 * n, 0, 12, .ro, 0, 0, 4095⟩
/-- RLYn_PEEK.ABORTED (R373). -/
def F.RLY_PEEK_ABORTED (n : Nat) : Fld :=
  ⟨0x24010 + 128 * n, 12, 1, .ro, 0, 0, 1⟩
/-- RLYn_PEEK.PRESENT (R373). -/
def F.RLY_PEEK_PRESENT (n : Nat) : Fld :=
  ⟨0x24010 + 128 * n, 13, 1, .ro, 0, 0, 1⟩
/-- RLYn_LOAD.BIB (R373). -/
def F.RLY_LOAD_BIB (n : Nat) : Fld :=
  ⟨0x24014 + 128 * n, 0, 12, .wo, 0, 0, 4095⟩
/-- RLYn_NOTIFY.PUSH_BATON (R373). -/
def F.RLY_NOTIFY_PUSH_BATON (n : Nat) : Fld :=
  ⟨0x24018 + 128 * n, 0, 14, .rws, 0, 0, 16383⟩
/-- RLYn_NOTIFY.PUSH_SIG_EN (R373). -/
def F.RLY_NOTIFY_PUSH_SIG_EN (n : Nat) : Fld :=
  ⟨0x24018 + 128 * n, 14, 1, .rws, 0, 0, 1⟩
/-- RLYn_NOTIFY.POP_BATON (R373). -/
def F.RLY_NOTIFY_POP_BATON (n : Nat) : Fld :=
  ⟨0x24018 + 128 * n, 16, 14, .rws, 0, 0, 16383⟩
/-- RLYn_NOTIFY.POP_SIG_EN (R373). -/
def F.RLY_NOTIFY_POP_SIG_EN (n : Nat) : Fld :=
  ⟨0x24018 + 128 * n, 30, 1, .rws, 0, 0, 1⟩
/-- RLYn_CMD.FLUSH (R373). -/
def F.RLY_CMD_FLUSH (n : Nat) : Fld :=
  ⟨0x2401c + 128 * n, 0, 1, .wo, 0, 0, 1⟩
/-- PACERn_CTL.EN (R418). -/
def F.PACER_CTL_EN (n : Nat) : Fld :=
  ⟨0x20000 + 1024 * n, 0, 1, .rws, 0, 0, 1⟩
/-- PACERn_CTL.GATE_EN (R418). -/
def F.PACER_CTL_GATE_EN (n : Nat) : Fld :=
  ⟨0x20000 + 1024 * n, 1, 1, .rws, 1, 0, 1⟩
/-- PACERn_CTL.ABORT_IRQ_EN (R418). -/
def F.PACER_CTL_ABORT_IRQ_EN (n : Nat) : Fld :=
  ⟨0x20000 + 1024 * n, 2, 1, .rw, 0, 0, 1⟩
/-- PACERn_STAT.RUN (R418). -/
def F.PACER_STAT_RUN (n : Nat) : Fld :=
  ⟨0x20004 + 1024 * n, 0, 4, .ro, 0, 0, 15⟩
/-- PACERn_STAT.ABORTED (R418). -/
def F.PACER_STAT_ABORTED (n : Nat) : Fld :=
  ⟨0x20004 + 1024 * n, 4, 4, .w1c, 0, 0, 15⟩
/-- PACERn_STAT.PM_IGN (R418). -/
def F.PACER_STAT_PM_IGN (n : Nat) : Fld :=
  ⟨0x20004 + 1024 * n, 8, 1, .w1c, 0, 0, 1⟩
/-- PACERn_STAT.PM_PERR (R418). -/
def F.PACER_STAT_PM_PERR (n : Nat) : Fld :=
  ⟨0x20004 + 1024 * n, 9, 1, .w1c, 0, 0, 1⟩
/-- PACERn_STAT.HINT_ACT (R418). -/
def F.PACER_STAT_HINT_ACT (n : Nat) : Fld :=
  ⟨0x20004 + 1024 * n, 10, 1, .ro, 0, 0, 1⟩
/-- PACERn_STAT.GATED (R418). -/
def F.PACER_STAT_GATED (n : Nat) : Fld :=
  ⟨0x20004 + 1024 * n, 11, 1, .ro, 0, 0, 1⟩
/-- PACERn_PM_ADDR.ADDR (R419). -/
def F.PACER_PM_ADDR_ADDR (n : Nat) : Fld :=
  ⟨0x20008 + 1024 * n, 0, 8, .rw, 0, 0, 255⟩
/-- PACERn_PM_ADDR.AUTOINC (R419). -/
def F.PACER_PM_ADDR_AUTOINC (n : Nat) : Fld :=
  ⟨0x20008 + 1024 * n, 8, 1, .rw, 0, 0, 1⟩
/-- PACERn_PM_DATA_LO.LO (R419). -/
def F.PACER_PM_DATA_LO_LO (n : Nat) : Fld :=
  ⟨0x2000c + 1024 * n, 0, 32, .rws, 0, 0, 4294967295⟩
/-- PACERn_PM_DATA_HI.HI (R419). -/
def F.PACER_PM_DATA_HI_HI (n : Nat) : Fld :=
  ⟨0x20010 + 1024 * n, 0, 32, .rws, 0, 0, 4294967295⟩
/-- PACERn_CMD.ABORT (R420). -/
def F.PACER_CMD_ABORT (n : Nat) : Fld :=
  ⟨0x20014 + 1024 * n, 0, 4, .wo, 0, 0, 15⟩
/-- PACERn_HINT_LO.DESC_LO (R420). -/
def F.PACER_HINT_LO_DESC_LO (n : Nat) : Fld :=
  ⟨0x20018 + 1024 * n, 0, 32, .ro, 0, 0, 4294967295⟩
/-- PACERn_HINT_HI.DESC_HI (R420). -/
def F.PACER_HINT_HI_DESC_HI (n : Nat) : Fld :=
  ⟨0x2001c + 1024 * n, 0, 32, .ro, 0, 0, 4294967295⟩
/-- PACERn_CRD_ERR.CRD_ERR_CNT (R420). -/
def F.PACER_CRD_ERR_CRD_ERR_CNT (n : Nat) : Fld :=
  ⟨0x20020 + 1024 * n, 0, 16, .w1cf, 0, 0, 65535⟩
/-- PACERn_STALLc.CYCLES (R421). -/
def F.PACER_STALL_CYCLES (n : Nat) (c : Nat) : Fld :=
  ⟨0x20040 + 1024 * n + 4 * c, 0, 32, .w1cf, 0, 0, 4294967295⟩
/-- PACERn_Ss_STAT.STATE (R422). -/
def F.PACER_S_STAT_STATE (n : Nat) (s : Nat) : Fld :=
  ⟨0x20100 + 1024 * n + 64 * s, 0, 2, .ro, 0, 0, 3⟩
/-- PACERn_Ss_STAT.PC (R422). -/
def F.PACER_S_STAT_PC (n : Nat) (s : Nat) : Fld :=
  ⟨0x20100 + 1024 * n + 64 * s, 2, 8, .ro, 0, 0, 255⟩
/-- PACERn_Ss_STAT.CAUSE (R422). -/
def F.PACER_S_STAT_CAUSE (n : Nat) (s : Nat) : Fld :=
  ⟨0x20100 + 1024 * n + 64 * s, 10, 8, .ro, 0, 0, 255⟩
/-- PACERn_Ss_STAT.ABORT_PC (R422). -/
def F.PACER_S_STAT_ABORT_PC (n : Nat) (s : Nat) : Fld :=
  ⟨0x20100 + 1024 * n + 64 * s, 18, 8, .ro, 0, 0, 255⟩
/-- PACERn_Ss_STAT.STAINED (R422). -/
def F.PACER_S_STAT_STAINED (n : Nat) (s : Nat) : Fld :=
  ⟨0x20100 + 1024 * n + 64 * s, 26, 1, .ro, 0, 0, 1⟩
/-- PACERn_Ss_OWNER.PART (R422). -/
def F.PACER_S_OWNER_PART (n : Nat) (s : Nat) : Fld :=
  ⟨0x20104 + 1024 * n + 64 * s, 0, 4, .ro, 0, 0, 15⟩
/-- PACERn_Ss_OWNER.CLASS (R422). -/
def F.PACER_S_OWNER_CLASS (n : Nat) (s : Nat) : Fld :=
  ⟨0x20104 + 1024 * n + 64 * s, 4, 3, .ro, 0, 0, 7⟩
/-- PACERn_Ss_OWNER.LAUNCHER (R422). -/
def F.PACER_S_OWNER_LAUNCHER (n : Nat) (s : Nat) : Fld :=
  ⟨0x20104 + 1024 * n + 64 * s, 7, 9, .ro, 0, 0, 511⟩
/-- PACERn_Ss_OWNER.CONS (R422). -/
def F.PACER_S_OWNER_CONS (n : Nat) (s : Nat) : Fld :=
  ⟨0x20104 + 1024 * n + 64 * s, 16, 9, .ro, 0, 0, 511⟩
/-- PACERn_Ss_OWNER.CONS_EN (R422). -/
def F.PACER_S_OWNER_CONS_EN (n : Nat) (s : Nat) : Fld :=
  ⟨0x20104 + 1024 * n + 64 * s, 25, 1, .ro, 0, 0, 1⟩
/-- PACERn_Ss_CRED.AVAIL (R422). -/
def F.PACER_S_CRED_AVAIL (n : Nat) (s : Nat) : Fld :=
  ⟨0x20108 + 1024 * n + 64 * s, 0, 13, .ro, 0, 0, 8191⟩
/-- PACERn_Ss_CRED.LAST_COUNT (R422). -/
def F.PACER_S_CRED_LAST_COUNT (n : Nat) (s : Nat) : Fld :=
  ⟨0x20108 + 1024 * n + 64 * s, 16, 16, .ro, 0, 0, 65535⟩
/-- PACERn_Ss_PUSHSEQ.SEQ (R422). -/
def F.PACER_S_PUSHSEQ_SEQ (n : Nat) (s : Nat) : Fld :=
  ⟨0x2010c + 1024 * n + 64 * s, 0, 32, .ro, 0, 0, 4294967295⟩
/-- PACERn_Ss_MOVED.MOVED (R422). -/
def F.PACER_S_MOVED_MOVED (n : Nat) (s : Nat) : Fld :=
  ⟨0x20110 + 1024 * n + 64 * s, 0, 32, .ro, 0, 0, 4294967295⟩
/-- PACERn_Ss_CUT_LO.CUT_LO (R422). -/
def F.PACER_S_CUT_LO_CUT_LO (n : Nat) (s : Nat) : Fld :=
  ⟨0x20114 + 1024 * n + 64 * s, 0, 32, .ro, 0, 0, 4294967295⟩
/-- PACERn_Ss_CUT_HI.CUT_HI (R422). -/
def F.PACER_S_CUT_HI_CUT_HI (n : Nat) (s : Nat) : Fld :=
  ⟨0x20118 + 1024 * n + 64 * s, 0, 32, .ro, 0, 0, 4294967295⟩
/-- PACERn_Ss_REG_SEL.SEL (R422). -/
def F.PACER_S_REG_SEL_SEL (n : Nat) (s : Nat) : Fld :=
  ⟨0x2011c + 1024 * n + 64 * s, 0, 4, .rw, 0, 0, 11⟩
/-- PACERn_Ss_REG_LO.VAL_LO (R422). -/
def F.PACER_S_REG_LO_VAL_LO (n : Nat) (s : Nat) : Fld :=
  ⟨0x20120 + 1024 * n + 64 * s, 0, 32, .ro, 0, 0, 4294967295⟩
/-- PACERn_Ss_REG_HI.VAL_HI (R422). -/
def F.PACER_S_REG_HI_VAL_HI (n : Nat) (s : Nat) : Fld :=
  ⟨0x20124 + 1024 * n + 64 * s, 0, 32, .ro, 0, 0, 4294967295⟩
/-- BTNn_CNT.COUNT (R464). -/
def F.BTN_CNT_COUNT (n : Nat) : Fld :=
  ⟨0x40000 + 8 * n, 0, 32, .rws, 0, 0, 4294967295⟩
/-- BTNn_CTL.PART (R464). -/
def F.BTN_CTL_PART (n : Nat) : Fld :=
  ⟨0x40004 + 8 * n, 0, 4, .rws, 0, 0, 15⟩
/-- BTNn_CTL.PARKED (R464). -/
def F.BTN_CTL_PARKED (n : Nat) : Fld :=
  ⟨0x40004 + 8 * n, 4, 1, .rws, 0, 0, 1⟩
/-- BTNn_CTL.BROKEN (R464). -/
def F.BTN_CTL_BROKEN (n : Nat) : Fld :=
  ⟨0x40004 + 8 * n, 5, 1, .ro, 0, 0, 1⟩
/-- BTNn_CTL.WAITERS (R464). -/
def F.BTN_CTL_WAITERS (n : Nat) : Fld :=
  ⟨0x40004 + 8 * n, 6, 12, .ro, 0, 0, 4095⟩
/-- TAPEn_CFG.EN (R465). -/
def F.TAPE_CFG_EN (n : Nat) : Fld :=
  ⟨0x60000 + 16 * n, 0, 1, .rws, 0, 0, 1⟩
/-- TAPEn_CFG.PART (R465). -/
def F.TAPE_CFG_PART (n : Nat) : Fld :=
  ⟨0x60000 + 16 * n, 1, 4, .rws, 0, 0, 15⟩
/-- TAPEn_CFG.ALIGN (R465). -/
def F.TAPE_CFG_ALIGN (n : Nat) : Fld :=
  ⟨0x60000 + 16 * n, 5, 1, .rws, 0, 0, 1⟩
/-- TAPEn_CFG.EXPECT (R465). -/
def F.TAPE_CFG_EXPECT (n : Nat) : Fld :=
  ⟨0x60000 + 16 * n, 6, 12, .rws, 0, 0, 1536⟩
/-- TAPEn_CFG.NCHILD (R465). -/
def F.TAPE_CFG_NCHILD (n : Nat) : Fld :=
  ⟨0x60000 + 16 * n, 18, 8, .rws, 0, 0, 255⟩
/-- TAPEn_LINK.PTAPE (R465). -/
def F.TAPE_LINK_PTAPE (n : Nat) : Fld :=
  ⟨0x60004 + 16 * n, 0, 8, .rws, 0, 0, 255⟩
/-- TAPEn_LINK.PINST (R465). -/
def F.TAPE_LINK_PINST (n : Nat) : Fld :=
  ⟨0x60004 + 16 * n, 8, 9, .rws, 0, 0, 511⟩
/-- TAPEn_LINK.PWAFER (R465). -/
def F.TAPE_LINK_PWAFER (n : Nat) : Fld :=
  ⟨0x60004 + 16 * n, 17, 5, .rws, 0, 0, 31⟩
/-- TAPEn_LINK.PARENT_EN (R465). -/
def F.TAPE_LINK_PARENT_EN (n : Nat) : Fld :=
  ⟨0x60004 + 16 * n, 22, 1, .rws, 0, 0, 1⟩
/-- TAPEn_LINK.ALIGN_DLY (R465). -/
def F.TAPE_LINK_ALIGN_DLY (n : Nat) : Fld :=
  ⟨0x60004 + 16 * n, 23, 9, .rws, 0, 0, 511⟩
/-- TAPEn_STAT.STATE (R466). -/
def F.TAPE_STAT_STATE (n : Nat) : Fld :=
  ⟨0x60008 + 16 * n, 0, 2, .ro, 0, 0, 3⟩
/-- TAPEn_STAT.ARRIVED (R466). -/
def F.TAPE_STAT_ARRIVED (n : Nat) : Fld :=
  ⟨0x60008 + 16 * n, 2, 12, .ro, 0, 0, 4095⟩
/-- TAPEn_STAT.CHILD_ARR (R466). -/
def F.TAPE_STAT_CHILD_ARR (n : Nat) : Fld :=
  ⟨0x60008 + 16 * n, 14, 8, .ro, 0, 0, 255⟩
/-- TAPEn_STAT.FAULT_CAUSE (R466). -/
def F.TAPE_STAT_FAULT_CAUSE (n : Nat) : Fld :=
  ⟨0x60008 + 16 * n, 22, 4, .ro, 0, 0, 15⟩
/-- TAPEn_STAT.FORCE (R466). -/
def F.TAPE_STAT_FORCE (n : Nat) : Fld :=
  ⟨0x60008 + 16 * n, 26, 1, .wo, 0, 0, 1⟩
/-- TAPEn_HEAT.HEAT (R466). -/
def F.TAPE_HEAT_HEAT (n : Nat) : Fld :=
  ⟨0x6000c + 16 * n, 0, 32, .rws, 0, 0, 4294967295⟩
/-- GLB_SYNC_CTL.UE_IRQ_EN (R467). -/
def F.GLB_SYNC_CTL_UE_IRQ_EN : Fld :=
  ⟨0x60, 0, 1, .rw, 0, 0, 1⟩
/-- GLB_SYNC_CTL.TAPE_IRQ_EN (R467). -/
def F.GLB_SYNC_CTL_TAPE_IRQ_EN : Fld :=
  ⟨0x60, 1, 1, .rw, 0, 0, 1⟩
/-- GLB_SYNC_STAT.UE (R467). -/
def F.GLB_SYNC_STAT_UE : Fld :=
  ⟨0x64, 0, 1, .w1c, 0, 0, 1⟩
/-- GLB_SYNC_STAT.WAIT_OVF (R467). -/
def F.GLB_SYNC_STAT_WAIT_OVF : Fld :=
  ⟨0x64, 1, 1, .w1c, 0, 0, 1⟩
/-- GLB_SYNC_STAT.ARR_OVF (R467). -/
def F.GLB_SYNC_STAT_ARR_OVF : Fld :=
  ⟨0x64, 2, 1, .w1c, 0, 0, 1⟩
/-- GLB_SYNC_STAT.TAPE_FLT (R467). -/
def F.GLB_SYNC_STAT_TAPE_FLT : Fld :=
  ⟨0x64, 3, 1, .w1c, 0, 0, 1⟩
/-- GLB_SYNC_STAT.NOT_APPLIED (R467). -/
def F.GLB_SYNC_STAT_NOT_APPLIED : Fld :=
  ⟨0x64, 4, 1, .w1c, 0, 0, 1⟩
/-- GLB_SYNC_STAT.ALIGN_LATE (R467). -/
def F.GLB_SYNC_STAT_ALIGN_LATE : Fld :=
  ⟨0x64, 5, 1, .w1c, 0, 0, 1⟩
/-- GLB_SYNC_STAT.WR_IGN (R467). -/
def F.GLB_SYNC_STAT_WR_IGN : Fld :=
  ⟨0x64, 6, 1, .w1c, 0, 0, 1⟩
/-- GLB_SYNC_STAT.LAST_BATON (R467). -/
def F.GLB_SYNC_STAT_LAST_BATON : Fld :=
  ⟨0x64, 7, 14, .ro, 0, 0, 16383⟩
/-- GLB_SYNC_STAT.LAST_TAPE (R467). -/
def F.GLB_SYNC_STAT_LAST_TAPE : Fld :=
  ⟨0x64, 21, 8, .ro, 0, 0, 255⟩
/-- GLB_SYNC_USE.WAITERS (R467). -/
def F.GLB_SYNC_USE_WAITERS : Fld :=
  ⟨0x68, 0, 12, .ro, 0, 0, 4095⟩
/-- GLB_SYNC_USE.ARRIVALS (R467). -/
def F.GLB_SYNC_USE_ARRIVALS : Fld :=
  ⟨0x68, 12, 13, .ro, 0, 0, 8191⟩
/-- GLB_SYNC_CNT.NA_CNT (R467). -/
def F.GLB_SYNC_CNT_NA_CNT : Fld :=
  ⟨0x6c, 0, 16, .w1cf, 0, 0, 65535⟩
/-- GLB_SYNC_CNT.CE_CNT (R467). -/
def F.GLB_SYNC_CNT_CE_CNT : Fld :=
  ⟨0x6c, 16, 16, .w1cf, 0, 0, 65535⟩
/-- PARTn_SYNC.SPIN (R468). -/
def F.PART_SYNC_SPIN (n : Nat) : Fld :=
  ⟨0x4040 + 1024 * n, 0, 9, .rws, 0, 0, 500⟩
/-- PARTn_SYNC_CNT.SPUN (R468). -/
def F.PART_SYNC_CNT_SPUN (n : Nat) : Fld :=
  ⟨0x4044 + 1024 * n, 0, 16, .w1cf, 0, 0, 65535⟩
/-- PARTn_SYNC_CNT.GATED (R468). -/
def F.PART_SYNC_CNT_GATED (n : Nat) : Fld :=
  ⟨0x4044 + 1024 * n, 16, 16, .w1cf, 0, 0, 65535⟩
/-- PARTn_SYNC_LAG.LAG (R468). -/
def F.PART_SYNC_LAG_LAG (n : Nat) : Fld :=
  ⟨0x4048 + 1024 * n, 0, 32, .w1cf, 0, 0, 4294967295⟩
/-- LANEn_COMB.COMB_EN (R489). -/
def F.LANE_COMB_COMB_EN (n : Nat) : Fld :=
  ⟨0x10080 + 1024 * n, 0, 1, .rws, 1, 0, 1⟩
/-- LANEn_COMB.WIN (R489). -/
def F.LANE_COMB_WIN (n : Nat) : Fld :=
  ⟨0x10080 + 1024 * n, 8, 8, .rws, 16, 0, 255⟩
/-- LANEn_COMB_CNT.COMBINED (R489). -/
def F.LANE_COMB_CNT_COMBINED (n : Nat) : Fld :=
  ⟨0x10084 + 1024 * n, 0, 16, .w1cf, 0, 0, 65535⟩
/-- LANEn_COMB_CNT.WRBACK (R489). -/
def F.LANE_COMB_CNT_WRBACK (n : Nat) : Fld :=
  ⟨0x10084 + 1024 * n, 16, 16, .w1cf, 0, 0, 65535⟩
/-- LANEn_ORD_CNT.HOLD_CNT (R490). -/
def F.LANE_ORD_CNT_HOLD_CNT (n : Nat) : Fld :=
  ⟨0x10088 + 1024 * n, 0, 16, .w1cf, 0, 0, 65535⟩
/-- LANEn_ORD_CNT.ORD_FULL (R490). -/
def F.LANE_ORD_CNT_ORD_FULL (n : Nat) : Fld :=
  ⟨0x10088 + 1024 * n, 16, 3, .w1c, 0, 0, 7⟩
/-- SPL_CTL.EN (R522). -/
def F.SPL_CTL_EN : Fld :=
  ⟨0x63000, 0, 1, .rws, 0, 0, 1⟩
/-- SPL_CTL.ERR_IRQ_EN (R522). -/
def F.SPL_CTL_ERR_IRQ_EN : Fld :=
  ⟨0x63000, 1, 1, .rw, 0, 0, 1⟩
/-- SPL_STAT.ACTIVE (R522). -/
def F.SPL_STAT_ACTIVE : Fld :=
  ⟨0x63004, 0, 7, .ro, 0, 0, 127⟩
/-- SPL_STAT.LATE (R522). -/
def F.SPL_STAT_LATE : Fld :=
  ⟨0x63004, 7, 1, .w1c, 0, 0, 1⟩
/-- SPL_STAT.TIER_ERR (R522). -/
def F.SPL_STAT_TIER_ERR : Fld :=
  ⟨0x63004, 8, 1, .w1c, 0, 0, 1⟩
/-- SPL_STAT.PAGE_STAIN (R522). -/
def F.SPL_STAT_PAGE_STAIN : Fld :=
  ⟨0x63004, 9, 1, .w1c, 0, 0, 1⟩
/-- SPL_STAT.RING_ERR (R522). -/
def F.SPL_STAT_RING_ERR : Fld :=
  ⟨0x63004, 10, 1, .w1c, 0, 0, 1⟩
/-- SPL_CNT.MOVES (R523). -/
def F.SPL_CNT_MOVES : Fld :=
  ⟨0x63008, 0, 16, .w1cf, 0, 0, 65535⟩
/-- SPL_CNT.REFUSED (R523). -/
def F.SPL_CNT_REFUSED : Fld :=
  ⟨0x63008, 16, 16, .w1cf, 0, 0, 65535⟩
/-- SPL_ERR_CNT.LATE_CNT (R523). -/
def F.SPL_ERR_CNT_LATE_CNT : Fld :=
  ⟨0x6300c, 0, 16, .w1cf, 0, 0, 65535⟩
/-- SPL_ERR_CNT.PAGE_STAIN_CNT (R523). -/
def F.SPL_ERR_CNT_PAGE_STAIN_CNT : Fld :=
  ⟨0x6300c, 16, 16, .w1cf, 0, 0, 65535⟩
/-- SPL_ERR_LOG.TIER (R523). -/
def F.SPL_ERR_LOG_TIER : Fld :=
  ⟨0x63010, 0, 2, .ro, 0, 0, 3⟩
/-- SPL_ERR_LOG.KIND (R523). -/
def F.SPL_ERR_LOG_KIND : Fld :=
  ⟨0x63010, 2, 2, .ro, 0, 0, 3⟩
/-- SPL_ERR_LOG.PART (R523). -/
def F.SPL_ERR_LOG_PART : Fld :=
  ⟨0x63010, 4, 4, .ro, 0, 0, 15⟩
/-- SPL_ERR_LOG.BIB (R523). -/
def F.SPL_ERR_LOG_BIB : Fld :=
  ⟨0x63010, 8, 12, .ro, 0, 0, 4095⟩
/-- SPL_ERR_PAGE.PAGE (R523). -/
def F.SPL_ERR_PAGE_PAGE : Fld :=
  ⟨0x63014, 0, 32, .ro, 0, 0, 4294967295⟩
/-- SPL_TIERt_BASE.BASE (R524). -/
def F.SPL_TIER_BASE_BASE (t : Nat) : Fld :=
  ⟨0x63020 + 16 * t, 0, 32, .rws, 0, 0, 4294967295⟩
/-- SPL_TIERt_PAGES.PAGES (R524). -/
def F.SPL_TIER_PAGES_PAGES (t : Nat) : Fld :=
  ⟨0x63024 + 16 * t, 0, 32, .rws, 0, 0, 4294967295⟩
/-- SPL_TIERt_CFG.EN (R524). -/
def F.SPL_TIER_CFG_EN (t : Nat) : Fld :=
  ⟨0x63028 + 16 * t, 0, 1, .rws, 0, 0, 1⟩
/-- SPL_TIERt_CFG.RATE (R524). -/
def F.SPL_TIER_CFG_RATE (t : Nat) : Fld :=
  ⟨0x63028 + 16 * t, 1, 8, .rws, 0, 0, 255⟩
/-- SPL_TIERt_CFG.ACCESS (R524). -/
def F.SPL_TIER_CFG_ACCESS (t : Nat) : Fld :=
  ⟨0x63028 + 16 * t, 9, 12, .rws, 0, 0, 4095⟩
/-- SPL_TIERt_CFG.TMO (R524). -/
def F.SPL_TIER_CFG_TMO (t : Nat) : Fld :=
  ⟨0x63028 + 16 * t, 21, 8, .rws, 0, 0, 255⟩
/-- SPL_RINGp_CFG.EN (R525). -/
def F.SPL_RING_CFG_EN (p : Nat) : Fld :=
  ⟨0x63100 + 16 * p, 0, 1, .rws, 0, 0, 1⟩
/-- SPL_RINGp_CFG.BIB (R525). -/
def F.SPL_RING_CFG_BIB (p : Nat) : Fld :=
  ⟨0x63100 + 16 * p, 1, 12, .rws, 0, 0, 4095⟩
/-- MSH_PRp_CFG.EN (R652). -/
def F.MSH_PR_CFG_EN (p : Nat) : Fld :=
  ⟨0x70300 + 16 * p, 0, 1, .rws, 0, 0, 1⟩
/-- MSH_PRp_CFG.BIB (R652). -/
def F.MSH_PR_CFG_BIB (p : Nat) : Fld :=
  ⟨0x70300 + 16 * p, 1, 12, .rws, 0, 0, 4095⟩
/-- SPL_RINGp_BATON.DOORBELL (R525). -/
def F.SPL_RING_BATON_DOORBELL (p : Nat) : Fld :=
  ⟨0x63104 + 16 * p, 0, 14, .rws, 0, 0, 16383⟩
/-- SPL_RINGp_BATON.DONE (R525). -/
def F.SPL_RING_BATON_DONE (p : Nat) : Fld :=
  ⟨0x63104 + 16 * p, 16, 14, .rws, 0, 0, 16383⟩
/-- MSH_PRp_BATON.DOORBELL (R652). -/
def F.MSH_PR_BATON_DOORBELL (p : Nat) : Fld :=
  ⟨0x70304 + 16 * p, 0, 14, .rws, 0, 0, 16383⟩
/-- MSH_PRp_BATON.DONE (R652). -/
def F.MSH_PR_BATON_DONE (p : Nat) : Fld :=
  ⟨0x70304 + 16 * p, 16, 14, .rws, 0, 0, 16383⟩
/-- SPL_RINGp_POS.TAKEN (R525). -/
def F.SPL_RING_POS_TAKEN (p : Nat) : Fld :=
  ⟨0x63108 + 16 * p, 0, 16, .ro, 0, 0, 65535⟩
/-- SPL_RINGp_POS.COMPLETED (R525). -/
def F.SPL_RING_POS_COMPLETED (p : Nat) : Fld :=
  ⟨0x63108 + 16 * p, 16, 16, .ro, 0, 0, 65535⟩
/-- MSH_PRp_POS.TAKEN (R652). -/
def F.MSH_PR_POS_TAKEN (p : Nat) : Fld :=
  ⟨0x70308 + 16 * p, 0, 16, .ro, 0, 0, 65535⟩
/-- MSH_PRp_POS.COMPLETED (R652). -/
def F.MSH_PR_POS_COMPLETED (p : Nat) : Fld :=
  ⟨0x70308 + 16 * p, 16, 16, .ro, 0, 0, 65535⟩
/-- PARTn_TIERt_BASE.BASE (R526). -/
def F.PART_TIER_BASE_BASE (n : Nat) (t : Nat) : Fld :=
  ⟨0x4050 + 1024 * n + 8 * t, 0, 32, .rws, 0, 0, 4294967295⟩
/-- PARTn_TIERt_CNT.CNT (R526). -/
def F.PART_TIER_CNT_CNT (n : Nat) (t : Nat) : Fld :=
  ⟨0x4054 + 1024 * n + 8 * t, 0, 32, .rws, 0, 0, 4294967295⟩
/-- PARTn_TIER_CTL.ORD0 (R526). -/
def F.PART_TIER_CTL_ORD0 (n : Nat) : Fld :=
  ⟨0x4068 + 1024 * n, 0, 2, .rws, 0, 0, 3⟩
/-- PARTn_TIER_CTL.ORD1 (R526). -/
def F.PART_TIER_CTL_ORD1 (n : Nat) : Fld :=
  ⟨0x4068 + 1024 * n, 2, 2, .rws, 1, 0, 3⟩
/-- PARTn_TIER_CTL.ORD2 (R526). -/
def F.PART_TIER_CTL_ORD2 (n : Nat) : Fld :=
  ⟨0x4068 + 1024 * n, 4, 2, .rws, 2, 0, 3⟩
/-- PARTn_TIER_CTL.EPOCH (R526). -/
def F.PART_TIER_CTL_EPOCH (n : Nat) : Fld :=
  ⟨0x4068 + 1024 * n, 16, 16, .rws, 0, 0, 65535⟩
/-- INT_CTL.SCRUB_EN (R565). -/
def F.INT_CTL_SCRUB_EN : Fld :=
  ⟨0x61000, 0, 1, .rws, 1, 0, 1⟩
/-- INT_CTL.LOG_CE (R565). -/
def F.INT_CTL_LOG_CE : Fld :=
  ⟨0x61000, 1, 1, .rws, 0, 0, 1⟩
/-- INT_CTL.HOLD (R565). -/
def F.INT_CTL_HOLD : Fld :=
  ⟨0x61000, 2, 1, .rws, 0, 0, 1⟩
/-- INT_CTL.IRQ_STAIN (R565). -/
def F.INT_CTL_IRQ_STAIN : Fld :=
  ⟨0x61000, 3, 1, .rw, 0, 0, 1⟩
/-- INT_CTL.IRQ_FAULT (R565). -/
def F.INT_CTL_IRQ_FAULT : Fld :=
  ⟨0x61000, 4, 1, .rw, 0, 0, 1⟩
/-- INT_CTL.IRQ_LOG (R565). -/
def F.INT_CTL_IRQ_LOG : Fld :=
  ⟨0x61000, 5, 1, .rw, 0, 0, 1⟩
/-- INT_STAT.LOG_LOST (R565). -/
def F.INT_STAT_LOG_LOST : Fld :=
  ⟨0x61004, 0, 1, .ro, 0, 0, 1⟩
/-- INT_STAT.LOG_PEND (R565). -/
def F.INT_STAT_LOG_PEND : Fld :=
  ⟨0x61004, 1, 1, .ro, 0, 0, 1⟩
/-- INT_STAT.MIR_CONFLICT (R565). -/
def F.INT_STAT_MIR_CONFLICT : Fld :=
  ⟨0x61004, 2, 1, .w1c, 0, 0, 1⟩
/-- INT_STAT.REP_OVF (R565). -/
def F.INT_STAT_REP_OVF : Fld :=
  ⟨0x61004, 3, 1, .w1c, 0, 0, 1⟩
/-- INT_STAT.FLIP_ARMED (R565). -/
def F.INT_STAT_FLIP_ARMED : Fld :=
  ⟨0x61004, 4, 1, .ro, 0, 0, 1⟩
/-- INT_STAT.BLEACH_PEND (R565). -/
def F.INT_STAT_BLEACH_PEND : Fld :=
  ⟨0x61004, 5, 1, .ro, 0, 0, 1⟩
/-- INT_STAT.RD_UE (R565). -/
def F.INT_STAT_RD_UE : Fld :=
  ⟨0x61004, 6, 1, .w1c, 0, 0, 1⟩
/-- INT_STAT.SCRUB_WRAP (R565). -/
def F.INT_STAT_SCRUB_WRAP : Fld :=
  ⟨0x61004, 7, 1, .w1c, 0, 0, 1⟩
/-- INT_SCRUB_CTL.RATE (R566). -/
def F.INT_SCRUB_CTL_RATE : Fld :=
  ⟨0x61008, 0, 4, .rws, 4, 1, 15⟩
/-- INT_SCRUB_POS.GRAN (R566). -/
def F.INT_SCRUB_POS_GRAN : Fld :=
  ⟨0x6100c, 0, 20, .ro, 0, 0, 1048575⟩
/-- INT_SCRUB_CNT.PASSES (R566). -/
def F.INT_SCRUB_CNT_PASSES : Fld :=
  ⟨0x61010, 0, 16, .w1cf, 0, 0, 65535⟩
/-- INT_SCRUB_CNT.DEFER (R566). -/
def F.INT_SCRUB_CNT_DEFER : Fld :=
  ⟨0x61010, 16, 16, .w1cf, 0, 0, 65535⟩
/-- INT_MIR_USE.LINES (R566). -/
def F.INT_MIR_USE_LINES : Fld :=
  ⟨0x61014, 0, 13, .ro, 0, 0, 8191⟩
/-- INT_MIR_USE.REPQ (R566). -/
def F.INT_MIR_USE_REPQ : Fld :=
  ⟨0x61014, 13, 7, .ro, 0, 0, 127⟩
/-- INT_MIR_CNT.DIFF (R566). -/
def F.INT_MIR_CNT_DIFF : Fld :=
  ⟨0x61018, 0, 16, .w1cf, 0, 0, 65535⟩
/-- INT_MIR_CNT.CONFLICT (R566). -/
def F.INT_MIR_CNT_CONFLICT : Fld :=
  ⟨0x61018, 16, 16, .w1cf, 0, 0, 65535⟩
/-- INT_FLIP_CTL.ARM (R567). -/
def F.INT_FLIP_CTL_ARM : Fld :=
  ⟨0x61020, 0, 1, .rw, 0, 0, 1⟩
/-- INT_FLIP_CTL.POINT (R567). -/
def F.INT_FLIP_CTL_POINT : Fld :=
  ⟨0x61020, 1, 3, .rw, 0, 0, 4⟩
/-- INT_FLIP_CTL.COUNT (R567). -/
def F.INT_FLIP_CTL_COUNT : Fld :=
  ⟨0x61020, 4, 8, .rw, 0, 1, 255⟩
/-- INT_FLIP_CTL.PART (R567). -/
def F.INT_FLIP_CTL_PART : Fld :=
  ⟨0x61020, 12, 4, .rw, 0, 0, 15⟩
/-- INT_FLIP_CTL.REQ (R567). -/
def F.INT_FLIP_CTL_REQ : Fld :=
  ⟨0x61020, 16, 8, .rw, 0, 0, 255⟩
/-- INT_FLIP_CTL.REQ_EN (R567). -/
def F.INT_FLIP_CTL_REQ_EN : Fld :=
  ⟨0x61020, 24, 1, .rw, 0, 0, 1⟩
/-- INT_FLIP_MASK_LO.MASK_LO (R567). -/
def F.INT_FLIP_MASK_LO_MASK_LO : Fld :=
  ⟨0x61024, 0, 32, .rw, 0, 0, 4294967295⟩
/-- INT_FLIP_MASK_HI.MASK_HI (R567). -/
def F.INT_FLIP_MASK_HI_MASK_HI : Fld :=
  ⟨0x61028, 0, 32, .rw, 0, 0, 4294967295⟩
/-- INT_BLEACH_CTL.RATE (R568). -/
def F.INT_BLEACH_CTL_RATE : Fld :=
  ⟨0x61030, 0, 4, .rws, 4, 1, 15⟩
/-- INT_BLEACH_STAT.PEND (R568). -/
def F.INT_BLEACH_STAT_PEND : Fld :=
  ⟨0x61034, 0, 16, .ro, 0, 0, 65535⟩
/-- INT_BLEACH_STAT.QUEUED (R568). -/
def F.INT_BLEACH_STAT_QUEUED : Fld :=
  ⟨0x61034, 16, 6, .ro, 0, 0, 63⟩
/-- INT_BLEACH_POS.GRAN (R568). -/
def F.INT_BLEACH_POS_GRAN : Fld :=
  ⟨0x61038, 0, 20, .ro, 0, 0, 1048575⟩
/-- INT_BLEACH_POS.PART (R568). -/
def F.INT_BLEACH_POS_PART : Fld :=
  ⟨0x61038, 20, 4, .ro, 0, 0, 15⟩
/-- INT_LOG_CTL.RETRY (R569). -/
def F.INT_LOG_CTL_RETRY : Fld :=
  ⟨0x61040, 0, 1, .wo, 0, 0, 1⟩
/-- INT_LOG_CTL.GASP_CLR (R569). -/
def F.INT_LOG_CTL_GASP_CLR : Fld :=
  ⟨0x61040, 1, 1, .wo, 0, 0, 1⟩
/-- INT_LOG_PTR.HEAD (R569). -/
def F.INT_LOG_PTR_HEAD : Fld :=
  ⟨0x61044, 0, 8, .ro, 0, 0, 255⟩
/-- INT_LOG_PTR.TAIL (R569). -/
def F.INT_LOG_PTR_TAIL : Fld :=
  ⟨0x61044, 16, 8, .rw, 0, 0, 255⟩
/-- INT_LOG_CNT.OVF_CNT (R569). -/
def F.INT_LOG_CNT_OVF_CNT : Fld :=
  ⟨0x61048, 0, 16, .w1cf, 0, 0, 65535⟩
/-- INT_LOG_CNT.LOST_CNT (R569). -/
def F.INT_LOG_CNT_LOST_CNT : Fld :=
  ⟨0x61048, 16, 16, .ro, 0, 0, 65535⟩
/-- INT_LOG_SEL.INDEX (R569). -/
def F.INT_LOG_SEL_INDEX : Fld :=
  ⟨0x6104c, 0, 8, .rw, 0, 0, 255⟩
/-- INT_GASP_STAT.USED (R569). -/
def F.INT_GASP_STAT_USED : Fld :=
  ⟨0x61080, 0, 4, .ro, 0, 0, 15⟩
/-- INT_LOG_DATAw.DATA (R569). -/
def F.INT_LOG_DATA_DATA (w : Nat) : Fld :=
  ⟨0x61050 + 4 * w, 0, 32, .ro, 0, 0, 4294967295⟩
/-- INT_GASPi_w.WORD (R569). -/
def F.INT_GASP_WORD (i : Nat) (w : Nat) : Fld :=
  ⟨0x61100 + 16 * i + 4 * w, 0, 32, .ro, 0, 0, 4294967295⟩
/-- PARTn_INTEG.DELIVERED (R570). -/
def F.PART_INTEG_DELIVERED (n : Nat) : Fld :=
  ⟨0x4070 + 1024 * n, 0, 16, .w1cf, 0, 0, 65535⟩
/-- PARTn_INTEG.MADE (R570). -/
def F.PART_INTEG_MADE (n : Nat) : Fld :=
  ⟨0x4070 + 1024 * n, 16, 16, .w1cf, 0, 0, 65535⟩
/-- JNL_CTL.SHADOW_EN (R613). -/
def F.JNL_CTL_SHADOW_EN : Fld :=
  ⟨0x62000, 0, 1, .rws, 1, 0, 1⟩
/-- JNL_CTL.IRQ_EN (R613). -/
def F.JNL_CTL_IRQ_EN : Fld :=
  ⟨0x62000, 1, 1, .rw, 0, 0, 1⟩
/-- JNL_CTL.FAILOVER (R613). -/
def F.JNL_CTL_FAILOVER : Fld :=
  ⟨0x62000, 2, 1, .wo, 0, 0, 1⟩
/-- JNL_STAT.FENCED (R613). -/
def F.JNL_STAT_FENCED : Fld :=
  ⟨0x62004, 0, 1, .ro, 0, 0, 1⟩
/-- JNL_STAT.RECOVERING (R613). -/
def F.JNL_STAT_RECOVERING : Fld :=
  ⟨0x62004, 1, 1, .ro, 0, 0, 1⟩
/-- JNL_STAT.SHADOW_LOST (R613). -/
def F.JNL_STAT_SHADOW_LOST : Fld :=
  ⟨0x62004, 2, 1, .ro, 0, 0, 1⟩
/-- JNL_STAT.PARTNER_LOST (R613). -/
def F.JNL_STAT_PARTNER_LOST : Fld :=
  ⟨0x62004, 3, 1, .w1c, 0, 0, 1⟩
/-- JNL_STAT.JNL_FULL (R613). -/
def F.JNL_STAT_JNL_FULL : Fld :=
  ⟨0x62004, 4, 1, .w1c, 0, 0, 1⟩
/-- JNL_STAT.DEDUP_FULL (R613). -/
def F.JNL_STAT_DEDUP_FULL : Fld :=
  ⟨0x62004, 5, 1, .w1c, 0, 0, 1⟩
/-- JNL_STAT.ENTRY_LOST (R613). -/
def F.JNL_STAT_ENTRY_LOST : Fld :=
  ⟨0x62004, 6, 1, .w1c, 0, 0, 1⟩
/-- JNL_STAT.CKPT_SLOT (R613). -/
def F.JNL_STAT_CKPT_SLOT : Fld :=
  ⟨0x62004, 7, 1, .ro, 0, 0, 1⟩
/-- JNL_STAT.QUEUED (R613). -/
def F.JNL_STAT_QUEUED : Fld :=
  ⟨0x62004, 8, 3, .ro, 0, 0, 7⟩
/-- JNL_USE.DESC (R614). -/
def F.JNL_USE_DESC : Fld :=
  ⟨0x62008, 0, 14, .ro, 0, 0, 16383⟩
/-- JNL_USE.DEDUP (R614). -/
def F.JNL_USE_DEDUP : Fld :=
  ⟨0x62008, 14, 13, .ro, 0, 0, 8191⟩
/-- JNL_BUDDY.INST (R614). -/
def F.JNL_BUDDY_INST : Fld :=
  ⟨0x6200c, 0, 9, .rws, 0, 0, 511⟩
/-- JNL_BUDDY.WAFER (R614). -/
def F.JNL_BUDDY_WAFER : Fld :=
  ⟨0x6200c, 9, 5, .rws, 0, 0, 31⟩
/-- JNL_BUDDY.SET (R614). -/
def F.JNL_BUDDY_SET : Fld :=
  ⟨0x6200c, 14, 1, .rws, 0, 0, 1⟩
/-- JNL_SHADOW.ROW (R614). -/
def F.JNL_SHADOW_ROW : Fld :=
  ⟨0x62010, 0, 11, .rws, 0, 0, 2032⟩
/-- JNL_SHADOW.EN (R614). -/
def F.JNL_SHADOW_EN : Fld :=
  ⟨0x62010, 11, 1, .rws, 0, 0, 1⟩
/-- JNL_SHADOW.PINST (R614). -/
def F.JNL_SHADOW_PINST : Fld :=
  ⟨0x62010, 12, 9, .rws, 0, 0, 511⟩
/-- JNL_SHADOW.PWAFER (R614). -/
def F.JNL_SHADOW_PWAFER : Fld :=
  ⟨0x62010, 21, 5, .rws, 0, 0, 31⟩
/-- JNL_HB.HB_TMO (R615). -/
def F.JNL_HB_HB_TMO : Fld :=
  ⟨0x62014, 0, 16, .rws, 98, 0, 65535⟩
/-- JNL_HB.CKPT_MAX (R615). -/
def F.JNL_HB_CKPT_MAX : Fld :=
  ⟨0x62014, 16, 16, .rws, 48, 0, 65535⟩
/-- JNL_CKPT.GEN (R615). -/
def F.JNL_CKPT_GEN : Fld :=
  ⟨0x62018, 0, 32, .ro, 0, 0, 4294967295⟩
/-- JNL_CKPT_CMD.START (R615). -/
def F.JNL_CKPT_CMD_START : Fld :=
  ⟨0x6201c, 0, 1, .wo, 0, 0, 1⟩
/-- JNL_CKPT_CMD.BUSY (R615). -/
def F.JNL_CKPT_CMD_BUSY : Fld :=
  ⟨0x6201c, 1, 1, .ro, 0, 0, 1⟩
/-- JNL_CKPT_CMD.SRC_KB (R615). -/
def F.JNL_CKPT_CMD_SRC_KB : Fld :=
  ⟨0x6201c, 2, 8, .rw, 0, 0, 255⟩
/-- JNL_CKPT_CMD.LEN_KB (R615). -/
def F.JNL_CKPT_CMD_LEN_KB : Fld :=
  ⟨0x6201c, 10, 7, .rw, 0, 1, 64⟩
/-- JNL_FAULT.CLASS (R616). -/
def F.JNL_FAULT_CLASS : Fld :=
  ⟨0x62020, 0, 8, .ro, 0, 0, 255⟩
/-- JNL_FAULT.INDEX (R616). -/
def F.JNL_FAULT_INDEX : Fld :=
  ⟨0x62020, 8, 9, .ro, 0, 0, 511⟩
/-- JNL_CNT.REPLAYED (R616). -/
def F.JNL_CNT_REPLAYED : Fld :=
  ⟨0x62024, 0, 16, .w1cf, 0, 0, 65535⟩
/-- JNL_CNT.ABANDONED (R616). -/
def F.JNL_CNT_ABANDONED : Fld :=
  ⟨0x62024, 16, 16, .w1cf, 0, 0, 65535⟩
/-- JNL_DIP.DIP_CNT (R616). -/
def F.JNL_DIP_DIP_CNT : Fld :=
  ⟨0x62028, 0, 16, .w1cf, 0, 0, 65535⟩
/-- JNL_DIP.FAULT_CNT (R616). -/
def F.JNL_DIP_FAULT_CNT : Fld :=
  ⟨0x62028, 16, 16, .w1cf, 0, 0, 65535⟩
/-- JNL_SEQ.SEQ (R616). -/
def F.JNL_SEQ_SEQ : Fld :=
  ⟨0x6202c, 0, 32, .ro, 0, 0, 4294967295⟩
/-- JNL_FAIL.PACER (R617). -/
def F.JNL_FAIL_PACER : Fld :=
  ⟨0x62030, 0, 16, .ro, 0, 0, 65535⟩
/-- JNL_FAIL.LINK (R617). -/
def F.JNL_FAIL_LINK : Fld :=
  ⟨0x62030, 16, 4, .ro, 0, 0, 15⟩
/-- JNL_FAIL.BANK (R617). -/
def F.JNL_FAIL_BANK : Fld :=
  ⟨0x62030, 20, 9, .ro, 0, 0, 511⟩
/-- JNL_FAIL.BANK_V (R617). -/
def F.JNL_FAIL_BANK_V : Fld :=
  ⟨0x62030, 29, 1, .ro, 0, 0, 1⟩
/-- JNL_FAIL_LANE_LO.LANE_LO (R617). -/
def F.JNL_FAIL_LANE_LO_LANE_LO : Fld :=
  ⟨0x62034, 0, 32, .ro, 0, 0, 4294967295⟩
/-- JNL_FAIL_LANE_HI.LANE_HI (R617). -/
def F.JNL_FAIL_LANE_HI_LANE_HI : Fld :=
  ⟨0x62038, 0, 32, .ro, 0, 0, 4294967295⟩
/-- MSH_STAT.ACTIVE (R648). -/
def F.MSH_STAT_ACTIVE : Fld :=
  ⟨0x70000, 0, 1, .ro, 0, 0, 1⟩
/-- MSH_STAT.STBY_OK (R648). -/
def F.MSH_STAT_STBY_OK : Fld :=
  ⟨0x70000, 1, 1, .ro, 0, 0, 1⟩
/-- MSH_STAT.M0_FAIL (R648). -/
def F.MSH_STAT_M0_FAIL : Fld :=
  ⟨0x70000, 2, 1, .ro, 0, 0, 1⟩
/-- MSH_STAT.M1_FAIL (R648). -/
def F.MSH_STAT_M1_FAIL : Fld :=
  ⟨0x70000, 3, 1, .ro, 0, 0, 1⟩
/-- MSH_SITE.FIELD (R648). -/
def F.MSH_SITE_FIELD : Fld :=
  ⟨0x70004, 0, 6, .ro, Config.siteField, 0, 63⟩
/-- MSH_SITE.SITE (R648). -/
def F.MSH_SITE_SITE : Fld :=
  ⟨0x70004, 6, 4, .ro, Config.siteSite, 0, 15⟩
/-- MSH_SITE.INDEX (R648). -/
def F.MSH_SITE_INDEX : Fld :=
  ⟨0x70004, 10, 9, .ro, (12 * Config.siteField + Config.siteSite), 0, 511⟩
/-- MSH_BOOT.STAGE (R648). -/
def F.MSH_BOOT_STAGE : Fld :=
  ⟨0x70008, 0, 4, .ro, 0, 0, 15⟩
/-- MSH_BOOT.SLOT (R648). -/
def F.MSH_BOOT_SLOT : Fld :=
  ⟨0x70008, 4, 1, .ro, 0, 0, 1⟩
/-- MSH_BOOT.BAD (R648). -/
def F.MSH_BOOT_BAD : Fld :=
  ⟨0x70008, 5, 2, .ro, 0, 0, 3⟩
/-- MSH_BOOT.CAUSE (R648). -/
def F.MSH_BOOT_CAUSE : Fld :=
  ⟨0x70008, 7, 4, .ro, 0, 0, 15⟩
/-- MSH_BOOT.PASSES (R648). -/
def F.MSH_BOOT_PASSES : Fld :=
  ⟨0x70008, 11, 4, .ro, 0, 0, 15⟩
/-- MSH_BOOT.SLOT_WAIT (R648). -/
def F.MSH_BOOT_SLOT_WAIT : Fld :=
  ⟨0x70008, 15, 1, .ro, 0, 0, 1⟩
/-- MSH_BOOT.OTP_BAD (R648). -/
def F.MSH_BOOT_OTP_BAD : Fld :=
  ⟨0x70008, 16, 1, .ro, 0, 0, 1⟩
/-- MSH_IMG.IMG_SEQ (R649). -/
def F.MSH_IMG_IMG_SEQ : Fld :=
  ⟨0x7000c, 0, 32, .ro, 0, 0, 4294967295⟩
/-- MSH_ARB.IMG_ARB (R649). -/
def F.MSH_ARB_IMG_ARB : Fld :=
  ⟨0x70010, 0, 16, .ro, 0, 0, 65535⟩
/-- MSH_ARB.OTP_ARB (R649). -/
def F.MSH_ARB_OTP_ARB : Fld :=
  ⟨0x70010, 16, 16, .otp, 0, 0, 65535⟩
/-- MSH_OTP.GEN (R649). -/
def F.MSH_OTP_GEN : Fld :=
  ⟨0x70014, 0, 2, .ro, 0, 0, 3⟩
/-- MSH_OTP.BLANK (R649). -/
def F.MSH_OTP_BLANK : Fld :=
  ⟨0x70014, 2, 4, .ro, 0, 0, 15⟩
/-- MSH_OTP.VALID (R649). -/
def F.MSH_OTP_VALID : Fld :=
  ⟨0x70014, 6, 4, .ro, 0, 0, 15⟩
/-- MSH_OTP.CONFIRMED (R649). -/
def F.MSH_OTP_CONFIRMED : Fld :=
  ⟨0x70014, 10, 4, .ro, 0, 0, 15⟩
/-- MSH_OTP.BURNING (R649). -/
def F.MSH_OTP_BURNING : Fld :=
  ⟨0x70014, 14, 1, .ro, 0, 0, 1⟩
/-- MSH_OTP_SHw.SHADOW (R650). -/
def F.MSH_OTP_SH_SHADOW (w : Nat) : Fld :=
  ⟨0x70100 + 4 * w, 0, 32, .otp, 0, 0, 4294967295⟩
/-- MSH_OTP_STGw.STAGE (R650). -/
def F.MSH_OTP_STG_STAGE (w : Nat) : Fld :=
  ⟨0x70180 + 4 * w, 0, 32, .rws, 0, 0, 4294967295⟩
/-- MSH_MBm_Ww.WORD (R651). -/
def F.MSH_MB_W_WORD (m : Nat) (w : Nat) : Fld :=
  ⟨0x70200 + 128 * m + 4 * w, 0, 32, .rw, 0, 0, 4294967295⟩
/-- MSH_MBm_Rw.WORD (R651). -/
def F.MSH_MB_R_WORD (m : Nat) (w : Nat) : Fld :=
  ⟨0x70240 + 128 * m + 4 * w, 0, 32, .ro, 0, 0, 4294967295⟩
/-- MSH_MBm_CTL.GO (R651). -/
def F.MSH_MB_CTL_GO (m : Nat) : Fld :=
  ⟨0x70250 + 128 * m, 0, 1, .wo, 0, 0, 1⟩
/-- MSH_MBm_CTL.BUSY (R651). -/
def F.MSH_MB_CTL_BUSY (m : Nat) : Fld :=
  ⟨0x70250 + 128 * m, 1, 1, .ro, 0, 0, 1⟩
/-- MSH_MBm_CTL.DONE (R651). -/
def F.MSH_MB_CTL_DONE (m : Nat) : Fld :=
  ⟨0x70250 + 128 * m, 2, 1, .w1c, 0, 0, 1⟩
/-- MSH_MBm_CTL.OVR (R651). -/
def F.MSH_MB_CTL_OVR (m : Nat) : Fld :=
  ⟨0x70250 + 128 * m, 3, 1, .w1c, 0, 0, 1⟩
/-- MSH_MBm_CTL.IRQ_EN (R651). -/
def F.MSH_MB_CTL_IRQ_EN (m : Nat) : Fld :=
  ⟨0x70250 + 128 * m, 4, 1, .rw, 0, 0, 1⟩
/-- PARTn_STAT.STATE (R653). -/
def F.PART_STAT_STATE (n : Nat) : Fld :=
  ⟨0x4004 + 1024 * n, 0, 2, .ro, (if n = 15 then 1 else 0), 0, 3⟩
/-- PARTn_STAT.WR_IGN (R653). -/
def F.PART_STAT_WR_IGN (n : Nat) : Fld :=
  ⟨0x4004 + 1024 * n, 2, 1, .w1c, 0, 0, 1⟩
/-- PARTn_STAT.CREATE_REJ (R653). -/
def F.PART_STAT_CREATE_REJ (n : Nat) : Fld :=
  ⟨0x4004 + 1024 * n, 3, 1, .w1c, 0, 0, 1⟩
/-- PARTn_STAT.LAST_CAUSE (R653). -/
def F.PART_STAT_LAST_CAUSE (n : Nat) : Fld :=
  ⟨0x4004 + 1024 * n, 4, 4, .ro, 0, 0, 15⟩
/-- GLB_RC_STAT.STEP (R672). -/
def F.GLB_RC_STAT_STEP : Fld :=
  ⟨0x200, 0, 3, .ro, 0, 0, 5⟩
/-- GLB_RC_STAT.CAPTAIN (R672). -/
def F.GLB_RC_STAT_CAPTAIN : Fld :=
  ⟨0x200, 3, 1, .ro, 0, 0, 1⟩
/-- GLB_RC_STAT.STATUS (R672). -/
def F.GLB_RC_STAT_STATUS : Fld :=
  ⟨0x200, 4, 3, .ro, 0, 0, 3⟩
/-- GLB_RC_STAT.CAPT_IDX (R672). -/
def F.GLB_RC_STAT_CAPT_IDX : Fld :=
  ⟨0x200, 7, 9, .ro, 0, 0, 511⟩
/-- GLB_RC_STAT.NOT_READY (R672). -/
def F.GLB_RC_STAT_NOT_READY : Fld :=
  ⟨0x200, 16, 1, .ro, 0, 0, 1⟩
/-- GLB_RC_NBR NBR, one per index ix (R672). -/
def F.GLB_RC_NBR_NBR (ix : Nat) : Fld :=
  ⟨0x204, 0 + 2 * ix, 2, .ro, 0, 0, 3⟩
/-- GLB_RC_NBR.DONE (R672). -/
def F.GLB_RC_NBR_DONE : Fld :=
  ⟨0x204, 8, 4, .ro, 0, 0, 15⟩
/-- GLB_SYSw_j.ROW (R673). -/
def F.GLB_SYS_ROW (w : Nat) (j : Nat) : Fld :=
  ⟨0x400 + 64 * w + 4 * j, 0, 32, .ro, 0, 0, 4294967295⟩
/-- CPM_CLK_STAT.REF_READY (R705). -/
def F.CPM_CLK_STAT_REF_READY : Fld :=
  ⟨0x1040, 0, 1, .ro, 0, 0, 1⟩
/-- CPM_CLK_STAT.ON_PLL (R705). -/
def F.CPM_CLK_STAT_ON_PLL : Fld :=
  ⟨0x1040, 1, 1, .ro, 0, 0, 1⟩
/-- CPM_CLK_STAT.ACT_PLL (R705). -/
def F.CPM_CLK_STAT_ACT_PLL : Fld :=
  ⟨0x1040, 2, 1, .ro, 0, 0, 1⟩
/-- CPM_CLK_STAT.LOCK_A (R705). -/
def F.CPM_CLK_STAT_LOCK_A : Fld :=
  ⟨0x1040, 3, 1, .ro, 0, 0, 1⟩
/-- CPM_CLK_STAT.LOCK_B (R705). -/
def F.CPM_CLK_STAT_LOCK_B : Fld :=
  ⟨0x1040, 4, 1, .ro, 0, 0, 1⟩
/-- CPM_CLK_STAT.SAFE (R705). -/
def F.CPM_CLK_STAT_SAFE : Fld :=
  ⟨0x1040, 5, 1, .ro, 0, 0, 1⟩
/-- CPM_CLK_STAT.ALT_REF (R705). -/
def F.CPM_CLK_STAT_ALT_REF : Fld :=
  ⟨0x1040, 6, 1, .ro, 0, 0, 1⟩
/-- CPM_CLK_STAT.REF_FAIL (R705). -/
def F.CPM_CLK_STAT_REF_FAIL : Fld :=
  ⟨0x1040, 7, 1, .w1c, 0, 0, 1⟩
/-- CPM_CLK_STAT.PLL_UNDER (R705). -/
def F.CPM_CLK_STAT_PLL_UNDER : Fld :=
  ⟨0x1040, 8, 1, .w1c, 0, 0, 1⟩
/-- CPM_CLK_STAT.PLL_OVER (R705). -/
def F.CPM_CLK_STAT_PLL_OVER : Fld :=
  ⟨0x1040, 9, 1, .w1c, 0, 0, 1⟩
/-- CPM_CLK_STAT.PLL_UNLOCK (R705). -/
def F.CPM_CLK_STAT_PLL_UNLOCK : Fld :=
  ⟨0x1040, 10, 1, .w1c, 0, 0, 1⟩
/-- CPM_CLK_STAT.RC_FAIL (R705). -/
def F.CPM_CLK_STAT_RC_FAIL : Fld :=
  ⟨0x1040, 11, 1, .w1c, 0, 0, 1⟩
/-- CPM_CLK_STAT.UNCLEAN (R705). -/
def F.CPM_CLK_STAT_UNCLEAN : Fld :=
  ⟨0x1040, 12, 1, .w1c, 0, 0, 1⟩
/-- CPM_CLK_STAT.STEP_LATE (R705). -/
def F.CPM_CLK_STAT_STEP_LATE : Fld :=
  ⟨0x1040, 13, 1, .w1c, 0, 0, 1⟩
/-- CPM_CLK_CTL.ALT_REF_EN (R705). -/
def F.CPM_CLK_CTL_ALT_REF_EN : Fld :=
  ⟨0x1044, 0, 1, .rws, 1, 0, 1⟩
/-- CPM_CLK_CTL.CLK_IRQ_EN (R705). -/
def F.CPM_CLK_CTL_CLK_IRQ_EN : Fld :=
  ⟨0x1044, 1, 1, .rw, 0, 0, 1⟩
/-- CPM_CLK_CTL.INIT_STEP (R705). -/
def F.CPM_CLK_CTL_INIT_STEP : Fld :=
  ⟨0x1044, 2, 4, .rws, 7, 0, 7⟩
/-- CPM_FM_CTL.START (R706). -/
def F.CPM_FM_CTL_START : Fld :=
  ⟨0x1048, 0, 1, .wo, 0, 0, 1⟩
/-- CPM_FM_CTL.DONE (R706). -/
def F.CPM_FM_CTL_DONE : Fld :=
  ⟨0x1048, 1, 1, .ro, 0, 0, 1⟩
/-- CPM_FM_CTL.TARGET (R706). -/
def F.CPM_FM_CTL_TARGET : Fld :=
  ⟨0x1048, 2, 3, .rw, 0, 0, 4⟩
/-- CPM_FM_CTL.GATE (R706). -/
def F.CPM_FM_CTL_GATE : Fld :=
  ⟨0x1048, 5, 16, .rw, 1000, 1, 65535⟩
/-- CPM_FM_CNT.COUNT (R706). -/
def F.CPM_FM_CNT_COUNT : Fld :=
  ⟨0x104c, 0, 32, .ro, 0, 0, 4294967295⟩
/-- CPM_STEP.CUR_STEP (R706). -/
def F.CPM_STEP_CUR_STEP : Fld :=
  ⟨0x1050, 0, 4, .ro, 0, 0, 15⟩
/-- CPM_STEP.PEND_STEP (R706). -/
def F.CPM_STEP_PEND_STEP : Fld :=
  ⟨0x1050, 4, 4, .ro, 0, 0, 15⟩
/-- CPM_STEP.VREQ_CUR (R706). -/
def F.CPM_STEP_VREQ_CUR : Fld :=
  ⟨0x1050, 8, 8, .ro, 0, 0, 255⟩
/-- CPM_STEP.VREQ_HI (R706). -/
def F.CPM_STEP_VREQ_HI : Fld :=
  ⟨0x1050, 16, 8, .ro, 0, 0, 255⟩
/-- CPM_PWR_STAT.STATE (R707). -/
def F.CPM_PWR_STAT_STATE : Fld :=
  ⟨0x1054, 0, 2, .ro, 0, 0, 3⟩
/-- CPM_PWR_STAT.DOZE_REJ (R707). -/
def F.CPM_PWR_STAT_DOZE_REJ : Fld :=
  ⟨0x1054, 2, 3, .ro, 0, 0, 7⟩
/-- CPM_PWR_CTL.DOZE_TMO (R707). -/
def F.CPM_PWR_CTL_DOZE_TMO : Fld :=
  ⟨0x1058, 0, 9, .rws, 256, 1, 511⟩
/-- CPM_AON_WAKE.WAKE (R708). -/
def F.CPM_AON_WAKE_WAKE : Fld :=
  ⟨0x1080, 0, 1, .wo, 0, 0, 1⟩
/-- CPM_AON_WAKE.STEP (R708). -/
def F.CPM_AON_WAKE_STEP : Fld :=
  ⟨0x1080, 1, 4, .wo, 0, 0, 15⟩
/-- CPM_AON_WAKE_EN.TMR_EN (R708). -/
def F.CPM_AON_WAKE_EN_TMR_EN : Fld :=
  ⟨0x1084, 0, 1, .rw, 0, 0, 1⟩
/-- CPM_AON_WAKE_EN.LANE_EN (R708). -/
def F.CPM_AON_WAKE_EN_LANE_EN : Fld :=
  ⟨0x1084, 1, 1, .rw, 0, 0, 1⟩
/-- CPM_AON_WAKE_EN.THERM_EN (R708). -/
def F.CPM_AON_WAKE_EN_THERM_EN : Fld :=
  ⟨0x1084, 2, 1, .rw, 1, 0, 1⟩
/-- CPM_AON_WAKE_EN.DEBUG_EN (R708). -/
def F.CPM_AON_WAKE_EN_DEBUG_EN : Fld :=
  ⟨0x1084, 3, 1, .rw, 0, 0, 1⟩
/-- CPM_AON_TMR.PERIODS (R708). -/
def F.CPM_AON_TMR_PERIODS : Fld :=
  ⟨0x1088, 0, 32, .rw, 0, 0, 4294967295⟩
/-- CPM_AON_LAST.SOURCE (R709). -/
def F.CPM_AON_LAST_SOURCE : Fld :=
  ⟨0x108c, 0, 3, .ro, 0, 0, 7⟩
/-- CPM_AON_LAST.LANE (R709). -/
def F.CPM_AON_LAST_LANE : Fld :=
  ⟨0x108c, 3, 6, .ro, 0, 0, 63⟩
/-- CPM_AON_LAST.LINK (R709). -/
def F.CPM_AON_LAST_LINK : Fld :=
  ⟨0x108c, 9, 2, .ro, 0, 0, 3⟩
/-- CPM_AON_LAST.RAILS_OFF (R709). -/
def F.CPM_AON_LAST_RAILS_OFF : Fld :=
  ⟨0x108c, 11, 1, .ro, 0, 0, 1⟩
/-- CPM_AON_LAST.RET_LOST (R709). -/
def F.CPM_AON_LAST_RET_LOST : Fld :=
  ⟨0x108c, 12, 1, .ro, 0, 0, 1⟩
/-- CPM_AON_STAT.AON_STATE (R709). -/
def F.CPM_AON_STAT_AON_STATE : Fld :=
  ⟨0x1090, 0, 2, .ro, 0, 0, 3⟩
/-- CPM_AON_STAT.PWR_REQ (R709). -/
def F.CPM_AON_STAT_PWR_REQ : Fld :=
  ⟨0x1090, 2, 1, .w1c, 0, 0, 1⟩
/-- CPM_AON_STAT.RET_LOST (R709). -/
def F.CPM_AON_STAT_RET_LOST : Fld :=
  ⟨0x1090, 3, 1, .w1c, 0, 0, 1⟩
/-- CPM_AON_STAT.LDO_LIM (R709). -/
def F.CPM_AON_STAT_LDO_LIM : Fld :=
  ⟨0x1090, 4, 1, .ro, 0, 0, 1⟩
/-- CPM_AON_VRET.VRET_SEL (R709). -/
def F.CPM_AON_VRET_VRET_SEL : Fld :=
  ⟨0x1094, 0, 4, .rw, 5, 0, 10⟩
/-- CPM_AON_VRET.TRIM (R709). -/
def F.CPM_AON_VRET_TRIM : Fld :=
  ⟨0x1094, 4, 6, .otp, 0, 0, 63⟩
/-- CPM_AON_CNT.WAKES (R709). -/
def F.CPM_AON_CNT_WAKES : Fld :=
  ⟨0x1098, 0, 16, .w1cf, 0, 0, 65535⟩
/-- CPM_AON_CNT.BROWNOUTS (R709). -/
def F.CPM_AON_CNT_BROWNOUTS : Fld :=
  ⟨0x1098, 16, 16, .w1cf, 0, 0, 65535⟩
/-- CPM_TEMPs.TEMP (R746). -/
def F.CPM_TEMP_TEMP (s : Nat) : Fld :=
  ⟨0x1100 + 4 * s, 0, 10, .ro, 0, 0, 1023⟩
/-- CPM_TEMPs.VALID (R746). -/
def F.CPM_TEMP_VALID (s : Nat) : Fld :=
  ⟨0x1100 + 4 * s, 10, 1, .ro, 0, 0, 1⟩
/-- CPM_THERM_STAT.TJ_MAX (R746). -/
def F.CPM_THERM_STAT_TJ_MAX : Fld :=
  ⟨0x1120, 0, 10, .ro, 0, 0, 1023⟩
/-- CPM_THERM_STAT.HOT (R746). -/
def F.CPM_THERM_STAT_HOT : Fld :=
  ⟨0x1120, 10, 3, .ro, 0, 0, 7⟩
/-- CPM_THERM_STAT.TWARN (R746). -/
def F.CPM_THERM_STAT_TWARN : Fld :=
  ⟨0x1120, 13, 1, .w1c, 0, 0, 1⟩
/-- CPM_THERM_STAT.THROT_REQ (R746). -/
def F.CPM_THERM_STAT_THROT_REQ : Fld :=
  ⟨0x1120, 14, 1, .ro, 0, 0, 1⟩
/-- CPM_THERM_STAT.TRIPPED (R746). -/
def F.CPM_THERM_STAT_TRIPPED : Fld :=
  ⟨0x1120, 15, 1, .w1c, 0, 0, 1⟩
/-- CPM_THERM_STAT.SENS_BAD (R746). -/
def F.CPM_THERM_STAT_SENS_BAD : Fld :=
  ⟨0x1120, 16, 1, .w1c, 0, 0, 1⟩
/-- CPM_THERM_CTL.THERM_IRQ_EN (R746). -/
def F.CPM_THERM_CTL_THERM_IRQ_EN : Fld :=
  ⟨0x1124, 0, 1, .rw, 0, 0, 1⟩
/-- CPM_THERM_CTL.TRIP_STEP (R746). -/
def F.CPM_THERM_CTL_TRIP_STEP : Fld :=
  ⟨0x1124, 1, 3, .rws, 0, 0, 7⟩
/-- CPM_THERM_CTL.BOOST_TJ (R746). -/
def F.CPM_THERM_CTL_BOOST_TJ : Fld :=
  ⟨0x1124, 4, 8, .rws, 85, 0, 255⟩
/-- CPM_VMONm.MV (R747). -/
def F.CPM_VMON_MV (m : Nat) : Fld :=
  ⟨0x1130 + 4 * m, 0, 11, .ro, 0, 0, 2047⟩
/-- CPM_SUP.BELOW_WARN (R747). -/
def F.CPM_SUP_BELOW_WARN : Fld :=
  ⟨0x1140, 0, 1, .ro, 0, 0, 1⟩
/-- CPM_SUP.DIP (R747). -/
def F.CPM_SUP_DIP : Fld :=
  ⟨0x1140, 1, 1, .w1c, 0, 0, 1⟩
/-- CPM_SUP.RAIL (R747). -/
def F.CPM_SUP_RAIL : Fld :=
  ⟨0x1140, 2, 1, .ro, 0, 0, 1⟩
/-- CPM_SUP.SUP_IRQ_EN (R747). -/
def F.CPM_SUP_SUP_IRQ_EN : Fld :=
  ⟨0x1140, 3, 1, .rw, 0, 0, 1⟩
/-- CPM_PMONp.COUNT (R748). -/
def F.CPM_PMON_COUNT (p : Nat) : Fld :=
  ⟨0x1150 + 4 * p, 0, 16, .ro, 0, 0, 65535⟩
/-- CPM_EST_CTL.PWR_LIMIT (R749). -/
def F.CPM_EST_CTL_PWR_LIMIT : Fld :=
  ⟨0x1170, 0, 8, .rws, 192, 0, 255⟩
/-- CPM_EST_CTL.LIMIT_IRQ_EN (R749). -/
def F.CPM_EST_CTL_LIMIT_IRQ_EN : Fld :=
  ⟨0x1170, 8, 1, .rw, 0, 0, 1⟩
/-- CPM_EST_CTL.CAL_RESET (R749). -/
def F.CPM_EST_CTL_CAL_RESET : Fld :=
  ⟨0x1170, 9, 1, .wo, 0, 0, 1⟩
/-- CPM_EST_STAT.P_AVG (R749). -/
def F.CPM_EST_STAT_P_AVG : Fld :=
  ⟨0x1174, 0, 12, .ro, 0, 0, 4095⟩
/-- CPM_EST_STAT.CAL (R749). -/
def F.CPM_EST_STAT_CAL : Fld :=
  ⟨0x1174, 12, 4, .ro, 0, 0, 15⟩
/-- CPM_EST_STAT.BIN (R749). -/
def F.CPM_EST_STAT_BIN : Fld :=
  ⟨0x1174, 16, 2, .ro, 0, 0, 3⟩
/-- CPM_EST_STAT.GUARD (R749). -/
def F.CPM_EST_STAT_GUARD : Fld :=
  ⟨0x1174, 18, 1, .ro, 0, 0, 1⟩
/-- CPM_EST_STAT.OVER_LIMIT (R749). -/
def F.CPM_EST_STAT_OVER_LIMIT : Fld :=
  ⟨0x1174, 19, 1, .w1c, 0, 0, 1⟩
/-- CPM_EST_STAT.GUARD_CNT (R749). -/
def F.CPM_EST_STAT_GUARD_CNT : Fld :=
  ⟨0x1174, 20, 12, .w1cf, 0, 0, 4095⟩
/-- CPM_EST_Kb.K (R749). -/
def F.CPM_EST_K_K (b : Nat) : Fld :=
  ⟨0x1178 + 4 * b, 0, 16, .ro, 16384, 0, 65535⟩
/-- CPM_EST_Kb.WINDOWS (R749). -/
def F.CPM_EST_K_WINDOWS (b : Nat) : Fld :=
  ⟨0x1178 + 4 * b, 16, 16, .ro, 0, 0, 65535⟩
/-- CPM_ISENSE.IA (R749). -/
def F.CPM_ISENSE_IA : Fld :=
  ⟨0x1188, 0, 16, .ro, 0, 0, 65535⟩
/-- CPM_EST_HINT.P_HINT (R749). -/
def F.CPM_EST_HINT_P_HINT : Fld :=
  ⟨0x118c, 0, 12, .ro, 0, 0, 4095⟩
/-- CPM_PWR_MODE.CAP (R750). -/
def F.CPM_PWR_MODE_CAP : Fld :=
  ⟨0x1190, 0, 9, .ro, 256, 0, 511⟩
/-- CPM_PWR_MODE.FIXED (R750). -/
def F.CPM_PWR_MODE_FIXED : Fld :=
  ⟨0x1190, 9, 1, .ro, 0, 0, 1⟩
/-- CPM_PWR_MODE.BOOST_EN (R750). -/
def F.CPM_PWR_MODE_BOOST_EN : Fld :=
  ⟨0x1190, 10, 1, .ro, 0, 0, 1⟩
/-- CPM_PWR_MODE.BOOST_ACT (R750). -/
def F.CPM_PWR_MODE_BOOST_ACT : Fld :=
  ⟨0x1190, 11, 1, .ro, 0, 0, 1⟩
/-- CPM_MON_STAT.LAST_SWEEP (R750). -/
def F.CPM_MON_STAT_LAST_SWEEP : Fld :=
  ⟨0x1194, 0, 16, .ro, 0, 0, 65535⟩
/-- CPM_MON_STAT.NO_TOKEN (R750). -/
def F.CPM_MON_STAT_NO_TOKEN : Fld :=
  ⟨0x1194, 16, 1, .w1c, 0, 0, 1⟩
/-- CPM_EST_COEFc.COEF (R751). -/
def F.CPM_EST_COEF_COEF (c : Nat) : Fld :=
  ⟨0x11a0 + 4 * c, 0, 16, .rws, (([220,150,120,77,400,400,10667,2000] : List Nat).getD c 0), 0, 65535⟩
/-- CPM_ENERGY_LO.E_LO (R752). -/
def F.CPM_ENERGY_LO_E_LO : Fld :=
  ⟨0x11c0, 0, 32, .ro, 0, 0, 4294967295⟩
/-- CPM_ENERGY_HI.E_HI (R752). -/
def F.CPM_ENERGY_HI_E_HI : Fld :=
  ⟨0x11c4, 0, 16, .ro, 0, 0, 65535⟩
/-- CPM_ECLASSc_LO.E_LO (R752). -/
def F.CPM_ECLASS_LO_E_LO (c : Nat) : Fld :=
  ⟨0x11c8 + 8 * c, 0, 32, .ro, 0, 0, 4294967295⟩
/-- CPM_ECLASSc_HI.E_HI (R752). -/
def F.CPM_ECLASS_HI_E_HI (c : Nat) : Fld :=
  ⟨0x11cc + 8 * c, 0, 16, .ro, 0, 0, 65535⟩
/-- PARTn_ENERGY_LO.E_LO (R752). -/
def F.PART_ENERGY_LO_E_LO (n : Nat) : Fld :=
  ⟨0x4080 + 1024 * n, 0, 32, .ro, 0, 0, 4294967295⟩
/-- PARTn_ENERGY_HI.E_HI (R752). -/
def F.PART_ENERGY_HI_E_HI (n : Nat) : Fld :=
  ⟨0x4084 + 1024 * n, 0, 16, .ro, 0, 0, 65535⟩
/-- GLB_RST_CAUSE.CAUSE (R766). -/
def F.GLB_RST_CAUSE_CAUSE : Fld :=
  ⟨0x10, 0, 4, .ro, 1, 0, 15⟩
/-- GLB_RST_CAUSE.PREV (R766). -/
def F.GLB_RST_CAUSE_PREV : Fld :=
  ⟨0x10, 4, 4, .ro, 0, 0, 15⟩
/-- GLB_RST_CAUSE.COUNT (R766). -/
def F.GLB_RST_CAUSE_COUNT : Fld :=
  ⟨0x10, 8, 16, .ro, 0, 0, 65535⟩
/-- GLB_RST_CAUSE.IGNORED (R766). -/
def F.GLB_RST_CAUSE_IGNORED : Fld :=
  ⟨0x10, 24, 4, .ro, 0, 0, 15⟩
/-- GLB_RST_CMD.WARM (R766). -/
def F.GLB_RST_CMD_WARM : Fld :=
  ⟨0x14, 0, 1, .wo, 0, 0, 1⟩
/-- GLB_RST_CMD.COLD (R766). -/
def F.GLB_RST_CMD_COLD : Fld :=
  ⟨0x14, 1, 1, .wo, 0, 0, 1⟩
/-- GLB_SHDN_STAT.SHDN_ACT (R766). -/
def F.GLB_SHDN_STAT_SHDN_ACT : Fld :=
  ⟨0x18, 0, 1, .ro, 0, 0, 1⟩
/-- GLB_SHDN_STAT.SOURCE (R766). -/
def F.GLB_SHDN_STAT_SOURCE : Fld :=
  ⟨0x18, 1, 1, .ro, 0, 0, 1⟩
/-- GLB_SHDN_STAT.HANDED_OFF (R766). -/
def F.GLB_SHDN_STAT_HANDED_OFF : Fld :=
  ⟨0x18, 2, 1, .ro, 0, 0, 1⟩
/-- GLB_SHDN_STAT.ABORTED (R766). -/
def F.GLB_SHDN_STAT_ABORTED : Fld :=
  ⟨0x18, 3, 1, .w1c, 0, 0, 1⟩
/-- CTR_CTL.EN (R791). -/
def F.CTR_CTL_EN : Fld :=
  ⟨0x28000, 0, 1, .rws, 0, 0, 1⟩
/-- CTR_CTL.FREEZE (R791). -/
def F.CTR_CTL_FREEZE : Fld :=
  ⟨0x28000, 1, 1, .rw, 0, 0, 1⟩
/-- CTR_CTL.CLEAR (R791). -/
def F.CTR_CTL_CLEAR : Fld :=
  ⟨0x28000, 2, 1, .wo, 0, 0, 1⟩
/-- CTR_CTL.SAMPLE_EN (R791). -/
def F.CTR_CTL_SAMPLE_EN : Fld :=
  ⟨0x28000, 3, 1, .rws, 0, 0, 1⟩
/-- CTR_CTL.OVF_IRQ_EN (R791). -/
def F.CTR_CTL_OVF_IRQ_EN : Fld :=
  ⟨0x28000, 4, 1, .rw, 0, 0, 1⟩
/-- CTR_OVF.OVF (R791). -/
def F.CTR_OVF_OVF : Fld :=
  ⟨0x28004, 0, 32, .w1c, 0, 0, 4294967295⟩
/-- CTR_TD_CTL.EN (R791). -/
def F.CTR_TD_CTL_EN : Fld :=
  ⟨0x28008, 0, 1, .rws, 1, 0, 1⟩
/-- CTR_TD_CTL.SNAP (R791). -/
def F.CTR_TD_CTL_SNAP : Fld :=
  ⟨0x28008, 1, 1, .wo, 0, 0, 1⟩
/-- CTR_TD_CTL.CLEAR (R791). -/
def F.CTR_TD_CTL_CLEAR : Fld :=
  ⟨0x28008, 2, 1, .wo, 0, 0, 1⟩
/-- CTRi_SEL.EVENT (R792). -/
def F.CTR_SEL_EVENT (i : Nat) : Fld :=
  ⟨0x28100 + 16 * i, 0, 8, .rws, 0, 0, 35⟩
/-- CTRi_SEL.PART (R792). -/
def F.CTR_SEL_PART (i : Nat) : Fld :=
  ⟨0x28100 + 16 * i, 8, 4, .rws, 0, 0, 15⟩
/-- CTRi_SEL.PART_EN (R792). -/
def F.CTR_SEL_PART_EN (i : Nat) : Fld :=
  ⟨0x28100 + 16 * i, 12, 1, .rws, 0, 0, 1⟩
/-- CTRi_SEL.UNIT (R792). -/
def F.CTR_SEL_UNIT (i : Nat) : Fld :=
  ⟨0x28100 + 16 * i, 13, 8, .rws, 0, 0, 255⟩
/-- CTRi_SEL.UNIT_EN (R792). -/
def F.CTR_SEL_UNIT_EN (i : Nat) : Fld :=
  ⟨0x28100 + 16 * i, 21, 1, .rws, 0, 0, 1⟩
/-- CTRi_SEL.CLASS_MASK (R792). -/
def F.CTR_SEL_CLASS_MASK (i : Nat) : Fld :=
  ⟨0x28100 + 16 * i, 22, 8, .rws, 255, 0, 255⟩
/-- CTRi_LO.CNT_LO (R792). -/
def F.CTR_LO_CNT_LO (i : Nat) : Fld :=
  ⟨0x28104 + 16 * i, 0, 32, .ro, 0, 0, 4294967295⟩
/-- CTRi_HI.CNT_HI (R792). -/
def F.CTR_HI_CNT_HI (i : Nat) : Fld :=
  ⟨0x28108 + 16 * i, 0, 16, .ro, 0, 0, 65535⟩
/-- CTRi_PERIOD.PERIOD (R792). -/
def F.CTR_PERIOD_PERIOD (i : Nat) : Fld :=
  ⟨0x2810c + 16 * i, 0, 32, .rws, 0, 0, 4294967295⟩
/-- CTR_TDn_c_LO.SLOTS_LO (R793). -/
def F.CTR_TD_LO_SLOTS_LO (n : Nat) (c : Nat) : Fld :=
  ⟨0x28800 + 64 * n + 8 * c, 0, 32, .ro, 0, 0, 4294967295⟩
/-- CTR_TDn_c_HI.SLOTS_HI (R793). -/
def F.CTR_TD_HI_SLOTS_HI (n : Nat) (c : Nat) : Fld :=
  ⟨0x28804 + 64 * n + 8 * c, 0, 16, .ro, 0, 0, 65535⟩
/-- TRC_CTL.EN (R794). -/
def F.TRC_CTL_EN : Fld :=
  ⟨0x28400, 0, 1, .rws, 0, 0, 1⟩
/-- TRC_CTL.MODE (R794). -/
def F.TRC_CTL_MODE : Fld :=
  ⟨0x28400, 1, 1, .rws, 0, 0, 1⟩
/-- TRC_CTL.REQ_EN (R794). -/
def F.TRC_CTL_REQ_EN : Fld :=
  ⟨0x28400, 2, 1, .rws, 0, 0, 1⟩
/-- TRC_CTL.LOG_COPY (R794). -/
def F.TRC_CTL_LOG_COPY : Fld :=
  ⟨0x28400, 3, 1, .rws, 0, 0, 1⟩
/-- TRC_CTL.STEP_EN (R794). -/
def F.TRC_CTL_STEP_EN : Fld :=
  ⟨0x28400, 4, 1, .rws, 0, 0, 1⟩
/-- TRC_CTL.DBG_MARK (R794). -/
def F.TRC_CTL_DBG_MARK : Fld :=
  ⟨0x28400, 5, 1, .rws, 0, 0, 1⟩
/-- TRC_CTL.IRQ_EN (R794). -/
def F.TRC_CTL_IRQ_EN : Fld :=
  ⟨0x28400, 6, 1, .rw, 0, 0, 1⟩
/-- TRC_CTL.CLEAR (R794). -/
def F.TRC_CTL_CLEAR : Fld :=
  ⟨0x28400, 7, 1, .wo, 0, 0, 1⟩
/-- TRC_STAT.FULL (R794). -/
def F.TRC_STAT_FULL : Fld :=
  ⟨0x28404, 0, 1, .ro, 0, 0, 1⟩
/-- TRC_STAT.DROP (R794). -/
def F.TRC_STAT_DROP : Fld :=
  ⟨0x28404, 1, 1, .w1c, 0, 0, 1⟩
/-- TRC_STAT.WRAPPED (R794). -/
def F.TRC_STAT_WRAPPED : Fld :=
  ⟨0x28404, 2, 1, .w1c, 0, 0, 1⟩
/-- TRC_STAT.QUEUE (R794). -/
def F.TRC_STAT_QUEUE : Fld :=
  ⟨0x28404, 3, 5, .ro, 0, 0, 31⟩
/-- TRC_PTR.HEAD (R794). -/
def F.TRC_PTR_HEAD : Fld :=
  ⟨0x28408, 0, 12, .ro, 0, 0, 4095⟩
/-- TRC_PTR.COUNT (R794). -/
def F.TRC_PTR_COUNT : Fld :=
  ⟨0x28408, 12, 13, .ro, 0, 0, 8191⟩
/-- TRC_SEL.INDEX (R794). -/
def F.TRC_SEL_INDEX : Fld :=
  ⟨0x2840c, 0, 12, .rw, 0, 0, 4095⟩
/-- TRC_FILT.PART (R794). -/
def F.TRC_FILT_PART : Fld :=
  ⟨0x28410, 0, 4, .rws, 0, 0, 15⟩
/-- TRC_FILT.PART_EN (R794). -/
def F.TRC_FILT_PART_EN : Fld :=
  ⟨0x28410, 4, 1, .rws, 0, 0, 1⟩
/-- TRC_FILT.REQ (R794). -/
def F.TRC_FILT_REQ : Fld :=
  ⟨0x28410, 5, 8, .rws, 0, 0, 255⟩
/-- TRC_FILT.REQ_EN (R794). -/
def F.TRC_FILT_REQ_EN : Fld :=
  ⟨0x28410, 13, 1, .rws, 0, 0, 1⟩
/-- TRC_FILT.CODE_MASK (R794). -/
def F.TRC_FILT_CODE_MASK : Fld :=
  ⟨0x28410, 14, 8, .rws, 255, 0, 255⟩
/-- TRC_FILT.MISS_ONLY (R794). -/
def F.TRC_FILT_MISS_ONLY : Fld :=
  ⟨0x28410, 22, 1, .rws, 0, 0, 1⟩
/-- TRC_MARK.VALUE (R794). -/
def F.TRC_MARK_VALUE : Fld :=
  ⟨0x28414, 0, 32, .wo, 0, 0, 4294967295⟩
/-- TRC_CNT.LOST_CNT (R794). -/
def F.TRC_CNT_LOST_CNT : Fld :=
  ⟨0x28418, 0, 16, .w1cf, 0, 0, 65535⟩
/-- TRC_DATAw.DATA (R794). -/
def F.TRC_DATA_DATA (w : Nat) : Fld :=
  ⟨0x28420 + 4 * w, 0, 32, .ro, 0, 0, 4294967295⟩
/-- GLB_DBG_CTL.CSR_EN (R795). -/
def F.GLB_DBG_CTL_CSR_EN : Fld :=
  ⟨0x20, 0, 1, .rws, 1, 0, 1⟩
/-- GLB_DBG_CTL.MEM_EN (R795). -/
def F.GLB_DBG_CTL_MEM_EN : Fld :=
  ⟨0x20, 1, 1, .rws, 0, 0, 1⟩
/-- GLB_DBG_CTL.LOCK (R795). -/
def F.GLB_DBG_CTL_LOCK : Fld :=
  ⟨0x20, 2, 1, .rws, 0, 0, 1⟩
/-- GLB_DBG_STAT.DBG_REFUSED (R795). -/
def F.GLB_DBG_STAT_DBG_REFUSED : Fld :=
  ⟨0x24, 0, 1, .w1c, 0, 0, 1⟩
/-- GLB_DBG_STAT.DBG_OVR (R795). -/
def F.GLB_DBG_STAT_DBG_OVR : Fld :=
  ⟨0x24, 1, 1, .w1c, 0, 0, 1⟩
/-- GLB_DBG_STAT.ACTIVE (R795). -/
def F.GLB_DBG_STAT_ACTIVE : Fld :=
  ⟨0x24, 2, 1, .ro, 0, 0, 1⟩
/-- GLB_DBG_STAT.DBG_BLEACH (R795). -/
def F.GLB_DBG_STAT_DBG_BLEACH : Fld :=
  ⟨0x24, 3, 1, .w1c, 0, 0, 1⟩
/-- GLB_ID.MEMBER (R799). -/
def F.GLB_ID_MEMBER : Fld :=
  ⟨0x0, 0, 4, .ro, 6, 0, 15⟩
/-- GLB_ID.LEVEL (R799). -/
def F.GLB_ID_LEVEL : Fld :=
  ⟨0x0, 4, 4, .ro, 1, 0, 15⟩
/-- GLB_ID.VENDOR (R799). -/
def F.GLB_ID_VENDOR : Fld :=
  ⟨0x0, 16, 16, .ro, 23086, 0, 65535⟩
/-- GLB_IRQ_STAT.PEND (R800). -/
def F.GLB_IRQ_STAT_PEND : Fld :=
  ⟨0x30, 0, 14, .w1c, 0, 0, 16383⟩
/-- GLB_IRQ_DEST.TO_SUP (R800). -/
def F.GLB_IRQ_DEST_TO_SUP : Fld :=
  ⟨0x34, 0, 14, .rws, 16383, 0, 16383⟩
/-- GLB_IRQ_DEST.TO_MSH (R800). -/
def F.GLB_IRQ_DEST_TO_MSH : Fld :=
  ⟨0x34, 16, 14, .rws, 16383, 0, 16383⟩
/-- MESH_CTL.WILGUS_EN (R801). -/
def F.MESH_CTL_WILGUS_EN : Fld :=
  ⟨0x64000, 0, 1, .rw, 0, 0, 1⟩
/-- MESH_CTL.W_LINKS (R801). -/
def F.MESH_CTL_W_LINKS : Fld :=
  ⟨0x64000, 1, 4, .rw, 0, 0, 15⟩
/-- MESH_STAT.UP (R801). -/
def F.MESH_STAT_UP : Fld :=
  ⟨0x64004, 0, 4, .ro, 0, 0, 15⟩
/-- MESH_STAT.DATA_OFF (R801). -/
def F.MESH_STAT_DATA_OFF : Fld :=
  ⟨0x64004, 4, 4, .ro, 0, 0, 15⟩
/-- MESH_LINKk_CNT.CRC_CNT (R801). -/
def F.MESH_LINK_CNT_CRC_CNT (k : Nat) : Fld :=
  ⟨0x64010 + 4 * k, 0, 16, .w1cf, 0, 0, 65535⟩
/-- MESH_LINKk_CNT.RESEND_CNT (R801). -/
def F.MESH_LINK_CNT_RESEND_CNT (k : Nat) : Fld :=
  ⟨0x64010 + 4 * k, 16, 16, .w1cf, 0, 0, 65535⟩
/-- CPM_CAD_LO.VAL (R63). -/
def F.CPM_CAD_LO_VAL : Fld :=
  ⟨0x1000, 0, 32, .ro, 0, 0, 4294967295⟩
/-- CPM_CAD_HI.VAL (R63). -/
def F.CPM_CAD_HI_VAL : Fld :=
  ⟨0x1004, 0, 32, .ro, 0, 0, 4294967295⟩
/-- CPM_ANN_TICK_LO.VAL (R68). -/
def F.CPM_ANN_TICK_LO_VAL : Fld :=
  ⟨0x1024, 0, 32, .ro, 0, 0, 4294967295⟩
/-- CPM_ANN_TICK_HI.VAL (R68). -/
def F.CPM_ANN_TICK_HI_VAL : Fld :=
  ⟨0x1028, 0, 32, .ro, 0, 0, 4294967295⟩
/-- CPM_SLEEP_ENTRY_LO.VAL (R68). -/
def F.CPM_SLEEP_ENTRY_LO_VAL : Fld :=
  ⟨0x102c, 0, 32, .ro, 0, 0, 4294967295⟩
/-- CPM_SLEEP_ENTRY_HI.VAL (R68). -/
def F.CPM_SLEEP_ENTRY_HI_VAL : Fld :=
  ⟨0x1030, 0, 32, .ro, 0, 0, 4294967295⟩
/-- CPM_SLEEP_TICKS_LO.VAL (R68). -/
def F.CPM_SLEEP_TICKS_LO_VAL : Fld :=
  ⟨0x1034, 0, 32, .ro, 0, 0, 4294967295⟩
/-- CPM_SLEEP_TICKS_HI.VAL (R68). -/
def F.CPM_SLEEP_TICKS_HI_VAL : Fld :=
  ⟨0x1038, 0, 32, .ro, 0, 0, 4294967295⟩
/-- CPM_JUMP_TICKS.VAL (R68). -/
def F.CPM_JUMP_TICKS_VAL : Fld :=
  ⟨0x103c, 0, 32, .ro, 0, 0, 4294967295⟩

/-- A family of registers: base offset, the (stride, count) of each index, and its fields at the indices. -/
structure RegFam where
  base : Nat
  dims : List (Nat × Nat)
  flds : List Nat → List Fld

/-- The indices at which a family has a register at distance `d` from its base. -/
def regIdx : List (Nat × Nat) → Nat → Option (List Nat)
  | [], d => if d = 0 then some [] else none
  | (st, ct) :: r, d =>
    let i := min (d / st) (ct - 1)
    (regIdx r (d - i * st)).map (fun l => i :: l)

/-- Register families, part 0. -/
def regFams0 : List RegFam := [
  ⟨0x1008, [], (fun _ =>
    [F.CPM_CAD_STAT_STATE, F.CPM_CAD_STAT_SRC, F.CPM_CAD_STAT_HOP, F.CPM_CAD_STAT_REF_OK,
      F.CPM_CAD_STAT_ANN_PEND, F.CPM_CAD_STAT_ANN_STEP, F.CPM_CAD_STAT_JUMP, F.CPM_CAD_STAT_FRAME_ERR,
      F.CPM_CAD_STAT_ANN_REJ, F.CPM_CAD_STAT_HOLD_EXPIRED])⟩,
  ⟨0x100c, [], (fun _ =>
    [F.CPM_CAD_CTL_FORCE_SRC, F.CPM_CAD_CTL_SRC_SEL, F.CPM_CAD_CTL_LINK_EN, F.CPM_CAD_CTL_FWD_EN,
      F.CPM_CAD_CTL_HOLD_LIMIT, F.CPM_CAD_CTL_IRQ_EN])⟩,
  ⟨0x1010, [], (fun _ =>
    [F.CPM_CAD_ERR_FRAME_ERR_CNT, F.CPM_CAD_ERR_HOLD_ERR_BOUND])⟩,
  ⟨0x1014, [(4, 4)], (fun l => match l with
    | [k] =>
      [F.CPM_LINK_DLY_DELAY k]
    | _ => [])⟩,
  ⟨0x4000, [(1024, 16)], (fun l => match l with
    | [n] =>
      [F.PART_REGION_BASE_ROW n, F.PART_REGION_ROW_CNT n, F.PART_REGION_RD_EN n, F.PART_REGION_WR_EN n]
    | _ => [])⟩,
  ⟨0x8, [], (fun _ =>
    [F.GLB_SELF_INSTANCE, F.GLB_SELF_WAFER, F.GLB_SELF_ASSIGNED])⟩,
  ⟨0x8000, [(1024, 16)], (fun l => match l with
    | [n] =>
      [F.TRK_CTL_ZERO_SKIP n, F.TRK_CTL_PERR_IRQ_EN n, F.TRK_CTL_SSERR_IRQ_EN n]
    | _ => [])⟩,
  ⟨0x8004, [(1024, 16)], (fun l => match l with
    | [n] =>
      [F.TRK_STAT_BIST_DONE n, F.TRK_STAT_BIST_FAIL n, F.TRK_STAT_SPARE_FAIL n, F.TRK_STAT_SPARE_USED n,
      F.TRK_STAT_SOFT_REPAIR n, F.TRK_STAT_UNREPAIRED n, F.TRK_STAT_PERR n, F.TRK_STAT_SS_CE n,
      F.TRK_STAT_SS_UE n]
    | _ => [])⟩,
  ⟨0x8008, [(1024, 16)], (fun l => match l with
    | [n] =>
      [F.TRK_REPAIR_OTP_BANK n, F.TRK_REPAIR_OTP_EN n, F.TRK_REPAIR_SOFT_BANK n, F.TRK_REPAIR_SOFT_EN n]
    | _ => [])⟩,
  ⟨0x800c, [(1024, 16)], (fun l => match l with
    | [n] =>
      [F.TRK_BIST_FAIL_FAIL n]
    | _ => [])⟩,
  ⟨0x8010, [(1024, 16)], (fun l => match l with
    | [n] =>
      [F.TRK_PERR_CNT_RD_CNT n, F.TRK_PERR_CNT_WR_CNT n]
    | _ => [])⟩,
  ⟨0x8014, [(1024, 16)], (fun l => match l with
    | [n] =>
      [F.TRK_SS_CNT_CE_CNT n, F.TRK_SS_CNT_UE_CNT n]
    | _ => [])⟩,
  ⟨0x8018, [(1024, 16)], (fun l => match l with
    | [n] =>
      [F.TRK_SS_ERR_ADDR_WORD n, F.TRK_SS_ERR_ADDR_BANK n]
    | _ => [])⟩,
  ⟨0x801c, [(1024, 16)], (fun l => match l with
    | [n] =>
      [F.TRK_PERR_ADDR_ROW n, F.TRK_PERR_ADDR_BANK n, F.TRK_PERR_ADDR_WRITE n]
    | _ => [])⟩,
  ⟨0x10000, [(1024, 64)], (fun l => match l with
    | [n] =>
      [F.LANE_CTL_CH_EN n, F.LANE_CTL_CRC_IRQ_EN n, F.LANE_CTL_ERR_IRQ_EN n, F.LANE_CTL_BIND n,
      F.LANE_CTL_WAKE_LEAD n]
    | _ => [])⟩,
  ⟨0x10004, [(1024, 64)], (fun l => match l with
    | [n] =>
      [F.LANE_STAT_LINK_UP n, F.LANE_STAT_CRC_ERR n, F.LANE_STAT_PROTO_ERR n, F.LANE_STAT_SEND_PERR n,
      F.LANE_STAT_HOLDING n]
    | _ => [])⟩,
  ⟨0x10008, [(1024, 64)], (fun l => match l with
    | [n] =>
      [F.LANE_PART_PART n 0, F.LANE_PART_PART n 1, F.LANE_PART_PART n 2, F.LANE_PART_PART n 3,
      F.LANE_PART_PART n 4, F.LANE_PART_PART n 5, F.LANE_PART_PART n 6, F.LANE_PART_PART n 7]
    | _ => [])⟩,
  ⟨0x10010, [(1024, 64), (4, 3)], (fun l => match l with
    | [n, k] =>
      [F.LANE_CH_DROP_CRC_CNT n k, F.LANE_CH_DROP_FRAME_CNT n k]
    | _ => [])⟩,
  ⟨0x10020, [(1024, 64), (4, 3)], (fun l => match l with
    | [n, k] =>
      [F.LANE_CH_RETRY_RESEND_NEW n k, F.LANE_CH_RETRY_RESEND_DUP n k]
    | _ => [])⟩,
  ⟨0x10030, [(1024, 64), (4, 3)], (fun l => match l with
    | [n, k] =>
      [F.LANE_CH_CRD_HCRD_MAX n k, F.LANE_CH_CRD_DCRD_MAX n k, F.LANE_CH_CRD_HCRD_AVAIL n k,
      F.LANE_CH_CRD_DCRD_AVAIL n k]
    | _ => [])⟩,
  ⟨0x10040, [(1024, 64), (4, 3)], (fun l => match l with
    | [n, k] =>
      [F.LANE_CH_TAGS_HELD n k, F.LANE_CH_TAGS_ANSWERED n k]
    | _ => [])⟩,
  ⟨0x10050, [(1024, 64)], (fun l => match l with
    | [n] =>
      [F.LANE_ERR_LOG_CHANNEL n, F.LANE_ERR_LOG_CAUSE n, F.LANE_ERR_LOG_TAG n, F.LANE_ERR_LOG_TAG_VALID n,
      F.LANE_ERR_LOG_CORE n]
    | _ => [])⟩,
  ⟨0x10054, [(1024, 64)], (fun l => match l with
    | [n] =>
      [F.LANE_SEND_PERR_CNT n]
    | _ => [])⟩,
  ⟨0x40, [], (fun _ =>
    [F.GLB_CONC_CTL_AGE_LIMIT, F.GLB_CONC_CTL_BOOST_EN])⟩,
  ⟨0x44, [], (fun _ =>
    [F.GLB_CONC_STAT_AGED, F.GLB_CONC_STAT_RET_FULL])⟩,
  ⟨0x10060, [(1024, 64), (8, 3), (4, 2)], (fun l => match l with
    | [n, k, j] =>
      [F.LANE_CH_PRIO_PRIO n k j 0, F.LANE_CH_PRIO_PRIO n k j 1, F.LANE_CH_PRIO_PRIO n k j 2,
      F.LANE_CH_PRIO_PRIO n k j 3, F.LANE_CH_PRIO_PRIO n k j 4, F.LANE_CH_PRIO_PRIO n k j 5,
      F.LANE_CH_PRIO_PRIO n k j 6, F.LANE_CH_PRIO_PRIO n k j 7]
    | _ => [])⟩,
  ⟨0x100, [(8, 24), (4, 2)], (fun l => match l with
    | [q, j] =>
      [F.GLB_PRIO_PRIO q j 0, F.GLB_PRIO_PRIO q j 1, F.GLB_PRIO_PRIO q j 2, F.GLB_PRIO_PRIO q j 3,
      F.GLB_PRIO_PRIO q j 4, F.GLB_PRIO_PRIO q j 5, F.GLB_PRIO_PRIO q j 6, F.GLB_PRIO_PRIO q j 7]
    | _ => [])⟩,
  ⟨0x2000, [], (fun _ =>
    [F.REG_CTL_OPEN, F.REG_CTL_EARLY_REL, F.REG_CTL_MISS_IRQ_EN])⟩,
  ⟨0x2004, [], (fun _ =>
    [F.REG_STAT_ADMITTING, F.REG_STAT_P_OPEN, F.REG_STAT_P_MARSHAL, F.REG_STAT_P_CADENCE, F.REG_STAT_P_HOLD,
      F.REG_STAT_P_DIP, F.REG_STAT_P_FENCE, F.REG_STAT_RATE_WIN, F.REG_STAT_MISS, F.REG_STAT_QOS_REJ])⟩,
  ⟨0x2010, [(4, 8)], (fun l => match l with
    | [c] =>
      [F.REG_BOUND_BOUND c]
    | _ => [])⟩,
  ⟨0x2034, [(4, 3)], (fun l => match l with
    | [c1] =>
      [F.REG_TARGET_TARGET c1]
    | _ => [])⟩,
  ⟨0x2040, [], (fun _ =>
    [F.REG_RMT_CH_RMT])⟩,
  ⟨0x2044, [], (fun _ =>
    [F.REG_REFUSE_BUSY_CNT, F.REG_REFUSE_RATE_CNT])⟩,
  ⟨0x2080, [(4, 16)], (fun l => match l with
    | [q] =>
      [F.REG_SPLIT_RD q, F.REG_SPLIT_WR q, F.REG_SPLIT_RM q]
    | _ => [])⟩,
  ⟨0x2050, [], (fun _ =>
    [F.REG_MISS_LOG_PART, F.REG_MISS_LOG_CLASS, F.REG_MISS_LOG_CAUSE, F.REG_MISS_LOG_TRACK, F.REG_MISS_LOG_REQ])⟩,
  ⟨0x2054, [], (fun _ =>
    [F.REG_MISS_CNT_MISS_CNT])⟩,
  ⟨0x2048, [], (fun _ =>
    [F.REG_MISS_TICK_LO_VAL])⟩,
  ⟨0x204c, [], (fun _ =>
    [F.REG_MISS_TICK_HI_VAL])⟩,
  ⟨0x2100, [(4, 27)], (fun l => match l with
    | [i] =>
      [F.REG_BOOST_BOOST i 0, F.REG_BOOST_BOOST i 1, F.REG_BOOST_BOOST i 2, F.REG_BOOST_BOOST i 3,
      F.REG_BOOST_BOOST i 4, F.REG_BOOST_BOOST i 5, F.REG_BOOST_BOOST i 6, F.REG_BOOST_BOOST i 7]
    | _ => [])⟩,
  ⟨0x2200, [], (fun _ =>
    [F.REG_CAL_SEL_BUCKET, F.REG_CAL_SEL_COARSE, F.REG_CAL_SEL_COUNTER])⟩]

/-- Register families, part 1. -/
def regFams1 : List RegFam := [
  ⟨0x2204, [], (fun _ =>
    [F.REG_CAL_DATA_CHARGE])⟩,
  ⟨0x8100, [(1024, 16)], (fun l => match l with
    | [n] =>
      [F.TRK_CAL_STAT_NOW n, F.TRK_CAL_STAT_PEAK n]
    | _ => [])⟩,
  ⟨0x8104, [(1024, 16)], (fun l => match l with
    | [n] =>
      [F.TRK_CAL_CNT_OVR n, F.TRK_CAL_CNT_REF n]
    | _ => [])⟩,
  ⟨0x4020, [(1024, 16)], (fun l => match l with
    | [n] =>
      [F.PART_QOS_SHARE n, F.PART_QOS_DL_RES n, F.PART_QOS_CLASS_EN n, F.PART_QOS_CLASS_EN7 n]
    | _ => [])⟩,
  ⟨0x4024, [(1024, 16)], (fun l => match l with
    | [n] =>
      [F.PART_MISS_MISS_CNT n, F.PART_MISS_SPREAD_CNT n]
    | _ => [])⟩,
  ⟨0x8200, [(1024, 16)], (fun l => match l with
    | [n] =>
      [F.TRK_XF_CTL_P4_IRQ_EN n]
    | _ => [])⟩,
  ⟨0x8204, [(1024, 16)], (fun l => match l with
    | [n] =>
      [F.TRK_XF_STAT_P4ERR n, F.TRK_XF_STAT_SAT n, F.TRK_XF_STAT_NAN n]
    | _ => [])⟩,
  ⟨0x8208, [(1024, 16)], (fun l => match l with
    | [n] =>
      [F.TRK_XF_P4_CNT_XF_P4_CNT n]
    | _ => [])⟩,
  ⟨0x820c, [(1024, 16)], (fun l => match l with
    | [n] =>
      [F.TRK_XF_SAT_CNT_XF_SAT_CNT n]
    | _ => [])⟩,
  ⟨0x8210, [(1024, 16)], (fun l => match l with
    | [n] =>
      [F.TRK_XF_NAN_CNT_XF_NAN_CNT n]
    | _ => [])⟩,
  ⟨0x8214, [(1024, 16)], (fun l => match l with
    | [n] =>
      [F.TRK_XF_P4_ADDR_REQ n, F.TRK_XF_P4_ADDR_SOURCE n, F.TRK_XF_P4_ADDR_ROW n, F.TRK_XF_P4_ADDR_BANK n]
    | _ => [])⟩,
  ⟨0x4030, [(1024, 16)], (fun l => match l with
    | [n] =>
      [F.PART_SR_KEY_LO_KEY_LO n]
    | _ => [])⟩,
  ⟨0x4034, [(1024, 16)], (fun l => match l with
    | [n] =>
      [F.PART_SR_KEY_HI_KEY_HI n]
    | _ => [])⟩,
  ⟨0x4038, [(1024, 16)], (fun l => match l with
    | [n] =>
      [F.PART_SR_STEP_STEP n]
    | _ => [])⟩,
  ⟨0x30000, [(16, 4096)], (fun l => match l with
    | [n] =>
      [F.BIB_CTL_VALID n, F.BIB_CTL_PLACE n, F.BIB_CTL_PART n, F.BIB_CTL_FORMAT n, F.BIB_CTL_LAYOUT n,
      F.BIB_CTL_SPREAD n, F.BIB_CTL_MIRROR n, F.BIB_CTL_CHAINED n, F.BIB_CTL_PIN n, F.BIB_CTL_NEXT n]
    | _ => [])⟩,
  ⟨0x30004, [(16, 4096)], (fun l => match l with
    | [n] =>
      [F.BIB_LOC_LOC n]
    | _ => [])⟩,
  ⟨0x30008, [(16, 4096)], (fun l => match l with
    | [n] =>
      [F.BIB_LEN_LEN n]
    | _ => [])⟩,
  ⟨0x3000c, [(16, 4096)], (fun l => match l with
    | [n] =>
      [F.BIB_AUX_MIRROR_G n]
    | _ => [])⟩,
  ⟨0x50, [], (fun _ =>
    [F.GLB_BIB_STAT_WR_IGN, F.GLB_BIB_STAT_NR, F.GLB_BIB_STAT_UE, F.GLB_BIB_STAT_LAST_BIB])⟩,
  ⟨0x54, [], (fun _ =>
    [F.GLB_BIB_CNT_NR_CNT, F.GLB_BIB_CNT_IGN_CNT])⟩,
  ⟨0x58, [], (fun _ =>
    [F.GLB_SB_STAT_USED, F.GLB_SB_STAT_PEAK, F.GLB_SB_STAT_SB_FULL])⟩,
  ⟨0x5c, [], (fun _ =>
    [F.GLB_SB_HOLD_HOLD_CNT])⟩,
  ⟨0x24000, [(128, 128)], (fun l => match l with
    | [n] =>
      [F.RLY_CTL_EN n, F.RLY_CTL_PART n, F.RLY_CTL_WAKE_EN n, F.RLY_CTL_WAKE_TGT n, F.RLY_CTL_ABORT_Q n,
      F.RLY_CTL_ABORT_Q_EN n]
    | _ => [])⟩,
  ⟨0x24004, [(128, 128)], (fun l => match l with
    | [n] =>
      [F.RLY_STAT_COUNT n, F.RLY_STAT_WAITING n]
    | _ => [])⟩,
  ⟨0x24008, [(128, 128)], (fun l => match l with
    | [n] =>
      [F.RLY_CNT_FULL_CNT n, F.RLY_CNT_LOST_CNT n]
    | _ => [])⟩,
  ⟨0x2400c, [(128, 128)], (fun l => match l with
    | [n] =>
      [F.RLY_PEEK_SEL_INDEX n]
    | _ => [])⟩,
  ⟨0x24010, [(128, 128)], (fun l => match l with
    | [n] =>
      [F.RLY_PEEK_BIB n, F.RLY_PEEK_ABORTED n, F.RLY_PEEK_PRESENT n]
    | _ => [])⟩,
  ⟨0x24014, [(128, 128)], (fun l => match l with
    | [n] =>
      [F.RLY_LOAD_BIB n]
    | _ => [])⟩,
  ⟨0x24018, [(128, 128)], (fun l => match l with
    | [n] =>
      [F.RLY_NOTIFY_PUSH_BATON n, F.RLY_NOTIFY_PUSH_SIG_EN n, F.RLY_NOTIFY_POP_BATON n, F.RLY_NOTIFY_POP_SIG_EN n]
    | _ => [])⟩,
  ⟨0x2401c, [(128, 128)], (fun l => match l with
    | [n] =>
      [F.RLY_CMD_FLUSH n]
    | _ => [])⟩,
  ⟨0x20000, [(1024, 16)], (fun l => match l with
    | [n] =>
      [F.PACER_CTL_EN n, F.PACER_CTL_GATE_EN n, F.PACER_CTL_ABORT_IRQ_EN n]
    | _ => [])⟩,
  ⟨0x20004, [(1024, 16)], (fun l => match l with
    | [n] =>
      [F.PACER_STAT_RUN n, F.PACER_STAT_ABORTED n, F.PACER_STAT_PM_IGN n, F.PACER_STAT_PM_PERR n,
      F.PACER_STAT_HINT_ACT n, F.PACER_STAT_GATED n]
    | _ => [])⟩,
  ⟨0x20008, [(1024, 16)], (fun l => match l with
    | [n] =>
      [F.PACER_PM_ADDR_ADDR n, F.PACER_PM_ADDR_AUTOINC n]
    | _ => [])⟩,
  ⟨0x2000c, [(1024, 16)], (fun l => match l with
    | [n] =>
      [F.PACER_PM_DATA_LO_LO n]
    | _ => [])⟩,
  ⟨0x20010, [(1024, 16)], (fun l => match l with
    | [n] =>
      [F.PACER_PM_DATA_HI_HI n]
    | _ => [])⟩,
  ⟨0x20014, [(1024, 16)], (fun l => match l with
    | [n] =>
      [F.PACER_CMD_ABORT n]
    | _ => [])⟩,
  ⟨0x20018, [(1024, 16)], (fun l => match l with
    | [n] =>
      [F.PACER_HINT_LO_DESC_LO n]
    | _ => [])⟩,
  ⟨0x2001c, [(1024, 16)], (fun l => match l with
    | [n] =>
      [F.PACER_HINT_HI_DESC_HI n]
    | _ => [])⟩,
  ⟨0x20020, [(1024, 16)], (fun l => match l with
    | [n] =>
      [F.PACER_CRD_ERR_CRD_ERR_CNT n]
    | _ => [])⟩,
  ⟨0x20040, [(1024, 16), (4, 8)], (fun l => match l with
    | [n, c] =>
      [F.PACER_STALL_CYCLES n c]
    | _ => [])⟩]

/-- Register families, part 2. -/
def regFams2 : List RegFam := [
  ⟨0x20100, [(1024, 16), (64, 4)], (fun l => match l with
    | [n, s] =>
      [F.PACER_S_STAT_STATE n s, F.PACER_S_STAT_PC n s, F.PACER_S_STAT_CAUSE n s, F.PACER_S_STAT_ABORT_PC n s,
      F.PACER_S_STAT_STAINED n s]
    | _ => [])⟩,
  ⟨0x20104, [(1024, 16), (64, 4)], (fun l => match l with
    | [n, s] =>
      [F.PACER_S_OWNER_PART n s, F.PACER_S_OWNER_CLASS n s, F.PACER_S_OWNER_LAUNCHER n s, F.PACER_S_OWNER_CONS n s,
      F.PACER_S_OWNER_CONS_EN n s]
    | _ => [])⟩,
  ⟨0x20108, [(1024, 16), (64, 4)], (fun l => match l with
    | [n, s] =>
      [F.PACER_S_CRED_AVAIL n s, F.PACER_S_CRED_LAST_COUNT n s]
    | _ => [])⟩,
  ⟨0x2010c, [(1024, 16), (64, 4)], (fun l => match l with
    | [n, s] =>
      [F.PACER_S_PUSHSEQ_SEQ n s]
    | _ => [])⟩,
  ⟨0x20110, [(1024, 16), (64, 4)], (fun l => match l with
    | [n, s] =>
      [F.PACER_S_MOVED_MOVED n s]
    | _ => [])⟩,
  ⟨0x20114, [(1024, 16), (64, 4)], (fun l => match l with
    | [n, s] =>
      [F.PACER_S_CUT_LO_CUT_LO n s]
    | _ => [])⟩,
  ⟨0x20118, [(1024, 16), (64, 4)], (fun l => match l with
    | [n, s] =>
      [F.PACER_S_CUT_HI_CUT_HI n s]
    | _ => [])⟩,
  ⟨0x2011c, [(1024, 16), (64, 4)], (fun l => match l with
    | [n, s] =>
      [F.PACER_S_REG_SEL_SEL n s]
    | _ => [])⟩,
  ⟨0x20120, [(1024, 16), (64, 4)], (fun l => match l with
    | [n, s] =>
      [F.PACER_S_REG_LO_VAL_LO n s]
    | _ => [])⟩,
  ⟨0x20124, [(1024, 16), (64, 4)], (fun l => match l with
    | [n, s] =>
      [F.PACER_S_REG_HI_VAL_HI n s]
    | _ => [])⟩,
  ⟨0x40000, [(8, 16384)], (fun l => match l with
    | [n] =>
      [F.BTN_CNT_COUNT n]
    | _ => [])⟩,
  ⟨0x40004, [(8, 16384)], (fun l => match l with
    | [n] =>
      [F.BTN_CTL_PART n, F.BTN_CTL_PARKED n, F.BTN_CTL_BROKEN n, F.BTN_CTL_WAITERS n]
    | _ => [])⟩,
  ⟨0x60000, [(16, 256)], (fun l => match l with
    | [n] =>
      [F.TAPE_CFG_EN n, F.TAPE_CFG_PART n, F.TAPE_CFG_ALIGN n, F.TAPE_CFG_EXPECT n, F.TAPE_CFG_NCHILD n]
    | _ => [])⟩,
  ⟨0x60004, [(16, 256)], (fun l => match l with
    | [n] =>
      [F.TAPE_LINK_PTAPE n, F.TAPE_LINK_PINST n, F.TAPE_LINK_PWAFER n, F.TAPE_LINK_PARENT_EN n,
      F.TAPE_LINK_ALIGN_DLY n]
    | _ => [])⟩,
  ⟨0x60008, [(16, 256)], (fun l => match l with
    | [n] =>
      [F.TAPE_STAT_STATE n, F.TAPE_STAT_ARRIVED n, F.TAPE_STAT_CHILD_ARR n, F.TAPE_STAT_FAULT_CAUSE n,
      F.TAPE_STAT_FORCE n]
    | _ => [])⟩,
  ⟨0x6000c, [(16, 256)], (fun l => match l with
    | [n] =>
      [F.TAPE_HEAT_HEAT n]
    | _ => [])⟩,
  ⟨0x60, [], (fun _ =>
    [F.GLB_SYNC_CTL_UE_IRQ_EN, F.GLB_SYNC_CTL_TAPE_IRQ_EN])⟩,
  ⟨0x64, [], (fun _ =>
    [F.GLB_SYNC_STAT_UE, F.GLB_SYNC_STAT_WAIT_OVF, F.GLB_SYNC_STAT_ARR_OVF, F.GLB_SYNC_STAT_TAPE_FLT,
      F.GLB_SYNC_STAT_NOT_APPLIED, F.GLB_SYNC_STAT_ALIGN_LATE, F.GLB_SYNC_STAT_WR_IGN,
      F.GLB_SYNC_STAT_LAST_BATON, F.GLB_SYNC_STAT_LAST_TAPE])⟩,
  ⟨0x68, [], (fun _ =>
    [F.GLB_SYNC_USE_WAITERS, F.GLB_SYNC_USE_ARRIVALS])⟩,
  ⟨0x6c, [], (fun _ =>
    [F.GLB_SYNC_CNT_NA_CNT, F.GLB_SYNC_CNT_CE_CNT])⟩,
  ⟨0x4040, [(1024, 16)], (fun l => match l with
    | [n] =>
      [F.PART_SYNC_SPIN n]
    | _ => [])⟩,
  ⟨0x4044, [(1024, 16)], (fun l => match l with
    | [n] =>
      [F.PART_SYNC_CNT_SPUN n, F.PART_SYNC_CNT_GATED n]
    | _ => [])⟩,
  ⟨0x4048, [(1024, 16)], (fun l => match l with
    | [n] =>
      [F.PART_SYNC_LAG_LAG n]
    | _ => [])⟩,
  ⟨0x10080, [(1024, 64)], (fun l => match l with
    | [n] =>
      [F.LANE_COMB_COMB_EN n, F.LANE_COMB_WIN n]
    | _ => [])⟩,
  ⟨0x10084, [(1024, 64)], (fun l => match l with
    | [n] =>
      [F.LANE_COMB_CNT_COMBINED n, F.LANE_COMB_CNT_WRBACK n]
    | _ => [])⟩,
  ⟨0x10088, [(1024, 64)], (fun l => match l with
    | [n] =>
      [F.LANE_ORD_CNT_HOLD_CNT n, F.LANE_ORD_CNT_ORD_FULL n]
    | _ => [])⟩,
  ⟨0x63000, [], (fun _ =>
    [F.SPL_CTL_EN, F.SPL_CTL_ERR_IRQ_EN])⟩,
  ⟨0x63004, [], (fun _ =>
    [F.SPL_STAT_ACTIVE, F.SPL_STAT_LATE, F.SPL_STAT_TIER_ERR, F.SPL_STAT_PAGE_STAIN, F.SPL_STAT_RING_ERR])⟩,
  ⟨0x63008, [], (fun _ =>
    [F.SPL_CNT_MOVES, F.SPL_CNT_REFUSED])⟩,
  ⟨0x6300c, [], (fun _ =>
    [F.SPL_ERR_CNT_LATE_CNT, F.SPL_ERR_CNT_PAGE_STAIN_CNT])⟩,
  ⟨0x63010, [], (fun _ =>
    [F.SPL_ERR_LOG_TIER, F.SPL_ERR_LOG_KIND, F.SPL_ERR_LOG_PART, F.SPL_ERR_LOG_BIB])⟩,
  ⟨0x63014, [], (fun _ =>
    [F.SPL_ERR_PAGE_PAGE])⟩,
  ⟨0x63020, [(16, 3)], (fun l => match l with
    | [t] =>
      [F.SPL_TIER_BASE_BASE t]
    | _ => [])⟩,
  ⟨0x63024, [(16, 3)], (fun l => match l with
    | [t] =>
      [F.SPL_TIER_PAGES_PAGES t]
    | _ => [])⟩,
  ⟨0x63028, [(16, 3)], (fun l => match l with
    | [t] =>
      [F.SPL_TIER_CFG_EN t, F.SPL_TIER_CFG_RATE t, F.SPL_TIER_CFG_ACCESS t, F.SPL_TIER_CFG_TMO t]
    | _ => [])⟩,
  ⟨0x63100, [(16, 16)], (fun l => match l with
    | [p] =>
      [F.SPL_RING_CFG_EN p, F.SPL_RING_CFG_BIB p]
    | _ => [])⟩,
  ⟨0x70300, [(16, 16)], (fun l => match l with
    | [p] =>
      [F.MSH_PR_CFG_EN p, F.MSH_PR_CFG_BIB p]
    | _ => [])⟩,
  ⟨0x63104, [(16, 16)], (fun l => match l with
    | [p] =>
      [F.SPL_RING_BATON_DOORBELL p, F.SPL_RING_BATON_DONE p]
    | _ => [])⟩,
  ⟨0x70304, [(16, 16)], (fun l => match l with
    | [p] =>
      [F.MSH_PR_BATON_DOORBELL p, F.MSH_PR_BATON_DONE p]
    | _ => [])⟩,
  ⟨0x63108, [(16, 16)], (fun l => match l with
    | [p] =>
      [F.SPL_RING_POS_TAKEN p, F.SPL_RING_POS_COMPLETED p]
    | _ => [])⟩]

/-- Register families, part 3. -/
def regFams3 : List RegFam := [
  ⟨0x70308, [(16, 16)], (fun l => match l with
    | [p] =>
      [F.MSH_PR_POS_TAKEN p, F.MSH_PR_POS_COMPLETED p]
    | _ => [])⟩,
  ⟨0x4050, [(1024, 16), (8, 3)], (fun l => match l with
    | [n, t] =>
      [F.PART_TIER_BASE_BASE n t]
    | _ => [])⟩,
  ⟨0x4054, [(1024, 16), (8, 3)], (fun l => match l with
    | [n, t] =>
      [F.PART_TIER_CNT_CNT n t]
    | _ => [])⟩,
  ⟨0x4068, [(1024, 16)], (fun l => match l with
    | [n] =>
      [F.PART_TIER_CTL_ORD0 n, F.PART_TIER_CTL_ORD1 n, F.PART_TIER_CTL_ORD2 n, F.PART_TIER_CTL_EPOCH n]
    | _ => [])⟩,
  ⟨0x61000, [], (fun _ =>
    [F.INT_CTL_SCRUB_EN, F.INT_CTL_LOG_CE, F.INT_CTL_HOLD, F.INT_CTL_IRQ_STAIN, F.INT_CTL_IRQ_FAULT,
      F.INT_CTL_IRQ_LOG])⟩,
  ⟨0x61004, [], (fun _ =>
    [F.INT_STAT_LOG_LOST, F.INT_STAT_LOG_PEND, F.INT_STAT_MIR_CONFLICT, F.INT_STAT_REP_OVF,
      F.INT_STAT_FLIP_ARMED, F.INT_STAT_BLEACH_PEND, F.INT_STAT_RD_UE, F.INT_STAT_SCRUB_WRAP])⟩,
  ⟨0x61008, [], (fun _ =>
    [F.INT_SCRUB_CTL_RATE])⟩,
  ⟨0x6100c, [], (fun _ =>
    [F.INT_SCRUB_POS_GRAN])⟩,
  ⟨0x61010, [], (fun _ =>
    [F.INT_SCRUB_CNT_PASSES, F.INT_SCRUB_CNT_DEFER])⟩,
  ⟨0x61014, [], (fun _ =>
    [F.INT_MIR_USE_LINES, F.INT_MIR_USE_REPQ])⟩,
  ⟨0x61018, [], (fun _ =>
    [F.INT_MIR_CNT_DIFF, F.INT_MIR_CNT_CONFLICT])⟩,
  ⟨0x61020, [], (fun _ =>
    [F.INT_FLIP_CTL_ARM, F.INT_FLIP_CTL_POINT, F.INT_FLIP_CTL_COUNT, F.INT_FLIP_CTL_PART, F.INT_FLIP_CTL_REQ,
      F.INT_FLIP_CTL_REQ_EN])⟩,
  ⟨0x61024, [], (fun _ =>
    [F.INT_FLIP_MASK_LO_MASK_LO])⟩,
  ⟨0x61028, [], (fun _ =>
    [F.INT_FLIP_MASK_HI_MASK_HI])⟩,
  ⟨0x61030, [], (fun _ =>
    [F.INT_BLEACH_CTL_RATE])⟩,
  ⟨0x61034, [], (fun _ =>
    [F.INT_BLEACH_STAT_PEND, F.INT_BLEACH_STAT_QUEUED])⟩,
  ⟨0x61038, [], (fun _ =>
    [F.INT_BLEACH_POS_GRAN, F.INT_BLEACH_POS_PART])⟩,
  ⟨0x61040, [], (fun _ =>
    [F.INT_LOG_CTL_RETRY, F.INT_LOG_CTL_GASP_CLR])⟩,
  ⟨0x61044, [], (fun _ =>
    [F.INT_LOG_PTR_HEAD, F.INT_LOG_PTR_TAIL])⟩,
  ⟨0x61048, [], (fun _ =>
    [F.INT_LOG_CNT_OVF_CNT, F.INT_LOG_CNT_LOST_CNT])⟩,
  ⟨0x6104c, [], (fun _ =>
    [F.INT_LOG_SEL_INDEX])⟩,
  ⟨0x61080, [], (fun _ =>
    [F.INT_GASP_STAT_USED])⟩,
  ⟨0x61050, [(4, 4)], (fun l => match l with
    | [w] =>
      [F.INT_LOG_DATA_DATA w]
    | _ => [])⟩,
  ⟨0x61100, [(16, 8), (4, 4)], (fun l => match l with
    | [i, w] =>
      [F.INT_GASP_WORD i w]
    | _ => [])⟩,
  ⟨0x4070, [(1024, 16)], (fun l => match l with
    | [n] =>
      [F.PART_INTEG_DELIVERED n, F.PART_INTEG_MADE n]
    | _ => [])⟩,
  ⟨0x62000, [], (fun _ =>
    [F.JNL_CTL_SHADOW_EN, F.JNL_CTL_IRQ_EN, F.JNL_CTL_FAILOVER])⟩,
  ⟨0x62004, [], (fun _ =>
    [F.JNL_STAT_FENCED, F.JNL_STAT_RECOVERING, F.JNL_STAT_SHADOW_LOST, F.JNL_STAT_PARTNER_LOST,
      F.JNL_STAT_JNL_FULL, F.JNL_STAT_DEDUP_FULL, F.JNL_STAT_ENTRY_LOST, F.JNL_STAT_CKPT_SLOT,
      F.JNL_STAT_QUEUED])⟩,
  ⟨0x62008, [], (fun _ =>
    [F.JNL_USE_DESC, F.JNL_USE_DEDUP])⟩,
  ⟨0x6200c, [], (fun _ =>
    [F.JNL_BUDDY_INST, F.JNL_BUDDY_WAFER, F.JNL_BUDDY_SET])⟩,
  ⟨0x62010, [], (fun _ =>
    [F.JNL_SHADOW_ROW, F.JNL_SHADOW_EN, F.JNL_SHADOW_PINST, F.JNL_SHADOW_PWAFER])⟩,
  ⟨0x62014, [], (fun _ =>
    [F.JNL_HB_HB_TMO, F.JNL_HB_CKPT_MAX])⟩,
  ⟨0x62018, [], (fun _ =>
    [F.JNL_CKPT_GEN])⟩,
  ⟨0x6201c, [], (fun _ =>
    [F.JNL_CKPT_CMD_START, F.JNL_CKPT_CMD_BUSY, F.JNL_CKPT_CMD_SRC_KB, F.JNL_CKPT_CMD_LEN_KB])⟩,
  ⟨0x62020, [], (fun _ =>
    [F.JNL_FAULT_CLASS, F.JNL_FAULT_INDEX])⟩,
  ⟨0x62024, [], (fun _ =>
    [F.JNL_CNT_REPLAYED, F.JNL_CNT_ABANDONED])⟩,
  ⟨0x62028, [], (fun _ =>
    [F.JNL_DIP_DIP_CNT, F.JNL_DIP_FAULT_CNT])⟩,
  ⟨0x6202c, [], (fun _ =>
    [F.JNL_SEQ_SEQ])⟩,
  ⟨0x62030, [], (fun _ =>
    [F.JNL_FAIL_PACER, F.JNL_FAIL_LINK, F.JNL_FAIL_BANK, F.JNL_FAIL_BANK_V])⟩,
  ⟨0x62034, [], (fun _ =>
    [F.JNL_FAIL_LANE_LO_LANE_LO])⟩,
  ⟨0x62038, [], (fun _ =>
    [F.JNL_FAIL_LANE_HI_LANE_HI])⟩]

/-- Register families, part 4. -/
def regFams4 : List RegFam := [
  ⟨0x70000, [], (fun _ =>
    [F.MSH_STAT_ACTIVE, F.MSH_STAT_STBY_OK, F.MSH_STAT_M0_FAIL, F.MSH_STAT_M1_FAIL])⟩,
  ⟨0x70004, [], (fun _ =>
    [F.MSH_SITE_FIELD, F.MSH_SITE_SITE, F.MSH_SITE_INDEX])⟩,
  ⟨0x70008, [], (fun _ =>
    [F.MSH_BOOT_STAGE, F.MSH_BOOT_SLOT, F.MSH_BOOT_BAD, F.MSH_BOOT_CAUSE, F.MSH_BOOT_PASSES,
      F.MSH_BOOT_SLOT_WAIT, F.MSH_BOOT_OTP_BAD])⟩,
  ⟨0x7000c, [], (fun _ =>
    [F.MSH_IMG_IMG_SEQ])⟩,
  ⟨0x70010, [], (fun _ =>
    [F.MSH_ARB_IMG_ARB, F.MSH_ARB_OTP_ARB])⟩,
  ⟨0x70014, [], (fun _ =>
    [F.MSH_OTP_GEN, F.MSH_OTP_BLANK, F.MSH_OTP_VALID, F.MSH_OTP_CONFIRMED, F.MSH_OTP_BURNING])⟩,
  ⟨0x70100, [(4, 32)], (fun l => match l with
    | [w] =>
      [F.MSH_OTP_SH_SHADOW w]
    | _ => [])⟩,
  ⟨0x70180, [(4, 32)], (fun l => match l with
    | [w] =>
      [F.MSH_OTP_STG_STAGE w]
    | _ => [])⟩,
  ⟨0x70200, [(128, 2), (4, 16)], (fun l => match l with
    | [m, w] =>
      [F.MSH_MB_W_WORD m w]
    | _ => [])⟩,
  ⟨0x70240, [(128, 2), (4, 4)], (fun l => match l with
    | [m, w] =>
      [F.MSH_MB_R_WORD m w]
    | _ => [])⟩,
  ⟨0x70250, [(128, 2)], (fun l => match l with
    | [m] =>
      [F.MSH_MB_CTL_GO m, F.MSH_MB_CTL_BUSY m, F.MSH_MB_CTL_DONE m, F.MSH_MB_CTL_OVR m, F.MSH_MB_CTL_IRQ_EN m]
    | _ => [])⟩,
  ⟨0x4004, [(1024, 16)], (fun l => match l with
    | [n] =>
      [F.PART_STAT_STATE n, F.PART_STAT_WR_IGN n, F.PART_STAT_CREATE_REJ n, F.PART_STAT_LAST_CAUSE n]
    | _ => [])⟩,
  ⟨0x200, [], (fun _ =>
    [F.GLB_RC_STAT_STEP, F.GLB_RC_STAT_CAPTAIN, F.GLB_RC_STAT_STATUS, F.GLB_RC_STAT_CAPT_IDX,
      F.GLB_RC_STAT_NOT_READY])⟩,
  ⟨0x204, [], (fun _ =>
    [F.GLB_RC_NBR_NBR  0, F.GLB_RC_NBR_NBR  1, F.GLB_RC_NBR_NBR  2, F.GLB_RC_NBR_NBR  3, F.GLB_RC_NBR_DONE])⟩,
  ⟨0x400, [(64, 24), (4, 16)], (fun l => match l with
    | [w, j] =>
      [F.GLB_SYS_ROW w j]
    | _ => [])⟩,
  ⟨0x1040, [], (fun _ =>
    [F.CPM_CLK_STAT_REF_READY, F.CPM_CLK_STAT_ON_PLL, F.CPM_CLK_STAT_ACT_PLL, F.CPM_CLK_STAT_LOCK_A,
      F.CPM_CLK_STAT_LOCK_B, F.CPM_CLK_STAT_SAFE, F.CPM_CLK_STAT_ALT_REF, F.CPM_CLK_STAT_REF_FAIL,
      F.CPM_CLK_STAT_PLL_UNDER, F.CPM_CLK_STAT_PLL_OVER, F.CPM_CLK_STAT_PLL_UNLOCK, F.CPM_CLK_STAT_RC_FAIL,
      F.CPM_CLK_STAT_UNCLEAN, F.CPM_CLK_STAT_STEP_LATE])⟩,
  ⟨0x1044, [], (fun _ =>
    [F.CPM_CLK_CTL_ALT_REF_EN, F.CPM_CLK_CTL_CLK_IRQ_EN, F.CPM_CLK_CTL_INIT_STEP])⟩,
  ⟨0x1048, [], (fun _ =>
    [F.CPM_FM_CTL_START, F.CPM_FM_CTL_DONE, F.CPM_FM_CTL_TARGET, F.CPM_FM_CTL_GATE])⟩,
  ⟨0x104c, [], (fun _ =>
    [F.CPM_FM_CNT_COUNT])⟩,
  ⟨0x1050, [], (fun _ =>
    [F.CPM_STEP_CUR_STEP, F.CPM_STEP_PEND_STEP, F.CPM_STEP_VREQ_CUR, F.CPM_STEP_VREQ_HI])⟩,
  ⟨0x1054, [], (fun _ =>
    [F.CPM_PWR_STAT_STATE, F.CPM_PWR_STAT_DOZE_REJ])⟩,
  ⟨0x1058, [], (fun _ =>
    [F.CPM_PWR_CTL_DOZE_TMO])⟩,
  ⟨0x1080, [], (fun _ =>
    [F.CPM_AON_WAKE_WAKE, F.CPM_AON_WAKE_STEP])⟩,
  ⟨0x1084, [], (fun _ =>
    [F.CPM_AON_WAKE_EN_TMR_EN, F.CPM_AON_WAKE_EN_LANE_EN, F.CPM_AON_WAKE_EN_THERM_EN,
      F.CPM_AON_WAKE_EN_DEBUG_EN])⟩,
  ⟨0x1088, [], (fun _ =>
    [F.CPM_AON_TMR_PERIODS])⟩,
  ⟨0x108c, [], (fun _ =>
    [F.CPM_AON_LAST_SOURCE, F.CPM_AON_LAST_LANE, F.CPM_AON_LAST_LINK, F.CPM_AON_LAST_RAILS_OFF,
      F.CPM_AON_LAST_RET_LOST])⟩,
  ⟨0x1090, [], (fun _ =>
    [F.CPM_AON_STAT_AON_STATE, F.CPM_AON_STAT_PWR_REQ, F.CPM_AON_STAT_RET_LOST, F.CPM_AON_STAT_LDO_LIM])⟩,
  ⟨0x1094, [], (fun _ =>
    [F.CPM_AON_VRET_VRET_SEL, F.CPM_AON_VRET_TRIM])⟩,
  ⟨0x1098, [], (fun _ =>
    [F.CPM_AON_CNT_WAKES, F.CPM_AON_CNT_BROWNOUTS])⟩,
  ⟨0x1100, [(4, 8)], (fun l => match l with
    | [s] =>
      [F.CPM_TEMP_TEMP s, F.CPM_TEMP_VALID s]
    | _ => [])⟩,
  ⟨0x1120, [], (fun _ =>
    [F.CPM_THERM_STAT_TJ_MAX, F.CPM_THERM_STAT_HOT, F.CPM_THERM_STAT_TWARN, F.CPM_THERM_STAT_THROT_REQ,
      F.CPM_THERM_STAT_TRIPPED, F.CPM_THERM_STAT_SENS_BAD])⟩,
  ⟨0x1124, [], (fun _ =>
    [F.CPM_THERM_CTL_THERM_IRQ_EN, F.CPM_THERM_CTL_TRIP_STEP, F.CPM_THERM_CTL_BOOST_TJ])⟩,
  ⟨0x1130, [(4, 4)], (fun l => match l with
    | [m] =>
      [F.CPM_VMON_MV m]
    | _ => [])⟩,
  ⟨0x1140, [], (fun _ =>
    [F.CPM_SUP_BELOW_WARN, F.CPM_SUP_DIP, F.CPM_SUP_RAIL, F.CPM_SUP_SUP_IRQ_EN])⟩,
  ⟨0x1150, [(4, 8)], (fun l => match l with
    | [p] =>
      [F.CPM_PMON_COUNT p]
    | _ => [])⟩,
  ⟨0x1170, [], (fun _ =>
    [F.CPM_EST_CTL_PWR_LIMIT, F.CPM_EST_CTL_LIMIT_IRQ_EN, F.CPM_EST_CTL_CAL_RESET])⟩,
  ⟨0x1174, [], (fun _ =>
    [F.CPM_EST_STAT_P_AVG, F.CPM_EST_STAT_CAL, F.CPM_EST_STAT_BIN, F.CPM_EST_STAT_GUARD,
      F.CPM_EST_STAT_OVER_LIMIT, F.CPM_EST_STAT_GUARD_CNT])⟩,
  ⟨0x1178, [(4, 4)], (fun l => match l with
    | [b] =>
      [F.CPM_EST_K_K b, F.CPM_EST_K_WINDOWS b]
    | _ => [])⟩,
  ⟨0x1188, [], (fun _ =>
    [F.CPM_ISENSE_IA])⟩,
  ⟨0x118c, [], (fun _ =>
    [F.CPM_EST_HINT_P_HINT])⟩]

/-- Register families, part 5. -/
def regFams5 : List RegFam := [
  ⟨0x1190, [], (fun _ =>
    [F.CPM_PWR_MODE_CAP, F.CPM_PWR_MODE_FIXED, F.CPM_PWR_MODE_BOOST_EN, F.CPM_PWR_MODE_BOOST_ACT])⟩,
  ⟨0x1194, [], (fun _ =>
    [F.CPM_MON_STAT_LAST_SWEEP, F.CPM_MON_STAT_NO_TOKEN])⟩,
  ⟨0x11a0, [(4, 8)], (fun l => match l with
    | [c] =>
      [F.CPM_EST_COEF_COEF c]
    | _ => [])⟩,
  ⟨0x11c0, [], (fun _ =>
    [F.CPM_ENERGY_LO_E_LO])⟩,
  ⟨0x11c4, [], (fun _ =>
    [F.CPM_ENERGY_HI_E_HI])⟩,
  ⟨0x11c8, [(8, 8)], (fun l => match l with
    | [c] =>
      [F.CPM_ECLASS_LO_E_LO c]
    | _ => [])⟩,
  ⟨0x11cc, [(8, 8)], (fun l => match l with
    | [c] =>
      [F.CPM_ECLASS_HI_E_HI c]
    | _ => [])⟩,
  ⟨0x4080, [(1024, 16)], (fun l => match l with
    | [n] =>
      [F.PART_ENERGY_LO_E_LO n]
    | _ => [])⟩,
  ⟨0x4084, [(1024, 16)], (fun l => match l with
    | [n] =>
      [F.PART_ENERGY_HI_E_HI n]
    | _ => [])⟩,
  ⟨0x10, [], (fun _ =>
    [F.GLB_RST_CAUSE_CAUSE, F.GLB_RST_CAUSE_PREV, F.GLB_RST_CAUSE_COUNT, F.GLB_RST_CAUSE_IGNORED])⟩,
  ⟨0x14, [], (fun _ =>
    [F.GLB_RST_CMD_WARM, F.GLB_RST_CMD_COLD])⟩,
  ⟨0x18, [], (fun _ =>
    [F.GLB_SHDN_STAT_SHDN_ACT, F.GLB_SHDN_STAT_SOURCE, F.GLB_SHDN_STAT_HANDED_OFF, F.GLB_SHDN_STAT_ABORTED])⟩,
  ⟨0x28000, [], (fun _ =>
    [F.CTR_CTL_EN, F.CTR_CTL_FREEZE, F.CTR_CTL_CLEAR, F.CTR_CTL_SAMPLE_EN, F.CTR_CTL_OVF_IRQ_EN])⟩,
  ⟨0x28004, [], (fun _ =>
    [F.CTR_OVF_OVF])⟩,
  ⟨0x28008, [], (fun _ =>
    [F.CTR_TD_CTL_EN, F.CTR_TD_CTL_SNAP, F.CTR_TD_CTL_CLEAR])⟩,
  ⟨0x28100, [(16, 32)], (fun l => match l with
    | [i] =>
      [F.CTR_SEL_EVENT i, F.CTR_SEL_PART i, F.CTR_SEL_PART_EN i, F.CTR_SEL_UNIT i, F.CTR_SEL_UNIT_EN i,
      F.CTR_SEL_CLASS_MASK i]
    | _ => [])⟩,
  ⟨0x28104, [(16, 32)], (fun l => match l with
    | [i] =>
      [F.CTR_LO_CNT_LO i]
    | _ => [])⟩,
  ⟨0x28108, [(16, 32)], (fun l => match l with
    | [i] =>
      [F.CTR_HI_CNT_HI i]
    | _ => [])⟩,
  ⟨0x2810c, [(16, 32)], (fun l => match l with
    | [i] =>
      [F.CTR_PERIOD_PERIOD i]
    | _ => [])⟩,
  ⟨0x28800, [(64, 16), (8, 7)], (fun l => match l with
    | [n, c] =>
      [F.CTR_TD_LO_SLOTS_LO n c]
    | _ => [])⟩,
  ⟨0x28804, [(64, 16), (8, 7)], (fun l => match l with
    | [n, c] =>
      [F.CTR_TD_HI_SLOTS_HI n c]
    | _ => [])⟩,
  ⟨0x28400, [], (fun _ =>
    [F.TRC_CTL_EN, F.TRC_CTL_MODE, F.TRC_CTL_REQ_EN, F.TRC_CTL_LOG_COPY, F.TRC_CTL_STEP_EN, F.TRC_CTL_DBG_MARK,
      F.TRC_CTL_IRQ_EN, F.TRC_CTL_CLEAR])⟩,
  ⟨0x28404, [], (fun _ =>
    [F.TRC_STAT_FULL, F.TRC_STAT_DROP, F.TRC_STAT_WRAPPED, F.TRC_STAT_QUEUE])⟩,
  ⟨0x28408, [], (fun _ =>
    [F.TRC_PTR_HEAD, F.TRC_PTR_COUNT])⟩,
  ⟨0x2840c, [], (fun _ =>
    [F.TRC_SEL_INDEX])⟩,
  ⟨0x28410, [], (fun _ =>
    [F.TRC_FILT_PART, F.TRC_FILT_PART_EN, F.TRC_FILT_REQ, F.TRC_FILT_REQ_EN, F.TRC_FILT_CODE_MASK,
      F.TRC_FILT_MISS_ONLY])⟩,
  ⟨0x28414, [], (fun _ =>
    [F.TRC_MARK_VALUE])⟩,
  ⟨0x28418, [], (fun _ =>
    [F.TRC_CNT_LOST_CNT])⟩,
  ⟨0x28420, [(4, 8)], (fun l => match l with
    | [w] =>
      [F.TRC_DATA_DATA w]
    | _ => [])⟩,
  ⟨0x20, [], (fun _ =>
    [F.GLB_DBG_CTL_CSR_EN, F.GLB_DBG_CTL_MEM_EN, F.GLB_DBG_CTL_LOCK])⟩,
  ⟨0x24, [], (fun _ =>
    [F.GLB_DBG_STAT_DBG_REFUSED, F.GLB_DBG_STAT_DBG_OVR, F.GLB_DBG_STAT_ACTIVE, F.GLB_DBG_STAT_DBG_BLEACH])⟩,
  ⟨0x0, [], (fun _ =>
    [F.GLB_ID_MEMBER, F.GLB_ID_LEVEL, F.GLB_ID_VENDOR])⟩,
  ⟨0x30, [], (fun _ =>
    [F.GLB_IRQ_STAT_PEND])⟩,
  ⟨0x34, [], (fun _ =>
    [F.GLB_IRQ_DEST_TO_SUP, F.GLB_IRQ_DEST_TO_MSH])⟩,
  ⟨0x64000, [], (fun _ =>
    [F.MESH_CTL_WILGUS_EN, F.MESH_CTL_W_LINKS])⟩,
  ⟨0x64004, [], (fun _ =>
    [F.MESH_STAT_UP, F.MESH_STAT_DATA_OFF])⟩,
  ⟨0x64010, [(4, 4)], (fun l => match l with
    | [k] =>
      [F.MESH_LINK_CNT_CRC_CNT k, F.MESH_LINK_CNT_RESEND_CNT k]
    | _ => [])⟩,
  ⟨0x1000, [], (fun _ =>
    [F.CPM_CAD_LO_VAL])⟩,
  ⟨0x1004, [], (fun _ =>
    [F.CPM_CAD_HI_VAL])⟩,
  ⟨0x1024, [], (fun _ =>
    [F.CPM_ANN_TICK_LO_VAL])⟩]

/-- Register families, part 6. -/
def regFams6 : List RegFam := [
  ⟨0x1028, [], (fun _ =>
    [F.CPM_ANN_TICK_HI_VAL])⟩,
  ⟨0x102c, [], (fun _ =>
    [F.CPM_SLEEP_ENTRY_LO_VAL])⟩,
  ⟨0x1030, [], (fun _ =>
    [F.CPM_SLEEP_ENTRY_HI_VAL])⟩,
  ⟨0x1034, [], (fun _ =>
    [F.CPM_SLEEP_TICKS_LO_VAL])⟩,
  ⟨0x1038, [], (fun _ =>
    [F.CPM_SLEEP_TICKS_HI_VAL])⟩,
  ⟨0x103c, [], (fun _ =>
    [F.CPM_JUMP_TICKS_VAL])⟩]

/-- Every register family of the control space. -/
def regFams : List RegFam :=
  regFams0 ++ regFams1 ++ regFams2 ++ regFams3 ++ regFams4 ++ regFams5 ++ regFams6

/-- The fields of the register at an offset: none where the spec lists no register there (R13). -/
def fieldsAt (off : Nat) : List Fld :=
  (regFams.findSome? (fun f =>
    if off < f.base then none else (regIdx f.dims (off - f.base)).map f.flds)).getD []

end Sys2Proof.Machine
end

