-- ==== Sys2Proof/Machine/State.lean ====
section
/-! DEFINITION. The state of one Elras-64 instance as plain data, the reasons a step can stop, and the state after
reset. Register fields that only hold a value live in `regs` (see Regs.lean); everything with more structure has a
field of its own. INVENTORY.md lists every one with its rule and its reset value. -/

namespace Sys2Proof.Machine

/-- Reasons a step stops with a fault. No command of the table raises one: every command of the spec has an effect. -/
inductive Fault
  /-- A state that no rule describes. Nothing raises it; it would be safe, since the run then stops. -/
  | deadState
deriving DecidableEq, Repr

/-- Reasons for a refusal. -/
inductive Refusal
  /-- A command without a meaning yet, rejected by name; only arms of `exec` raise it. Safe: nothing can be proved of
  what such a command does. -/
  | notModelled (mnemonic : String)
deriving DecidableEq, Repr

/-- The granule states of R102. -/
inductive GState
  | unwritten | clean | stained | lost
deriving DecidableEq, Repr

/-- The lock states of the cadence unit (R64). -/
inductive CadState
  | unlocked | acquiring | locked | holdover
deriving DecidableEq, Repr

/-- A pending announcement (R53, R58). -/
structure Ann where
  step : Nat
  id : Nat
  tick : Nat
deriving DecidableEq, Repr

/-- What the cadence unit keeps of a link (R39, R42, R44): the mark edge of its last valid count frame in the local count,
and in the ticks that have passed, its HOP and count, and whether the frequency meter's channel 0 has measured its
reference within ±200 ppm for 2,000 ticks (R42, R677). -/
structure LinkRec where
  mark : Nat
  passed : Nat
  hop : Nat
  count : Nat
  ok : Bool
deriving DecidableEq, Repr

/-- The cadence unit (R34 to R68). `passed`: the ticks that have passed, which the steps and the slow advances of the count
leave alone. `loaded`: the count loaded by the first frame of a lock attempt (R42). `slow`: the
ticks that a slow advance still has to lose (R49, R807), `phase`: ticks of the current reference period.
`links`: per link its last valid count frame. `cycles`, `cycFrac`, `left`: array cycles that have passed, the part of one
that the present tick has begun, and those still to come in it. -/
structure Cadence where
  count : Nat
  st : CadState
  src : Nat
  hop : Nat
  refOk : Bool
  loaded : Option Nat
  slow : Nat
  phase : Nat
  links : Sparse LinkRec
  passed : Nat
  holdEntry : Nat
  ann : Option Ann
  sleepPend : Bool
  cycles : Nat
  cycFrac : Nat
  left : Nat
deriving DecidableEq, Repr

/-- A step change that is due (R684): the step it goes to (8 is Boost), its cause (R778: 0 announcement, 1 trip, 2
PWR_STEP_SET, 3 Boost), the tick at which a switch may first come, whether it has calendar effect (R685), and whether it
waits for its rails (R686). -/
structure StepReq where
  step : Nat
  cause : Nat
  tick : Nat
  cal : Bool
  late : Bool
deriving DecidableEq, Repr

/-- A wake under way, or a wake request (R697): its source, lane, link and step. -/
structure WakeReq where
  src : Nat
  lane : Nat
  link : Nat
  step : Nat
deriving DecidableEq, Repr

/-- The clock, power and supply units (R674 to R717). `div`: the divider of a trip (R719); `stopped`: a thermal shutdown
(R721); `safeAt`: the tick of entering SAFE; `safeExit`: that of leaving it, plus one; `refUsable`: a reference came back in SAFE; `wakeSeq`: SEQ of the last wake
pattern forwarded; `supReturn`: the tick at which the rails returned above warning; `dozeBy`: the end of the drain of a
Doze; `tokenAt`: the tick of the last monitor token; `rails`, `vaon`: the supplies are applied; `railsOff`: they were removed
in this Doze; `powerOk`: a supply reset holds the instance while it is false; `dipFrom`: the tick at which a dip began;
`fmRun`: a channel-1 measurement runs (R677); `retune`: the standby retunes to Boost (R741);
`dozePrior`: the state before the drain of a Doze; `safeDead`: SAFE lasts until a reset (R681). -/
structure Clocks where
  sw : Option StepReq
  div : Nat
  stopped : Bool
  safeAt : Nat
  safeExit : Nat
  refUsable : Bool
  wake : Option WakeReq
  wakeSeq : Option Nat
  supReturn : Option Nat
  dipFrom : Nat
  dozeBy : Nat
  tokenAt : Nat
  rails : Bool
  railsOff : Bool
  vaon : Bool
  powerOk : Bool
  fmRun : Bool
  retune : Bool
  dozePrior : Nat
  safeDead : Bool
deriving DecidableEq, Repr

/-- The estimator (R729 to R735), energies in units of 0.1 pJ: E of the windows that P_AVG covers, newest first; whether a
switch, SAFE, a dip pause or a trip fell within the window; the remainders of the energy counters (0 the instance, 1 + c a
class, 16 + p a partition); the array cycles at the last close, and the last window's index. -/
structure Est where
  hist : List Nat
  taint : Bool
  rem : Sparse Nat
  cyc0 : Nat
  win : Nat
deriving DecidableEq, Repr

/-- Roll-call (R660 to R665): the last 100 µs interval with a HELLO, per link the tick plus one from which its neighbour has
sent only BOOTING, the site statuses heard, the tick plus one at which step 1 ended, the roll-call of the sites is over, and
the STATUS that the active marshal wrote with the own status at that time (R93); a bank has failed since the last cold start
(R604). -/
structure Roll where
  sent : Nat
  booting : Sparse Nat
  heard : Sparse Nat
  step1 : Nat
  closed : Bool
  shown : Option (Nat × Nat)
  bankBad : Bool
deriving DecidableEq, Repr

/-- The boot stream (R623 to R638): the slot records of the pass's directory, whether the pass streams the selected slot, a
block of the pass was missed, the image bytes taken so far, whether a slot is selected, and whether the role map leaves
the site unused (R634). -/
structure BootS where
  dir : List Nat
  on : Bool
  gap : Bool
  img : List Byte
  sel : Bool
  unused : Bool
deriving DecidableEq, Repr

/-- The IEEE 1500 wrapper (R783 to R788): the loaded instruction, the data register last captured, and CODE and DATA of the
last CSR access. -/
structure Wrap where
  wir : Nat
  dr : Nat
  csr : Option (Nat × Nat)
deriving DecidableEq, Repr

/-- A decoded request header (R143). -/
structure Hdr where
  op : Nat
  cls : Nat
  part : Nat
  tag : Nat
  core : Nat
  engine : Nat
  retry : Bool
  dlAbs : Bool
  spread : Nat
  bib : Bool
  size : Nat
  mod : Nat
  addr : Nat
  deadline : Nat
  arg : Nat
  attBaton : Nat
  attAdd : Nat
  attEn : Bool
  stainMap : Nat
deriving DecidableEq, Repr

/-- Who issued a request or an access (R138); `combine` is the write-back of R483. -/
inductive Origin
  | lane (lane ch : Nat)
  | mesh (link owafer oinst oreq : Nat)
  | combine (lane core slot : Nat)
  | pacer (q st : Nat)
  | spill (p : Nat)
  | marshal
  | debug
  | scrub
deriving DecidableEq, Repr

/-- Where a request stands (R16). `held`: at the hold point (R473); `shadow`: charged, its journal entry's OPEN header not
yet acknowledged by the buddy (R579); `admitted`: accepted, not released (R257);
`stage3`: at the scoreboard (R354); `access`: stages 4 and 5; `signal`: every granule committed, its attached signal
not yet applied (R436); `remote`: sent to another instance; `waiting`: a wait, an arrival, a waiting push, a task or a
fence, which another event answers. -/
inductive Stage
  | held | shadow | admitted | stage3 | access | signal | remote | waiting
deriving DecidableEq, Repr

/-- The bucket a request is charged to (R254); `task`: the window of a pacer task (R265). -/
inductive Place
  | free
  | fine (b : Nat)
  | coarse (k : Nat)
  | task (b n : Nat)
deriving DecidableEq, Repr

/-- One access to one granule: the granule, the index of its data beat, the copy (1: the mirror copy), the burst it
belongs to, the data and byte enables it writes, the stain flag it carries, the array cycle in which it was presented,
whether it has committed, the state that a fill gives the granule (R499), and the bytes of the data whose parity did not
match where they were read, which travels on unchanged (R101, R808). -/
structure GAcc where
  gran : Nat
  k : Nat
  copy : Nat
  burst : Nat
  data : Beat
  be : Nat
  st : Bool
  at_ : Nat
  done : Bool
  fset : Option GState
  pm : Nat
deriving DecidableEq, Repr

/-- What a read access delivered: the granule, the index of its data beat, the copy, the bytes, whether they are stained,
the bytes that mismatched at P3, whether it mismatched at P4, the bytes that mismatch at P6, whether the granule was
intact (R545), and its V bit. -/
structure GRes where
  gran : Nat
  k : Nat
  copy : Nat
  data : Beat
  st : Bool
  p3 : Nat
  p4 : Bool
  p6 : Nat
  intact : Bool
  v : Bool
deriving DecidableEq, Repr

/-- Where the data of a pacer's MOV goes (R388): a push, a write-type request of the stream, or a remote WRITE. -/
inductive Sink
  | none | push | write (rid : Nat) | remote (addr : Nat)
deriving DecidableEq, Repr

/-- A request from the hold point to its answer. `base`: the instance byte offset of its first byte (R342); `mirror`: the
instance byte offset of the same byte in the mirror copy; `bib`: the bib it resolved through; `order`: its place of
arrival at stage 3 (R355); `key`, `step`: R316; `verdict`: the code and VALUE that a write is answered with (R439, R604); `sink`: what a pacer's read feeds; `needs`: the read whose
data a pacer's write still waits for; `aux`: what a move's or a marshal's access serves. -/
structure Request where
  id : Nat
  org : Origin
  h : Hdr
  beats : List Beat
  trx : Nat
  adm : Nat
  promise : Nat
  place : Place
  bucket : Nat
  factor : Nat
  stage : Stage
  isRemote : Bool
  base : Nat
  mirror : Option Nat
  bib : Option Nat
  accs : List GAcc
  res : List GRes
  order : Nat
  verdict : Nat × Nat
  key : Nat
  step : Nat
  value : Nat
  vst : Bool
  counted : Bool
  kill : Bool
  sink : Sink
  needs : Option Nat
  aux : List Nat
deriving DecidableEq, Repr

/-- A track input that a burst holds (R198, R206): the track, the input, the burst, the effective priority carried to
level 2 (R204), the array cycle in which its present head arrived, and the array cycle plus one in which it last passed a
granule request (R198). -/
structure TInput where
  track : Nat
  n : Nat
  rid : Nat
  burst : Nat
  prio : Nat
  since : Nat
  passed : Nat
deriving DecidableEq, Repr

/-- An entry of a track's return buffer (R208): the request and requester it goes to, the track, the effective priority
carried to level 2, the array cycle in which it entered, and what a read access delivers (none: the old word of an
atomic). -/
structure RetEnt where
  rid : Nat
  q : Nat
  track : Nat
  prio : Nat
  since : Nat
  x : Option GRes
deriving DecidableEq, Repr

/-- The concourse (R194 to R213). `ret`: the return buffers, oldest first; `ports`: per port (track * 64 + port) the array
cycle plus one of its last grant; `rsv`: the reserved entries (R207), port and array cycle; `served`: the stream that each
pacer served last (R375); `sigs`: the signals that relay queues made in this array cycle, baton and partition (R366, R803). -/
structure Conc where
  ret : List RetEnt
  ports : Sparse Nat
  rsv : List (Nat × Nat)
  served : Sparse Nat
  sigs : List (Nat × Nat)
deriving DecidableEq, Repr

/-- A move descriptor that the spill engine holds (R505, R508): ring, entry index, the descriptor and T_rx. -/
structure MvDesc where
  p : Nat
  idx : Nat
  word : Nat
  trx : Nat
deriving DecidableEq, Repr

/-- An admitted move (R509 to R520): ring, entry, the kind, the descriptor, its promised completion, its window and the
charge `c` of each bucket; its bibs with the tier, the first tier page and the first Elras granule of each; the bibs still
held; the pages not yet acknowledged or not yet committed, and those sent or delivered, by bib and page; the bibs completed,
the granules moved stained, the failure (cause and bib), and whether it has ended. -/
structure Move where
  id : Nat
  p : Nat
  idx : Nat
  kind : Nat
  word : Nat
  promised : Nat
  start : Nat
  n : Nat
  c : Nat
  bibs : List Nat
  tl : List Nat
  pg : List Nat
  gb : List Nat
  held : List Nat
  pend : List (Nat × Nat)
  got : List (Nat × Nat)
  done : Nat
  stain : Nat
  fail : Option (Nat × Nat)
  ended : Bool
deriving DecidableEq, Repr

/-- A page on its way to the tier (R497, R498): move, bib index, page, the V and S bits and the granules read so far. -/
structure PageOut where
  mv : Nat
  bi : Nat
  page : Nat
  v : Nat
  sb : Nat
  data : Sparse Nat
deriving DecidableEq, Repr

/-- A handle in a relay queue: the bib, the ABORTED mark, and the pacer task that pushed it (R368). -/
structure Handle where
  bib : Nat
  aborted : Bool
  task : Option Nat
deriving DecidableEq, Repr

/-- A page of a chain that a walk has reached (R347): its bib, the chain offset of its first byte, the links followed. -/
structure Page where
  bib : Nat
  start : Nat
  links : Nat
deriving DecidableEq, Repr

/-- The source or the sink that a stream's MOVs use (R388). -/
structure PMode where
  mode : Nat
  bib : Nat
  xf : Nat
  sfmt : Nat
deriving DecidableEq, Repr

/-- A push on its way (R403): the read that feeds it, its first sequence number, its granules and, once they have been
read, their data and stain map. -/
structure Push where
  rid : Nat
  seq : Nat
  n : Nat
  data : Option (List Nat × Nat)
deriving DecidableEq, Repr

/-- The task of a pacer stream (R374 to R385): the launch request, the launch block, the window, whether it has started,
X0 to X7, L0 to L3, the modes, the kept pages, what it issued in fine bucket `usedB` (0 read, 1 write, 2 remote, 3 push
beats, 4 entries), its pushes in sequence order, and the handles it popped and did not push onward, each with its source
queue, oldest first. `parked`: stopped by a warm reset (R599). `pwait`: a WAITB or RPUSH has taken a wait record.
`lastSent`: PUSH_LAST has been sent (R404). `prog`: what the MOV at the program counter has issued, per kind, within the
charges of buckets that were used up (R408); `abortAt`: the array cycle plus one of the abort (R414). -/
structure Task where
  q : Nat
  st : Nat
  rid : Nat
  h : Hdr
  blk : Nat
  bFirst : Nat
  bLast : Nat
  started : Bool
  parked : Bool
  x : List Nat
  l : List Nat
  src : Option PMode
  dst : Option PMode
  srcPage : Option Page
  dstPage : Option Page
  usedB : Nat
  used : List Nat
  pushes : List Push
  handles : List (Nat × Handle)
  pwait : Bool
  lastSent : Bool
  prog : List Nat
  abortAt : Nat
deriving DecidableEq, Repr

/-- The tag record of R176. -/
structure TagRec where
  code : Nat
  value : Nat
  stainMap : Nat
  op : Nat
  addr : Nat
  size : Nat
deriving DecidableEq, Repr

/-- The state of a tag (the section before R176). -/
inductive Tag
  | free | held | answered (r : TagRec)
deriving DecidableEq, Repr

/-- What is kept of a request that was charged to a bucket until its answer leaves, to tell a miss and its cause (R268 to
R271): admission and promised time, the buckets of its work and the tracks it touches. -/
structure Lag where
  adm : Nat
  promise : Nat
  buckets : List Nat
  tracks : List Nat
deriving DecidableEq, Repr

/-- An answer on its way to a requester: whom it answers, the code, VALUE and STAIN_MAP, the data granules, and REPLAY
(R155 to R157), with the bucket it was charged to; `lag` is none where nothing was charged (R253), `isLocal` is true for
one that this instance has itself completed. -/
structure Ans where
  org : Origin
  h : Hdr
  trx : Nat
  code : Nat
  value : Nat
  stainMap : Nat
  beats : List Nat
  replay : Bool
  place : Place
  lag : Option Lag
  isLocal : Bool
deriving DecidableEq, Repr

/-- A journal entry (R573 to R577). `states`: states written whose shadow is not yet acknowledged, oldest first; `rid`: the
request it records; `ans`: the answer held until its final state is acknowledged (R580); `words`: its body descriptors; each
of `states` comes with the tick at which its shadow was sent (R584); `csrc`: where a marshal command came from. -/
structure JEntry where
  seq : Nat
  kind : Nat
  state : Nat
  part : Nat
  cls : Nat
  req : Nat
  tag : Nat
  owafer : Nat
  oinst : Nat
  core : Nat
  engine : Nat
  body : Nat
  promised : Nat
  code : Nat
  cause : Nat
  value : Nat
  addr : Nat
  size : Nat
  op : Nat
  stainMap : Nat
  unit : Nat
  words : List Nat
  rid : Option Nat
  states : List (Nat × Nat)
  ans : Option Ans
  csrc : Option CmdSrc
deriving DecidableEq, Repr

/-- An entry of the deduplication filter (R587); `lane`: it holds an answer of a lost lane (R604). -/
structure Dedup where
  owafer : Nat
  oinst : Nat
  req : Nat
  tag : Nat
  op : Nat
  addr : Nat
  size : Nat
  code : Nat
  value : Nat
  stainMap : Nat
  expiry : Nat
  filled : Bool
  lane : Bool
deriving DecidableEq, Repr

/-- A shadow write of the partner that this buddy holds back (R583). -/
structure ShadowHold where
  link : Nat
  desc : Nat
  data : Beat
  arrived : Nat
  at_ : Nat
deriving DecidableEq, Repr

/-- An outbound request the mesh gateway keeps until it is answered (R588): its number, the request (none: a pacer's write
or signal), the stream, the granules it carries, its link and promised time and the resends made; of a pacer's, the core
that launched its task (R478). -/
structure GwEntry where
  seq : Nat
  rid : Option Nat
  stream : Option (Nat × Nat)
  hdr : Nat
  beats : List Nat
  link : Nat
  promised : Nat
  resends : Nat
  retryAt : Nat
  owner : Nat
deriving DecidableEq, Repr

/-- A waiter record (R432): baton, target, and the request or the pacer stream that waits. -/
structure Waiter where
  baton : Nat
  target : Nat
  rid : Option Nat
  stream : Option (Nat × Nat)
deriving DecidableEq, Repr

/-- A participant of a tape (R441). -/
inductive Participant
  | engine (lane core engine : Nat)
  | child (wafer inst tape : Nat)
deriving DecidableEq, Repr

/-- An arrival record (R443): `heat` is the heat it is for; `withheld`: R448 step 2; `rid`: the request that a record with
NOTIFY 0 still has to answer; `a`: the answer's addressing for a record with NOTIFY 1. -/
structure Arrival where
  tape : Nat
  who : Participant
  heat : Nat
  withheld : Bool
  notify : Bool
  gate : Bool
  rid : Option Nat
  org : Origin
  h : Hdr
  trx : Nat
deriving DecidableEq, Repr

/-- A packet to the cores of a lane channel. -/
structure LaneOut where
  lane : Nat
  ch : Nat
  hdr : Nat
  beats : List Nat
deriving DecidableEq, Repr

/-- A packet that is due on a channel, with what its leaving does: `wake` the mask and REASON of the WAKE that goes before
it (R163), `gate` the partition and T_rx of the release it carries (R435), `ans` the answer it is (R52). -/
structure Leaving where
  p : LaneOut
  wake : Option (Nat × Nat)
  gate : Option (Nat × Nat)
  ans : Option Ans
deriving DecidableEq, Repr

/-- A lane channel's link state (R163, R166, R169, R172, R183, R190): credits held by the core side, running counts
returned, the array cycle plus one of the oldest return that has not yet appeared in a header (0: none), the packets held
while the channel is down, and those whose WAKE has left, each with the array cycle from which it may leave. -/
structure Chan where
  linkUp : Bool
  hAvail : Nat
  dAvail : Nat
  hRet : Nat
  dRet : Nat
  owed : Nat
  heldOut : List Leaving
  lead : List (Nat × Leaving)
deriving DecidableEq, Repr

/-- A combining entry of R480. -/
structure CombEntry where
  lane : Nat
  core : Nat
  slot : Nat
  addr : Nat
  width : Nat
  value : Nat
  dirty : Bool
  age : Nat
  closing : Bool
deriving DecidableEq, Repr

/-- A push waiting in the relay wait pool (R363): its queue, its handle, and the request or pacer stream it answers. -/
structure RelayWait where
  queue : Nat
  h : Handle
  rid : Option Nat
  stream : Option (Nat × Nat)
deriving DecidableEq, Repr

/-- A mirror line (R540). -/
structure MirLine where
  bib : Nat
  prim : Nat
  mir : Nat
  genP : Nat
  genM : Nat
deriving DecidableEq, Repr

/-- A range of the bleach queue: the partition killed, the next granule and the granule after the last (R553). -/
structure BleachRange where
  part : Nat
  next : Nat
  stop : Nat
  id : Nat
deriving DecidableEq, Repr

/-- The integrity unit's own state (R536 to R563). `logEnt`: the ring, as 128-bit entries; `bad`: entries of a SECDED
store found uncorrectable. -/
structure Integ where
  scrubPos : Nat
  mir : List MirLine
  repQ : List Nat
  bleach : List BleachRange
  logEnt : Sparse Nat
  logBad : List Nat
  logFailed : Bool
  logTest : Bool
  gasp : List Nat
  flipLeft : Nat
  storePos : Nat
deriving DecidableEq, Repr

/-- A marshal command that has arrived (R643): its source, its words W0 to W15, the array cycle of its arrival and the
entry of its ring. -/
structure CmdIn where
  src : CmdSrc
  words : Nat
  cyc : Nat
  idx : Nat
deriving DecidableEq, Repr

/-- The command that the marshal performs (R643): its journal entry, its source and words; `data`: what a kill, a context
command or a power command still keeps; `sw`: the upsets that a kill meets in boundary words of the state stores, with
their banks and words (R109). -/
structure CmdRun where
  seq : Nat
  src : CmdSrc
  words : Nat
  data : List Nat
  sw : List (Nat × Nat × Upset)
deriving DecidableEq, Repr

/-- Resets and shutdown (R753 to R765): the cause of a reset that is due (0 none), a cold reset that runs, the cause of a warm
reset that drains (0 none), admission paused until OPEN is written (R600), the pin PFAIL_N held low, the SEQ of the
HANDOFF mark, the PWR_OFF command under way, and a shutdown that waits for a warm reset (R764). -/
structure Rst where
  due : Nat
  coldRun : Bool
  warm : Nat
  pause : Bool
  pfail : Bool
  mark : Option Nat
  offRun : Option CmdRun
  shutDue : Bool
deriving DecidableEq, Repr

/-- The header of a checkpoint slot (R592); the body lies in the working SRAM. -/
structure Slot where
  gen : Nat
  jseq : Nat
  len : Nat
  crc : Nat
  complete : Nat
deriving DecidableEq, Repr

/-- A checkpoint copy in progress: the slot, the source and length in KiB, and JSEQ. -/
structure CkptCopy where
  slot : Nat
  src : Nat
  len : Nat
  jseq : Nat
deriving DecidableEq, Repr

/-- The marshal pair (R591 to R598, R618 to R652). `cmdQ`: commands that have arrived; `ringRd`: rings whose next descriptor
is being read; `done`: CMD entries done since the JSEQ of the last complete checkpoint; `sram`: key marshal * 2^18 + offset;
`slots`: key marshal * 2 + slot; `hb`: the tick of the last write of JNL_HB; `remap`: per marshal (R222); `lastSeq`: SEQ of the last CMD entry;
`otp`: generations burned since wafer test (R639); `taking`: the marshal that takes over (R591); `entry`: ENTRY of the applied image. -/
structure MarshalS where
  cmdQ : List CmdIn
  ringRd : List Nat
  run : Option CmdRun
  done : List Nat
  sram : Sparse Nat
  slots : Sparse Slot
  copy : Option CkptCopy
  hb : Nat
  remap : Sparse Nat
  lastSeq : Nat
  otp : Sparse Nat
  taking : Option Nat
  entry : Nat
deriving DecidableEq, Repr

/-- What the buddy protocol keeps (R585): the interval in which the last keep-alive was sent, the tick of the partner's last
keep-alive, and whether the partner reported a cold start. -/
structure Buddy where
  kaSent : Nat
  kaLast : Option Nat
  cold : Bool
deriving DecidableEq, Repr

/-- The trace unit (R775 to R782): the queue, oldest first, the buffer by index, and the discards not yet reported. -/
structure Trace where
  queue : List Nat
  buf : Sparse Nat
  head : Nat
  count : Nat
  lost : Nat
deriving DecidableEq, Repr

/-- What the block sends over the mesh. -/
inductive MeshMsg
  /-- A request toward another instance (R79, R804), with its origin (log entry 30). -/
  | request (wafer inst owafer oinst oreq : Nat) (hdr : Nat) (beats : List Nat)
  /-- The answer of a request that arrived over the mesh. -/
  | answer (owafer oinst oreq tag code value stainMap : Nat) (beats : List Nat)
  /-- A tape message of R453. -/
  | tape (wafer inst : Nat) (m : Nat)
  /-- A journal shadow write to the buddy: sequence number, state, header descriptor and body (R579). -/
  | shadow (wafer inst : Nat) (seq state : Nat) (words : List Nat)
  /-- The acknowledgement of a partner's shadow write (R583). -/
  | shadowAck (link desc : Nat)
  /-- STREAM_ABORT to a core of another instance (R413). -/
  | abortNotice (wafer inst core pacer stream cause : Nat)
  /-- A keep-alive to the buddy, marked fenced or not (R585, R606). -/
  | keepalive (wafer inst : Nat) (fenced : Bool)
deriving DecidableEq, Repr

/-- What the block sends: newest last in `State.out`. -/
inductive OutPkt
  /-- A packet to the cores of a lane channel. -/
  | lane (p : LaneOut)
  /-- A timing-lane frame (R40). -/
  | frame (link bits : Nat)
  /-- An interrupt control packet to the supervisor, carrying PEND (R800). -/
  | irq (pend : Nat)
  /-- A control-space access of a master is rejected with a response code (R6). -/
  | busReject (m : Master) (code : Nat)
  /-- A message over the mesh, on a link where the spec names one. -/
  | mesh (m : MeshMsg)
  /-- A page sent to a tier, with its record (R497), and a page asked of a tier, for a bib of a move (R492). -/
  | tierPage (tier page mv bib pg : Nat) (record data : List Nat)
  | tierRead (tier page mv bib pg : Nat)
  /-- The wake-request line to the supervisor (R697). -/
  | wakeLine (source lane : Nat)
  /-- The monitor chain's token goes on with this instance's record (R723). -/
  | token (record : Nat)
  /-- A roll-call message on a link, to a site of the field, or to the supervisor (R660). -/
  | rollLink (link bits : Nat)
  | rollSite (site bits : Nat)
  | rollSup (bits : Nat)
deriving DecidableEq, Repr

/-- The state of one instance. -/
structure State where
  /-- The commands that wait, first in first out (the model's queue). -/
  pending : List Instr
  /-- The next index of `Config.freeNat` (the model's own, log entry 3). -/
  free : Nat
  /-- Register fields away from their reset value, by bit address. -/
  regs : Sparse Nat
  /-- Latched words of multi-word reads, per master (R8). -/
  latch : Sparse Nat
  /-- Data bytes of the bank arrays that are not zero, by physical byte address (R69, R71). -/
  mem : List Host.Cell
  /-- Granule states that are not UNWRITTEN, by physical granule (R102). -/
  gst : Sparse GState
  /-- Per physical granule the bytes whose stored parity bit does not match (R100). -/
  par : Sparse Nat
  /-- Per physical granule the bytes whose parity bit the flip mask inverted (R535). -/
  parFlip : Sparse Nat
  /-- Logical banks marked failed (R604, R617). -/
  failedBanks : List Nat
  /-- Track inputs held by bursts (R198). -/
  inputs : List TInput
  conc : Conc
  cad : Cadence
  clk : Clocks
  /-- Charges of the fine calendar: key bucket * 512 + counter (R230). -/
  fine : Sparse Nat
  /-- Charges of the coarse calendar. -/
  coarse : Sparse Nat
  /-- Capacity of the current fine bucket used by early release: key bucket * 512 + counter (R257, R267). -/
  early : Sparse Nat
  /-- Slots that work of a fine bucket used in one bank: key (bucket * 512 + bank) * 16 + partition (R271). -/
  used : Sparse Nat
  /-- Track charge of a partition in a fine bucket: key (bucket * 16 + track) * 16 + partition (R271). -/
  pcharge : Sparse Nat
  /-- Fine buckets whose work overran on a track: key bucket * 16 + track (R271). -/
  ovr : Sparse Nat
  /-- Measured latency per requester and class: key requester * 4 + class (R262). -/
  mlat : Sparse Nat
  /-- Completions in the running 65,536 ticks, same key (R262). -/
  mcnt : Sparse Nat
  reqs : List Request
  nextId : Nat
  orderNo : Nat
  /-- last_id of R206 per track. -/
  lastId : Sparse Nat
  /-- Tag tables: key channel identity * 4096 + tag (the section before R176). -/
  tags : Sparse Tag
  chans : Sparse Chan
  comb : List CombEntry
  /-- Staged bib words: key (master * 4096 + bib) * 4 + word (R333). -/
  bibStage : Sparse Nat
  /-- Bib entries found uncorrectable since their last commit (R336). -/
  bibBad : List Nat
  relays : Sparse (List Handle)
  relayWait : List RelayWait
  integ : Integ
  /-- The 32 event counters (R768). -/
  ctr : Sparse Nat
  /-- The live slot categories: key track * 8 + category (R773), from key 1024 the accesses of a bank since the last array
  cycle, and the copy (R774). -/
  td : Sparse Nat
  tdSnap : Sparse Nat
  trc : Trace
  /-- Events of the estimator's window: key (term * 16 + partition) * 8 + class (R729, R734). -/
  energy : Sparse Nat
  /-- The hardware faults handled so far, newest last: the kind (0 part fault, 1 clock fault, 2 rails late, 3 tier), the tick
  at which the handling began and the one at which it ended (`Config.never` while it goes on); and the ticks of the thermal
  trips that lowered the step (R270). -/
  faults : List (Nat × Nat × Nat)
  trips : List Nat
  /-- The last fine bucket and the last coarse bucket whose beginning has been handled (R229, R262). -/
  fineSeen : Nat
  coarseSeen : Nat
  /-- The fine bucket of the last step change and the lower of its two steps (R685). -/
  swBucket : Nat
  swLow : Nat
  /-- SIG_BLOCK flags: channel identity * 32 + core * 4 + engine (R438). -/
  sigBlock : List Nat
  waiters : List Waiter
  arrivals : List Arrival
  /-- Per tape in RELEASING: T_rel and ALIGNED; per tape in UP: the tick of its ARRIVE (R446 to R448, R455). -/
  tapeRel : Sparse (Nat × Bool)
  tapeSent : Sparse Nat
  /-- The journal, the filter, the shadow writes held for a partner, and the next sequence number. -/
  jnl : List JEntry
  dedup : List Dedup
  shHold : List ShadowHold
  gw : List GwEntry
  /-- The active marshal, if any (R591). -/
  activeM : Option Nat
  msh : MarshalS
  buddy : Buddy
  /-- Pacer program memories: key pacer * 256 + index (R374), the staged low words (R419), the tasks, the hints with their
  start and end ticks (R416). -/
  pm : Sparse Nat
  pmLo : Sparse Nat
  tasks : List Task
  hints : Sparse (Nat × Nat)
  /-- The registers of the streams without a task: key (pacer * 4 + stream) * 16 + index, 8 to 11 the loop counters (R385). -/
  xKeep : Sparse Nat
  /-- Blind tags of failed lanes: the keys of `tags` (R604). -/
  blind : List Nat
  /-- Per ring the descriptors taken since EN was set, modulo 2^32 (R505); descriptors held, moves, and pages being read out by the spill engine. -/
  ringTaken : Sparse Nat
  descs : List MvDesc
  moves : List Move
  pagesOut : List PageOut
  /-- The wafer rows that R80 uses (R673). -/
  sysRow : Sparse Nat
  /-- The answer of the last debug-port data access (R786): CODE and data. -/
  dbgRes : Option (Nat × Nat)
  /-- A warm reset or a shutdown is under way: release at stage 3 is stopped (R599, R761). -/
  parked : Bool
  /-- Part faults that wait for the open window to close, (class, index) (R605). -/
  partQ : List (Nat × Nat)
  est : Est
  roll : Roll
  boot : BootS
  rst : Rst
  wrap : Wrap
  out : List OutPkt
deriving DecidableEq, Repr

/-- The machine right after the cold reset that VAON's application starts (R760, R806): every register field at its reset
value, which an empty `regs` reads as; memory with nothing listed; no marshal active before its self-test. -/
def State.reset : State where
  pending := []
  free := 0
  regs := []
  latch := []
  mem := []
  gst := []
  par := []
  parFlip := []
  failedBanks := []
  inputs := []
  conc := ⟨[], [], [], [], []⟩
  cad := ⟨0, .unlocked, 0, 0, false, none, 0, 0, [], 0, 0, none, false, 0, 0, 0⟩
  clk := ⟨none, 1, false, 0, 0, false, none, none, none, 0, 0, 0, true, false, true, true, false, false, 0, false⟩
  fine := []
  coarse := []
  early := []
  used := []
  pcharge := []
  ovr := []
  mlat := []
  mcnt := []
  reqs := []
  nextId := 0
  orderNo := 0
  lastId := []
  tags := []
  chans := []
  comb := []
  bibStage := []
  bibBad := []
  relays := []
  relayWait := []
  integ := ⟨0, [], [], [], [], [], false, false, [], 0, 0⟩
  ctr := []
  td := []
  tdSnap := []
  trc := ⟨[], [], 0, 0, 0⟩
  energy := []
  faults := []
  trips := []
  fineSeen := 0
  coarseSeen := 0
  swBucket := 0
  swLow := 8
  sigBlock := []
  waiters := []
  arrivals := []
  tapeRel := []
  tapeSent := []
  jnl := []
  dedup := []
  shHold := []
  gw := []
  activeM := none
  msh := ⟨[], [], none, [], [], [], none, 0, [], 0, [], none, 0⟩
  buddy := ⟨0, none, false⟩
  pm := []
  pmLo := []
  tasks := []
  hints := []
  xKeep := []
  blind := []
  ringTaken := []
  descs := []
  moves := []
  pagesOut := []
  sysRow := []
  dbgRes := none
  parked := false
  partQ := []
  est := ⟨[], false, [], 0, 0⟩
  roll := ⟨0, [], [], 0, false, none, false⟩
  boot := ⟨[], false, false, [], false, false⟩
  rst := ⟨0, true, 0, false, false, none, none, false⟩
  wrap := ⟨0, 0, none⟩
  out := []

end Sys2Proof.Machine
end

