-- ==== Sys2Proof/Machine/Ops.lean ====
section
/-! DEFINITION. The named operations over registers, memory, counters, trace, log and interrupts that every meaning is
written with. -/

namespace Sys2Proof.Machine

-- ## Register fields

/-- The value a field holds: as many bits as the field has. -/
def getF (s : State) (f : Fld) : Nat := Sparse.at s.regs f.key f.rst % 2 ^ f.w

/-- Store a value in a field, whatever its access code: the hardware's own write. -/
def setF (s : State) (f : Fld) (v : Nat) : State :=
  { s with regs := Sparse.set s.regs f.key (v % 2 ^ f.w) f.rst }

/-- A field of one bit as a Bool. -/
def flagF (s : State) (f : Fld) : Bool := getF s f == 1

/-- Count up a saturating count field (R66 and its likes). -/
def incF (s : State) (f : Fld) (n : Nat) : State := setF s f (satAdd f.w (getF s f) n)

/-- Set one bit of a field. -/
def orF (s : State) (f : Fld) (bit : Nat) : State := setF s f (Nat.lor (getF s f) (2 ^ bit))

/-- Put a field back to its reset value. -/
def rstF (s : State) (f : Fld) : State := { s with regs := Sparse.del s.regs f.key }

/-- The next free value below `n`: any value a proof must allow for (log entry 3). -/
def takeFree (s : State) (n : Nat) : Nat × State :=
  (Config.freeNat s.free % max n 1, { s with free := s.free + 1 })

/-- Send a packet. -/
def emit (s : State) (p : OutPkt) : State := { s with out := s.out ++ [p] }

/-- Raise interrupt source `n` (R800): a packet to the supervisor on the change of PEND from 0 to 1. -/
def raiseIrq (s : State) (n : Nat) : State :=
  let old := getF s F.GLB_IRQ_STAT_PEND
  if bitAt old n then s
  else
    let s1 := orF s F.GLB_IRQ_STAT_PEND n
    if bitAt (getF s F.GLB_IRQ_DEST_TO_SUP) n then emit s1 (.irq (getF s1 F.GLB_IRQ_STAT_PEND)) else s1

/-- Raise an interrupt when its enable is 1. -/
def irqIf (s : State) (en : Fld) (n : Nat) : State := if flagF s en then raiseIrq s n else s

/-- What an uncorrectable or a correctable upset amounts to; three or more flipped bits are handled as their syndrome
gives (R805), a free value. -/
def resolveUpset (s : State) (u : Upset) : Upset × State :=
  match u with
  | .many =>
    let r := takeFree s 3
    ((match r.1 with | 0 => .double | 1 => .single | _ => .none), r.2)
  | v => (v, s)

-- ## Time

/-- The cadence count. -/
def now (s : State) : Nat := s.cad.count

/-- F(t) of R228. -/
def fineOf (t : Nat) : Nat := t / 64

/-- K(t) of R228. -/
def coarseOf (t : Nat) : Nat := t / 65536

/-- The cadence unit is LOCKED or in HOLDOVER. -/
def cadGood (s : State) : Bool := s.cad.st == .locked || s.cad.st == .holdover

-- ## Trace records

/-- One record leaves the trace queue for the buffer (R775, R776). -/
def trcDrain (s : State) : State :=
  match s.trc.queue with
  | [] => s
  | r :: q =>
    let stop := flagF s F.TRC_CTL_MODE
    if stop && decide (4096 ≤ s.trc.count) then
      incF { s with trc := { s.trc with queue := q } } F.TRC_CNT_LOST_CNT 1
    else
      let wrap := decide (4096 ≤ s.trc.count)
      let c := min 4096 (s.trc.count + 1)
      let s1 := { s with trc := { s.trc with queue := q, buf := Sparse.set s.trc.buf s.trc.head r 0,
                                             head := (s.trc.head + 1) % 4096, count := c } }
      let s2 := if wrap then setF s1 F.TRC_STAT_WRAPPED 1 else s1
      if stop && decide (c = 4096) then irqIf (setF s2 F.TRC_STAT_FULL 1) F.TRC_CTL_IRQ_EN 13 else s2

/-- A record of type `ty` (R777). -/
def trcRecord (s : State) (ty sub a tick b : Nat) : Nat :=
  fieldsWord [(0, ty), (4, b2n (cadGood s)), (8, sub % 2 ^ 8), (16, a % 2 ^ 48), (64, tick % 2 ^ 64), (128, b % 2 ^ 128)]

/-- A record is discarded because the queue is full (R775). -/
def trcDiscard (s : State) : State :=
  incF (setF { s with trc := { s.trc with lost := s.trc.lost + 1 } } F.TRC_STAT_DROP 1) F.TRC_CNT_LOST_CNT 1

/-- A record enters the trace queue, behind a LOST record when discards are unreported (R775, R776). -/
def trcPush (s : State) (r : Nat) : State :=
  if !flagF s F.TRC_CTL_EN then s
  else if flagF s F.TRC_STAT_FULL then incF s F.TRC_CNT_LOST_CNT 1
  else if 16 ≤ s.trc.queue.length then trcDiscard s
  else if s.trc.lost = 0 then { s with trc := { s.trc with queue := s.trc.queue ++ [r] } }
  else
    let l := trcRecord s 8 0 (min s.trc.lost 0xFFFF) (now s) 0
    let s1 := { s with trc := { s.trc with queue := s.trc.queue ++ [l], lost := 0 } }
    if 16 ≤ s1.trc.queue.length then trcDiscard s1
    else { s1 with trc := { s1.trc with queue := s1.trc.queue ++ [r] } }

-- ## Event counters

/-- What caused a counted event (R769, R772): partition 15 and no class where it has none. -/
structure EvCtx where
  req : Nat
  tag : Nat
  part : Nat
  cls : Option Nat
  track : Nat
deriving DecidableEq, Repr

/-- The context of an event that no request caused. -/
def noCtx : EvCtx := ⟨0xFF, 0, 15, none, 0⟩

/-- Counter `i` passes an event of kind `ev` of unit `u` (R769). -/
def ctrPasses (s : State) (i ev u : Nat) (c : EvCtx) : Bool :=
  ev == getF s (F.CTR_SEL_EVENT i) && ev != 0
  && (!flagF s (F.CTR_SEL_PART_EN i) || c.part == getF s (F.CTR_SEL_PART i))
  && (!flagF s (F.CTR_SEL_UNIT_EN i) || u == getF s (F.CTR_SEL_UNIT i))
  && (match c.cls with | none => true | some k => bitAt (getF s (F.CTR_SEL_CLASS_MASK i)) k)

/-- Counter `i` adds `n` events (R768, R772). -/
def ctrAdd (s : State) (i n : Nat) (c : EvCtx) : State :=
  let a := Sparse.at s.ctr i 0
  let b := (a + n) % 2 ^ 48
  let wrapped := decide (2 ^ 48 ≤ a + n)
  let s1 := { s with ctr := Sparse.set s.ctr i b 0 }
  let s2 := if wrapped then irqIf (orF s1 F.CTR_OVF_OVF i) F.CTR_CTL_OVF_IRQ_EN 13 else s1
  let p := getF s (F.CTR_PERIOD_PERIOD i)
  if flagF s F.CTR_CTL_SAMPLE_EN && p != 0 && (wrapped || a / p != b / p) then
    let part := if c.req = 0xFF then 0 else c.part
    trcPush s2 (trcRecord s2 1 i b (now s)
      (fieldsWord [(0, c.req), (8, c.tag), (20, part), (24, c.track), (28, c.cls.getD 0)]))
  else s2

/-- Count `n` events of kind `ev` of unit `u` in every counter that selects it, in ascending index (R768, R775). -/
def ctrEvent (s : State) (ev u n : Nat) (c : EvCtx) : State :=
  if n = 0 || !flagF s F.CTR_CTL_EN || flagF s F.CTR_CTL_FREEZE then s
  else (List.range 32).foldl (fun t i => if ctrPasses t i ev u c then ctrAdd t i n c else t) s

/-- Add `n` energy events of a term to a partition and class (R729, R734). -/
def energyEvt (s : State) (term part cls n : Nat) : State :=
  let k := (term * 16 + part) * 8 + cls
  { s with energy := Sparse.set s.energy k (Sparse.at s.energy k 0 + n) 0 }

-- ## The error log

/-- Failure of the log memory at entry `i` (R560). -/
def gaspAdd (s : State) (e : Nat) : State :=
  if s.integ.gasp.length < 8 then { s with integ := { s.integ with gasp := s.integ.gasp ++ [e] } }
  else incF s F.INT_LOG_CNT_LOST_CNT 1

/-- A log entry (R557); `flip`: INFO[13] of R535 is part of `info`. -/
def logWord (s : State) (src sev part req gran bank track info : Nat) : Nat :=
  fieldsWord [(0, now s % 2 ^ 64), (64, src), (70, sev), (72, part % 16), (76, req % 256), (84, gran % 2 ^ 20),
              (104, bank % 64), (110, track % 16), (114, info % 2 ^ 14)]

/-- The log memory fails at entry `i` (R560). -/
def logFail (s : State) (i : Nat) : State :=
  let s1 := setF { s with integ := { s.integ with logFailed := true } } F.INT_STAT_LOG_LOST 1
  irqIf (irqIf (gaspAdd s1 (logWord s 0x10 3 15 0xFF i 0 0 0)) F.INT_CTL_IRQ_FAULT 7) F.INT_CTL_IRQ_LOG 7

/-- Write a log entry (R557 to R564) and its trace copy (R779). -/
def logEvt (s : State) (src sev part req gran bank track info : Nat) : State :=
  if sev = 1 && !flagF s F.INT_CTL_LOG_CE then s
  else
    let e := logWord s src sev part req gran bank track info
    let head := getF s F.INT_LOG_PTR_HEAD
    let tail := getF s F.INT_LOG_PTR_TAIL
    let full := (head + 1) % 256 == tail
    if !s.integ.logFailed && full && flagF s F.INT_CTL_HOLD then incF s F.INT_LOG_CNT_OVF_CNT 1
    else
      let s1 :=
        if s.integ.logFailed then gaspAdd s e
        else
          let t1 := { s with integ := { s.integ with logEnt := Sparse.set s.integ.logEnt head e 0 } }
          let t2 := setF t1 F.INT_LOG_PTR_HEAD ((head + 1) % 256)
          if full then setF t2 F.INT_LOG_PTR_TAIL ((tail + 1) % 256) else t2
      let s2 := if sev = 2 then irqIf s1 F.INT_CTL_IRQ_STAIN 7
                else if sev = 3 then irqIf s1 F.INT_CTL_IRQ_FAULT 7 else s1
      if flagF s F.TRC_CTL_LOG_COPY && decide (2 ≤ sev) then trcPush s2 (trcRecord s2 7 src 0 (now s) e) else s2

-- ## The bank arrays

/-- The track of a granule (R71). -/
def trackOf (g : Nat) : Nat :=
  Nat.xor (Nat.xor (bits g 5 4) (bits g 9 4)) (Nat.xor (bits g 13 4) (bits g 17 3))

/-- The bank in track of a granule (R71). -/
def binOf (g : Nat) : Nat :=
  Nat.xor (Nat.xor (bits g 0 5) (bits g 9 5)) (Nat.xor (bits g 14 5) (bits g 19 1))

/-- The logical bank of a granule (R71). -/
def bankOf (g : Nat) : Nat := trackOf g * 32 + binOf g

/-- The row of a granule (R71). -/
def rowOf (g : Nat) : Nat := bits g 9 11

/-- The granule at a row of a logical bank: the inverse of R71. -/
def granAt (bank row : Nat) : Nat :=
  let hi := row * 512
  let c1 := trackOf hi
  let c2 := binOf hi
  hi + 32 * Nat.xor (bank / 32) c1 + Nat.xor (bank % 32) c2

/-- The bank in track that the spare of track `t` replaces, if any (R120, R123, R127). -/
def spareFor (s : State) (t : Nat) : Option Nat :=
  if flagF s (F.TRK_REPAIR_OTP_EN t) then some (getF s (F.TRK_REPAIR_OTP_BANK t))
  else if flagF s (F.TRK_REPAIR_SOFT_EN t) then some (getF s (F.TRK_REPAIR_SOFT_BANK t))
  else none

/-- The bank port on the track switch that serves a granule: 32 for a mapped spare (R197). -/
def portOf (s : State) (g : Nat) : Nat :=
  if spareFor s (trackOf g) = some (binOf g) then 32 else binOf g

/-- The physical granule of a granule: the rows of the spare of track t stand behind the data banks (R72). -/
def physG (s : State) (g : Nat) : Nat :=
  if portOf s g = 32 then 2 ^ 20 + trackOf g * 2048 + rowOf g else g

/-- What an unlisted byte of memory reads as: BIST leaves every row zero (R122). -/
def memDefault : Byte := 0

/-- One byte of the bank arrays, by physical byte address. -/
def readByte (s : State) (a : Nat) : Byte := Sparse.at s.mem a memDefault

/-- Write one byte of the bank arrays. -/
def writeByte (s : State) (a : Nat) (v : Byte) : State :=
  { s with mem := Sparse.set s.mem a v memDefault }

/-- The canonical form of memory. -/
def Memory.wf (m : List Host.Cell) : Bool := Sparse.wf m memDefault

/-- The 64 bytes of a physical granule, byte 0 lowest. -/
def rowBytes (s : State) (pg : Nat) : List Byte := (List.range 64).map (fun i => readByte s (pg * 64 + i))

/-- Bytes as a beat. -/
def beatOf (l : List Byte) : Beat := BitVec.ofNat 512 (leBytes l)

/-- Byte `i` of a beat. -/
def beatByte (b : Beat) (i : Nat) : Byte := BitVec.ofNat 8 (bits b.toNat (8 * i) 8)

/-- The stored row of a physical granule. -/
def readRow (s : State) (pg : Nat) : Beat := beatOf (rowBytes s pg)

/-- Write the bytes of a row that `be` enables. -/
def writeRow (s : State) (pg : Nat) (d : Beat) (be : Nat) : State :=
  (List.range 64).foldl (fun t i => if bitAt be i then writeByte t (pg * 64 + i) (beatByte d i) else t) s

/-- The state of a physical granule. -/
def stateOf (s : State) (pg : Nat) : GState := Sparse.at s.gst pg .unwritten

/-- Set the state of a physical granule. -/
def setState (s : State) (pg : Nat) (g : GState) : State :=
  { s with gst := Sparse.set s.gst pg g .unwritten }

/-- The bytes of a physical granule whose stored parity does not match. -/
def parOf (s : State) (pg : Nat) : Nat := Sparse.at s.par pg 0

/-- Set the mismatching bytes of a physical granule. -/
def setPar (s : State) (pg : Nat) (m : Nat) : State := { s with par := Sparse.set s.par pg m 0 }

/-- The bytes whose parity bit the flip mask inverted (R535). -/
def flipOf (s : State) (pg : Nat) : Nat := Sparse.at s.parFlip pg 0

/-- Set them. -/
def setFlip (s : State) (pg : Nat) (m : Nat) : State := { s with parFlip := Sparse.set s.parFlip pg m 0 }

/-- The number of ones of a 64-bit mask. -/
def popCount (m : Nat) : Nat := ((List.range 64).filter (fun i => bitAt m i)).length

/-- The lowest one of a 64-bit mask, 0 where it has none. -/
def lowBit (m : Nat) : Nat := ((List.range 64).find? (fun i => bitAt m i)).getD 0

/-- INFO of a log entry of sources 1 to 4 (R557); `flip` is the flip mask's mark (R535). -/
def mismInfo (m : Nat) (flip : Bool) : Nat := popCount m + 128 * lowBit m + 8192 * b2n flip

/-- A partition's region: first granule and the granule after its last; empty under R85. -/
def regionOf (s : State) (p : Nat) : Nat × Nat :=
  let b := getF s (F.PART_REGION_BASE_ROW p)
  let c := getF s (F.PART_REGION_ROW_CNT p)
  if 2048 < b + c then (0, 0) else (b * 512, (b + c) * 512)

/-- The partition is created (R653: STATE 1). -/
def partCreated (s : State) (p : Nat) : Bool := getF s (F.PART_STAT_STATE p) == 1

/-- The partition whose created region holds a granule; 15 outside every region (R531). -/
def ownerOf (s : State) (g : Nat) : Nat :=
  ((List.range 15).find? (fun p => partCreated s p && decide ((regionOf s p).1 ≤ g) && decide (g < (regionOf s p).2))).getD 15

/-- Count a granule that turns STAINED or LOST (R531). -/
def countMade (s : State) (g : Nat) (old new : GState) : State :=
  if (old = .unwritten || old = .clean) && (new = .stained || new = .lost) then incF s (F.PART_INTEG_MADE (ownerOf s g)) 1
  else s

-- ## Identity

/-- The instance's own wafer and instance indices, once assigned (R92). -/
def selfWafer (s : State) : Nat := getF s F.GLB_SELF_WAFER
/-- The instance index. -/
def selfInst (s : State) : Nat := getF s F.GLB_SELF_INSTANCE
/-- The boundary register has the lane and mesh ports: they carry no functional traffic (R783). -/
def portsHeld (s : State) : Bool := s.wrap.wir == 1 || s.wrap.wir == 2
/-- ASSIGNED of GLB_SELF. -/
def assigned (s : State) : Bool := flagF s F.GLB_SELF_ASSIGNED

end Sys2Proof.Machine
end

