-- ==== Sys2Proof/Machine/Regulator.lean ====
section
/-! DEFINITION. The regulator: calendars, charges, quotas, the admission test, pauses and boosts (R228 to R271). -/

namespace Sys2Proof.Machine

-- ## Steps and capacities

/-- The credited cycles A of a fine bucket at a step (R231, R233). -/
def creditedA (step : Nat) : Nat := ([38, 51, 57, 64, 70, 76, 86, 96, 96] : List Nat).getD step 96

/-- The step whose capacities admission uses, announcements left out (R233, R261). -/
def currentStep (s : State) : Nat :=
  let c := min 7 (getF s F.CPM_STEP_CUR_STEP)
  if flagF s F.CPM_THERM_STAT_TRIPPED then min c (getF s F.CPM_THERM_CTL_TRIP_STEP) else c

/-- The step that R260 selects. -/
def admitStep (s : State) : Nat :=
  match s.cad.ann with
  | none => currentStep s
  | some a => min (currentStep s) a.step

/-- A of fine bucket `b` when the caps are those of `step` (R685). -/
def fineA (s : State) (step b : Nat) : Nat :=
  if b = s.swBucket then creditedA (min step s.swLow) else creditedA step

/-- The sum of A over the fine buckets of coarse bucket `k` (R232, R685). -/
def coarseA (s : State) (step k : Nat) : Nat :=
  if s.swBucket / 1024 = k then 1023 * creditedA step + creditedA (min step s.swLow) else 1024 * creditedA step

/-- Counter numbers of R279, with the issue counter of R358, the tier ledgers of R513 and, from 282, the charges of
a partition's classes 0 to 3 within its quota (R243). -/
def ctrTrack (t : Nat) : Nat := t
/-- A lane channel's ledger. -/
def ctrChan (id : Nat) : Nat := 16 + id
/-- A pacer part's ledger: 0 read, 1 write, 2 remote. -/
def ctrPacer (q part : Nat) : Nat := 208 + 3 * q + part
/-- A mesh link's ledger. -/
def ctrLink (k : Nat) : Nat := 256 + k
/-- The spill engine's ledger. -/
def ctrSpill : Nat := 260
/-- A partition's quota. -/
def ctrPart (p : Nat) : Nat := 261 + p
/-- The pool. -/
def ctrPool : Nat := 277
/-- The issue counter. -/
def ctrIssue : Nat := 278
/-- A tier's ledger. -/
def ctrTier (t : Nat) : Nat := 279 + t
/-- Classes 0 to 3 of a partition's quota. -/
def ctrLow (p : Nat) : Nat := 282 + p

/-- The key of a counter of a bucket. -/
def calKey (b c : Nat) : Nat := b * 512 + c

/-- The share of a pacer part in sixteenths (R264). -/
def splitOf (s : State) (q part : Nat) : Nat :=
  match part with
  | 0 => getF s (F.REG_SPLIT_RD q)
  | 1 => getF s (F.REG_SPLIT_WR q)
  | _ => getF s (F.REG_SPLIT_RM q)

/-- The capacity of a counter in one fine bucket of `a` credited cycles (R231, R239, R264, R358, R513). -/
def fineCap (s : State) (a c : Nat) : Nat :=
  if c < 16 then 32 * a
  else if c < 208 then a - getF s F.REG_RMT_CH_RMT
  else if c < 256 then 2 * a * splitOf s ((c - 208) / 3) ((c - 208) % 3) / 16
  else if c ≤ 260 then 2 * a
  else if c = 278 then 16 * a
  else if 279 ≤ c ∧ c ≤ 281 then getF s (F.SPL_TIER_CFG_RATE (c - 279))
  else 0

/-- The capacity of a counter in coarse bucket `k` (R232). -/
def coarseCap (s : State) (step k c : Nat) : Nat :=
  if s.swBucket / 1024 = k then
    1023 * fineCap s (creditedA step) c + fineCap s (creditedA (min step s.swLow)) c
  else 1024 * fineCap s (creditedA step) c

-- ## Partition shares

/-- Q_p of R242 for a bucket of instance capacity `c`. -/
def quotaOf (s : State) (c p : Nat) : Nat := c * getF s (F.PART_QOS_SHARE p) / 256

/-- R_p of R242. -/
def reserveOf (s : State) (c p : Nat) : Nat := c * getF s (F.PART_QOS_DL_RES p) / 256

/-- The sum of the quotas. -/
def quotaSum (s : State) (c : Nat) : Nat := ((List.range 16).map (quotaOf s c)).sum

/-- The pool of R242 under the cap of R737. -/
def poolOf (s : State) (c : Nat) : Nat := c * getF s F.CPM_PWR_MODE_CAP / 256 - quotaSum s c

/-- How a partition charge `x` splits into quota and pool in a bucket (R243), none when it does not fit. -/
def splitCharge (s : State) (cal : Sparse Nat) (b c part cls x : Nat) : Option (Nat × Nat) :=
  let q := quotaOf s c part
  let room := q - Sparse.at cal (calKey b (ctrPart part)) 0
  let room2 := if cls ≤ 3 then min room (q - reserveOf s c part - Sparse.at cal (calKey b (ctrLow part)) 0) else room
  let take := min x room2
  let rest := x - take
  if rest = 0 || decide (Sparse.at cal (calKey b ctrPool) 0 + rest ≤ poolOf s c) then some (take, rest) else none

-- ## Charges

/-- The charges of a request (R234 to R239, R358): track charges, ledger charges, and its partition and class. -/
structure Charge where
  tracks : List (Nat × Nat)
  ports : List (Nat × Nat)
  part : Nat
  cls : Nat
deriving DecidableEq, Repr

/-- The partition charge: the sum of the track charges (R237). -/
def Charge.total (c : Charge) : Nat := (c.tracks.map (fun p => p.2)).sum

/-- Slots per track of a list of granules, each `n` slots, in ascending track. -/
def trackSlots (l : List Nat) (n : Nat) : List (Nat × Nat) :=
  (List.range 16).filterMap (fun t =>
    let k := (l.filter (fun g => trackOf g == t)).length
    if k = 0 then none else some (t, n * k))

/-- A counter of a calendar. -/
def calAt (cal : Sparse Nat) (b c : Nat) : Nat := Sparse.at cal (calKey b c) 0

/-- Add to a counter. -/
def calAdd (cal : Sparse Nat) (b c n : Nat) : Sparse Nat := Sparse.set cal (calKey b c) (calAt cal b c + n) 0

/-- The charges fit the fine counters of bucket `b`, caps of `step`. -/
def fitsFine (s : State) (step b : Nat) (c : Charge) : Bool :=
  let a := fineA s step b
  (c.tracks ++ c.ports).all (fun p => decide (calAt s.fine b p.1 + p.2 ≤ fineCap s a p.1))
  && (splitCharge s s.fine b (512 * a) c.part c.cls c.total).isSome

/-- The charges that a coarse bucket takes: it holds no tier ledger (R513). -/
def Charge.coarse (c : Charge) : Charge := { c with ports := c.ports.filter (fun p => decide (p.1 < 279) || decide (281 < p.1)) }

/-- croom(k) of R247. -/
def croom (s : State) (step k : Nat) (c : Charge) : Bool :=
  (c.coarse.tracks ++ c.coarse.ports).all (fun p => decide (calAt s.coarse k p.1 + p.2 ≤ coarseCap s step k p.1))
  && (splitCharge s s.coarse k (512 * coarseA s step k) c.part c.cls c.total).isSome

/-- room(b) of R247. -/
def room (s : State) (step b : Nat) (c : Charge) : Bool := fitsFine s step b c && croom s step (b / 1024) c

/-- Book the charges in one bucket of a calendar of instance capacity `cap` (R243, R254). -/
def bookIn (s : State) (cal : Sparse Nat) (b cap : Nat) (c : Charge) : Sparse Nat :=
  let sp := (splitCharge s cal b cap c.part c.cls c.total).getD (0, c.total)
  let cal1 := (c.tracks ++ c.ports).foldl (fun m p => calAdd m b p.1 p.2) cal
  let cal2 := calAdd (calAdd cal1 b (ctrPart c.part) sp.1) b ctrPool sp.2
  if c.cls ≤ 3 then calAdd cal2 b (ctrLow c.part) sp.1 else cal2

/-- Book in coarse bucket `k`, the caps those of `step`. -/
def bookCoarse (s : State) (step k : Nat) (c : Charge) : State :=
  { s with coarse := bookIn s s.coarse k (512 * coarseA s step k) c.coarse }

/-- Keep TRKn_CAL_STAT.PEAK (R280). -/
def notePeak (s : State) (b : Nat) (c : Charge) : State :=
  c.tracks.foldl (fun t p =>
    let v := min 0xFFF (calAt t.fine b p.1)
    if getF t (F.TRK_CAL_STAT_PEAK p.1) < v then setF t (F.TRK_CAL_STAT_PEAK p.1) v else t) s

/-- Remember a partition's track charge in a fine bucket (R271). -/
def notePart (s : State) (b : Nat) (c : Charge) : State :=
  { s with pcharge := c.tracks.foldl (fun m p =>
      let k := (b * 16 + p.1) * 16 + c.part
      Sparse.set m k (Sparse.at m k 0 + p.2) 0) s.pcharge }

/-- Book in fine bucket `b` and in its coarse bucket (R254). -/
def bookFine (s : State) (step b : Nat) (c : Charge) : State :=
  let s1 := { s with fine := bookIn s s.fine b (512 * fineA s step b) c }
  notePart (notePeak (bookCoarse s1 step (b / 1024) c) b c) b c

-- ## Faults that a miss may come from (R270)

/-- The handling of a hardware fault begins. -/
def faultBegin (s : State) (kind : Nat) : State := { s with faults := s.faults ++ [(kind, now s, 0xFFFFFFFFFFFFFFFF)] }

/-- The handling of the faults of a kind ends. -/
def faultEnd (s : State) (kind : Nat) : State :=
  { s with faults := s.faults.map (fun f => if f.1 == kind && f.2.2 == 0xFFFFFFFFFFFFFFFF then (f.1, f.2.1, now s) else f) }

-- ## Pauses

/-- VALUE never of R251. -/
def never : Nat := 0xFFFFFFFFFFFFFFFF

/-- The instance is fenced (R606). -/
def fenced (s : State) : Bool := flagF s F.JNL_STAT_FENCED

/-- AON_STATE (R709): 0 ACTIVE, 1 DOZE, 2 WAKING, 3 OFF. -/
def aonState (s : State) : Nat := getF s F.CPM_AON_STAT_AON_STATE

/-- The array clock runs: not asleep, not in SAFE, not shut down (R62, R680, R721). -/
def arrayRuns (s : State) : Bool := aonState s == 0 && !flagF s F.CPM_CLK_STAT_SAFE && !s.clk.stopped && s.clk.powerOk

/-- The power state: 0 Active, 1 Idle, 2 entering Doze (R707). -/
def pwrState (s : State) : Nat := getF s F.CPM_PWR_STAT_STATE

/-- A track is UNREPAIRED: the instance opens no admission, whatever OPEN says (R124). -/
def unrepaired (s : State) : Bool := (List.range 16).any (fun t => flagF s (F.TRK_STAT_UNREPAIRED t))

/-- The ticks of the pauses of R256 that refuse class `cls`; a request under none sees the empty list. -/
def pauseTicks (s : State) (cls : Nat) : List Nat :=
  (if flagF s F.REG_CTL_OPEN && !unrepaired s then [] else [now s + 131072])
  ++ (if s.activeM.isSome && !s.rst.pause then [] else [now s + 300000])
  ++ (if !cadGood s && decide (cls ≤ 6) then [now s + 131072] else [])
  ++ (if flagF s F.REG_STAT_P_DIP then [now s + 2000] else [])
  ++ (if fenced s then [never] else [])

/-- The largest of a list, if any. -/
def largest : List Nat → Option Nat
  | [] => none
  | x :: r => some (r.foldl max x)

/-- The pause of R256 that applies to a class, with its VALUE. -/
def pauseOf (s : State) (cls : Nat) : Option Nat := largest (pauseTicks s cls)

-- ## The admission test

/-- What the regulator answers (R247, R249, R250). -/
inductive Adm
  | admitted (p : Place)
  | busy (v : Nat)
  | rate (v : Nat)
deriving DecidableEq, Repr

/-- The first `b` of `n` buckets from `b0` on that the test accepts. -/
def findFrom (f : Nat → Bool) : Nat → Nat → Option Nat
  | 0, _ => none
  | n + 1, b => if f b then some b else findFrom f n (b + 1)

/-- HOLD_ERR_BOUND of R45: 20 ppm of the ticks in holdover, rounded up, plus 2; 0 outside HOLDOVER (R66). The ticks are those
of the count, a step of it included (log entry 16). -/
def holdErrBound (s : State) : Nat :=
  if s.cad.st = .holdover then ((now s - s.cad.holdEntry) * 20 + 999999) / 1000000 + 2 else 0

/-- The last tick of the coarse horizon (R229). -/
def horizonEnd (s : State) : Nat := 65536 * (coarseOf (now s) + 256) - 1

/-- The promised time of R240 before any clamp; `dl` is the decoded deadline of classes 4 to 6. -/
def promisedTime (s : State) (cls trx dl : Nat) : Nat :=
  if 4 ≤ cls ∧ cls ≤ 6 then dl else trx + getF s (F.REG_BOUND_BOUND cls)

/-- d of R247: the promised time under R45 and R252. -/
def admitD (s : State) (p : Nat) : Nat := min (p - holdErrBound s) (horizonEnd s)

/-- b_first of R247, one bucket later in Idle (R690). -/
def bFirst (s : State) (trx : Nat) : Nat := max (fineOf trx) (fineOf (now s)) + (if pwrState s = 1 then 2 else 1)

/-- b_last of R247, plus one, so that a window before tick 0 is empty. -/
def bEnd (d : Nat) : Nat := (d + 1) / 64 - 2

/-- A fine bucket's bound lies inside the holdover window (R247). -/
def holdOkF (s : State) (b : Nat) : Bool :=
  s.cad.st != .holdover || decide (64 * (b + 3) ≤ s.cad.holdEntry + 16777216)

/-- A coarse bucket's bound lies inside the holdover window (R247). -/
def holdOkC (s : State) (k : Nat) : Bool :=
  s.cad.st != .holdover || decide (65536 * (k + 1) + 128 ≤ s.cad.holdEntry + 16777216)

/-- The first coarse bucket wholly after the fine horizon (R247). -/
def kFirst (s : State) : Nat := (fineOf (now s) + 4096 + 1023) / 1024

/-- k_last of R247, plus one. -/
def kEnd (d : Nat) : Nat := (d - 127) / 65536

/-- The search of R247: fine buckets, then coarse buckets. -/
def findPlace (s : State) (step bf be ke : Nat) (c : Charge) : Option Place :=
  match findFrom (fun b => room s step b c && holdOkF s b) (min be (fineOf (now s) + 4096) - bf) bf with
  | some b => some (.fine b)
  | none =>
    match findFrom (fun k => croom s step k c && holdOkC s k) (ke - kFirst s) (kFirst s) with
    | some k => some (.coarse k)
    | none => none

/-- Some bucket had room, holdover left aside. -/
def roomOutside (s : State) (step bf be ke : Nat) (c : Charge) : Bool :=
  (findFrom (fun b => room s step b c) (min be (fineOf (now s) + 4096) - bf) bf).isSome
  || (findFrom (fun k => croom s step k c) (ke - kFirst s) (kFirst s)).isSome

/-- VALUE of R249: the earliest bucket with room, the deadline disregarded. -/
def earliestValue (s : State) (step bf : Nat) (c : Charge) : Nat :=
  match findFrom (fun b => room s step b c) (fineOf (now s) + 4096 - bf) bf with
  | some b => 64 * (b - 1)
  | none =>
    match findFrom (fun k => croom s step k c) (coarseOf (now s) + 256 - kFirst s) (kFirst s) with
    | some k => 65536 * k - 64
    | none => horizonEnd s + 1

/-- The tracks of a charge without room in a bucket. -/
def shortTracks (s : State) (fine : Bool) (b : Nat) (c : Charge) : List Nat :=
  let st := admitStep s
  (c.tracks.filter (fun p =>
    let kb := if fine then b / 1024 else b
    decide (coarseCap s st kb p.1 < calAt s.coarse kb p.1 + p.2)
    || (fine && decide (fineCap s (fineA s st b) p.1 < calAt s.fine b p.1 + p.2)))).map (fun p => p.1)

/-- Count a refusal in REF of the lowest track without room in the first bucket tested (R280). -/
def countRef (s : State) (bf be : Nat) (c : Charge) : State :=
  let l := if bf < min be (fineOf (now s) + 4096) then shortTracks s true bf c else shortTracks s false (kFirst s) c
  match l with
  | [] => s
  | t :: _ => incF s (F.TRK_CAL_CNT_REF t) 1

/-- Decide a request with a bank charge (R247, R249 to R252); `promise` is its time under R240. -/
def decideAdm (s : State) (trx promise : Nat) (c : Charge) : Adm × State :=
  let d := admitD s promise
  let bf := bFirst s trx
  let be := bEnd d
  let st := admitStep s
  if be ≤ bf then (.busy never, s)
  else
    match findPlace s st bf be (kEnd d) c with
    | some (.fine b) => (.admitted (.fine b), bookFine s st b c)
    | some (.coarse k) => (.admitted (.coarse k), bookCoarse s st k c)
    | _ =>
      let s1 := countRef s bf be c
      match s.cad.ann with
      | some a =>
        if (findPlace s (currentStep s) bf be (kEnd d) c).isSome then (.rate a.tick, s1)
        else if s.cad.st = .holdover && roomOutside s st bf be (kEnd d) c then (.busy (now s + 131072), s1)
        else (.busy (earliestValue s st bf c), s1)
      | none =>
        if s.cad.st = .holdover && roomOutside s st bf be (kEnd d) c then (.busy (now s + 131072), s1)
        else (.busy (earliestValue s st bf c), s1)

/-- Check 11 of a request (R247, R253, R256): the pause, then room. -/
def admission (s : State) (cls trx promise : Nat) (c : Charge) : Adm × State :=
  match pauseOf s cls with
  | some v => (.busy v, s)
  | none =>
    if c.tracks = [] then (.admitted .free, s)
    else decideAdm s trx promise c

-- ## Release

/-- Capacity of a counter in the current fine bucket that is neither charged nor used by early releases (R257, R267). -/
def spare (s : State) (t : Nat) : Nat :=
  let f := fineOf (now s)
  fineCap s (fineA s (admitStep s) f) t - calAt s.fine f t - calAt s.early f t

/-- Every track of a charge has spare slots in the current bucket. -/
def spareFor' (s : State) (c : Charge) : Bool := c.tracks.all (fun p => decide (p.2 ≤ spare s p.1))

/-- Use up spare slots for an early release. -/
def useSpare (s : State) (c : Charge) : State :=
  let f := fineOf (now s)
  { s with early := c.tracks.foldl (fun m p => calAdd m f p.1 p.2) s.early }

-- ## Boost

/-- The measured latency of a requester in a class (R262). -/
def measured (s : State) (q c : Nat) : Nat := Sparse.at s.mlat (q * 4 + c) 0

/-- The boost of one class (R263). -/
def boostClass (s : State) (q c : Nat) : Nat :=
  let m := measured s q c
  let t := getF s (F.REG_TARGET_TARGET (c - 1))
  if 2 * m ≤ t then 0 else min 15 (30 * m / t - 15)

/-- The boost of a requester (R263). -/
def boostOf (s : State) (q : Nat) : Nat := max (boostClass s q 1) (max (boostClass s q 2) (boostClass s q 3))

/-- A completion of class `c` and latency `l` (R262). -/
def noteLatency (s : State) (q c l : Nat) : State :=
  if c = 0 || 4 ≤ c then s
  else
    let m := measured s q c
    let m2 := (Int.fdiv ((l : Int) - m) 16 + m).toNat
    { s with mlat := Sparse.set s.mlat (q * 4 + c) (m2 % 2 ^ 24) 0,
             mcnt := Sparse.set s.mcnt (q * 4 + c) (Sparse.at s.mcnt (q * 4 + c) 0 + 1) 0 }

-- ## Requesters

/-- The requester identity (R138). -/
def reqId : Origin → Nat
  | .lane l ch => l * 3 + ch
  | .combine l _ _ => l * 3 + 1
  | .mesh k _ _ _ => 0xD0 + k
  | .pacer q _ => 0xC0 + q
  | .spill _ => 0xD4
  | .marshal => 0xD5
  | .scrub => 0xD6
  | .debug => 0xD7

/-- The static priority of a requester toward a track (R201, R226, R227). -/
def staticPrio (s : State) (q t : Nat) : Nat :=
  if q < 192 then getF s (F.LANE_CH_PRIO_PRIO (q / 3) (q % 3) (t / 8) (t % 8))
  else getF s (F.GLB_PRIO_PRIO (q - 192) (t / 8) (t % 8))

end Sys2Proof.Machine
end

