-- ==== Sys2Proof/Machine/Lanes.lean ====
section
/-! DEFINITION. What a lane sends and keeps: channels, credits, packets, tag records, wakes, errors, misses and the trace
of responses (R133 to R193, R268 to R271, R781). -/

namespace Sys2Proof.Machine

-- ## Channels

/-- A channel that has never come up: no credits, the link not trained. -/
def chan0 : Chan := ⟨false, 0, 0, 0, 0, 0, [], []⟩

/-- The state of a lane channel. -/
def chanOf (s : State) (id : Nat) : Chan := Sparse.at s.chans id chan0

/-- Replace the state of a lane channel. -/
def setChan (s : State) (id : Nat) (c : Chan) : State := { s with chans := Sparse.set s.chans id c chan0 }

/-- A channel is up while its CH_EN bit and its link are (R169). -/
def chanUp (s : State) (lane ch : Nat) : Bool :=
  bitAt (getF s (F.LANE_CTL_CH_EN lane)) ch && (chanOf s (lane * 3 + ch)).linkUp

/-- The context of an event that a request caused. -/
def ctxOf (r : Request) : EvCtx :=
  ⟨reqId r.org, r.h.tag, r.h.part, some r.h.cls, match r.accs with | [] => 0 | a :: _ => trackOf a.gran⟩

/-- Send a packet on a channel that is up: HCRD, DCRD and STAMP (R159), and the CRC (R140). -/
def launchLane (s : State) (p : LaneOut) : State :=
  let id := p.lane * 3 + p.ch
  let c := chanOf s id
  let h := p.hdr + fieldsWord [(128, c.hRet), (136, c.dRet), (144, now s % 2 ^ 32)]
  emit (setChan s id { c with owed := 0 }) (.lane { p with hdr := withCrc h p.beats })

/-- Send a packet that may be dropped with the channel (an ERROR, a WAKE or a CREDIT packet). -/
def sendLane (s : State) (p : LaneOut) : State := if chanUp s p.lane p.ch then launchLane s p else s

/-- The credits that the core side holds of a channel's grant fall with a packet that arrives (R170). -/
def takeCredits (s : State) (id h d : Nat) : State :=
  let c := chanOf s id
  setChan s id { c with hAvail := c.hAvail - h, dAvail := c.dAvail - d }

/-- Return credits (R166, R171). -/
def giveCredits (s : State) (id h d : Nat) : State :=
  let c := chanOf s id
  if h = 0 && d = 0 then s
  else setChan s id { c with hAvail := c.hAvail + h, dAvail := c.dAvail + d, hRet := (c.hRet + h) % 256,
                             dRet := (c.dRet + d) % 256,
                             owed := if c.owed = 0 then s.cad.cycles + 1 else c.owed }

/-- An ERROR packet and its log (R164, R165, R192): `t` is the tag with its core and engine, when they are known; where they
are not, those fields are 0 (log entry 108). -/
def sendError (s : State) (lane ch cause : Nat) (t : Option (Nat × Nat × Nat)) : State :=
  let f := match t with
    | some (tag, core, eng) => fieldsWord [(0, 4), (4, cause), (8, tag), (20, 1), (21, core), (24, eng)]
    | none => fieldsWord [(0, 4), (4, cause)]
  let s1 := sendLane s ⟨lane, ch, f, []⟩
  let tv := t.getD (0, 0, 0)
  let s2 := setF (setF s1 (F.LANE_ERR_LOG_CHANNEL lane) ch) (F.LANE_ERR_LOG_CAUSE lane) cause
  let s3 := setF (setF s2 (F.LANE_ERR_LOG_TAG lane) tv.1) (F.LANE_ERR_LOG_TAG_VALID lane) (b2n t.isSome)
  let s4 := setF s3 (F.LANE_ERR_LOG_CORE lane) tv.2.1
  if cause = 1 then irqIf (orF s4 (F.LANE_STAT_CRC_ERR lane) ch) (F.LANE_CTL_CRC_IRQ_EN lane) 2
  else irqIf (orF s4 (F.LANE_STAT_PROTO_ERR lane) ch) (F.LANE_CTL_ERR_IRQ_EN lane) 2

/-- A WAKE packet to the cores of a mask (R162). -/
def sendWake (s : State) (lane ch mask reason : Nat) : State :=
  ctrEvent (sendLane s ⟨lane, ch, fieldsWord [(0, 3), (4, mask), (12, reason)], []⟩) 0x22 lane 1 noCtx

-- ## Tags

/-- The state of a tag of a channel. -/
def tagOf (s : State) (id tag : Nat) : Tag := Sparse.at s.tags (id * 4096 + tag) .free

/-- Set the state of a tag. -/
def setTag (s : State) (id tag : Nat) (t : Tag) : State :=
  { s with tags := Sparse.set s.tags (id * 4096 + tag) t .free }

/-- The header of a RESPONSE (R155); SIZE is that of the request, at most the data granules' bytes (log entry 109). -/
def responseHdr (a : Ans) : Nat :=
  let n := 64 * a.beats.length
  fieldsWord [(0, 1), (4, a.code), (7, b2n (a.beats != [])), (8, a.h.tag), (20, a.h.core), (23, a.h.engine),
    (25, b2n a.replay), (26, if a.beats = [] then 0 else min a.h.size (n - 1)), (36, a.stainMap), (64, a.value)]

/-- The request carried GATE: a BATON_WAIT or TAPE_ARRIVE with MOD bit 0 (R151). -/
def carriesGate (h : Hdr) : Bool := (h.op == 0x11 || h.op == 0x13) && bitAt h.mod 0

/-- A released wait or arrival of partition `part` that carried GATE is counted as its packet leaves (R435). -/
def countGate (s : State) (part trx : Nat) : State :=
  if now s ≤ trx + getF s (F.PART_SYNC_SPIN part) then incF s (F.PART_SYNC_CNT_SPUN part) 1
  else incF s (F.PART_SYNC_CNT_GATED part) 1

/-- The REQUEST trace record of a response (R778, R781). -/
def traceResponse (s : State) (a : Ans) (miss : Bool) : State :=
  let f := F.TRC_FILT_PART
  if flagF s F.TRC_CTL_REQ_EN && (!flagF s F.TRC_FILT_PART_EN || getF s f == a.h.part)
     && (!flagF s F.TRC_FILT_REQ_EN || getF s F.TRC_FILT_REQ == reqId a.org)
     && bitAt (getF s F.TRC_FILT_CODE_MASK) a.code && (!flagF s F.TRC_FILT_MISS_ONLY || miss) then
    let b := match a.place with | .fine b => b | _ => 0
    trcPush s (trcRecord s 5 (reqId a.org)
      (fieldsWord [(0, a.h.tag), (12, a.h.op), (17, a.h.cls), (20, a.h.part), (24, a.code), (27, b2n miss)]) (now s)
      (fieldsWord [(0, a.trx % 2 ^ 32), (32, a.h.addr), (72, b % 2 ^ 28)]))
  else s

/-- The event counted for an answer's code (R770). -/
def countCode (s : State) (a : Ans) : State :=
  let c : EvCtx := ⟨reqId a.org, a.h.tag, a.h.part, some a.h.cls, 0⟩
  match a.code with
  | 1 => incF (ctrEvent s 0x1F (reqId a.org) 1 c) (F.PART_INTEG_DELIVERED a.h.part) 1
  | 2 => ctrEvent s 0x04 (reqId a.org) 1 c
  | 3 => ctrEvent s 0x05 (reqId a.org) 1 c
  | 4 => ctrEvent s 0x06 (reqId a.org) 1 c
  | 5 => ctrEvent s 0x07 (reqId a.org) 1 c
  | _ => s

-- ## Requests

/-- The request with an id. -/
def findReq (s : State) (id : Nat) : Option Request := s.reqs.find? (fun r => r.id == id)

/-- Drop a request. -/
def dropReq (s : State) (id : Nat) : State := { s with reqs := s.reqs.filter (fun r => r.id != id) }

/-- Replace a request, in its place. -/
def putReq (s : State) (r : Request) : State :=
  { s with reqs := s.reqs.map (fun q => if q.id == r.id then r else q) }

/-- The tracks a request touches. -/
def reqTracks (r : Request) : List Nat :=
  (List.range 16).filter (fun t => r.accs.any (fun a => trackOf a.gran == t))

-- ## Misses (R268 to R271)

/-- L_p of R271: the most slots that a partition's work of a bucket used in one bank of a track. -/
def lpOf (s : State) (b t p : Nat) : Nat :=
  ((List.range 32).map (fun k => Sparse.at s.used ((b * 512 + t * 32 + k) * 16 + p) 0)).foldl max 0

/-- C_p of R271. -/
def cpOf (s : State) (b t p : Nat) : Nat := Sparse.at s.pcharge ((b * 16 + t) * 16 + p) 0

/-- The tracks on which a bucket of the lag overran, as (track, bucket), by track. -/
def overruns (s : State) (m : Lag) : List (Nat × Nat) :=
  m.tracks.flatMap (fun t => (m.buckets.filter (fun b => Sparse.at s.ovr (b * 16 + t) 0 == 1)).map (fun b => (t, b)))

/-- The offending partition with the largest ratio over the overrun tracks, with its track (R271). -/
def offender (s : State) (ts : List (Nat × Nat)) : Option (Nat × Nat) :=
  let cands := (List.range 16).flatMap (fun p => ts.filterMap (fun x =>
    let l := 32 * lpOf s x.2 x.1 p
    let c := cpOf s x.2 x.1 p
    if l > c then some (p, x.1, l, c) else none))
  (cands.foldl (fun (best : Option (Nat × Nat × Nat × Nat)) x =>
    match best with
    | none => some x
    | some y => if y.2.2.1 * x.2.2.2 < x.2.2.1 * y.2.2.2 then some x else best) none).map (fun x => (x.1, x.2.1))

/-- The bound of R248 of a place. -/
def placeBound (pl : Place) (promise : Nat) : Nat :=
  match pl with
  | .fine b => 64 * (b + 3) - 1
  | .coarse k => 65536 * (k + 1) + 127
  | _ => promise

/-- The cause of a miss, the partition it is counted to, and its track (R270, R271). -/
def missCause (s : State) (part : Nat) (pl : Place) (m : Lag) : Nat × Nat × Nat :=
  let bound := placeBound pl m.promise
  let faulted := s.faults.any (fun f => decide (f.2.1 ≤ bound) && decide (m.adm ≤ f.2.2))
  let tripped := s.trips.any (fun t => decide (m.adm ≤ t) && decide (t ≤ m.promise))
  let ovr := overruns s m
  let t0 := match ovr with
    | x :: _ => x.1
    | [] => m.tracks.headD 0
  if faulted then (0, part, t0)
  else if tripped then (1, part, t0)
  else match offender s ovr with
    | some (p, t) => (2, p, t)
    | none => (0, part, t0)

/-- A miss is counted and logged (R269 to R271). -/
def noteMiss (s : State) (o : Origin) (h : Hdr) (pl : Place) (m : Lag) : State :=
  let c := missCause s h.part pl m
  let s1 := incF (incF s F.REG_MISS_CNT_MISS_CNT 1) (F.PART_MISS_MISS_CNT c.2.1) 1
  let s2 := if c.1 = 2 then incF s1 (F.PART_MISS_SPREAD_CNT c.2.1) 1 else s1
  let s3 := setF (setF s2 F.REG_MISS_LOG_PART c.2.1) F.REG_MISS_LOG_CLASS h.cls
  let s4 := setF (setF s3 F.REG_MISS_LOG_CAUSE c.1) F.REG_MISS_LOG_TRACK c.2.2
  let s5 := setF s4 F.REG_MISS_LOG_REQ (reqId o)
  let s6 := setF (setF s5 F.REG_MISS_TICK_LO_VAL m.promise) F.REG_MISS_TICK_HI_VAL (m.promise / 2 ^ 32)
  irqIf (ctrEvent (setF s6 F.REG_STAT_MISS 1) 0x08 c.2.2 1 ⟨reqId o, h.tag, h.part, some h.cls, m.tracks.headD 0⟩)
    F.REG_CTL_MISS_IRQ_EN 3

/-- What a request's answer keeps of it until it leaves: nothing where no bucket was charged (R268). A task's work is that
of its window, on every track (R265, R271). -/
def lagOf (r : Request) : Option Lag :=
  match r.place with
  | .free => none
  | .task b n => some ⟨r.adm, r.promise, (List.range n).map (fun i => b + i), List.range 16⟩
  | _ => some ⟨r.adm, r.promise, [r.bucket], reqTracks r⟩

/-- What leaves now is a miss (R268). -/
def missOf (s : State) (l : Option Lag) : Option Lag := l.filter (fun m => decide (m.promise < now s))

-- ## Packets leave

/-- The release packet of a wait or arrival that carried GATE: the partition and T_rx (R435). -/
def releaseGate (a : Ans) : Option (Nat × Nat) :=
  if carriesGate a.h && a.code == 0 && !a.replay && (a.h.op == 0x11 || !bitAt a.h.mod 1) then some (a.h.part, a.trx) else none

/-- An answer leaves (R52): its miss, the measured latency of a completion (R262), the events and the trace. -/
def leaveAns (s : State) (a : Ans) : State :=
  let n := a.beats.length
  let s1 := match missOf s a.lag with
    | some m => noteMiss s a.org a.h a.place m
    | none => s
  let s2 := if a.isLocal && (decide (a.code < 2) || decide (6 ≤ a.code)) then noteLatency s1 (reqId a.org) a.h.cls (now s - a.trx)
    else s1
  let s3 := traceResponse (countCode s2 a) a (missOf s a.lag).isSome
  let c : EvCtx := ⟨reqId a.org, a.h.tag, a.h.part, some a.h.cls, 0⟩
  match a.org with
  | .lane l ch => energyEvt (ctrEvent s3 0x0E (l * 3 + ch) (if ch = 0 then (n + 1) / 2 else n) c) 3 a.h.part a.h.cls n
  | .mesh k _ _ _ => energyEvt (ctrEvent s3 0x11 k n c) 4 a.h.part a.h.cls n
  | _ => s3

/-- A packet leaves on its channel, with all that its leaving does. -/
def launchOut (s : State) (x : Leaving) : State :=
  let s1 := match x.ans with
    | some a => leaveAns s a
    | none => s
  let s2 := match x.gate with
    | some g => countGate s1 g.1 g.2
    | none => s1
  launchLane s2 x.p

/-- A packet goes out on a channel that is up: a WAKE before it, if it has one, WAKE_LEAD array cycles ahead (R163). -/
def startOut (s : State) (x : Leaving) : State :=
  match x.wake with
  | none => launchOut s x
  | some w =>
    let s1 := sendWake s x.p.lane x.p.ch w.1 w.2
    let d := getF s (F.LANE_CTL_WAKE_LEAD x.p.lane)
    let id := x.p.lane * 3 + x.p.ch
    let c := chanOf s1 id
    if d = 0 then launchOut s1 x
    else setChan s1 id { c with lead := c.lead ++ [(s.cad.cycles + d, x)] }

/-- Send a response or a signal, or hold it while the channel is down (R183, log entry 107). -/
def sendOrHold (s : State) (x : Leaving) : State :=
  if chanUp s x.p.lane x.p.ch then startOut s x
  else
    let id := x.p.lane * 3 + x.p.ch
    let c := chanOf s id
    setChan s id { c with heldOut := c.heldOut ++ [x] }

/-- The CREDIT packet with INIT set, after which the held responses leave (R167, R169, R183). -/
def channelInit (s : State) (lane ch : Nat) : State :=
  let id := lane * 3 + ch
  let c := chanOf s id
  let h := getF s (F.LANE_CH_CRD_HCRD_MAX lane ch)
  let d := if ch = 0 then 0 else getF s (F.LANE_CH_CRD_DCRD_MAX lane ch)
  let c1 : Chan := { c with hAvail := h, dAvail := d, hRet := h, dRet := d, owed := 0, heldOut := [] }
  c.heldOut.foldl startOut (launchLane (setChan s id c1) ⟨lane, ch, fieldsWord [(0, 5), (4, 1)], []⟩)

/-- A channel is down: the core side holds no credits of it, and what waited for a WAKE is held (R169, R183). -/
def channelOff (s : State) (lane ch : Nat) : State :=
  let id := lane * 3 + ch
  let c := chanOf s id
  setChan s id { c with hAvail := 0, dAvail := 0, owed := 0, heldOut := c.heldOut ++ c.lead.map (fun p => p.2), lead := [] }

/-- The packets of a channel whose WAKE is old enough leave (R163). -/
def leadDue (s : State) (id : Nat) : State :=
  let c := chanOf s id
  let due := c.lead.filter (fun p => decide (p.1 ≤ s.cad.cycles))
  if due = [] then s
  else due.foldl (fun t p => launchOut t p.2) (setChan s id { c with lead := c.lead.filter (fun p => decide (s.cad.cycles < p.1)) })

/-- The packets that wait for their WAKE, over every channel. -/
def leadsDue (s : State) : State := ((s.chans.filter (fun p => p.2.lead != [])).map (fun p => p.1)).foldl leadDue s

/-- The WAKE that goes before a packet to an engine whose request carried GATE (R163, R433). -/
def wakeOf (h : Hdr) (reason : Nat) : Option (Nat × Nat) := if carriesGate h then some (2 ^ h.core, reason) else none

/-- Put an answer on its way: to the lane, whose tag record it becomes (R156, R176), or over the mesh. -/
def deliver (s : State) (a : Ans) : State :=
  match a.org with
  | .lane l ch =>
    let id := l * 3 + ch
    let s1 := if a.replay then s
      else setTag s id a.h.tag (.answered ⟨a.code, a.value, a.stainMap, a.h.op, a.h.addr, a.h.size⟩)
    sendOrHold s1 ⟨⟨l, ch, responseHdr a, a.beats⟩, wakeOf a.h (if a.h.op = 0x11 then 0 else 1), releaseGate a, some a⟩
  | .mesh _ ow oi rq =>
    emit (leaveAns s a) (.mesh (.answer ow oi rq a.h.tag a.code a.value a.stainMap a.beats))
  | _ => leaveAns s a

/-- The answer to a request. -/
def ansOf (r : Request) (code value sm : Nat) (beats : List Nat) : Ans :=
  ⟨r.org, r.h, r.trx, code, value, sm, beats, false, r.place, lagOf r,
    (match r.org with | .lane _ _ => !r.isRemote | _ => false)⟩

end Sys2Proof.Machine
end

