-- ==== Sys2Proof/Machine/Journal.lean ====
section
/-! DEFINITION. The journal, its shadow at the buddy, the deduplication filter, and the one way a request is answered
(R571 to R590). -/

namespace Sys2Proof.Machine

/-- Descriptors an entry occupies (R574). -/
def descCount (e : JEntry) : Nat := 1 + e.body

/-- Descriptors in use. -/
def descUsed (s : State) : Nat := (s.jnl.map descCount).sum

/-- Room for an RMT, TASK or MOVE entry of `n` descriptors (R575). -/
def jnlRoom (s : State) (n : Nat) : Bool := decide (descUsed s + 16 + n ≤ 8192)

/-- The earliest promised time among the open entries, which only those of an RMT, TASK or MOVE have (R575, R576). -/
def jnlEarliest (s : State) : Nat :=
  match (s.jnl.filter (fun e => decide (e.kind ≤ 3) && decide (e.state ≤ 2))).map (fun e => e.promised) with
  | [] => now s
  | x :: r => r.foldl min x

/-- Shadow traffic flows: SHADOW_EN, a buddy assigned, and SHADOW_LOST clear (R579, R584; log entry 12). -/
def shadowOn (s : State) : Bool :=
  flagF s F.JNL_CTL_SHADOW_EN && flagF s F.JNL_BUDDY_SET && !flagF s F.JNL_STAT_SHADOW_LOST

/-- The header descriptor of an entry (R576). -/
def jnlHeader (e : JEntry) : Nat :=
  let tail := match e.kind with
    | 1 => fieldsWord [(256, e.addr), (296, e.size), (306, e.op), (311, e.stainMap)]
    | _ => 2 ^ 256 * e.unit
  fieldsWord [(0, e.kind), (4, e.state), (7, e.part), (11, e.cls), (14, e.req), (22, e.tag), (34, e.owafer), (39, e.oinst),
    (48, e.core), (51, e.engine), (53, e.body), (64, e.promised % 2 ^ 64), (128, e.seq % 2 ^ 32), (160, e.code),
    (163, e.cause), (192, e.value % 2 ^ 64)] + tail

/-- The entry with a sequence number. -/
def findEntry (s : State) (seq : Nat) : Option JEntry := s.jnl.find? (fun e => e.seq == seq)

/-- The entry that records a request. -/
def entryOf (s : State) (rid : Nat) : Option JEntry := s.jnl.find? (fun e => e.rid == some rid)

/-- Replace an entry. -/
def putEntry (s : State) (e : JEntry) : State :=
  { s with jnl := s.jnl.map (fun x => if x.seq == e.seq then e else x) }

/-- Drop an entry. -/
def dropEntry (s : State) (seq : Nat) : State := { s with jnl := s.jnl.filter (fun e => e.seq != seq) }

/-- Write an entry's state and send its shadow (R577 to R579). -/
def jnlWrite (s : State) (e : JEntry) (st : Nat) : State :=
  let e1 := { e with state := st }
  if shadowOn s then
    let s1 := putEntry s { e1 with states := e.states ++ [(st, now s)] }
    emit s1 (.mesh (.shadow (getF s F.JNL_BUDDY_WAFER) (getF s F.JNL_BUDDY_INST) e.seq st (jnlHeader e1 :: e.words)))
  else putEntry s e1

/-- A blank entry of a kind. -/
def entry0 (kind : Nat) : JEntry :=
  ⟨0, kind, 0, 15, 7, 0, 0, 0, 0, 0, 0, 0, 0, 0, 0, 0, 0, 0, 0, 0, 0, [], none, [], none, none⟩

/-- Create an entry in state OPEN (R577); its sequence number is JNL_SEQ (R576). -/
def jnlOpen (s : State) (e : JEntry) : State :=
  let e1 := { e with seq := getF s F.JNL_SEQ_SEQ, state := 0 }
  let s1 := setF { s with jnl := s.jnl ++ [e1] } F.JNL_SEQ_SEQ (e1.seq + 1)
  ctrEvent (jnlWrite s1 e1 0) 0x23 e.kind 1 { noCtx with part := e.part, cls := some e.cls }

/-- The final state of an entry is shadowed: its answer leaves and it is freed (R577, R580). -/
def jnlClose (s : State) (e : JEntry) : State :=
  let s1 := dropEntry s e.seq
  match e.ans with
  | some a => deliver s1 a
  | none => s1

/-- End an entry with an answer (R577, R580); `abandoned`: state ABANDONED. -/
def jnlFinish (s : State) (e : JEntry) (code cause value sm : Nat) (a : Option Ans) : State :=
  let st := if code = 6 ∨ code = 7 then 4 else 3
  let e1 := { e with code := code, cause := cause, value := value, stainMap := sm, ans := a }
  let s1 := if code = 6 then incF s F.JNL_CNT_ABANDONED 1 else s
  let s2 := jnlWrite s1 e1 st
  if shadowOn s then s2
  else match findEntry s2 e.seq with
    | some e2 => jnlClose s2 e2
    | none => s2

/-- The filter entry with a key (R587). -/
def findDedup (s : State) (ow oi rq tag : Nat) : Option Dedup :=
  s.dedup.find? (fun d => d.owafer == ow && d.oinst == oi && d.req == rq && d.tag == tag)

/-- Free the filter entry with a key. -/
def dropDedup (s : State) (ow oi rq tag : Nat) : State :=
  { s with dedup := s.dedup.filter (fun d => !(d.owafer == ow && d.oinst == oi && d.req == rq && d.tag == tag)) }

/-- Fill the reserved filter entry of an RMT with its answer (R587). -/
def fillDedup (s : State) (ow oi rq : Nat) (r : Request) (code value sm : Nat) : State :=
  { s with dedup := s.dedup.map (fun d =>
      if d.owafer == ow && d.oinst == oi && d.req == rq && d.tag == r.h.tag then
        { d with code := code, value := value, stainMap := sm, filled := true, expiry := r.promise + 16384 }
      else d) }

/-- The operation is journalled when it is not local (R573): every one but the reads and BATON_READ. -/
def isRmt (op : Nat) : Bool := !(op ≤ 3 || op == 0x12)

/-- Lane `l` has failed (R604, R617). -/
def laneFailed (s : State) (l : Nat) : Bool :=
  if l < 32 then bitAt (getF s F.JNL_FAIL_LANE_LO_LANE_LO) l else bitAt (getF s F.JNL_FAIL_LANE_HI_LANE_HI) (l - 32)

/-- An answer of a failed lane whose channel is down is written to the filter under the lane key, without an expiry until
the lane returns (R604). -/
def deliverLane (s : State) (a : Ans) : State :=
  match a.org with
  | .lane l ch =>
    if laneFailed s l && !chanUp s l ch then
      let s1 := dropDedup s (selfWafer s) (selfInst s) (l * 3 + ch) a.h.tag
      { s1 with dedup := s1.dedup ++ [⟨selfWafer s, selfInst s, l * 3 + ch, a.h.tag, a.h.op, a.h.addr, a.h.size, a.code,
          a.value, a.stainMap, never, true, true⟩] }
    else deliver s a
  | _ => deliver s a

/-- An accepted local write answered FAULT or ABANDONED withholds the attached signal of every later write of its engine,
local or not, which takes its code and VALUE (R436, R439). -/
def spreadVerdict (s : State) (r : Request) (code value : Nat) : State :=
  match r.org with
  | .lane _ _ =>
    if 6 ≤ code && 4 ≤ r.h.op && r.h.op ≤ 6 && !r.isRemote && r.stage != .held then
      let hit (q : Request) : Bool := q.org == r.org && q.h.core == r.h.core && q.h.engine == r.h.engine && q.h.attEn
        && decide (r.id < q.id) && q.verdict == (0, 0)
      { s with reqs := s.reqs.map (fun q => if hit q then { q with verdict := (code, value) } else q) }
    else s
  | _ => s

/-- SIG_BLOCK (R438) and REG_REFUSE (R276) follow an answer. -/
def noteCode (s0 : State) (r : Request) (code value : Nat) : State :=
  let s := spreadVerdict s0 r code value
  let s1 := if code = 2 then incF s F.REG_REFUSE_BUSY_CNT 1 else if code = 3 then incF s F.REG_REFUSE_RATE_CNT 1 else s
  match r.org with
  | .lane l ch =>
    let k := (l * 3 + ch) * 32 + r.h.core * 4 + r.h.engine
    if 2 ≤ code && code ≤ 5 && 4 ≤ r.h.op && r.h.op ≤ 6 && !r.h.attEn && !s1.sigBlock.contains k
    then { s1 with sigBlock := s1.sigBlock ++ [k] } else s1
  | _ => s1

/-- Answer a request and drop it: what its code does, the journal entry (R580), and the packet, whose leaving does the rest
(R52). -/
def respond (s : State) (r : Request) (code value sm : Nat) (beats : List Nat) : State :=
  let a := ansOf r code value sm beats
  let s3 := dropReq (noteCode s r code value) r.id
  match entryOf s3 r.id with
  | some e =>
    let s4 := match r.org with
      | .mesh _ ow oi rq => fillDedup s3 ow oi rq r code value sm
      | _ => s3
    jnlFinish s4 e code (if code = 6 ∨ code = 7 then value % 256 else 0) value sm (some a)
  | none => deliverLane s3 a

/-- Answer a request without data. -/
def answer (s : State) (r : Request) (code value : Nat) : State := respond s r code value 0 []

end Sys2Proof.Machine
end

