-- ==== Sys2Proof/Machine/Operands.lean ====
section
/-! DEFINITION. Request headers, the operand forms of every operation, the byte ranges and granule accesses they name, and
check 4 of R173 (R143 to R154, R286 to R317). -/

namespace Sys2Proof.Machine

/-- Decode a request header (R143). -/
def decodeHdr (hw : BitVec 256) : Hdr :=
  let x := hw.toNat
  { op := bits x 4 5, cls := bits x 9 3, part := bits x 12 4, tag := bits x 16 12, core := bits x 28 3,
    engine := bits x 31 2, retry := bitAt x 33, dlAbs := bitAt x 35, spread := bits x 36 3, bib := bitAt x 39,
    size := bits x 40 10, mod := bits x 56 8, addr := bits x 64 40, deadline := bits x 104 32, arg := bits x 136 64,
    attBaton := bits x 200 14, attAdd := bits x 214 8, attEn := bitAt x 222, stainMap := bits x 223 16 }

/-- The operations of R151. -/
def opKnown (op : Nat) : Bool := (op ≤ 6) || (8 ≤ op && op ≤ 12) || (16 ≤ op && op ≤ 24)

/-- READ, READ_T, READ_S, READ_X. -/
def isRead (op : Nat) : Bool := op ≤ 3

/-- WRITE, WRITE_N, ACCUM. -/
def isWrite (op : Nat) : Bool := 4 ≤ op && op ≤ 6

/-- The atomics. -/
def isAtomic (op : Nat) : Bool := 8 ≤ op && op ≤ 12

/-- Operations with a bank charge (R115). -/
def isData (op : Nat) : Bool := isRead op || isWrite op || isAtomic op

/-- Write-type requests: a scoreboard entry (R18) and an order-table entry (R474). -/
def isWriteType (op : Nat) : Bool := isWrite op || isAtomic op

/-- Operations whose ADDR is of the Instance kind (R151). -/
def isInstanceAddr (op : Nat) : Bool := (16 ≤ op && op ≤ 19) || op == 23 || op == 24

/-- Operations whose ADDR is of the Zero kind (R151). -/
def isZeroAddr (op : Nat) : Bool := 20 ≤ op && op ≤ 22

/-- Data beats that a header implies (R141, R144, R151); an OP that no row of R151 lists implies none (log entry 117). -/
def beatsIn (h : Hdr) : Nat :=
  if h.op = 4 ∨ h.op = 6 then (h.addr % 64 + h.size) / 64 + 1
  else if h.op = 5 then h.size / 64 + 1
  else if h.op = 0x0C ∧ bitAt h.mod 0 then 1
  else if h.op = 0x16 then 1
  else 0

/-- The granules of the bytes `a` to `b`. -/
def granRange (a b : Nat) : List Nat := (List.range (b / 64 + 1 - a / 64)).map (fun i => a / 64 + i)

/-- Drop an element equal to the one before it (R287). -/
def mergeAdj : List Int → List Int
  | [] => []
  | [x] => [x]
  | x :: y :: r => if x = y then mergeAdj (y :: r) else x :: mergeAdj (y :: r)

/-- The element size of a READ_T or READ_S (R300, R303). -/
def elemBytes (h : Hdr) : Nat := if h.op = 1 then 2 ^ bits h.mod 0 2 else 2 ^ bits h.mod 0 3

/-- The stride of a READ_T, or of a READ_S as a signed number (R300, R303). -/
def strideOf (h : Hdr) : Int :=
  if h.op = 1 then (bits h.arg 0 32 : Int) else signedOf 32 (bits h.arg 0 32)

/-- The number of result elements of a READ_X (R305). -/
def readXCount (h : Hdr) : Nat := (h.size + 1) / (if bits h.mod 4 2 = 0 then 2 else 1)

/-- The source format of a READ_X, the destination format of a WRITE_N (R305, R308). -/
def xfCode (h : Hdr) : Nat := if h.op = 3 then bits h.mod 0 4 else bits h.mod 0 3

/-- The bytes of one source element of a WRITE_N (R308, R309). -/
def srcBytes (h : Hdr) : Nat := if bitAt h.mod 3 then 2 else 4

/-- The number of elements of a READ_X or WRITE_N. -/
def xfCount (h : Hdr) : Nat := if h.op = 3 then readXCount h else (h.size + 1) / srcBytes h

/-- First and last data byte of a READ_X or WRITE_N at byte offset `o` (R294, R306, R310). -/
def xfData (h : Hdr) (o : Nat) : Nat × Nat :=
  let c := xfCode h
  let n := xfCount h
  if isMX c then
    let base := o / 64 * 64 + 64
    let b := blockBytes c
    (base + o % 64 * b, base + (o % 64 + n / 32) * b - 1)
  else if h.op = 5 && c == 7 then (o, o + 2 * n - 1)
  else (o, o + n - 1)

/-- The scale granule of an MX request (R295). -/
def xfScale (h : Hdr) (o : Nat) : Option Nat := if isMX (xfCode h) then some (o / 64) else none

/-- The source rows of a READ_T, or the elements of a READ_S: (first byte, length), in the order of R302 and R303. -/
def stridedRuns (h : Hdr) (o : Int) : List (Int × Nat) :=
  if h.op = 1 then
    let len := (h.size + 1) / 8
    (List.range 8).map (fun (r : Nat) => (o + r * strideOf h, len))
  else
    let e := elemBytes h
    (List.range ((h.size + 1) / e)).map (fun (j : Nat) => (o + j * strideOf h, e))

/-- The granule accesses of a READ_T or READ_S after merging (R287, R302, R303). -/
def stridedAccesses (h : Hdr) (o : Int) : List Int :=
  mergeAdj ((stridedRuns h o).flatMap (fun p =>
    (List.range ((p.1 + p.2 - 1) / 64 - p.1 / 64 + 1).toNat).map (fun (i : Nat) => p.1 / 64 + (i : Int))))

/-- The burst granules of a request at byte offset `o` (R286); none for READ_T and READ_S. -/
def burstGrans (h : Hdr) (o : Nat) : List Nat :=
  if h.op = 0 ∨ h.op = 4 ∨ h.op = 6 then granRange o (o + h.size)
  else if h.op = 3 ∨ h.op = 5 then granRange (xfData h o).1 (xfData h o).2
  else []

/-- Every stored granule access of a request at byte offset `o`, in order, the scale granule last. -/
def accessGrans (h : Hdr) (o : Nat) : List Nat :=
  if h.op = 1 ∨ h.op = 2 then (stridedAccesses h o).map Int.toNat
  else if isAtomic h.op then [o / 64]
  else if h.op = 3 ∨ h.op = 5 then burstGrans h o ++ (xfScale h o).toList
  else burstGrans h o

/-- Displacements from ADDR of the first and the last byte of a request: the range of R144, R295, R300, R303, R306 and
R310 (the scale bytes of an MX request begin it). -/
def byteSpan (h : Hdr) (o : Nat) : Int × Int :=
  if h.op = 1 ∨ h.op = 2 then
    let l := stridedRuns h 0
    ((l.map (fun p => p.1)).foldl min 0, (l.map (fun p => p.1 + (p.2 : Int) - 1)).foldl max 0)
  else if h.op = 3 ∨ h.op = 5 then (0, (xfData h o).2 - o)
  else (0, h.size)

/-- Reserved fields (check 4 part 1, R143, R150, R151, R153). -/
def badReserved (x : Nat) (h : Hdr) (beats : List Beat) : Bool :=
  bitAt x 34 || bits x 50 6 != 0 || bitAt x 239 || (!h.attEn && (h.attBaton != 0 || h.attAdd != 0))
  || (opKnown h.op &&
      let modBits : Nat := match h.op with
        | 1 => 2 | 2 => 3 | 3 => 6 | 5 => 5 | 6 => 2
        | 8 => 3 | 9 => 3 | 10 => 3 | 11 => 3 | 12 => 3
        | 17 => 1 | 19 => 2 | 20 => 2 | _ => 0
      let argBad : Bool := match h.op with
        | 1 => h.arg / 2 ^ 32 != 0
        | 2 => h.arg / 2 ^ 32 != 0
        | 12 => bitAt h.mod 0 && (h.arg != 0 || beats.any (fun b => b.toNat / 2 ^ 128 != 0))
        | 16 => bits h.arg 14 2 != 0 || h.arg / 2 ^ 32 != 0
        | 17 => bits h.arg 14 18 != 0
        | 18 => h.arg / 2 ^ 14 != 0
        | 19 => bits h.arg 8 8 != 0 || h.arg / 2 ^ 17 != 0
        | 21 => false
        | 22 => h.arg / 2 ^ 14 != 0
        | 23 => bits h.arg 7 9 != 0 || h.arg / 2 ^ 28 != 0
        | 24 => h.arg / 2 ^ 7 != 0
        | op => if 8 ≤ op ∧ op ≤ 11 then !bitAt h.mod 0 && h.arg / 2 ^ 32 != 0 else h.arg != 0
      h.mod / 2 ^ modBits != 0 || argBad
      || (isInstanceAddr h.op && h.addr % 2 ^ 26 != 0) || (isZeroAddr h.op && h.addr != 0)
      || (h.op == 22 && beats.any (fun b => bits b.toNat 122 6 != 0 || bits b.toNat 254 2 != 0)))

/-- Undefined encodings (check 4 part 2). -/
def badEncoding (h : Hdr) (beats : List Beat) : Bool :=
  !opKnown h.op || 4 < h.spread || (h.attEn && h.attAdd == 0)
  || (match h.op with
      | 1 => bits h.mod 0 2 == 3
      | 2 => bits h.mod 0 3 == 7
      | 3 => 6 < bits h.mod 0 4 || bits h.mod 4 2 == 3
      | 5 => bits h.mod 0 4 == 15
      | 6 => bits h.mod 0 2 == 3
      | 16 => bits h.arg 16 16 == 0
      | 20 => bits h.mod 0 2 == 3
      | 21 => 4 < bits h.arg 0 4
      | 22 => beats.any (fun b =>
          let x := b.toNat
          4 < bits x 112 3 || bits x 115 3 != h.cls
          || (bitAt x 169 && (bits x 170 13 == 0 || 4096 < bits x 170 13))
          || (bits x 48 24 != 0 && !(4 ≤ h.cls && h.cls ≤ 6))
          || (bits x 72 24 != 0 && !bitAt x 169))
      | op => isAtomic op && bits h.mod 1 2 == 3)

/-- The channels an operation may travel on: bit 0 M, 1 V, 2 D (R151). -/
def opChannels (op : Nat) : Nat :=
  match op with
  | 0 => 7 | 1 => 3 | 2 => 6 | 3 => 3 | 20 => 7
  | _ => if isAtomic op then 2 else 6

/-- The channel of an engine (R136): 0 M, 1 V, 2 S, 3 D. -/
def engineChannel (e : Nat) : Nat := match e with | 0 => 0 | 3 => 2 | _ => 1

/-- OP or ENGINE not permitted on the channel (check 4 part 3, R154). -/
def badChannel (h : Hdr) (ch : Nat) : Bool := !bitAt (opChannels h.op) ch || engineChannel h.engine != ch

/-- SIZE, alignment or range out of bounds (check 4 part 4). -/
def badShape (h : Hdr) (beats : List Beat) : Bool :=
  let o : Nat := if h.bib then h.addr % 2 ^ 28 else h.addr % 2 ^ 26
  let n := h.size + 1
  let top : Int := 2 ^ 26
  let spanBad := !h.bib && (stridedRuns h o).any (fun p => decide (p.1 < 0) || decide (top < p.1 + p.2))
  match h.op with
  | 0 => 1023 < o % 64 + h.size
  | 4 => 1023 < o % 64 + h.size
  | 6 =>
    let e := if bits h.mod 0 2 = 1 then 2 else 4
    1023 < o % 64 + h.size || o % e != 0 || n % e != 0
  | 1 =>
    let e := elemBytes h
    n % (64 * e) != 0 || o % (8 * e) != 0 || (strideOf h) % (8 * e : Nat) != 0 || spanBad
    || 16 < (stridedAccesses h o).length
  | 2 =>
    let e := elemBytes h
    n % e != 0 || o % e != 0 || (strideOf h) % (e : Nat) != 0 || spanBad || 16 < (stridedAccesses h o).length
  | 3 =>
    let r := if bits h.mod 4 2 = 0 then 2 else 1
    n % r != 0 || (isMX (xfCode h) && (n % (32 * r) != 0 || 64 < o % 64 + xfCount h / 32)) || 16 < (burstGrans h o).length
  | 5 =>
    let s := srcBytes h
    n % s != 0 || (isMX (xfCode h) && (n % (32 * s) != 0 || 64 < o % 64 + xfCount h / 32))
    || (xfCode h == 7 && o % 2 != 0) || 16 < (burstGrans h o).length
  | 22 => h.size != 63 || beats.any (fun b => bits b.toNat 192 32 % 64 != 0)
  | op =>
    if isAtomic op then
      let w := if bitAt h.mod 0 then 8 else 4
      n != w || o % w != 0
    else h.size != 0

/-- DEADLINE and DL_MODE (check 4 part 5, R50, R146). -/
def badDeadline (h : Hdr) : Bool :=
  if 4 ≤ h.cls && h.cls ≤ 6 then !h.dlAbs && (h.deadline / 2 ^ 24 != 0 || h.deadline == 0)
  else h.deadline != 0 || h.dlAbs

/-- Fields the OP does not permit (check 4 part 6, R148 to R150). -/
def badFields (h : Hdr) : Bool :=
  (h.bib && !isData h.op) || (h.attEn && !isWrite h.op)
  || h.stainMap / 2 ^ (if h.op = 22 then 0 else beatsIn h) != 0

/-- Check 4 of R173: the BAD_REQUEST cause, if any. `lateEnd`: the launch block's END test of R378. -/
def check4 (hw : BitVec 256) (h : Hdr) (ch : Nat) (beats : List Beat) (lateEnd : Bool) : Option Nat :=
  if badReserved hw.toNat h beats then some 1
  else if badEncoding h beats then some 2
  else if badChannel h ch then some 3
  else if badShape h beats then some 4
  else if badDeadline h || lateEnd then some 8
  else if badFields h then some 9
  else none

/-- The minimum spread factor of a lane or mesh request over the given stored granules (R234): for a READ_X only its data
granules count as consecutive (R307). -/
def minFactor (op : Nat) (grans : List Nat) : Nat :=
  let run (g : Nat) : Bool := (List.range 8).all (fun i => grans.contains (g + i) && (g + i) / 32 == g / 32)
  if (op = 0 ∨ op = 3 ∨ isWrite op) ∧ grans.any run = true then 1 else 2

end Sys2Proof.Machine
end

