-- ==== Sys2Proof/Machine/Sync.lean ====
section
/-! DEFINITION. Batons, tapes and relay queues: the operations of their stores and the tape messages
(R360 to R371, R423 to R468, R811). -/

namespace Sys2Proof.Machine

-- ## Batons

/-- A count has reached a target (R425). -/
def reached (c t : Nat) : Bool := decide ((c + 2 ^ 32 - t % 2 ^ 32) % 2 ^ 32 < 2 ^ 31)

/-- A baton is PARKED or BROKEN. -/
def batonShut (s : State) (b : Nat) : Bool := flagF s (F.BTN_CTL_PARKED b) || flagF s (F.BTN_CTL_BROKEN b)

/-- A partition may use a baton (R426). -/
def batonAllows (s : State) (b p : Nat) : Bool := p == getF s (F.BTN_CTL_PART b) || p == 15

/-- Release a waiter: answer its request, or let its stream go on (R429). -/
def releaseWaiter (s : State) (w : Waiter) : State :=
  let s1 := ctrEvent { s with waiters := s.waiters.filter (fun x => x != w) } 0x1B (w.baton / 256) 1 noCtx
  match w.rid.bind (findReq s1) with
  | some r => answer s1 r 0 (getF s1 (F.BTN_CNT_COUNT w.baton))
  | none => s1

/-- Release every waiter whose target the count has reached, in the order of their arrival (R429). -/
def testWaiters (s : State) (b : Nat) : State :=
  (s.waiters.filter (fun w => w.baton == b && reached (getF s (F.BTN_CNT_COUNT b)) w.target)).foldl releaseWaiter s

/-- A signal or message is not applied (R429, R430, R467). -/
def noteNotApplied (s : State) (b : Nat) : State :=
  setF (setF (incF s F.GLB_SYNC_CNT_NA_CNT 1) F.GLB_SYNC_STAT_NOT_APPLIED 1) F.GLB_SYNC_STAT_LAST_BATON b

/-- A signal of increment `i` reaches a baton (R428, R429). -/
def signalBaton (s : State) (b i : Nat) : State :=
  if batonShut s b then noteNotApplied s b
  else
    let s1 := setF s (F.BTN_CNT_COUNT b) (getF s (F.BTN_CNT_COUNT b) + i)
    testWaiters (ctrEvent s1 0x1A (b / 256) 1 noCtx) b

/-- A signal of partition `p` that is checked when it is applied: a pacer's or a relay queue's (R426, R430). -/
def signalAs (s : State) (b i p : Nat) : State :=
  if batonAllows s b p then signalBaton s b i else noteNotApplied s b

/-- An attached signal of partition `p` is applied: its baton belongs at that moment to `p` or to 15 (R430). -/
def attachedAs (s : State) (b i p : Nat) : State :=
  if getF s (F.BTN_CTL_PART b) == p || getF s (F.BTN_CTL_PART b) == 15 then signalBaton s b i else noteNotApplied s b

/-- The store word of a baton is read and checked (R429, R527, R558). -/
def readBatonWord (s : State) (b : Nat) (u : Upset) : State :=
  match resolveUpset s u with
  | (.single, s1) => logEvt (incF s1 F.GLB_SYNC_CNT_CE_CNT 1) 0x0C 1 (getF s1 (F.BTN_CTL_PART b)) 0xFF b 0 0 0
  | (.double, s1) =>
    let s2 := setF (setF (setF s1 (F.BTN_CTL_BROKEN b) 1) F.GLB_SYNC_STAT_UE 1) F.GLB_SYNC_STAT_LAST_BATON b
    let s3 := irqIf (logEvt s2 0x0C 3 (getF s2 (F.BTN_CTL_PART b)) 0xFF b 0 0 1) F.GLB_SYNC_CTL_UE_IRQ_EN 5
    (s3.waiters.filter (fun w => w.baton == b && w.rid.isSome)).foldl (fun t w =>
      let t1 := { t with waiters := t.waiters.filter (fun x => x != w) }
      match w.rid.bind (findReq t1) with
      | some r => answer t1 r 7 0x08
      | none => t1) s3
  | (_, s1) => s1

/-- The answer to an operation on a baton that is PARKED or BROKEN (R429). -/
def batonRefusal (s : State) (b : Nat) : Nat × Nat :=
  if flagF s (F.BTN_CTL_PARKED b) then (4, 5) else (7, 0x08)

-- ## Relay queues

/-- The handles of a queue, head first. -/
def relayQ (s : State) (q : Nat) : List Handle := Sparse.at s.relays q []

/-- Replace a queue. -/
def setRelay (s : State) (q : Nat) (l : List Handle) : State := { s with relays := Sparse.set s.relays q l [] }

/-- A queue change makes a signal of partition `p`: the slice applies it in the next array cycle (R366, R803). -/
def makeSig (s : State) (b p : Nat) : State := { s with conc := { s.conc with sigs := s.conc.sigs ++ [(b, p)] } }

/-- A handle enters a queue: the signal and the wake it makes (R366, R367). -/
def enterRelay (s : State) (q : Nat) (h : Handle) : State :=
  let old := relayQ s q
  let s1 := ctrEvent (setRelay s q (old ++ [h])) 0x1D q 1 noCtx
  let s2 := if flagF s (F.RLY_NOTIFY_PUSH_SIG_EN q)
    then makeSig s1 (getF s (F.RLY_NOTIFY_PUSH_BATON q)) (getF s (F.RLY_CTL_PART q)) else s1
  let t := getF s (F.RLY_CTL_WAKE_TGT q)
  if flagF s (F.RLY_CTL_WAKE_EN q) && old == [] then sendWake s2 (t / 8) 1 (2 ^ (t % 8)) 3 else s2

/-- A handle has been pushed onward: its oldest record goes (R369). -/
def dropHandle (b : Nat) : List (Nat × Handle) → List (Nat × Handle)
  | [] => []
  | x :: l => if x.2.bib = b then l else x :: dropHandle b l

/-- A stream's handle has been pushed onward. -/
def pushedOnward (s : State) (stream : Option (Nat × Nat)) (b : Nat) : State :=
  { s with tasks := s.tasks.map (fun t => if stream = some (t.q, t.st) then { t with handles := dropHandle b t.handles } else t) }

/-- Waiting pushes enter their queue while it has room (R363): at most `n` of them. -/
def drainRelay : Nat → State → Nat → State
  | 0, s, _ => s
  | n + 1, s, q =>
    match s.relayWait.find? (fun w => w.queue == q) with
    | none => s
    | some w =>
      if 64 ≤ (relayQ s q).length then s
      else
        let s1 := enterRelay { s with relayWait := s.relayWait.erase w } q w.h
        let s2 := match w.rid.bind (findReq s1) with
          | some r => answer s1 r 0 0
          | none => pushedOnward s1 w.stream w.h.bib
        drainRelay n s2 q

/-- A pop: the head of a queue that is not empty leaves it (R366). -/
def popRelay (s : State) (q : Nat) : Option Handle × State :=
  match relayQ s q with
  | [] => (none, s)
  | h :: rest =>
    let s1 := ctrEvent (setRelay s q rest) 0x1E q 1 noCtx
    let s1s := if flagF s (F.RLY_NOTIFY_POP_SIG_EN q)
      then makeSig s1 (getF s (F.RLY_NOTIFY_POP_BATON q)) (getF s (F.RLY_CTL_PART q)) else s1
    (some h, drainRelay 64 s1s q)

/-- A queue is usable by a partition (R360). -/
def relayAllows (s : State) (q p : Nat) : Bool :=
  flagF s (F.RLY_CTL_EN q) && (p == getF s (F.RLY_CTL_PART q) || p == 15)

/-- Empty a queue; waiting pushes enter it afterwards (R373). -/
def flushRelay (s : State) (q : Nat) : State := drainRelay 64 (setRelay s q []) q

-- ## Tapes

/-- Tape states. -/
def tapeState (s : State) (n : Nat) : Nat := getF s (F.TAPE_STAT_STATE n)

/-- A tape message (R453). -/
def tapeMsg (s : State) (kind target src heat : Nat) (tick : Option Nat) (part : Nat) : Nat :=
  fieldsWord [(0, kind), (2, target), (10, src), (18, selfInst s), (27, selfWafer s), (32, heat % 2 ^ 32),
    (64, (tick.getD 0) % 2 ^ 32), (96, b2n tick.isSome), (97, part)]

/-- Send a tape message. -/
def sendTape (s : State) (wafer inst m : Nat) : State := emit s (.mesh (.tape wafer inst m))

/-- The current heat of a tape. -/
def heatOf (s : State) (n : Nat) : Nat := getF s (F.TAPE_HEAT_HEAT n)

/-- A TAPE_RELEASE signal: the heat, and the sense it shows (R160, R445, R450). -/
def tapeSignal (s : State) (a : Arrival) (sense : Nat) : State :=
  match a.org with
  | .lane l ch =>
    let p : LaneOut := ⟨l, ch, fieldsWord [(0, 2), (4, 0), (8, a.h.core), (11, a.h.engine),
      (64, fieldsWord [(0, a.tape), (8, sense), (32, a.heat % 2 ^ 32)])], []⟩
    sendOrHold s ⟨p, wakeOf a.h 1, if a.gate && sense == a.heat % 2 then some (a.h.part, a.trx) else none, none⟩
  | _ => s

/-- Release one arrival record (R445). -/
def releaseArrival (s : State) (a : Arrival) : State :=
  let s1 := { s with arrivals := s.arrivals.filter (fun x => x != a) }
  if a.notify then tapeSignal s1 a (a.heat % 2)
  else match a.rid.bind (findReq s1) with
    | some r => answer s1 r 0 0
    | none => s1

/-- End one arrival record without a release: ABANDONED, or a fault notice (R450, R451). -/
def abandonArrival (reason : Nat) (s : State) (a : Arrival) : State :=
  let s1 := { s with arrivals := s.arrivals.filter (fun x => x != a) }
  if a.notify then tapeSignal s1 a (1 - a.heat % 2)
  else match a.rid.bind (findReq s1) with
    | some r => answer s1 r 6 reason
    | none => s1

/-- A tape faults (R450): `reason` is the ABANDONED reason of its held arrivals; `also` is a child whose arrival for the
current heat faulted the tape, which arrived in that heat too. With the records gone, both counts of the current heat are
those of no record (R466, log entry 40). -/
def tapeFault (s : State) (n cause reason : Nat) (also : Option Participant) : State :=
  let part := getF s (F.TAPE_CFG_PART n)
  let held := s.arrivals.filter (fun a => a.tape == n)
  let heat := heatOf s n
  let s1 := setF (setF s (F.TAPE_STAT_STATE n) 3) (F.TAPE_STAT_FAULT_CAUSE n) cause
  let s2 := held.foldl (abandonArrival reason) s1
  let s3 := if flagF s (F.TAPE_LINK_PARENT_EN n)
    then sendTape s2 (getF s (F.TAPE_LINK_PWAFER n)) (getF s (F.TAPE_LINK_PINST n))
      (tapeMsg s 2 (getF s (F.TAPE_LINK_PTAPE n)) n heat none part) else s2
  let kids := (held.filter (fun a => a.heat == heat)).map (fun a => a.who)
  let more := match also with
    | some w => if kids.contains w then [] else [w]
    | none => []
  let s4 := (kids ++ more).foldl (fun t w => match w with
    | .child w i c => sendTape t w i (tapeMsg s 2 c n heat none part)
    | _ => t) s3
  let s4c := setF (setF s4 (F.TAPE_STAT_ARRIVED n) 0) (F.TAPE_STAT_CHILD_ARR n) 0
  let s5 := { s4c with tapeRel := Sparse.del s4c.tapeRel n, tapeSent := Sparse.del s4c.tapeSent n }
  irqIf (setF (setF s5 F.GLB_SYNC_STAT_TAPE_FLT 1) F.GLB_SYNC_STAT_LAST_TAPE n) F.GLB_SYNC_CTL_TAPE_IRQ_EN 5

/-- A heat of a tape is complete (R446). -/
def heatComplete (s : State) (n : Nat) : Bool :=
  let e := getF s (F.TAPE_CFG_EXPECT n)
  let c := getF s (F.TAPE_CFG_NCHILD n)
  tapeState s n == 0 && getF s (F.TAPE_STAT_ARRIVED n) == e && getF s (F.TAPE_STAT_CHILD_ARR n) == c && (e != 0 || c != 0)

/-- A completed heat goes up, or the root enters RELEASING (R446). -/
def completeHeat (s : State) (n : Nat) : State :=
  if flagF s (F.TAPE_LINK_PARENT_EN n) then
    let s1 := sendTape s (getF s (F.TAPE_LINK_PWAFER n)) (getF s (F.TAPE_LINK_PINST n))
      (tapeMsg s 0 (getF s (F.TAPE_LINK_PTAPE n)) n (heatOf s n) none (getF s (F.TAPE_CFG_PART n)))
    setF { s1 with tapeSent := Sparse.put s1.tapeSent n (now s) } (F.TAPE_STAT_STATE n) 1
  else
    let al := flagF s (F.TAPE_CFG_ALIGN n)
    let t := now s + (if al then 16 * getF s (F.TAPE_LINK_ALIGN_DLY n) else 0)
    setF { s with tapeRel := Sparse.put s.tapeRel n (t, al) } (F.TAPE_STAT_STATE n) 2

/-- The release of a tape in RELEASING (R448), steps 1 to 4. -/
def releaseHeat (s : State) (n : Nat) : State :=
  let heat := heatOf s n
  let rel := Sparse.at s.tapeRel n (now s, false)
  let mine := s.arrivals.filter (fun a => a.tape == n)
  let cur := mine.filter (fun a => a.heat == heat && !a.withheld)
  let hasEarly (w : Participant) : Bool := mine.any (fun a => a.who == w && a.heat != heat && !a.withheld)
  -- step 1
  let s1 := cur.foldl (fun t a => match a.who with
    | .child w i c => sendTape t w i (tapeMsg s 1 c n heat (if rel.2 then some rel.1 else none) (getF s (F.TAPE_CFG_PART n)))
    | _ => t) s
  let isLocal (a : Arrival) : Bool := match a.who with | .engine _ _ _ => true | _ => false
  -- step 3, the records withheld before coming first
  let s2 := (mine.filter (fun a => a.withheld)).foldl releaseArrival s1
  let s3 := (cur.filter (fun a => isLocal a && !hasEarly a.who)).foldl releaseArrival s2
  let kept := s3.arrivals.filter (fun a => !(a.tape == n && a.heat == heat && !isLocal a))
  let marked := kept.map (fun a => if a.tape == n && a.heat == heat then { a with withheld := true } else a)
  let s4 := { s3 with arrivals := marked }
  -- step 4
  let nh := (heat + 1) % 2 ^ 32
  let nx := s4.arrivals.filter (fun a => a.tape == n && !a.withheld)
  let s5 := setF (setF s4 (F.TAPE_HEAT_HEAT n) nh) (F.TAPE_STAT_STATE n) 0
  let s6 := setF (setF s5 (F.TAPE_STAT_ARRIVED n) (nx.filter isLocal).length)
    (F.TAPE_STAT_CHILD_ARR n) (nx.filter (fun a => !isLocal a)).length
  ctrEvent { s6 with tapeRel := Sparse.del s6.tapeRel n } 0x1C n 1 noCtx

/-- Completion tests and releases that are due now, at most `k` of each (R446, R448). -/
def tapeRun : Nat → State → Nat → State
  | 0, s, _ => s
  | k + 1, s, n =>
    if tapeState s n = 2 && decide ((Sparse.at s.tapeRel n (0, false)).1 ≤ now s) then tapeRun k (releaseHeat s n) n
    else if heatComplete s n then tapeRun k (completeHeat s n) n
    else s

/-- How an arrival is treated (R444). -/
inductive ArriveKind
  | refused | fault (cause : Nat) | early | current
deriving DecidableEq, Repr

/-- The table of R444, and the pool test of R443 for a child. -/
def arriveKind (s : State) (n : Nat) (who : Participant) (sense : Nat) : ArriveKind :=
  let k := (s.arrivals.filter (fun a => a.tape == n && a.who == who)).length
  let cur := heatOf s n % 2
  let isChild := match who with | .child _ _ _ => true | _ => false
  let cnt := if isChild then getF s (F.TAPE_STAT_CHILD_ARR n) else getF s (F.TAPE_STAT_ARRIVED n)
  let lim := if isChild then getF s (F.TAPE_CFG_NCHILD n) else getF s (F.TAPE_CFG_EXPECT n)
  if tapeState s n = 3 then .refused
  else if 2 ≤ k then .fault 1
  else if k = 1 then (if sense != cur then .early else .fault 1)
  else if sense != cur then .fault 2
  else if tapeState s n = 0 then (if lim < cnt + 1 then .fault 3 else .current)
  else .fault 3

/-- Take an arrival record (R444). -/
def takeArrival (s : State) (n : Nat) (early : Bool) (a : Arrival) : State :=
  let h := if early then (heatOf s n + 1) % 2 ^ 32 else heatOf s n
  let s1 := { s with arrivals := s.arrivals ++ [{ a with heat := h }] }
  if early then s1
  else match a.who with
    | .child _ _ _ => setF s1 (F.TAPE_STAT_CHILD_ARR n) (getF s (F.TAPE_STAT_CHILD_ARR n) + 1)
    | _ => setF s1 (F.TAPE_STAT_ARRIVED n) (getF s (F.TAPE_STAT_ARRIVED n) + 1)

/-- Enter RELEASING from UP: the ticks since ARRIVE are LAG (R447, R455). -/
def enterReleasing (s : State) (n t : Nat) (al : Bool) : State :=
  let s1 := match Sparse.find s.tapeSent n with
    | some t0 => incF s (F.PART_SYNC_LAG_LAG (getF s (F.TAPE_CFG_PART n))) (now s - t0)
    | none => s
  setF { s1 with tapeSent := Sparse.del s1.tapeSent n, tapeRel := Sparse.put s1.tapeRel n (t, al) } (F.TAPE_STAT_STATE n) 2

/-- The tick whose low 32 bits are `a` and that lies within 2^31 of `t` (R51). -/
def absTick (t a : Nat) : Nat :=
  let base := t / 2 ^ 32 * 2 ^ 32 + a % 2 ^ 32
  if base + 2 ^ 31 < t then base + 2 ^ 32
  else if t + 2 ^ 31 ≤ base then base - 2 ^ 32
  else if base + 2 ^ 31 = t then base
  else base

/-- A tape message is refused (R454): its NA_CNT, and REFUSED to the sender of an ARRIVE or a RELEASE, with the refusing
tape's heat (R453) and the PART of the message that it answers. -/
def refuseTape (s : State) (m : Nat) (reply : Bool) : State :=
  let s1 := setF (incF s F.GLB_SYNC_CNT_NA_CNT 1) F.GLB_SYNC_STAT_NOT_APPLIED 1
  if reply then sendTape s1 (bits m 27 5) (bits m 18 9)
    (tapeMsg s 3 (bits m 10 8) (bits m 2 8) (heatOf s (bits m 2 8)) none (bits m 97 4))
  else s1

/-- The refusal test of R454; `testPart` is false for a REFUSED message. -/
def tapeRefuses (s : State) (m : Nat) (testPart : Bool) : Bool :=
  let n := bits m 2 8
  !flagF s (F.TAPE_CFG_EN n) || (testPart && bits m 97 4 != getF s (F.TAPE_CFG_PART n)) || bits m 101 27 != 0

/-- TAPE_ARRIVE_MESSAGE (R443, R444, R446, R454, R811). -/
def execTapeArriveMessage (mw : BitVec 128) (s : State) : Host.Outcome State Fault Refusal :=
  if !arrayRuns s then .next s else
  let m := mw.toNat
  let n := bits m 2 8
  if bits m 0 2 != 0 then .next s
  else if tapeRefuses s m true then .next (refuseTape s m true)
  else
    let who := Participant.child (bits m 27 5) (bits m 18 9) (bits m 10 8)
    let a : Arrival := ⟨n, who, 0, false, false, false, none, .mesh 0 (bits m 27 5) (bits m 18 9) 0,
      ⟨0x13, 0, bits m 97 4, 0, 0, 0, false, false, 0, false, 0, 0, 0, 0, 0, 0, 0, false, 0⟩, now s⟩
    match arriveKind s n who (bits m 32 1) with
    | .refused => .next (sendTape s (bits m 27 5) (bits m 18 9)
        (tapeMsg s 2 (bits m 10 8) n (heatOf s n) none (getF s (F.TAPE_CFG_PART n))))
    | .fault c => .next (tapeFault s n c 0x06 (if bits m 32 1 = heatOf s n % 2 then some who else none))
    | .early => if 4096 ≤ s.arrivals.length then .next (tapeFault s n 4 0x06 none) else .next (takeArrival s n true a)
    | .current => if 4096 ≤ s.arrivals.length then .next (tapeFault s n 4 0x06 (some who))
        else .next (tapeRun 6 (takeArrival s n false a) n)

/-- TAPE_RELEASE_MESSAGE (R447, R448, R454, R811). -/
def execTapeReleaseMessage (mw : BitVec 128) (s : State) : Host.Outcome State Fault Refusal :=
  if !arrayRuns s then .next s else
  let m := mw.toNat
  let n := bits m 2 8
  if bits m 0 2 != 1 || tapeState s n == 3 then .next s
  else if tapeRefuses s m true then .next (refuseTape s m true)
  else if tapeState s n != 1 || bits m 32 32 != heatOf s n then .next (tapeFault s n 5 0x06 none)
  else
    let al := bits m 96 1 == 1
    let t := if al then absTick (now s) (bits m 64 32) else now s
    let s1 := enterReleasing s n t al
    let s2 := if al && decide (t < now s)
      then setF (setF s1 F.GLB_SYNC_STAT_ALIGN_LATE 1) F.GLB_SYNC_STAT_LAST_TAPE n else s1
    .next (tapeRun 6 s2 n)

/-- TAPE_FAULT_MESSAGE (R449 cause NOTICE, R454, R811). -/
def execTapeFaultMessage (mw : BitVec 128) (s : State) : Host.Outcome State Fault Refusal :=
  if !arrayRuns s then .next s else
  let m := mw.toNat
  let n := bits m 2 8
  if bits m 0 2 != 2 || tapeState s n == 3 then .next s
  else if tapeRefuses s m true then .next (refuseTape s m false)
  else .next (tapeFault s n 6 0x06 none)

/-- TAPE_REFUSED_MESSAGE (R449 cause LINK, R454, R811). -/
def execTapeRefusedMessage (mw : BitVec 128) (s : State) : Host.Outcome State Fault Refusal :=
  if !arrayRuns s then .next s else
  let m := mw.toNat
  let n := bits m 2 8
  if bits m 0 2 != 3 || tapeState s n == 3 then .next s
  else if tapeRefuses s m false then .next (refuseTape s m false)
  else .next (tapeFault s n 5 0x06 none)

/-- TAPE_RELEASE: the release tick of a tape in RELEASING has come (R448). -/
def execTapeRelease (n : Nat) (s : State) : Host.Outcome State Fault Refusal :=
  if !arrayRuns s then .next s else
  if tapeState s n = 2 && decide ((Sparse.at s.tapeRel n (0, false)).1 ≤ now s) then .next (tapeRun 6 s n)
  else .next s

/-- Restart a tape at a heat (R451). -/
def restartTape (s : State) (n heat : Nat) : State :=
  let s1 := (s.arrivals.filter (fun a => a.tape == n)).foldl (abandonArrival 0x07) s
  let s2 := { s1 with arrivals := s1.arrivals.filter (fun a => a.tape != n), tapeRel := Sparse.del s1.tapeRel n,
                      tapeSent := Sparse.del s1.tapeSent n }
  let s3 := setF (setF s2 (F.TAPE_HEAT_HEAT n) heat) (F.TAPE_STAT_FAULT_CAUSE n) 0
  setF (setF (setF s3 (F.TAPE_STAT_STATE n) 0) (F.TAPE_STAT_ARRIVED n) 0) (F.TAPE_STAT_CHILD_ARR n) 0

end Sys2Proof.Machine
end

