-- ==== Sys2Proof/Machine/Tasks.lean ====
section
/-! DEFINITION. Pacer tasks: the launch block, the admission of a task, its start, its end and its abort, and the outbound
requests of the mesh gateway (R265, R266, R374 to R384, R402, R412 to R414, R588). -/

namespace Sys2Proof.Machine

-- ## Streams

/-- States of a stream: 0 IDLE, 1 RUNNING, 2 ENDING, 3 ABORTING. -/
def streamState (s : State) (q st : Nat) : Nat := getF s (F.PACER_S_STAT_STATE q st)

/-- The task of a stream. -/
def findTask (s : State) (q st : Nat) : Option Task := s.tasks.find? (fun t => t.q == q && t.st == st)

/-- Replace the task of its stream. -/
def putTask (s : State) (t : Task) : State :=
  { s with tasks := s.tasks.map (fun u => if u.q == t.q && u.st == t.st then t else u) }

/-- Drop the task of a stream. -/
def dropTask (s : State) (q st : Nat) : State :=
  let keep := match findTask s q st with
    | some t => (t.x ++ t.l).zipIdx.foldl (fun m p => Sparse.set m ((q * 4 + st) * 16 + p.2) p.1 0) s.xKeep
    | none => s.xKeep
  { s with tasks := s.tasks.filter (fun u => !(u.q == q && u.st == st)), xKeep := keep }

/-- The task that a launch request holds. -/
def taskOfReq (s : State) (rid : Nat) : Option Task := s.tasks.find? (fun t => t.rid == rid)

-- ## The launch block (R377)

/-- CONS of a launch block. -/
def blkCons (b : Nat) : Nat := bits b 160 9
/-- CONS_EN. -/
def blkConsEn (b : Nat) : Bool := bitAt b 169
/-- RING_G. -/
def blkRing (b : Nat) : Nat := bits b 170 13
/-- LINKS. -/
def blkLinks (b : Nat) : Nat := bits b 118 4
/-- RING_BASE. -/
def blkBase (b : Nat) : Nat := bits b 192 32

/-- The end tick of a launch (R377). -/
def launchEnd (b trx promise : Nat) : Nat := if bits b 128 32 = 0 then promise else absTick trx (bits b 128 32)

/-- A core is bound to a partition (R187). -/
def bound (s : State) (lane core p : Nat) : Bool :=
  bitAt (getF s (F.LANE_CTL_BIND lane)) core && getF s (F.LANE_PART_PART lane core) == p

/-- Check 9 of a PACE_LAUNCH (R379). -/
def launchBound (s : State) (b p : Nat) : Bool := !blkConsEn b || bound s (blkCons b / 8) (blkCons b % 8) p

/-- `a` divided by `n`, rounded up. -/
def ceilDiv (a n : Nat) : Nat := (a + n - 1) / n

/-- The charge of a task in each of the `n` buckets of its window (R265, R359, R381). -/
def taskCharge (b q p n : Nat) : Charge :=
  let rd := bits b 0 24
  let wr := bits b 24 24
  let rm := bits b 48 24
  let f := 2 ^ bits b 112 3
  let ports := [(ctrPacer q 0, ceilDiv rd n), (ctrPacer q 1, ceilDiv wr n), (ctrPacer q 2, ceilDiv rm n)]
    ++ ((List.range 4).filter (fun k => bitAt (blkLinks b) k)).map (fun k => (ctrLink k, ceilDiv rm n))
    ++ (if blkConsEn b then [(ctrChan (blkCons b / 8 * 3 + 2), ceilDiv (bits b 72 24) n)] else [])
    ++ [(ctrIssue, ceilDiv (bits b 96 16) n)]
  { tracks := (List.range 16).map (fun t => (t, ceilDiv (f * (rd + wr + rm)) (16 * n)))
    ports := ports, part := p, cls := bits b 115 3 }

/-- Book a window of `n` buckets from `b` on, each with the capacities of `step`; none when a bucket has no room. -/
def bookWindow (step : Nat) (c : Charge) : Nat → State → Nat → Option State
  | 0, s, _ => some s
  | n + 1, s, b => if room s step b c then bookWindow step c n (bookFine s step b c) (b + 1) else none

/-- Decide a pacer task (R265, R266): `d` is its end tick. In HOLDOVER its whole window lies inside the holdover window (R46,
R256). A refusal for lack of room counts in REF at the first bucket of the window (R280). -/
def decideTask (s : State) (b q p trx d : Nat) : Adm × State :=
  let bf := bFirst s trx
  let be := min (bEnd (admitD s d)) (fineOf (now s) + 4096)
  let n := be - bf
  if n = 0 then (.busy never, s)
  else
    let c := taskCharge b q p n
    match bookWindow (admitStep s) c n s bf with
    | some s1 => if holdOkF s (be - 1) then (.admitted (.task bf n), s1) else (.busy (now s + 131072), s)
    | none =>
      let s1 := countRef s bf be c
      if s.cad.ann.isSome && holdOkF s (be - 1) && (bookWindow (currentStep s) c n s bf).isSome
      then (.rate (s.cad.ann.map Ann.tick |>.getD 0), s1)
      else
        match findFrom (fun x => (bookWindow (admitStep s) c n s x).isSome) (fineOf (now s) + 4097 - n - bf) bf with
        | some x => (.busy (64 * (x - 1)), s1)
        | none => (.busy never, s1)

/-- Load a stream with its task (R383). -/
def loadTask (s : State) (r : Request) (b bf n : Nat) : State :=
  let q := bits r.h.arg 0 4
  let st := bits r.h.arg 4 2
  let lane := match r.org with | .lane l _ => l | _ => 0
  let t : Task :=
    { q := q, st := st, rid := r.id, h := r.h, blk := b, bFirst := bf, bLast := bf + n - 1, started := false, parked := false,
      x := (List.range 4).map (fun i => bits b (256 + 64 * i) 64) ++ [0, 0, 0, 0], l := [0, 0, 0, 0],
      src := none, dst := none, srcPage := none, dstPage := none, usedB := 0, used := [0, 0, 0, 0, 0], pushes := [],
      handles := [], pwait := false, lastSent := false, prog := [0, 0, 0, 0, 0], abortAt := 0 }
  let s1 := { s with tasks := s.tasks ++ [t] }
  let s2 := setF (setF s1 (F.PACER_S_STAT_STATE q st) 1) (F.PACER_S_STAT_PC q st) (bits r.h.arg 6 8)
  let s3 := setF (setF s2 (F.PACER_S_STAT_STAINED q st) 0) (F.PACER_S_OWNER_PART q st) r.h.part
  let s4 := setF (setF s3 (F.PACER_S_OWNER_CLASS q st) (bits b 115 3)) (F.PACER_S_OWNER_LAUNCHER q st) (lane * 8 + r.h.core)
  let s5 := setF (setF s4 (F.PACER_S_OWNER_CONS q st) (blkCons b)) (F.PACER_S_OWNER_CONS_EN q st) (b2n (blkConsEn b))
  let s6 := setF (setF s5 (F.PACER_S_CRED_AVAIL q st) (blkRing b)) (F.PACER_S_CRED_LAST_COUNT q st) 0
  let s7 := setF (setF s6 (F.PACER_S_PUSHSEQ_SEQ q st) 0) (F.PACER_S_MOVED_MOVED q st) 0
  let cut := 64 * (bf + n)
  setF (setF s7 (F.PACER_S_CUT_LO_CUT_LO q st) cut) (F.PACER_S_CUT_HI_CUT_HI q st) (cut / 2 ^ 32)

/-- The cutoff of a task (R382). -/
def cutoff (t : Task) : Nat := 64 * (t.bLast + 1)

/-- The remote deadline of a task (R382). -/
def remoteDl (t : Task) : Nat := cutoff t - 3700

/-- The TASK journal entry of a launch (R574, R576). -/
def taskEntry (s : State) (r : Request) (b d : Nat) : JEntry :=
  { entry0 2 with part := r.h.part, cls := r.h.cls, req := reqId r.org, tag := r.h.tag, owafer := selfWafer s,
                  oinst := (selfInst s), core := r.h.core, engine := r.h.engine, body := 3, promised := d,
                  unit := bits r.h.arg 0 4 * 4 + bits r.h.arg 4 2, words := [b, 0, 0], rid := some r.id }

-- ## Outbound requests of the mesh gateway (R588)

/-- A header as a word of R143, without its CRC. -/
def hdrWord (h : Hdr) : Nat :=
  fieldsWord [(4, h.op), (9, h.cls), (12, h.part), (16, h.tag), (28, h.core), (31, h.engine), (33, b2n h.retry),
    (35, b2n h.dlAbs), (36, h.spread), (39, b2n h.bib), (40, h.size), (56, h.mod), (64, h.addr), (104, h.deadline),
    (136, h.arg), (200, h.attBaton), (214, h.attAdd), (222, b2n h.attEn), (223, h.stainMap)]

/-- The requester identity an outbound request carries. -/
def gwReq (s : State) (e : GwEntry) : Nat :=
  match e.stream, e.rid.bind (findReq s) with
  | some (q, _), _ => 0xC0 + q
  | none, some r => reqId r.org
  | none, none => 0xC0

/-- Send an outbound request on its link; `retry` is RETRY. -/
def gwTransmit (s : State) (e : GwEntry) (retry : Bool) : State :=
  let hd := if retry && !bitAt e.hdr 33 then e.hdr + 2 ^ 33 else e.hdr
  let s1 := if retry then incF s (F.MESH_LINK_CNT_RESEND_CNT e.link) 1 else s
  let s2 := ctrEvent s1 0x11 e.link e.beats.length
    ⟨gwReq s e, bits e.hdr 16 12, bits e.hdr 12 4, some (bits e.hdr 9 3), 0⟩
  let s3 := energyEvt s2 4 (bits e.hdr 12 4) (bits e.hdr 9 3) e.beats.length
  emit s3 (.mesh (.request (bits e.hdr 99 5) (bits e.hdr 90 9) (selfWafer s) (selfInst s) (gwReq s e) hd e.beats))

/-- The launcher of the task of a stream, lane × 8 + core. -/
def launcherOf (s : State) (stream : Option (Nat × Nat)) : Nat :=
  match stream with
  | some (q, st) => getF s (F.PACER_S_OWNER_LAUNCHER q st)
  | none => 0

/-- Place a request in the outbound buffer and send it (R171, R588). -/
def gwOpen (s : State) (rid : Option Nat) (stream : Option (Nat × Nat)) (h : Hdr) (beats : List Nat) (promised : Nat) : State :=
  let e : GwEntry :=
    { seq := s.nextId, rid := rid, stream := stream, hdr := hdrWord { h with retry := false }, beats := beats,
      link := Config.route (bits h.addr 35 5) (bits h.addr 26 9), promised := promised, resends := 0, retryAt := 0,
      owner := launcherOf s stream }
  gwTransmit { s with gw := s.gw ++ [e], nextId := s.nextId + 1 } e false

/-- The outbound request with a number. -/
def findGw (s : State) (seq : Nat) : Option GwEntry := s.gw.find? (fun e => e.seq == seq)

/-- Replace an outbound request. -/
def putGw (s : State) (e : GwEntry) : State := { s with gw := s.gw.map (fun x => if x.seq == e.seq then e else x) }

/-- Drop an outbound request. -/
def dropGw (s : State) (seq : Nat) : State := { s with gw := s.gw.filter (fun x => x.seq != seq) }

-- ## Pushes

/-- The stream counts result granules as delivered (R422). -/
def noteMoved (s : State) (q st n : Nat) : State :=
  setF s (F.PACER_S_MOVED_MOVED q st) (getF s (F.PACER_S_MOVED_MOVED q st) + n)

/-- A SIGNAL packet of a stream toward its consumer (R160, R403, R404, R413). -/
def streamSignal (s : State) (t : Task) (core kind value size sm : Nat) (beats : List Nat) : State :=
  sendOrHold s ⟨⟨core / 8, 2, fieldsWord [(0, 2), (4, kind), (8, core % 8), (11, 3), (13, b2n (beats != [])), (14, size),
    (24, sm), (40, t.q), (44, t.st), (64, value % 2 ^ 64)], beats⟩, none, none, none⟩

/-- One PUSH packet from sequence number `sq` on (R403). -/
def sendPush (s : State) (t : Task) (sq : Nat) (beats : List Nat) (sm : Nat) : State :=
  if beats = [] then s
  else
    let v := fieldsWord [(0, (blkBase t.blk + 64 * (sq % blkRing t.blk)) % 2 ^ 32), (32, sq % 2 ^ 32)]
    let n := beats.length
    let id := blkCons t.blk / 8 * 3 + 2
    let c : EvCtx := ⟨0xC0 + t.q, t.h.tag, t.h.part, some t.h.cls, 0⟩
    let s1 := energyEvt (ctrEvent s 0x0E id n c) 3 t.h.part t.h.cls n
    let s2 := if sm = 0 then s1 else incF (ctrEvent s1 0x1F (0xC0 + t.q) 1 c) (F.PART_INTEG_DELIVERED t.h.part) 1
    streamSignal (noteMoved s2 t.q t.st n) t (blkCons t.blk) 1 v (64 * n - 1) sm beats

/-- Send the granules of a push, split where they cross the end of the ring (R403). -/
def sendPushes (s : State) (t : Task) (p : Push) (beats : List Nat) (sm : Nat) : State :=
  let k := min p.n (blkRing t.blk - p.seq % blkRing t.blk)
  sendPush (sendPush s t p.seq (beats.take k) (sm % 2 ^ k)) t (p.seq + k) (beats.drop k) (sm / 2 ^ k)

/-- Pushes leave in sequence order (R403): at most `n` of them. -/
def flushPushes : Nat → State → Nat → Nat → State
  | 0, s, _, _ => s
  | n + 1, s, q, st =>
    match findTask s q st with
    | none => s
    | some t =>
      match t.pushes with
      | p :: rest =>
        match p.data with
        | some (beats, sm) =>
          let s1 := sendPushes (putTask s { t with pushes := rest }) t p beats sm
          flushPushes n s1 q st
        | none => s
      | [] => s

-- ## Outstanding work

/-- Local accesses of a stream that have not completed. -/
def streamReqs (s : State) (q st : Nat) : List Request := s.reqs.filter (fun r => r.org == .pacer q st)

/-- Every earlier write of a stream has committed (R396). -/
def writesDone (s : State) (q st : Nat) : Bool := (streamReqs s q st).all (fun r => !isWriteType r.h.op)

/-- No earlier read of a stream feeds a remote write that has not been sent. -/
def remotesSent (s : State) (q st : Nat) : Bool :=
  (streamReqs s q st).all (fun r => match r.sink with | .remote _ => false | _ => true)

/-- Every earlier remote write of a stream has been answered (R396). -/
def remotesDone (s : State) (q st : Nat) : Bool := remotesSent s q st && s.gw.all (fun e => e.stream != some (q, st))

/-- Every push of a stream has left Elras (R396): none is being read or held for its channel. -/
def pushesLeft (s : State) (t : Task) : Bool :=
  t.pushes == [] && (chanOf s (blkCons t.blk / 8 * 3 + 2)).heldOut.all (fun x =>
    !(bits x.p.hdr 0 4 == 2 && bits x.p.hdr 4 4 != 3 && bits x.p.hdr 40 4 == t.q && bits x.p.hdr 44 2 == t.st))

/-- Everything a stream has issued has completed (SYNC and END of R387). -/
def streamQuiet (s : State) (q st : Nat) : Bool :=
  (streamReqs s q st == []) && remotesDone s q st && (findTask s q st).all (pushesLeft s)

-- ## The end of a task

/-- Drop the hold of a stream: it becomes IDLE. -/
def freeStream (s : State) (q st : Nat) : State :=
  let s1 := setF (dropTask s q st) (F.PACER_S_STAT_STATE q st) 0
  { s1 with waiters := s1.waiters.filter (fun w => w.stream != some (q, st)),
            relayWait := s1.relayWait.filter (fun w => w.stream != some (q, st)) }

/-- The normal end of a task whose stream is ENDING and quiet (R384). -/
def endTask (s : State) (t : Task) : State :=
  let s1 := if bitAt t.blk 238 then signalAs s (bits t.blk 224 14) 1 t.h.part else s
  let code := if flagF s1 (F.PACER_S_STAT_STAINED t.q t.st) then 1 else 0
  let s2 := freeStream s1 t.q t.st
  match findReq s2 t.rid with
  | some r => respond s2 r code 0 0 []
  | none => s2

/-- Finish an abort once the local accesses of the stream have completed (R413). -/
def settleAbort (s : State) (q st : Nat) : State :=
  match findTask s q st with
  | none => s
  | some t =>
    if streamState s q st = 3 && streamReqs s q st == [] then
      let killed := getF s (F.PACER_S_STAT_CAUSE q st) == 0x10
      let s1 := orF (freeStream s q st) (F.PACER_STAT_ABORTED q) st
      let s2 := irqIf s1 (F.PACER_CTL_ABORT_IRQ_EN q) 4
      match findReq s2 t.rid with
      | some r => answer s2 r 6 (if killed then 1 else 2)
      | none => s2
    else s

/-- Mark the handles that a task pushed and that are still in a queue (R368). -/
def markHandles (s : State) (rid : Nat) : State :=
  let r := s.relays.map (fun p => (p.1, p.2.map (fun (h : Handle) => if h.task == some rid then { h with aborted := true } else h)))
  { s with relays := r }

/-- A handle popped and not pushed onward goes to the recovery queue of its source queue, or is counted (R369). -/
def recoverHandle (s : State) (x : Nat × Handle) : State :=
  let a := getF s (F.RLY_CTL_ABORT_Q x.1)
  if flagF s (F.RLY_CTL_ABORT_Q_EN x.1) && flagF s (F.RLY_CTL_EN a)
     && getF s (F.RLY_CTL_PART a) == getF s (F.RLY_CTL_PART x.1) && decide ((relayQ s a).length < 64) then
    enterRelay s a { x.2 with task := none, aborted := false }
  else incF s (F.RLY_CNT_LOST_CNT x.1) 1

/-- The handles of a task that ends abnormally (R369): at most 30 are recovered, and those beyond are counted (R602). -/
def recoverHandles (s : State) (l : List (Nat × Handle)) : State :=
  (l.drop 30).foldl (fun s x => incF s (F.RLY_CNT_LOST_CNT x.1) 1) ((l.take 30).foldl recoverHandle s)

/-- The handles of a task that it has not pushed onward: one that a remote RPUSH has taken is, once it has been sent and
not refused (R369, R413; log entry 114). -/
def unpushed (s : State) (t : Task) : List (Nat × Handle) :=
  (s.gw.filter (fun e => e.stream == some (t.q, t.st) && e.retryAt == 0 && bits e.hdr 4 5 == 0x17)).foldl
    (fun l e => dropHandle (bits e.hdr 152 12) l) t.handles

/-- STREAM_ABORT to the consumer and to the named instance (R413). -/
def abortSignals (s : State) (t : Task) (cause : Nat) : State :=
  let s1 := if blkConsEn t.blk then streamSignal s t (blkCons t.blk) 3 cause 0 0 [] else s
  if bitAt t.blk 239 then
    let w := bits t.blk 240 5
    let i := bits t.blk 245 9
    let c := bits t.blk 183 9
    if (w == 31 && i == 511) || (assigned s1 && w == selfWafer s1 && i == selfInst s1) then streamSignal s1 t c 3 cause 0 0 []
    else emit s1 (.mesh (.abortNotice w i c t.q t.st cause))
  else s1

/-- The requests of an aborting stream that complete: those past stage 3, but for writes whose data is still to be read by
an access that is withdrawn. -/
def keepOnAbort (s : State) (q st : Nat) (r : Request) : Bool :=
  r.org != .pacer q st || (r.stage != .stage3 && match r.needs with
    | none => true
    | some n => s.reqs.any (fun x => x.id == n && x.stage != .stage3))

/-- The cause recorded for a task that is ABORTING already (R414): the lowest code of those that arise in one array cycle,
and KILLED for a kill that comes later (log entry 113). -/
def laterCause (s : State) (t : Task) (cause : Nat) : Nat :=
  let was := getF s (F.PACER_S_STAT_CAUSE t.q t.st)
  if t.abortAt = s.cad.cycles + 1 then min was cause else if cause = 0x10 then cause else was

/-- Abort the task of a stream (R412, R413, R414). -/
def abortTask (s : State) (q st cause : Nat) : State :=
  match findTask s q st with
  | none => s
  | some t =>
    if streamState s q st = 3 then setF s (F.PACER_S_STAT_CAUSE q st) (laterCause s t cause)
    else
      let s1 := { s with reqs := s.reqs.filter (keepOnAbort s q st) }
      let s2 := { s1 with
        gw := (s1.gw.filter (fun e => e.stream != some (q, st) || e.retryAt == 0)).map
          (fun e => if e.stream == some (q, st) then { e with stream := none, rid := none } else e),
        waiters := s1.waiters.filter (fun w => w.stream != some (q, st)),
        relayWait := s1.relayWait.filter (fun w => w.stream != some (q, st)) }
      let s3 := setF (setF s2 (F.PACER_S_STAT_STATE q st) 3) (F.PACER_S_STAT_CAUSE q st) cause
      let s4 := setF s3 (F.PACER_S_STAT_ABORT_PC q st) (getF s (F.PACER_S_STAT_PC q st))
      let s5 := putTask (abortSignals s4 t cause) { t with pushes := [], handles := [], abortAt := s.cad.cycles + 1 }
      let s6 := recoverHandles (markHandles s5 t.rid) (unpushed s t)
      let s7 := { s6 with reqs := s6.reqs.map (fun r => if r.id == t.rid then { r with stage := .waiting } else r) }
      settleAbort s7 q st

/-- A CREDIT packet for a stream (R402): COUNT from lane `lane` on channel D. The packet names no core (R168), so its lane
stands for CONS (log entry 31). -/
def takeCredit (s : State) (lane q st count : Nat) : State :=
  match findTask s q st with
  | some t =>
    let last := getF s (F.PACER_S_CRED_LAST_COUNT q st)
    let diff := (count + 2 ^ 16 - last) % 2 ^ 16
    let avail := getF s (F.PACER_S_CRED_AVAIL q st)
    let ok := blkCons t.blk / 8 == lane && (streamState s q st == 1 || streamState s q st == 2)
      && decide (diff ≤ blkRing t.blk - avail)
    if ok then setF (setF s (F.PACER_S_CRED_AVAIL q st) (avail + diff)) (F.PACER_S_CRED_LAST_COUNT q st) count
    else incF s (F.PACER_CRD_ERR_CRD_ERR_CNT q) 1
  | none => incF s (F.PACER_CRD_ERR_CRD_ERR_CNT q) 1

end Sys2Proof.Machine
end

