-- ==== Sys2Proof/Machine/Requests.lean ====
section
/-! DEFINITION. A request from its packet to its acceptance: the checks of R173, tags, the hold point, lane combining,
admission, and the operations that have no bank charge. -/

namespace Sys2Proof.Machine

-- ## Building a request

/-- A request record with nothing decided. -/
def blankReq (id : Nat) (org : Origin) (h : Hdr) (beats : List Beat) (trx : Nat) : Request :=
  { id := id, org := org, h := h, beats := beats, trx := trx, adm := 0, promise := 0, place := .free, bucket := 0, factor := 1,
    stage := .held, isRemote := false, base := 0, mirror := none, bib := none, accs := [], res := [], order := 0,
    verdict := (0, 0), key := 0, step := 0, value := 0, vst := false, counted := false, kill := false, sink := .none,
    needs := none, aux := [] }

/-- The enable mask of the bytes `a` to `b` that lie in granule `g`. -/
def byteMask (g a b : Nat) : Nat :=
  let lo := max a (64 * g) - 64 * g
  let hi := min b (64 * g + 63) - 64 * g
  if b < 64 * g || 64 * g + 63 < a then 0 else (2 ^ (hi + 1 - lo) - 1) * 2 ^ lo

/-- An access that reads. -/
def readAcc (g k copy burst : Nat) : GAcc := ⟨g, k, copy, burst, 0, 0, false, 0, false, none, 0⟩

/-- The accesses of one copy of a request at byte offset `o` (R286, R302, R303, R345). -/
def copyAccs (h : Hdr) (beats : List Beat) (o copy : Nat) : List GAcc :=
  if h.op = 1 ∨ h.op = 2 then
    (stridedAccesses h o).zipIdx.map (fun p => readAcc p.1.toNat p.2 copy (32 * copy + p.2))
  else if isAtomic h.op then [readAcc (o / 64) 0 copy (32 * copy)]
  else
    let data := (burstGrans h o).zipIdx.map (fun p =>
      if h.op = 4 ∨ h.op = 6 then
        { readAcc p.1 p.2 copy (32 * copy) with data := beats.getD p.2 0, be := byteMask p.1 o (o + h.size),
                                                st := bitAt h.stainMap p.2 }
      else readAcc p.1 p.2 copy (32 * copy))
    let sc := (if h.op = 3 ∨ h.op = 5 then (xfScale h o).toList else []).map (fun g => readAcc g 255 copy (32 * copy + 1))
    data ++ sc

/-- The accesses of a request: its primary copy, and the mirror copy (R344: every stored granule). -/
def buildAccs (h : Hdr) (beats : List Beat) (o : Nat) (mirror : Option Nat) : List GAcc :=
  copyAccs h beats o 0 ++ (match mirror with | some m => copyAccs h beats m 1 | none => [])

/-- First and last granule of one copy of a request (R353), if it has any. -/
def hullOf (r : Request) (copy : Nat) : Option (Nat × Nat) :=
  match (r.accs.filter (fun a => a.copy == copy)).map (fun a => a.gran) with
  | [] => none
  | g :: l => some (l.foldl min g, l.foldl max g)

/-- Two ranges share a granule. -/
def overlaps (a b : Option (Nat × Nat)) : Bool :=
  match a, b with
  | some x, some y => decide (x.1 ≤ y.2) && decide (y.1 ≤ x.2)
  | _, _ => false

/-- Granules of a response (R144, R151). -/
def respGrans (h : Hdr) : Nat :=
  if h.op = 0 then (h.addr % 64 + h.size) / 64 + 1 else if isRead h.op then h.size / 64 + 1 else 0

/-- The charge of a request over its accesses (R234 to R238, R341, R358); a mirror repair is charged for a write of every
granule that it reads too (R17, log entry 105). -/
def chargeOf (r : Request) (spread : Nat) : Charge × Nat :=
  let gs := (r.accs.filter (fun a => a.copy == 0 && (r.h.op != 3 || a.k != 255))).map (fun a => a.gran)
  let mn := match r.org with
    | .lane _ _ => minFactor r.h.op gs
    | .mesh _ _ _ _ => if r.aux.headD 0 = 30 then 1 else minFactor r.h.op gs
    | .combine _ _ _ => minFactor r.h.op gs
    | .marshal => 2
    | .debug => 2
    | _ => 1
  let f := max (2 ^ spread) mn
  let per := if r.h.op = 6 || isAtomic r.h.op || (r.org == .scrub && r.aux.headD 0 == 12) then 2 else 1
  let nb := r.beats.length
  let ports := match r.org with
    | .lane l ch => [(ctrChan (l * 3 + ch), nb + (if ch = 0 then (respGrans r.h + 1) / 2 else respGrans r.h))]
    | .combine l _ _ => [(ctrChan (l * 3 + 1), nb)]
    | .mesh k _ _ _ => [(ctrLink k, nb + respGrans r.h)]
    | .spill _ => [(ctrSpill, r.accs.length)]
    | _ => []
  let ent := if isWriteType r.h.op then (if r.mirror.isSome then 2 else 1) else 0
  ({ tracks := trackSlots (r.accs.map (fun a => a.gran)) (f * per)
     ports := (ports ++ [(ctrIssue, ent)]).filter (fun p => p.2 != 0), part := r.h.part, cls := r.h.cls }, f)

-- ## Targets (check 5)

/-- Wafer field of a global address. -/
def addrWafer (a : Nat) : Nat := bits a 35 5
/-- Instance field. -/
def addrInst (a : Nat) : Nat := bits a 26 9

/-- The self alias (R78). -/
def isAlias (a : Nat) : Bool := addrWafer a == 31 && addrInst a == 511

/-- The instance's own indices (R79). -/
def isSelf (s : State) (a : Nat) : Bool := assigned s && addrWafer a == selfWafer s && addrInst a == selfInst s

/-- A local request (R79, R148, R151). -/
def isLocal (s : State) (h : Hdr) : Bool := h.bib || isZeroAddr h.op || isAlias h.addr || isSelf s h.addr

/-- A site of the system table is reported good (R80). -/
def siteGood (s : State) (w i : Nat) : Bool := bitAt (Sparse.at s.sysRow w 0) i

/-- The byte range passes the top of the instance (R70). -/
def pastTop (h : Hdr) : Bool :=
  isData h.op && !h.bib && (let o := h.addr % 2 ^ 26; decide ((2 ^ 26 : Int) ≤ o + (byteSpan h o).2))

/-- Check 5 at the receiving lane (R70, R78, R80, R94, R322, R427). -/
def badTarget (s : State) (h : Hdr) : Bool :=
  if h.bib || isZeroAddr h.op then false
  else if isAlias h.addr then pastTop h
  else if !assigned s then true
  else if isSelf s h.addr then pastTop h
  else
    let w := addrWafer h.addr
    decide (23 < w) || decide (479 < addrInst h.addr) || !siteGood s w (addrInst h.addr) || pastTop h
    || h.op == 0x11 || h.op == 0x13
    || (isAtomic h.op && (bits h.mod 1 2 == 0 || (bits h.mod 1 2 == 1 && w != selfWafer s)))

/-- Class permission (R241, check 8). -/
def classOk (s : State) (p c : Nat) : Bool :=
  if c = 7 then flagF s (F.PART_QOS_CLASS_EN7 p) else bitAt (getF s (F.PART_QOS_CLASS_EN p)) c

-- ## Bib resolution and region (check 9)

/-- The bytes `a` to `b` lie in the region of partition `p`, which grants the permissions (R88 to R90). -/
def regionOk (s : State) (p op : Nat) (l : List (Int × Int)) : Bool :=
  p == 15 ||
  (let rg := regionOf s p
   l.all (fun x => decide ((64 * rg.1 : Nat) ≤ x.1) && decide (x.2 < (64 * rg.2 : Nat)))
   && (!(isRead op || isAtomic op) || flagF s (F.PART_REGION_RD_EN p))
   && (!isWriteType op || flagF s (F.PART_REGION_WR_EN p)))

/-- The byte ranges of a request, as displacements from its first byte (R144, R295, R300, R303). -/
def ranges (h : Hdr) (o : Nat) : List (Int × Int) :=
  if h.op = 1 ∨ h.op = 2 then (stridedRuns h 0).map (fun p => (p.1, p.1 + (p.2 : Int) - 1)) else [byteSpan h o]

/-- A bib entry is read and checked (R336, R527); the flag says that it is uncorrectable. -/
def readBibEntry (s : State) (n : Nat) (u : Upset) : Bool × State :=
  match resolveUpset s u with
  | (.single, s1) => (false, logEvt s1 0x0B 1 (getF s1 (F.BIB_CTL_PART n)) 0xFF n 0 0 0)
  | (.double, s1) =>
    let s2 := setF (setF s1 F.GLB_BIB_STAT_UE 1) F.GLB_BIB_STAT_LAST_BIB n
    let s3 := { s2 with bibBad := if s2.bibBad.contains n then s2.bibBad else s2.bibBad ++ [n] }
    (true, logEvt s3 0x0B 3 (getF s3 (F.BIB_CTL_PART n)) 0xFF n 0 0 1)
  | (_, s1) => (false, s1)

/-- A bib is VALID: an entry found uncorrectable is treated as VALID 0 (R336). -/
def bibValid (s : State) (n : Nat) : Bool := flagF s (F.BIB_CTL_VALID n) && !s.bibBad.contains n

/-- Where a request resolves: the instance offset of its first byte, its mirror offset, the PLACE found, and the offset
that R315 uses. -/
structure Resolved where
  base : Nat
  mirror : Option Nat
  place : Nat
  off : Nat
deriving DecidableEq, Repr

/-- Resolve offset `o0` in bib `n` for partition `p` (R338 to R340, R809); the error is (CODE, VALUE). -/
def resolveBib (s : State) (h : Hdr) (n o0 p : Nat) : Except (Nat × Nat) Resolved :=
  if !bibValid s n || (getF s (F.BIB_CTL_PART n) != p && p != 15) then .error (4, 4)
  else
    let len := 64 * getF s (F.BIB_LEN_LEN n)
    let o := if getF s (F.BIB_CTL_LAYOUT n) = 2 then o0 % max len 1 else o0
    let rs := ranges h o
    let inside := rs.all (fun x => decide (0 ≤ (o : Int) + x.1) && decide ((o : Int) + x.2 < (len : Int)))
    let fmt := getF s (F.BIB_CTL_FORMAT n)
    let tileBad := getF s (F.BIB_CTL_LAYOUT n) == 1 && (h.op == 3 || h.op == 5) && isMX (xfCode h)
      && (xfCode h != fmt || o / 64 % tileGranules fmt != 0)
    if !inside || tileBad then .error (4, 5)
    else
      let pl := getF s (F.BIB_CTL_PLACE n)
      if 1 ≤ pl ∧ pl ≤ 3 then .ok ⟨0, none, pl, o⟩
      else
        let base := 64 * (getF s (F.BIB_LOC_LOC n) % 2 ^ 20) + o
        let mir := if flagF s (F.BIB_CTL_MIRROR n) then some (64 * getF s (F.BIB_AUX_MIRROR_G n) + o) else none
        let at0 (b : Nat) : List (Int × Int) := rs.map (fun x => ((b : Int) + x.1, (b : Int) + x.2))
        let ok := regionOk s p h.op (at0 base)
          && (!isWriteType h.op || (match mir with | some m => regionOk s p h.op (at0 m) | none => true))
        if ok then .ok ⟨base, mir, pl, o⟩ else .error (4, 5)

/-- Check 9 of a data operation (R88, R338). -/
def resolveData (s : State) (h : Hdr) (up : Upset) : Except (Nat × Nat) Resolved × State :=
  if h.bib then
    let n := bits h.addr 28 12
    let r := readBibEntry s n up
    if r.1 then (.error (7, 7), r.2) else (resolveBib r.2 h n (h.addr % 2 ^ 28) h.part, r.2)
  else
    let o := h.addr % 2 ^ 26
    if regionOk s h.part h.op ((ranges h o).map (fun x => ((o : Int) + x.1, (o : Int) + x.2))) then (.ok ⟨o, none, 0, o⟩, s)
    else (.error (4, 5), s)

/-- Check 9 of an operation that names no data (R360, R379, R426, R442); the baton's word is read first. -/
def identOk (s : State) (h : Hdr) (beats : List Beat) (up : Upset) : Except (Nat × Nat) Resolved × State :=
  if 0x10 ≤ h.op ∧ h.op ≤ 0x12 then
    let s1 := readBatonWord s (bits h.arg 0 14) up
    (if batonAllows s1 (bits h.arg 0 14) h.part then .ok ⟨0, none, 0, 0⟩ else .error (4, 5), s1)
  else if h.op = 0x13 then
    let n := bits h.arg 0 8
    (if flagF s (F.TAPE_CFG_EN n) && (h.part == getF s (F.TAPE_CFG_PART n) || h.part == 15)
     then .ok ⟨0, none, 0, 0⟩ else .error (4, 5), s)
  else if h.op = 0x16 then
    (if launchBound s (beats.headD 0).toNat h.part then .ok ⟨0, none, 0, 0⟩ else .error (4, 1), s)
  else if h.op = 0x17 ∨ h.op = 0x18 then
    (if relayAllows s (bits h.arg 0 7) h.part then .ok ⟨0, none, 0, 0⟩ else .error (4, 5), s)
  else (.ok ⟨0, none, 0, 0⟩, s)

/-- Every burst lies in one track block (R74, check 10). -/
def oneBlock (h : Hdr) (accs : List GAcc) : Bool :=
  h.op == 1 || h.op == 2 || accs.all (fun a => accs.all (fun b => a.burst != b.burst || a.gran / 32 == b.gran / 32))

/-- Checks 8 to 10 of a local request or of one that arrived over the mesh. The request comes back with its offsets. -/
def checks8 (s : State) (r : Request) (up : Upset) : Except (Nat × Nat) Request × State :=
  if !classOk s r.h.part r.h.cls then (.error (4, 3), s)
  else
    let res := if isData r.h.op then resolveData s r.h up else identOk s r.h r.beats up
    match res.1 with
    | .error e => (.error e, res.2)
    | .ok d =>
      let isLane := match r.org with | .lane _ _ => true | _ => false
      if r.h.attEn && isLane && !batonAllows res.2 r.h.attBaton r.h.part then (.error (4, 5), res.2)
      else
        let tier := decide (1 ≤ d.place) && decide (d.place ≤ 3)
        let accs := if isData r.h.op && !tier then buildAccs r.h r.beats d.base d.mirror else []
        if !oneBlock r.h accs then (.error (5, 7), res.2)
        else (.ok { r with base := d.base, mirror := d.mirror, accs := accs, aux := [d.place, d.off],
                           bib := if r.h.bib then some (bits r.h.addr 28 12) else none }, res.2)

-- ## Answers before acceptance

/-- Answer a request that is not accepted; its data credits return (R171). -/
def reject (s : State) (r : Request) (code value : Nat) : State :=
  let s1 := match r.org with
    | .lane l ch => giveCredits s (l * 3 + ch) 0 r.beats.length
    | _ => s
  answer s1 r code value

/-- The promised time of a request (R240, R252); before 0x16 its end tick is tested against the same. -/
def promiseOf (s : State) (h : Hdr) (trx : Nat) : Nat :=
  min (promisedTime s h.cls trx (if h.dlAbs then absTick trx h.deadline else trx + h.deadline)) (horizonEnd s)

-- ## Operations without a bank charge

/-- The waits outstanding of the engine of a request (R432). -/
def waitsOf (s : State) (r : Request) : Nat :=
  (s.waiters.filter (fun w => match w.rid.bind (findReq s) with
    | some q => q.org == r.org && q.h.core == r.h.core && q.h.engine == r.h.engine
    | none => false)).length

/-- A BATON_SIGNAL, BATON_WAIT or BATON_READ takes effect (R429, R432). -/
def doBaton (s : State) (r : Request) : State :=
  let b := bits r.h.arg 0 14
  if r.h.op = 0x11 ∧ 2 ≤ waitsOf s r then
    answer (setF (setF s F.GLB_SYNC_STAT_WAIT_OVF 1) F.GLB_SYNC_STAT_LAST_BATON b) r 6 0x04
  else if batonShut s b then
    let s1 := if r.h.op = 0x10 then noteNotApplied s b else s
    answer s1 r (batonRefusal s b).1 (batonRefusal s b).2
  else if r.h.op = 0x10 then answer (signalBaton s b (bits r.h.arg 16 16)) r 0 0
  else if r.h.op = 0x12 then answer s r 0 (getF s (F.BTN_CNT_COUNT b))
  else
    let t := bits r.h.arg 32 32
    if reached (getF s (F.BTN_CNT_COUNT b)) t then
      answer (ctrEvent s 0x1B (b / 256) 1 noCtx) r 0 (getF s (F.BTN_CNT_COUNT b))
    else putReq { s with waiters := s.waiters ++ [⟨b, t, some r.id, none⟩] } { r with stage := .waiting }

/-- A TAPE_ARRIVE takes effect (R443 to R446). -/
def doArrive (s : State) (r : Request) : State :=
  let n := bits r.h.arg 0 8
  let lane := match r.org with | .lane l _ => l | _ => 0
  let who := Participant.engine lane r.h.core r.h.engine
  let notify := bitAt r.h.mod 1
  let a : Arrival := ⟨n, who, 0, false, notify, bitAt r.h.mod 0, if notify then none else some r.id, r.org, r.h, r.trx⟩
  let take (early : Bool) : State :=
    if 4096 ≤ s.arrivals.length then answer (setF (setF s F.GLB_SYNC_STAT_ARR_OVF 1) F.GLB_SYNC_STAT_LAST_TAPE n) r 6 0x05
    else
      let s1 := takeArrival s n early a
      let s2 := if notify then answer s1 r 0 0 else putReq s1 { r with stage := .waiting }
      tapeRun 6 s2 n
  match arriveKind s n who (bits r.h.arg 16 1) with
  | .refused => answer s r 6 0x06
  | .fault c => answer (tapeFault s n c 0x06 none) r 6 0x06
  | .early => take true
  | .current => take false

/-- The pacers that a HINT names take its descriptor (R416). -/
def doHint (s : State) (arg trx : Nat) : State :=
  let st := trx + bits arg 20 24
  let en := st + 1024 * bits arg 44 16
  ((List.range 16).filter (fun q => bitAt (bits arg 4 16) q)).foldl (fun t q =>
    let t1 := setF (setF t (F.PACER_HINT_LO_DESC_LO q) arg) (F.PACER_HINT_HI_DESC_HI q) (arg / 2 ^ 32)
    if bits arg 0 4 = 0 then setF { t1 with hints := Sparse.del t1.hints q } (F.PACER_STAT_HINT_ACT q) 0
    else setF { t1 with hints := Sparse.put t1.hints q (st, en) } (F.PACER_STAT_HINT_ACT q)
      (b2n (decide (st ≤ now t) && decide (now t < en)))) s

/-- A RELAY_PUSH takes effect (R363, R364). -/
def doPush (s : State) (r : Request) : State :=
  let q := bits r.h.arg 0 7
  let hd : Handle := ⟨bits r.h.arg 16 12, false, none⟩
  if (relayQ s q).length < 64 && !s.relayWait.any (fun w => w.queue == q) then answer (enterRelay s q hd) r 0 0
  else if s.relayWait.length < 256 then
    putReq { s with relayWait := s.relayWait ++ [⟨q, hd, some r.id, none⟩] } { r with stage := .waiting }
  else answer (incF s (F.RLY_CNT_FULL_CNT q) 1) r 6 0x03

/-- A RELAY_POP takes effect (R362, R368). -/
def doPop (s : State) (r : Request) : State :=
  match popRelay s (bits r.h.arg 0 7) with
  | (none, s1) => answer s1 r 0 (2 ^ 12)
  | (some h, s1) => answer s1 r (if h.aborted then 1 else 0) h.bib

/-- An accepted request without a bank charge acts (R253). -/
def actNow (s : State) (r : Request) : State :=
  match r.h.op with
  | 0x10 => doBaton s r
  | 0x11 => doBaton s r
  | 0x12 => doBaton s r
  | 0x13 => doArrive s r
  | 0x14 => answer s r 0 0
  | 0x15 => answer (doHint s r.h.arg r.trx) r 0 0
  | 0x17 => doPush s r
  | 0x18 => doPop s r
  | _ => s

-- ## Acceptance

/-- An accepted request goes on: a data operation to release, the others act at once (R16, R579). -/
def proceed (s : State) (r : Request) : State :=
  if isData r.h.op || r.h.op == 0x16 then putReq s { r with stage := .admitted } else actNow (putReq s r) r

/-- The journal entry of an RMT (R573, R576). -/
def rmtEntry (r : Request) (ow oi rq : Nat) : JEntry :=
  { entry0 1 with part := r.h.part, cls := r.h.cls, req := rq, tag := r.h.tag, owafer := ow, oinst := oi, core := r.h.core,
                  engine := r.h.engine, promised := r.promise, addr := r.h.addr, size := r.h.size, op := r.h.op,
                  rid := (some r.id) }

/-- Accept a request (R16): its credits return, its journal entry and filter entry are made, and it goes on once the buddy
has acknowledged them (R579). -/
def accept (s : State) (r : Request) (pl : Place) : State :=
  let b := match pl with | .fine b => b | .task b _ => b | _ => fineOf (now s)
  let r1 := { r with place := pl, bucket := b, adm := now s,
                     key := getF s (F.PART_SR_KEY_LO_KEY_LO r.h.part) + 2 ^ 32 * getF s (F.PART_SR_KEY_HI_KEY_HI r.h.part),
                     step := getF s (F.PART_SR_STEP_STEP r.h.part) }
  let s1 := ctrEvent s 0x03 (reqId r.org) 1 (ctxOf r)
  let s2 := match r.org with
    | .lane l ch => giveCredits s1 (l * 3 + ch) 0 r.beats.length
    | _ => s1
  let go (t : State) : State := if shadowOn t then putReq t { r1 with stage := .shadow } else proceed t r1
  match r.org with
  | .mesh _ ow oi rq =>
    if isRmt r.h.op then
      let d : Dedup := ⟨ow, oi, rq, r.h.tag, r.h.op, r.h.addr, r.h.size, 0, 0, 0, r.promise + 16384, false, false⟩
      go (jnlOpen { s2 with dedup := s2.dedup ++ [d] } (rmtEntry r1 ow oi rq))
    else proceed s2 r1
  | _ =>
    if r.h.op = 0x16 then
      go (jnlOpen s2 (taskEntry s2 r1 (r.beats.headD 0).toNat (launchEnd (r.beats.headD 0).toNat r.trx r.promise)))
    else proceed s2 r1

/-- The promised completion of the move that holds a bib (R343, R513). -/
def moveTick (s : State) (n : Nat) : Nat :=
  match s.moves.find? (fun m => m.held.any (fun j => m.bibs.getD j 4096 == n)) with
  | some m => m.promised
  | none => never

/-- The refusal of R343 for a bib that is not resident, if any: VALUE. -/
def notResident (s : State) (r : Request) : Option Nat :=
  match r.bib with
  | none => none
  | some n =>
    match r.aux.headD 0 with
    | 0 => none
    | 4 => some (moveTick s n)
    | 5 => if isRead r.h.op then none else some never
    | _ => some never

/-- The earliest expiry of the filter (R587). -/
def dedupEarliest (s : State) : Nat :=
  match s.dedup.map (fun d => d.expiry) with
  | [] => now s
  | x :: l => l.foldl min x

/-- The journal and the filter have no place for an RMT (R575, R587): VALUE. -/
def rmtFull (s : State) (r : Request) : Option (Nat × State) :=
  match r.org with
  | .mesh _ _ _ _ =>
    if !isRmt r.h.op then none
    else if !jnlRoom s 1 then some (jnlEarliest s, setF s F.JNL_STAT_JNL_FULL 1)
    else if 4096 ≤ s.dedup.length then some (dedupEarliest s, setF s F.JNL_STAT_DEDUP_FULL 1)
    else none
  | _ => none

/-- Check 11 of a PACE_LAUNCH after the pauses (R265, R266, R380, R381, R575). -/
def launchCheck (s : State) (r : Request) : State :=
  let b := (r.beats.headD 0).toNat
  let q := bits r.h.arg 0 4
  let st := bits r.h.arg 4 2
  match findTask s q st with
  | some t => reject s r 2 (64 * (t.bLast + 3))
  | none =>
    if !flagF s (F.PACER_CTL_EN q) then reject s r 2 never
    else if !jnlRoom s 4 then reject (setF s F.JNL_STAT_JNL_FULL 1) r 2 (jnlEarliest s)
    else
      match decideTask s b q r.h.part r.trx (launchEnd b r.trx r.promise) with
      | (.admitted (.task bf n), s1) => accept (loadTask s1 r b bf n) r (.task bf n)
      | (.admitted _, s1) => s1
      | (.busy v, s1) => reject s1 r 2 v
      | (.rate v, s1) => reject s1 r 3 v

/-- The declared spread factor of a request, as SPREAD (R341). -/
def declared (s : State) (r : Request) : Nat :=
  match r.bib with
  | some n => max r.h.spread (getF s (F.BIB_CTL_SPREAD n))
  | none => r.h.spread

/-- The SIG_BLOCK key of an engine (R438). -/
def blockKey (r : Request) : Option Nat :=
  match r.org with
  | .lane l ch => some ((l * 3 + ch) * 32 + r.h.core * 4 + r.h.engine)
  | _ => none

/-- Check 11 (R247 to R256, R343, R438, R575, R587). A pause of R256 comes first, as in R247; then a set SIG_BLOCK flag, then
a bib that is not resident (log entry 115). -/
def check11 (s : State) (r0 : Request) : State :=
  let r := { r0 with promise := promiseOf s r0.h r0.trx }
  let blocked := r.h.attEn && (match blockKey r with | some k => s.sigBlock.contains k | none => false)
  let s1 := if r.h.attEn then { s with sigBlock := s.sigBlock.filter (fun k => some k != blockKey r) } else s
  match pauseOf s1 r.h.cls with
  | some v => reject s1 r 2 v
  | none =>
    if blocked then reject s1 r 2 (now s)
    else if r.h.op = 0x16 then launchCheck s1 r
    else match notResident s1 r with
    | some v =>
      let s2 := setF (setF (incF s1 F.GLB_BIB_CNT_NR_CNT 1) F.GLB_BIB_STAT_NR 1) F.GLB_BIB_STAT_LAST_BIB (r.bib.getD 0)
      reject s2 r 2 v
    | none =>
      match rmtFull s1 r with
      | some (v, s2) => reject s2 r 2 v
      | none =>
        let c := chargeOf r (declared s1 r)
        match admission s1 r.h.cls r.trx r.promise c.1 with
        | (.admitted pl, s2) => accept s2 { r with factor := c.2 } pl
        | (.busy v, s2) => reject s2 r 2 v
        | (.rate v, s2) => reject s2 r 3 v

-- ## Lane combining (R480 to R483)

/-- An open combining entry overlaps one of the byte ranges. -/
def combHits (e : CombEntry) (l : List (Int × Int)) : Bool :=
  l.any (fun x => decide (x.1 ≤ (e.addr + e.width - 1 : Nat)) && decide ((e.addr : Int) ≤ x.2))

/-- The byte ranges of a local data request. -/
def byteRanges (r : Request) : List (Int × Int) :=
  if r.accs = [] then [] else (ranges r.h r.base).map (fun x => ((r.base : Int) + x.1, (r.base : Int) + x.2))

/-- The header of the write-back of a combining entry (R483). -/
def writeBackHdr (e : CombEntry) : Hdr :=
  { op := 4, cls := 7, part := 15, tag := 0, core := e.core, engine := 1, retry := false, dlAbs := false, spread := 0,
    bib := false, size := e.width - 1, mod := 0, addr := 0xFFFC000000 + e.addr, deadline := 0, arg := 0, attBaton := 0,
    attAdd := 0, attEn := false, stainMap := 0 }

/-- The combining entry with an identity. -/
def combIs (l c k : Nat) (e : CombEntry) : Bool := e.lane == l && e.core == c && e.slot == k

/-- Drop a combining entry. -/
def dropComb (s : State) (l c k : Nat) : State := { s with comb := s.comb.filter (fun e => !combIs l c k e) }

/-- Submit the write-back of a closing entry (R483): a refusal keeps it for its VALUE tick, one with VALUE never ends it. -/
def submitWriteBack (s : State) (r : Request) : State :=
  let p := promisedTime s 7 (now s) 0
  let c := chargeOf r 0
  let l := match r.org with | .combine l c k => (l, c, k) | _ => (0, 0, 0)
  let again (t : State) (v : Nat) : State :=
    if v = never then dropReq (dropComb t l.1 l.2.1 l.2.2) r.id else putReq t { r with adm := v }
  match admission s 7 (now s) p c.1 with
  | (.admitted pl, s1) => accept s1 { r with trx := now s, promise := min p (horizonEnd s), factor := c.2 } pl
  | (.busy v, s1) => again s1 v
  | (.rate v, s1) => again s1 v

/-- Close a combining entry (R483). -/
def closeComb (s : State) (e : CombEntry) : State :=
  if e.closing then s
  else if !e.dirty then dropComb s e.lane e.core e.slot
  else
    let h := writeBackHdr e
    let beat : Beat := BitVec.ofNat 512 (e.value * 2 ^ (8 * (e.addr % 64)))
    let r0 := blankReq s.nextId (.combine e.lane e.core e.slot) h [beat] (now s)
    let r := { r0 with base := e.addr, accs := buildAccs h [beat] e.addr none }
    let s1 := incF s (F.LANE_COMB_CNT_WRBACK e.lane) 1
    let mark (x : CombEntry) : CombEntry := if combIs e.lane e.core e.slot x then { x with closing := true } else x
    submitWriteBack { s1 with comb := s1.comb.map mark, reqs := s1.reqs ++ [r], nextId := s1.nextId + 1 } r

/-- The open entries of a core. -/
def combOf (s : State) (l c : Nat) : List CombEntry := s.comb.filter (fun e => e.lane == l && e.core == c)

/-- A request is a core-scope atomic on a local word (R480). -/
def coreScope (r : Request) : Bool := isAtomic r.h.op && bits r.h.mod 1 2 == 0 && !r.isRemote && r.accs != []

/-- The width of an atomic in bytes. -/
def atomWidth (h : Hdr) : Nat := if bitAt h.mod 0 then 8 else 4

/-- The operand and the compare value of an atomic (R151, R153). -/
def atomArgs (h : Hdr) (beats : List Beat) : Nat × Nat :=
  let w := 8 * atomWidth h
  if h.op = 0x0C then
    if w = 64 then (bits (beats.headD 0).toNat 64 64, bits (beats.headD 0).toNat 0 64) else (bits h.arg 32 32, bits h.arg 0 32)
  else (h.arg % 2 ^ w, 0)

/-- The open entry that a core-scope atomic combines with (R481). -/
def combFor (s : State) (r : Request) : Option CombEntry :=
  match r.org with
  | .lane l _ =>
    if coreScope r && flagF s (F.LANE_COMB_COMB_EN l) then
      (combOf s l r.h.core).find? (fun e => !e.closing && e.addr == r.base && e.width == atomWidth r.h)
    else none
  | _ => none

/-- Combine a core-scope atomic in the lane (R481). -/
def combine (s : State) (r : Request) (e : CombEntry) : State :=
  let a := atomArgs r.h r.beats
  let v := (atomicNew r.h.op (8 * e.width) e.value a.1 a.2).getD e.value
  let upd (x : CombEntry) : CombEntry :=
    if combIs e.lane e.core e.slot x then { x with value := v, dirty := true, age := s.cad.cycles } else x
  let s1 := incF { s with comb := s.comb.map upd } (F.LANE_COMB_CNT_COMBINED e.lane) 1
  reject (ctrEvent s1 0x21 e.lane 1 (ctxOf r)) r 0 e.value

/-- An atomic of lane `l` that is to open an entry at its answer (R480, R482). -/
def opensComb (s : State) (l : Nat) (r : Request) : Bool :=
  coreScope r && flagF s (F.LANE_COMB_COMB_EN l) && getF s (F.LANE_COMB_WIN l) != 0

/-- Open a combining entry after a core-scope atomic answered OK (R480, R482, R489). The hold point has kept a place for it;
where two atomics in flight have taken one place, the later opens an entry only if a clean one can close (log entry 116). -/
def openComb (s : State) (r : Request) (old : Nat) : State :=
  match r.org with
  | .lane l _ =>
    if opensComb s l r then
      let a := atomArgs r.h r.beats
      let w := atomWidth r.h
      let v := (atomicNew r.h.op (8 * w) old a.1 a.2).getD old
      let s1 := if 2 ≤ (combOf s l r.h.core).length then
          (match (combOf s l r.h.core).find? (fun e => !e.closing && !e.dirty) with
           | some e => closeComb s e
           | none => s)
        else s
      match (List.range 2).find? (fun k => !s1.comb.any (combIs l r.h.core k)) with
      | some slot => { s1 with comb := s1.comb ++ [⟨l, r.h.core, slot, r.base, w, v, false, s.cad.cycles, false⟩] }
      | none => s1
    else s
  | _ => s

-- ## The hold point (R473 to R486)

/-- Two requests of one engine of one core. -/
def sameEngine (a b : Request) : Bool := a.org == b.org && a.h.core == b.h.core && a.h.engine == b.h.engine

/-- The target of two requests is the same instance (R475). -/
def sameTarget (a b : Request) : Bool := a.isRemote == b.isRemote && (!a.isRemote || a.h.addr / 2 ^ 26 == b.h.addr / 2 ^ 26)

/-- A request has been answered while accesses of it go on (R551, R608). -/
def wasCut (r : Request) : Bool := r.aux.headD 0 == 31

/-- A request holds an order-table entry (R474): it has passed the hold point and has not completed. -/
def inOrderTable (r : Request) : Bool :=
  isWriteType r.h.op && !wasCut r && (match r.stage with
    | .shadow => true | .admitted => true | .stage3 => true | .access => true | .remote => true | _ => false)

/-- A FENCE's scope covers a target (R477): 0 local, 1 same wafer, 2 all. -/
def inScope (s : State) (scope : Nat) (remote : Bool) (wafer : Nat) : Bool :=
  !remote || scope == 2 || (scope == 1 && wafer == selfWafer s)

/-- An earlier request that a FENCE still waits for (R477). -/
def fenceWaits (s : State) (f q : Request) : Bool :=
  sameEngine f q && decide (q.id < f.id) && inScope s (bits f.h.mod 0 2) q.isRemote (addrWafer q.h.addr)
  && !(isWriteType q.h.op && q.stage == .signal) && !wasCut q

/-- An answer to an earlier request of the FENCE's engine, other than a write, that has not left (R477). -/
def fenceAns (s : State) (f : Request) (a : Ans) : Bool :=
  a.org == f.org && a.h.core == f.h.core && a.h.engine == f.h.engine && !a.replay && !isWriteType a.h.op
  && inScope s (bits f.h.mod 0 2) (!isLocal s a.h) (addrWafer a.h.addr)

/-- A response of the engine waits for its channel, for its WAKE or for the buddy (R163, R183, R477, R580). -/
def heldRead (s : State) (f : Request) : Bool :=
  (match f.org with
   | .lane l ch =>
     let c := chanOf s (l * 3 + ch)
     (c.heldOut ++ c.lead.map (fun p => p.2)).any (fun x => x.ans.any (fenceAns s f))
   | _ => false)
  || s.jnl.any (fun e => e.ans.any (fenceAns s f))

/-- A FENCE of a D engine waits for a pacer access or remote request issued before it by a task that its core launched,
also one of an aborted task (R413, R478). -/
def fencePacer (s : State) (f : Request) : Bool :=
  f.h.engine == 3 && (match f.org with
    | .lane l _ =>
      let mine (q st : Nat) : Bool := (findTask s q st).isSome && getF s (F.PACER_S_OWNER_LAUNCHER q st) == l * 8 + f.h.core
      s.reqs.any (fun r => decide (r.id < f.id) && (match r.org with | .pacer q st => mine q st | _ => false))
      || s.gw.any (fun e => decide (e.seq < f.id) && e.rid.isNone && e.owner == l * 8 + f.h.core
          && inScope s (bits f.h.mod 0 2) true (bits e.hdr 99 5))
    | _ => false)

/-- Another core-scope atomic of the core on the word of `r` is at the bank, and not yet answered: `r` waits for the entry
that its answer opens, so that the core's own atomics stay atomic (R324, log entry 116). -/
def combFlight (s : State) (l : Nat) (r : Request) : Bool :=
  opensComb s l r && s.reqs.any (fun q => q.id != r.id && q.stage != .held && !wasCut q && opensComb s l q && q.h.core == r.h.core
    && (match q.org with | .lane m _ => m == l | _ => false)
    && decide (q.base < r.base + atomWidth r.h) && decide (r.base < q.base + atomWidth q.h))

/-- A core-scope atomic that finds both entries of its core in use closes the older one, unless one is closing (R482). -/
def combPlace (s : State) (l : Nat) (r : Request) : State :=
  if opensComb s l r && decide (2 ≤ (combOf s l r.h.core).length) && (combOf s l r.h.core).all (fun e => !e.closing) then
    (match combOf s l r.h.core with
     | e :: _ => closeComb s e
     | [] => s)
  else s

/-- What the hold point does with a request: hold it, combine it, or let it pass. -/
inductive Hold
  | hold | comb (e : CombEntry) | pass
deriving DecidableEq, Repr

/-- The test of the hold point, with the closings and counts it makes (R473, R475, R477, R482, R486). -/
def holdTest (s : State) (r : Request) : Hold × State :=
  match r.org with
  | .lane l ch =>
    let own := s.reqs.filter (fun q => sameEngine q r && q.id != r.id)
    if own.any (fun q => q.stage == .held && decide (q.id < r.id)) then (.hold, s)
    else if r.h.op = 0x14 then
      let s1 := (combOf s l r.h.core).foldl closeComb s
      if combOf s1 l r.h.core != [] || own.any (fenceWaits s r) || heldRead s r || fencePacer s r then (.hold, s1)
      else (.pass, s1)
    else
      let c := combFor s r
      let rs := if r.isRemote then [] else byteRanges r
      let s0 := if c.isSome then s else ((combOf s l r.h.core).filter (fun e => combHits e rs)).foldl closeComb s
      let s1 := if c.isSome || combFlight s0 l r then s0 else combPlace s0 l r
      let stuck := c.isNone && ((combOf s1 l r.h.core).any (fun e => combHits e rs) || combFlight s1 l r
        || (opensComb s1 l r && decide (2 ≤ (combOf s1 l r.h.core).length)))
      let ovl := own.any (fun q => inOrderTable q && sameTarget q r && overlaps (hullOf q 0) (hullOf r 0))
      let full := isWriteType r.h.op && decide (64 ≤ (s1.reqs.filter (fun q => q.org == r.org && inOrderTable q)).length)
      let s2 := if ovl && !r.counted then incF (putReq s1 { r with counted := true }) (F.LANE_ORD_CNT_HOLD_CNT l) 1 else s1
      let s3 := if full then orF s2 (F.LANE_ORD_CNT_ORD_FULL l) ch else s2
      if stuck || ovl || full || (r.h.op == 0x16 && own.any inOrderTable) then (.hold, s3)
      else match c with
        | some e => (.comb e, s3)
        | none => (.pass, s3)
  | _ => (.pass, s)

/-- A request passes the hold point: a non-local one leaves for the mesh (R171, R238), a local one goes to check 11. -/
def passHold (s : State) (r : Request) : State :=
  if r.isRemote then
    let s1 := match r.org with
      | .lane l ch => giveCredits s (l * 3 + ch) 0 r.beats.length
      | _ => s
    let p := promiseOf s r.h r.trx
    gwOpen (putReq s1 { r with stage := .remote, promise := p }) (some r.id) none r.h (r.beats.map (fun b => b.toNat)) p
  else check11 s r

/-- Present a request to the hold point (R473). -/
def present (s : State) (r : Request) : State :=
  match holdTest s r with
  | (.hold, s1) => s1
  | (.comb e, s1) => combine s1 r e
  | (.pass, s1) => passHold s1 r

/-- Present a new request of a lane; one that is held is counted (R769). -/
def presentNew (s : State) (r : Request) (lane : Nat) : State :=
  match holdTest s r with
  | (.hold, s1) => ctrEvent s1 0x15 lane 1 (ctxOf r)
  | (.comb e, s1) => combine s1 r e
  | (.pass, s1) => passHold s1 r

/-- HOLD_POINT_PASS (R473, R475). -/
def execHoldPointPass (id : Nat) (s : State) : Host.Outcome State Fault Refusal :=
  if !arrayRuns s then .next s else
  match findReq s id with
  | some r =>
    match r.org with
    | .lane _ _ => if r.stage = .held then .next (present s r) else .next s
    | _ => .next s
  | none => .next s

-- ## Packets at a lane (R142 to R183)

/-- A packet is dropped at stage 1 (R142): counts, credits, ERROR. -/
def dropPacket (s : State) (p : LanePkt) (cause : Nat) : State :=
  let id := p.lane * 3 + p.ch
  let s1 := if cause = 1 then incF s (F.LANE_CH_DROP_CRC_CNT p.lane p.ch) 1 else incF s (F.LANE_CH_DROP_FRAME_CNT p.lane p.ch) 1
  let s2 := ctrEvent s1 0x0F id 1 noCtx
  sendError (giveCredits s2 id 1 (p.flits - 1)) p.lane p.ch cause none

/-- The data beats of a packet, as many as its flits say. -/
def beatsOf (p : LanePkt) : List Beat := (p.beats ++ List.replicate (p.flits - 1) 0).take (p.flits - 1)

/-- Stage 1, checks 1 and 2 (R142): the drop cause, if any, for a packet whose header implies `n` data beats. -/
def dropCause (s : State) (p : LanePkt) (n : Nat) : Option Nat :=
  let x := p.hdr.toNat
  let c := chanOf s (p.lane * 3 + p.ch)
  if c.hAvail < 1 || c.dAvail < p.flits - 1 then some 3
  else if bits x 0 4 != 0 && bits x 0 4 != 5 then some 6
  else if p.flits != n + 1 then some 2
  else if bits x 240 16 != packetCrc x ((beatsOf p).map (fun b => b.toNat)) then some 1
  else none

/-- Take the packet's credits (R170), as far as the core side held them. -/
def creditsIn (s : State) (p : LanePkt) : State := takeCredits s (p.lane * 3 + p.ch) 1 (p.flits - 1)

/-- A replay from a record (R179, R589, R590). -/
def replay (s : State) (org : Origin) (h : Hdr) (code value sm : Nat) : State :=
  deliver s ⟨org, h, now s, code, value, sm, [], true, .free, none, false⟩

/-- A read under R179: it is executed again on a resend. -/
def isReadOp (op : Nat) : Bool := op ≤ 3 || op == 0x12

/-- Checks 4 to 10 of a request that passed check 3, and the hold point. -/
def newRequest (s : State) (p : LanePkt) (h : Hdr) : State :=
  let id := p.lane * 3 + p.ch
  let bs := beatsOf p
  let r0 := blankReq s.nextId (.lane p.lane p.ch) h bs (now s)
  let r := { r0 with isRemote := !isLocal s h }
  let s1 := setTag { s with nextId := s.nextId + 1, reqs := s.reqs ++ [r] } id h.tag .held
  let blk := (bs.headD 0).toNat
  let late := h.op == 0x16 && bits blk 128 32 != 0 && decide (promiseOf s h (now s) < absTick (now s) (bits blk 128 32))
  match check4 p.hdr h p.ch bs late with
  | some c => reject s1 r 5 c
  | none =>
    if badTarget s1 h then reject s1 r 5 5
    else if !bound s1 p.lane h.core h.part then reject s1 r 4 1
    else if !partCreated s1 h.part then reject s1 r 4 2
    else if r.isRemote then
      if h.attEn && !batonAllows s1 h.attBaton h.part then reject s1 r 4 5
      else
        let r1 := if isData h.op then { r with base := h.addr % 2 ^ 26, accs := buildAccs h bs (h.addr % 2 ^ 26) none } else r
        let s2 := putReq s1 r1
        presentNew s2 r1 p.lane
    else
      match checks8 s1 r p.up with
      | (.error e, s2) => reject s2 r e.1 e.2
      | (.ok r1, s2) => presentNew (putReq s2 r1) r1 p.lane

/-- A resend on a tag that is not FREE is counted (R177). -/
def countDup (s : State) (p : LanePkt) : State :=
  ctrEvent (incF s (F.LANE_CH_RETRY_RESEND_DUP p.lane p.ch) 1) 0x10 (p.lane * 3 + p.ch) 1 noCtx

/-- Check 3 (R177 to R179, R590, R604). -/
def checkTag (s : State) (p : LanePkt) (h : Hdr) : State :=
  let id := p.lane * 3 + p.ch
  let back (t : State) : State := giveCredits t id 0 (p.flits - 1)
  let key := id * 4096 + h.tag
  if s.blind.contains key && h.retry then
    back (replay s (.lane p.lane p.ch) h 7 0x02 0)
  else
    let s0 := { s with blind := s.blind.filter (fun k => k != key) }
    match tagOf s0 id h.tag, h.retry with
    | .free, false => newRequest s0 p h
    | .free, true =>
      match findDedup s0 (selfWafer s0) (selfInst s0) id h.tag with
      | some d =>
        if d.op = h.op && d.addr = h.addr && d.size = h.size then
          back (replay s0 (.lane p.lane p.ch) h d.code d.value d.stainMap)
        else back (replay s0 (.lane p.lane p.ch) h 5 5 0)
      | none =>
        let s1 := ctrEvent (incF s0 (F.LANE_CH_RETRY_RESEND_NEW p.lane p.ch) 1) 0x10 id 1 noCtx
        newRequest s1 p h
    | .held, false => sendError (back s0) p.lane p.ch 4 (some (h.tag, h.core, h.engine))
    | .held, true => countDup (back s0) p
    | .answered _, false => newRequest s0 p h
    | .answered r, true =>
      let s1 := countDup s0 p
      if r.op != h.op || r.addr != h.addr || r.size != h.size then
        sendError (back s1) p.lane p.ch 5 (some (h.tag, h.core, h.engine))
      else if isReadOp h.op then newRequest s1 p h
      else back (replay s1 (.lane p.lane p.ch) h r.code r.value r.stainMap)

/-- A packet belongs to the row of operation `op`: READ also takes the packets whose PTYPE or OP no row has. -/
def ofRow (op : Nat) (p : LanePkt) : Bool :=
  let x := p.hdr.toNat
  let pt := bits x 0 4
  if pt = 0 then (bits x 4 5 == op || (op == 0 && !opKnown (bits x 4 5))) else op == 0 && pt != 5

/-- A request packet arrives at a lane (R142, R173). -/
def lanePacket (op : Nat) (p : LanePkt) (s : State) : State :=
  let id := p.lane * 3 + p.ch
  let h := decodeHdr p.hdr
  if decide (64 ≤ p.lane) || decide (3 ≤ p.ch) || p.flits == 0 || !ofRow op p || !chanUp s p.lane p.ch || !arrayRuns s || portsHeld s then s
  else
    match dropCause s p (beatsIn h) with
    | some 3 =>
      let c := chanOf s id
      let s1 := dropPacket s p 3
      setChan s1 id { chanOf s1 id with hAvail := c.hAvail, dAvail := c.dAvail }
    | some k => dropPacket (creditsIn s p) p k
    | none =>
      let s1 := giveCredits (creditsIn s p) id 1 0
      let s2 := ctrEvent s1 0x0D id (p.flits - 1) ⟨id, h.tag, h.part, some h.cls, 0⟩
      checkTag (energyEvt s2 3 h.part h.cls (p.flits - 1)) p h

/-- READ (R151, R173). -/
def execRead (p : LanePkt) (s : State) : Host.Outcome State Fault Refusal := .next (lanePacket 0 p s)
/-- READ_T (R300 to R302). -/
def execReadT (p : LanePkt) (s : State) : Host.Outcome State Fault Refusal := .next (lanePacket 1 p s)
/-- READ_S (R303, R304). -/
def execReadS (p : LanePkt) (s : State) : Host.Outcome State Fault Refusal := .next (lanePacket 2 p s)
/-- READ_X (R305 to R307). -/
def execReadX (p : LanePkt) (s : State) : Host.Outcome State Fault Refusal := .next (lanePacket 3 p s)
/-- WRITE (R144). -/
def execWrite (p : LanePkt) (s : State) : Host.Outcome State Fault Refusal := .next (lanePacket 4 p s)
/-- WRITE_N (R308 to R316). -/
def execWriteN (p : LanePkt) (s : State) : Host.Outcome State Fault Refusal := .next (lanePacket 5 p s)
/-- ACCUM (R317). -/
def execAccum (p : LanePkt) (s : State) : Host.Outcome State Fault Refusal := .next (lanePacket 6 p s)
/-- ATOM_ADD (R321). -/
def execAtomAdd (p : LanePkt) (s : State) : Host.Outcome State Fault Refusal := .next (lanePacket 8 p s)
/-- ATOM_MIN (R321). -/
def execAtomMin (p : LanePkt) (s : State) : Host.Outcome State Fault Refusal := .next (lanePacket 9 p s)
/-- ATOM_MAX (R321). -/
def execAtomMax (p : LanePkt) (s : State) : Host.Outcome State Fault Refusal := .next (lanePacket 0xA p s)
/-- ATOM_SWAP (R321). -/
def execAtomSwap (p : LanePkt) (s : State) : Host.Outcome State Fault Refusal := .next (lanePacket 0xB p s)
/-- ATOM_CAS (R153, R321). -/
def execAtomCas (p : LanePkt) (s : State) : Host.Outcome State Fault Refusal := .next (lanePacket 0xC p s)
/-- BATON_SIGNAL (R429). -/
def execBatonSignal (p : LanePkt) (s : State) : Host.Outcome State Fault Refusal := .next (lanePacket 0x10 p s)
/-- BATON_WAIT (R429, R432). -/
def execBatonWait (p : LanePkt) (s : State) : Host.Outcome State Fault Refusal := .next (lanePacket 0x11 p s)
/-- BATON_READ (R429). -/
def execBatonRead (p : LanePkt) (s : State) : Host.Outcome State Fault Refusal := .next (lanePacket 0x12 p s)
/-- TAPE_ARRIVE (R444). -/
def execTapeArrive (p : LanePkt) (s : State) : Host.Outcome State Fault Refusal := .next (lanePacket 0x13 p s)
/-- FENCE (R477). -/
def execFence (p : LanePkt) (s : State) : Host.Outcome State Fault Refusal := .next (lanePacket 0x14 p s)
/-- HINT (R416). -/
def execHint (p : LanePkt) (s : State) : Host.Outcome State Fault Refusal := .next (lanePacket 0x15 p s)
/-- PACE_LAUNCH (R376 to R384). -/
def execPaceLaunch (p : LanePkt) (s : State) : Host.Outcome State Fault Refusal := .next (lanePacket 0x16 p s)
/-- RELAY_PUSH (R363). -/
def execRelayPush (p : LanePkt) (s : State) : Host.Outcome State Fault Refusal := .next (lanePacket 0x17 p s)
/-- RELAY_POP (R362). -/
def execRelayPop (p : LanePkt) (s : State) : Host.Outcome State Fault Refusal := .next (lanePacket 0x18 p s)

/-- CORE_CREDIT_PACKET (R168, R402): permitted only on the D channel; one on another channel changes no stream. Its reserved
bits are ignored (log entry 118). -/
def execCoreCreditPacket (p : LanePkt) (s : State) : Host.Outcome State Fault Refusal :=
  if !arrayRuns s then .next s else
  let x := p.hdr.toNat
  let id := p.lane * 3 + p.ch
  if decide (64 ≤ p.lane) || decide (3 ≤ p.ch) || p.flits == 0 || bits x 0 4 != 5 || !chanUp s p.lane p.ch || portsHeld s then .next s
  else
    match dropCause s p 0 with
    | some 3 =>
      let c := chanOf s id
      let s1 := dropPacket s p 3
      .next (setChan s1 id { chanOf s1 id with hAvail := c.hAvail, dAvail := c.dAvail })
    | some k => .next (dropPacket (creditsIn s p) p k)
    | none =>
      let s1 := giveCredits (creditsIn s p) id 1 0
      let q := bits x 4 4
      let st := bits x 8 2
      if p.ch != 2 then .next (incF s1 (F.PACER_CRD_ERR_CRD_ERR_CNT q) 1)
      else .next (takeCredit s1 p.lane q st (bits x 10 16))

-- ## Channels (R167, R169, R172, R183)

/-- CHANNEL_UP: the link of a channel has trained. -/
def execChannelUp (lane ch : Nat) (s : State) : Host.Outcome State Fault Refusal :=
  let id := lane * 3 + ch
  if decide (64 ≤ lane) || decide (3 ≤ ch) || (chanOf s id).linkUp || aonState s == 1 || aonState s == 3 then .next s
  else
    let mark (d : Dedup) : Dedup := if d.lane && d.req / 3 == lane && d.expiry == never then { d with expiry := now s + 65536 } else d
    let s1 := setChan { s with dedup := s.dedup.map mark } id { chanOf s id with linkUp := true }
    .next (if chanUp s1 lane ch then channelInit s1 lane ch else s1)

/-- A channel goes down: the core side holds no credits of it (R169, R183). -/
def channelDown (s : State) (lane ch : Nat) : State :=
  let id := lane * 3 + ch
  channelOff (setChan s id { chanOf s id with linkUp := false }) lane ch

/-- CHANNEL_DOWN: the link of a channel is lost. -/
def execChannelDown (lane ch : Nat) (s : State) : Host.Outcome State Fault Refusal :=
  if decide (64 ≤ lane) || decide (3 ≤ ch) || !(chanOf s (lane * 3 + ch)).linkUp then .next s
  else .next (channelDown s lane ch)

/-- CREDIT_RETURN_TIMEOUT: a return has not appeared in a header for 64 array cycles (R172). -/
def execCreditReturnTimeout (lane ch : Nat) (s : State) : Host.Outcome State Fault Refusal :=
  if !arrayRuns s then .next s else
  let o := (chanOf s (lane * 3 + ch)).owed
  if decide (lane < 64) && decide (ch < 3) && o != 0 && decide (o + 63 ≤ s.cad.cycles) && chanUp s lane ch
  then .next (launchLane s ⟨lane, ch, 5, []⟩) else .next s

-- ## Combining entries

/-- COMB_WINDOW_EXPIRY: WIN times 16 array cycles without a combined atomic (R482). -/
def execCombWindowExpiry (lane core slot : Nat) (s : State) : Host.Outcome State Fault Refusal :=
  if !arrayRuns s then .next s else
  match s.comb.find? (combIs lane core slot) with
  | some e =>
    if !e.closing && decide (e.age + 16 * getF s (F.LANE_COMB_WIN lane) ≤ s.cad.cycles) then .next (closeComb s e) else .next s
  | none => .next s

/-- COMB_WRITE_BACK_RESEND: the VALUE tick of a refused write-back has come (R483). -/
def execCombWriteBackResend (id : Nat) (s : State) : Host.Outcome State Fault Refusal :=
  if !arrayRuns s then .next s else
  match findReq s id with
  | some r =>
    match r.org with
    | .combine _ _ _ => if r.stage = .held && decide (r.adm ≤ now s) then .next (submitWriteBack s r) else .next s
    | _ => .next s
  | none => .next s

-- ## Requests over the mesh (R589, R804)

/-- Check 4 as the target repeats it: R12 holds there too, channel and engine apart. -/
def meshCheck4 (x : Nat) (h : Hdr) (beats : List Beat) : Option Nat :=
  if badReserved x h beats then some 1
  else if badEncoding h beats then some 2
  else if badShape h beats then some 4
  else if badDeadline h then some 8
  else if badFields h then some 9
  else none

/-- A request for this instance, new to it: checks 5 to 11 (R173). -/
def meshNew (s : State) (m : MeshPkt) (h : Hdr) : State :=
  let org := Origin.mesh m.link m.owafer m.oinst m.oreq
  let r := blankReq s.nextId org h m.beats (now s)
  let s1 := { s with nextId := s.nextId + 1, reqs := s.reqs ++ [r] }
  match meshCheck4 m.hdr.toNat h m.beats with
  | some c => reject s1 r 5 c
  | none =>
    if isAlias h.addr || h.bib || isZeroAddr h.op || h.op == 0x11 || h.op == 0x13 || pastTop h then reject s1 r 5 5
    else if !partCreated s1 h.part then reject s1 r 4 2
    else
      match checks8 s1 r m.up with
      | (.error e, s2) => reject s2 r e.1 e.2
      | (.ok r1, s2) => check11 (putReq s2 r1) r1

/-- The duplicate lookup of R589. -/
def meshDup (s : State) (m : MeshPkt) (h : Hdr) : State :=
  let org := Origin.mesh m.link m.owafer m.oinst m.oreq
  let key (e : JEntry) : Bool := e.kind == 1 && e.owafer == m.owafer && e.oinst == m.oinst && e.req == m.oreq && e.tag == h.tag
  if h.retry then
    if s.jnl.any key then s
    else match findDedup s m.owafer m.oinst m.oreq h.tag with
      | some d =>
        if d.op = h.op && d.addr = h.addr && d.size = h.size then replay s org h d.code d.value d.stainMap
        else replay s org h 5 5 0
      | none => meshNew s m h
  else meshNew (dropDedup s m.owafer m.oinst m.oreq h.tag) m h

/-- MESH_REQUEST (R804). -/
def execMeshRequest (m : MeshPkt) (s : State) : Host.Outcome State Fault Refusal :=
  if !arrayRuns s || portsHeld s then .next s else
  let h := decodeHdr m.hdr
  if decide (4 ≤ m.link) || !bitAt (getF s F.MESH_STAT_UP) m.link || bitAt (getF s F.MESH_STAT_DATA_OFF) m.link then .next s
  else if isSelf s h.addr || isAlias h.addr then
    let s1 := ctrEvent s 0x12 m.link m.beats.length ⟨0xD0 + m.link, h.tag, h.part, some h.cls, 0⟩
    .next (meshDup (energyEvt s1 4 h.part h.cls m.beats.length) m h)
  else if addrWafer h.addr ≤ 23 && siteGood s (addrWafer h.addr) (addrInst h.addr) then
    .next (emit s (.mesh (.request (addrWafer h.addr) (addrInst h.addr) m.owafer m.oinst m.oreq m.hdr.toNat
      (m.beats.map (fun b => b.toNat)))))
  else .next (emit s (.mesh (.answer m.owafer m.oinst m.oreq h.tag 5 5 0 [])))

end Sys2Proof.Machine
end

