-- ==== Sys2Proof/Machine/Transforms.lean ====
section
/-! DEFINITION. The memory-side transforms: the response of a READ, READ_T, READ_S or READ_X from the granules that its
accesses delivered, and the granules that a WRITE_N writes (R284 to R316, R325). -/

namespace Sys2Proof.Machine

/-- What the transform unit or the assembler is given for one access: its data beat index, its bytes, its stain. -/
structure Del where
  k : Nat
  data : Nat
  st : Bool
deriving DecidableEq, Repr

/-- The delivery with an index. -/
def delAt (l : List Del) (k : Nat) : Del := (l.find? (fun d => d.k == k)).getD ⟨k, 0, false⟩

/-- What a transform made: the result granules, their stain map, and the elements saturated and NaN. -/
structure Made where
  beats : List Nat
  sm : Nat
  sat : Nat
  nan : Nat
deriving DecidableEq, Repr

/-- A bit map from a test. -/
def mapBits (n : Nat) (f : Nat → Bool) : Nat := fieldsWord ((List.range n).map (fun i => (i, b2n (f i))))

/-- The 64-byte granules of a bit string of `n` granules. -/
def granulesOf (n x : Nat) : List Nat := (List.range n).map (fun i => bits x (512 * i) 512)

/-- The bit string of a list of 64-byte granules. -/
def bitsOf (l : List Nat) : Nat := l.foldr (fun g a => g + 2 ^ 512 * a) 0

/-- The bits of the bytes that a mask enables. -/
def keepBytes (x be : Nat) : Nat := fieldsWord ((List.range 64).map (fun i => (8 * i, if bitAt be i then bits x (8 * i) 8 else 0)))

-- ## READ

/-- The response of a READ (R144): the granules touched, bytes outside the range zero. -/
def makeRead (h : Hdr) (o : Nat) (l : List Del) : Made :=
  let gs := granRange o (o + h.size)
  let beats := gs.zipIdx.map (fun p =>
    let be := (List.range 64).filter (fun i => decide (o ≤ 64 * p.1 + i) && decide (64 * p.1 + i ≤ o + h.size))
    keepBytes (delAt l p.2).data (fieldsWord (be.map (fun i => (i, 1)))))
  ⟨beats, mapBits gs.length (fun i => (delAt l i).st), 0, 0⟩

-- ## READ_T and READ_S

/-- The index of the first access of each run, an access equal to the one before it merging with it (R287). -/
def runFirst : List (List Nat) → Option Nat → Nat → List Nat
  | [], _, _ => []
  | [] :: rest, last, n => n :: runFirst rest last n
  | (g :: l) :: rest, last, n =>
    let f := if last = some g then n - 1 else n
    f :: runFirst rest ((g :: l).getLast?) (f + l.length + 1)

/-- Access index and byte in its granule of response byte `p` (R300, R303), given the runs and their first accesses. -/
def stridedSrc (h : Hdr) (starts firsts : List Nat) (p : Nat) : Nat × Nat :=
  let e := elemBytes h
  let r := if h.op = 1 then p % (8 * e) / e else p / e
  let d := if h.op = 1 then 8 * e * (p / (64 * e)) + e * (p % (64 * e) / (8 * e)) + p % e else p % e
  let a := starts.getD r 0
  (firsts.getD r 0 + (a + d) / 64 - a / 64, (a + d) % 64)

/-- The response of a READ_T or READ_S (R300, R303, R325). -/
def makeStrided (h : Hdr) (o : Nat) (l : List Del) : Made :=
  let runs := stridedRuns h o
  let starts := runs.map (fun p => p.1.toNat)
  let firsts := runFirst (runs.map (fun p => granRange p.1.toNat (p.1.toNat + p.2 - 1))) none 0
  let src := (List.range (h.size + 1)).map (stridedSrc h starts firsts)
  let x := fieldsWord (src.zipIdx.map (fun q => (8 * q.2, bits (delAt l q.1.1).data (8 * q.1.2) 8)))
  let n := h.size / 64 + 1
  ⟨granulesOf n x, mapBits n (fun j => (src.zipIdx.any (fun q => q.2 / 64 == j && (delAt l q.1.1).st))), 0, 0⟩

-- ## READ_X

/-- The result format of a READ_X (R305). -/
def resultCode (h : Hdr) : Nat := match bits h.mod 4 2 with | 0 => 7 | 1 => 0 | _ => 1

/-- The bytes of one result element. -/
def resultBytes (h : Hdr) : Nat := if bits h.mod 4 2 = 0 then 2 else 1

/-- The exact value of source element `m` of a READ_X (R306): `d` are the data granules as one bit string, `sc` the scale
granule. -/
def sourceValue (h : Hdr) (o d sc m : Nat) : FVal :=
  let c := xfCode h
  let w := (elemFmt c).width
  let v := decodeF (elemFmt c) (bits d (8 * ((xfData h o).1 % 64) + w * m) w)
  if isMX c then
    let s := bits sc (8 * (o % 64 + m / 32)) 8
    if s = 255 then .nan else v.scale ((s : Int) - 127)
  else v

/-- The response of a READ_X (R305, R306, R325). -/
def makeExpand (h : Hdr) (o : Nat) (l : List Del) : Made :=
  let c := xfCode h
  let w := (elemFmt c).width
  let g0 := 8 * ((xfData h o).1 % 64)
  let n := xfCount h
  let k := (burstGrans h o).length
  let d := bitsOf ((List.range k).map (fun i => (delAt l i).data))
  let sc := delAt l 255
  let rb := resultBytes h
  let cv := (List.range n).map (fun m => encodeF (elemFmt (resultCode h)) false .even (sourceValue h o d sc.data m))
  let x := fieldsWord (cv.zipIdx.map (fun p => (8 * rb * p.2, p.1.x)))
  let bad (m : Nat) : Bool := (delAt l ((g0 + w * m) / 512)).st || (delAt l ((g0 + w * m + w - 1) / 512)).st
  let gn := h.size / 64 + 1
  ⟨granulesOf gn x, mapBits gn (fun j => (isMX c && sc.st) || (List.range n).any (fun m => m * rb / 64 == j && bad m)),
   (cv.filter (fun q => q.sat)).length, (cv.filter (fun q => q.nan)).length⟩

/-- The response data of a read (R325). -/
def makeResponse (h : Hdr) (o : Nat) (l : List Del) : Made :=
  match h.op with
  | 0 => makeRead h o l
  | 3 => makeExpand h o l
  | _ => makeStrided h o l

-- ## WRITE_N

/-- The rounding of a destination element at position `pos` (R308, R314, R315). -/
def narrowRounding (h : Hdr) (key step src pos : Nat) : Rounding :=
  if bitAt h.mod 4 then .stoch (srRandom key step src pos) else .even

/-- The exact value of source element `m` of a WRITE_N whose beats are one bit string (R309). -/
def narrowSource (h : Hdr) (d m : Nat) : FVal :=
  let w := 8 * srcBytes h
  decodeF (if bitAt h.mod 3 then fmtBF16 else fmtFP32) (bits d (w * m) w)

/-- Magnitude of a finite value, if it is one. -/
def magOf (v : FVal) : Option (Nat × Int) := match v with | .fin _ m e => some (m, e) | _ => none

/-- One MX block: its scale byte and its 32 elements (R312, R313); `rd` gives each element's rounding. -/
def narrowBlock (c : Nat) (vs : List FVal) (rd : Nat → Rounding) : Nat × List Conv :=
  if vs.any (fun v => (magOf v).isNone) then (255, vs.map (fun _ => ⟨0, false, true⟩))
  else
    let a := (vs.filterMap magOf).foldl (fun (b : Nat × Int) x => if magLe b x then x else b) (0, 0)
    let e := mxExp c a.1 a.2
    ((e + 127).toNat, vs.zipIdx.map (fun p => encodeF (elemFmt c) false (rd p.2) (p.1.scale (-e))))

/-- What a WRITE_N writes: the destination elements as one bit string from its first data byte, the scale bytes, the
elements saturated and NaN. `ro` is the offset of R315 (instance or bib offset), `src` is 0 or the bib plus one. -/
def narrowElems (h : Hdr) (beats : List Beat) (ro key step src : Nat) : Nat × List Nat × Nat × Nat :=
  let c := xfCode h
  let n := xfCount h
  let d := bitsOf (beats.map (fun b => b.toNat))
  let w := (elemFmt c).width
  let cs : List Nat × List Conv :=
    if isMX c then
      let bs := (List.range (n / 32)).map (fun b => narrowBlock c
        ((List.range 32).map (fun j => narrowSource h d (32 * b + j)))
        (fun j => narrowRounding h key step src (ro / 64 * 2048 + 32 * (ro % 64 + b) + j)))
      (bs.map (fun p => p.1), bs.flatMap (fun p => p.2))
    else
      ([], (List.range n).map (fun m => encodeF (elemFmt c) false
        (narrowRounding h key step src (if c = 7 then (ro + 2 * m) / 2 else ro + m)) (narrowSource h d m)))
  (fieldsWord (cs.2.zipIdx.map (fun p => (w * p.2, p.1.x))), cs.1, (cs.2.filter (fun q => q.sat)).length,
   (cs.2.filter (fun q => q.nan)).length)

/-- The source beats of a WRITE_N that feed destination granule `k` of the request at byte offset `o`, `k` 255 for the
scale granule (R325). -/
def narrowFeeds (h : Hdr) (o k : Nat) : List Nat :=
  let c := xfCode h
  let w := (elemFmt c).width
  let g0 := 8 * ((xfData h o).1 % 64)
  let n := xfCount h
  let hit (m : Nat) : Bool :=
    if isMX c then
      let lo := (g0 + w * (m / 32 * 32)) / 512
      let hi := (g0 + w * (m / 32 * 32 + 32) - 1) / 512
      k == 255 || (decide (lo ≤ k) && decide (k ≤ hi))
    else (g0 + w * m) / 512 == k || (g0 + w * m + w - 1) / 512 == k
  (((List.range n).filter hit).map (fun m => m * srcBytes h / 64)).dedup

end Sys2Proof.Machine
end

