-- ==== Sys2Proof/Machine/Banks.lean ====
section
/-! DEFINITION. One access at one bank: the state word, the parity checks P2, P3, P4 and P6, reads, writes, the adder,
bleach and fill writes, and the flip mask (R98 to R132, R317 to R321, R527 to R535). -/

namespace Sys2Proof.Machine

/-- All 64 byte enables. -/
def allBytes : Nat := 2 ^ 64 - 1

/-- The bytes of `m` outside `x`. -/
def lessBytes (m x : Nat) : Nat := Nat.land m (allBytes - Nat.land x allBytes)

/-- The class and partition that an access's events and energy go to (R376, R734). -/
def energyCls (r : Request) : Nat := match r.org with | .spill _ => (if 3 ≤ r.aux.headD 0 then 0 else r.h.cls) | _ => r.h.cls

/-- The event context of an access of a request to a granule. -/
def accCtx (r : Request) (g : Nat) : EvCtx := ⟨reqId r.org, r.h.tag, r.h.part, some r.h.cls, trackOf g⟩

/-- The partition that a log entry about a granule names: the request's, or the owner's for the scrubber (R557). -/
def logPart (s : State) (r : Request) (g : Nat) : Nat := match r.org with | .scrub => ownerOf s g | _ => r.h.part

/-- A log entry about a granule (R557). -/
def logGran (s : State) (r : Request) (src sev g info : Nat) : State :=
  logEvt s src sev (logPart s r g) (reqId r.org) g (portOf s g) (trackOf g) info

-- ## The flip mask (R533, R534)

/-- The parity bits inverted at a point for one granule of a request. -/
def flipAt (s : State) (r : Request) (point : Nat) : Nat × State :=
  if flagF s F.INT_FLIP_CTL_ARM && getF s F.INT_FLIP_CTL_POINT == point && getF s F.INT_FLIP_CTL_PART == r.h.part
     && (!flagF s F.INT_FLIP_CTL_REQ_EN || getF s F.INT_FLIP_CTL_REQ == reqId r.org) then
    let n := s.integ.flipLeft - 1
    let s1 := { s with integ := { s.integ with flipLeft := n } }
    (getF s F.INT_FLIP_MASK_LO_MASK_LO + 2 ^ 32 * getF s F.INT_FLIP_MASK_HI_MASK_HI,
     if n = 0 then setF s1 F.INT_FLIP_CTL_ARM 0 else s1)
  else (0, s)

-- ## Damage at rest and the state word

/-- Bits of a row flipped at rest. -/
def damageRow (s : State) (pg : Nat) (flips : List Nat) : State :=
  flips.foldl (fun t f =>
    if f < 512 then
      let a := pg * 64 + f / 8
      setPar (writeByte t a (BitVec.ofNat 8 (Nat.xor (readByte t a).toNat (2 ^ (f % 8))))) pg
        (Nat.xor (parOf t pg) (2 ^ (f / 8)))
    else setPar t pg (Nat.xor (parOf t pg) (2 ^ (f % 64)))) s

/-- The granules of the state word that holds a granule. -/
def wordGrans (g : Nat) : List Nat := (List.range 8).map (fun i => granAt (bankOf g) (rowOf g / 8 * 8 + i))

/-- A granule takes a state, counted under R531. -/
def makeState (s : State) (g : Nat) (n : GState) : State :=
  countMade (setState s (physG s g) n) g (stateOf s (physG s g)) n

/-- The state word is read in A1 (R104 to R106). -/
def readStateWord (s : State) (r : Request) (g : Nat) (u : Upset) : State :=
  let t := trackOf g
  match resolveUpset s u with
  | (.single, s1) =>
    logGran (setF (incF s1 (F.TRK_SS_CNT_CE_CNT t) 1) (F.TRK_STAT_SS_CE t) 1) r 5 1 g 0
  | (.double, s1) =>
    let s2 := (wordGrans g).foldl (fun x k => makeState x k .lost) s1
    let s3 := setF (incF s2 (F.TRK_SS_CNT_UE_CNT t) 1) (F.TRK_STAT_SS_UE t) 1
    let s4 := setF (setF s3 (F.TRK_SS_ERR_ADDR_WORD t) (rowOf g / 8)) (F.TRK_SS_ERR_ADDR_BANK t) (portOf s g)
    logGran (irqIf s4 (F.TRK_CTL_SSERR_IRQ_EN t) 1) r 6 3 g 0
  | (_, s1) => s1

/-- V of a state is 0. -/
def vZero (st : GState) : Bool := st == .unwritten || st == .lost

/-- A mismatch at P2 or P3 is counted, recorded and logged (R101, R130, R132, R808). -/
def noteParity (s : State) (r : Request) (write : Bool) (g m : Nat) (flip log : Bool) : State :=
  let t := trackOf g
  let s1 := incF s (if write then F.TRK_PERR_CNT_WR_CNT t else F.TRK_PERR_CNT_RD_CNT t) 1
  let s2 := setF (setF s1 (F.TRK_STAT_PERR t) 1) (F.TRK_PERR_ADDR_ROW t) (rowOf g)
  let s3 := setF (setF s2 (F.TRK_PERR_ADDR_BANK t) (portOf s g)) (F.TRK_PERR_ADDR_WRITE t) (b2n write)
  let s4 := ctrEvent (irqIf s3 (F.TRK_CTL_PERR_IRQ_EN t) 1) 0x20 t 1 (accCtx r g)
  if log then logGran s4 r (if write then 1 else 2) 2 g (mismInfo m flip) else s4

/-- A mismatch at P4 of transform unit `t` (R326, R330): `src` names a WRITE_N source beat. -/
def noteP4 (s : State) (r : Request) (t : Nat) (src : Bool) (g m : Nat) (flip : Bool) : State :=
  let s1 := setF (incF s (F.TRK_XF_P4_CNT_XF_P4_CNT t) 1) (F.TRK_XF_STAT_P4ERR t) 1
  let s2 := setF (setF s1 (F.TRK_XF_P4_ADDR_REQ t) (reqId r.org)) (F.TRK_XF_P4_ADDR_SOURCE t) (b2n src)
  let s3 := setF (setF s2 (F.TRK_XF_P4_ADDR_ROW t) (if src then 0 else rowOf g)) (F.TRK_XF_P4_ADDR_BANK t)
    (if src then 0 else portOf s g)
  let s4 := ctrEvent (irqIf s3 (F.TRK_XF_CTL_P4_IRQ_EN t) 1) 0x20 t 1 (accCtx r g)
  logEvt s4 3 2 (logPart s4 r g) (reqId r.org) (if src then 0 else g) (if src then 0 else portOf s g) t (mismInfo m flip)

/-- Elements saturated and NaN at transform unit or adder `t` (R298, R299, R329). -/
def noteXf (s : State) (t sat nan : Nat) : State :=
  let s1 := if sat = 0 then s else setF (incF s (F.TRK_XF_SAT_CNT_XF_SAT_CNT t) sat) (F.TRK_XF_STAT_SAT t) 1
  if nan = 0 then s1 else setF (incF s1 (F.TRK_XF_NAN_CNT_XF_NAN_CNT t) nan) (F.TRK_XF_STAT_NAN t) 1

/-- The track of the data burst of a request (R284). -/
def burstTrack (r : Request) : Nat :=
  match r.accs with
  | a :: _ => trackOf a.gran
  | [] => 0

-- ## P2

/-- Write data or an operand is checked at P2: the mismatching bytes among `be` (R101). -/
def operandP2 (s : State) (r : Request) (g be : Nat) (ph : Phys) : Nat × State :=
  let f := flipAt s r 0
  let m := Nat.land (Nat.xor ph.p2.toNat f.1) be
  (m, if m = 0 then f.2 else noteParity f.2 r true g m (f.1 != 0) true)

-- ## Slots

/-- Count one bank slot: the event, the energy, the slot category (R770, R773) and the work of R271. -/
def noteSlot (s : State) (r : Request) (g : Nat) (write : Bool) : State :=
  let t := trackOf g
  let s1 := ctrEvent s (if write then 0x0A else 0x09) t 1 (accCtx r g)
  let s2 := energyEvt s1 0 r.h.part (energyCls r) 1
  let uk := (r.bucket * 512 + bankOf g) * 16 + r.h.part
  let s3 := { s2 with used := Sparse.set s2.used uk (Sparse.at s2.used uk 0 + 1) 0 }
  if flagF s3 F.CTR_TD_CTL_EN then
    let c := t * 8 + (if r.h.cls = 7 then 2 else b2n write)
    let d := 1024 + bankOf g
    let td1 := Sparse.set s3.td c (Sparse.at s3.td c 0 + 1) 0
    { s3 with td := Sparse.set td1 d (Sparse.at td1 d 0 + 1) 0 }
  else s3

-- ## Reads

/-- What a read slot gives: the bytes, whether they are delivered stained, and the bytes that mismatched at P3. -/
structure RowRead where
  data : Beat
  st : Bool
  p3 : Nat
deriving DecidableEq, Repr

/-- The read slot of an access (R101 to R103, R808). -/
def readSlot (s : State) (r : Request) (g : Nat) (ph : Phys) : RowRead × State :=
  let pg := physG s g
  let s1 := readStateWord (damageRow s pg ph.flips) r g ph.sw
  let st := stateOf s1 pg
  let s2 := noteSlot s1 r g false
  if vZero st then (⟨0, st == .lost, 0⟩, s2)
  else
    let d := readRow s2 pg
    let m := parOf s2 pg
    if m = 0 then (⟨d, st == .stained, 0⟩, s2)
    else
      let s3 := noteParity s2 r false g m (flipOf s2 pg != 0) (st == .clean)
      (⟨d, true, m⟩, if st = .clean then makeState s3 g .stained else s3)

-- ## Writes

/-- The state after a write (R110): `mode` 0 full, 1 partial, 2 ACCUM or atomic. -/
def stateAfter (st : GState) (mode : Nat) : GState :=
  match st with
  | .unwritten => .clean
  | .clean => .clean
  | _ => if mode = 0 then .clean else .stained

/-- Store bytes and their parity bits in a row: `be` the bytes written, `m` those whose parity does not match as received,
`fl` those that the flip mask inverts at STORE (R101, R111, R533). -/
def storeRow (s : State) (pg : Nat) (d : Beat) (be m fl : Nat) : State :=
  let keep := allBytes - be
  let s1 := writeRow s pg d be
  let s2 := setPar s1 pg (Nat.xor (Nat.lor (Nat.land (parOf s pg) keep) (Nat.land m be)) (Nat.land fl be))
  setFlip s2 pg (Nat.lor (Nat.land (flipOf s pg) keep) (Nat.land fl be))

/-- The write slot of a WRITE or WRITE_N access (R101, R110, R111); `inb` is the parity inverted at INBOUND, `fill` the
state of a fill (R499). -/
def writeSlot (s : State) (r : Request) (a : GAcc) (ph : Phys) : State :=
  let g := a.gran
  let pg := physG s g
  let s1 := readStateWord (damageRow s pg ph.flips) r g ph.sw
  let st := stateOf s1 pg
  let s2 := noteSlot s1 r g true
  match a.fset with
  | some .unwritten => makeState s2 g .unwritten
  | some .lost => makeState s2 g .lost
  | _ =>
    let fi := if r.h.op = 5 then (0, s2) else flipAt s2 r 0
    let m := Nat.land (Nat.xor (Nat.xor ph.p2.toNat a.pm) fi.1) a.be
    let s3 := if m = 0 then fi.2 else noteParity fi.2 r true g m (fi.1 != 0) true
    let fs := flipAt s3 r 1
    let full := a.be == allBytes
    let zero := full || vZero st
    let d : Beat := if zero then BitVec.ofNat 512 (keepBytes a.data.toNat a.be) else a.data
    let s4 := storeRow fs.2 pg d (if zero then allBytes else a.be) m fs.1
    makeState s4 g (if a.st || m != 0 then .stained else stateAfter st (if full then 0 else 1))

/-- A bleach write (R554): a granule whose V is 1 is left untouched. Its zeros are checked at P2 like any write data (R101):
a mismatch counts, and the row written holds them with their parity as received and becomes STAINED (log entry 106). -/
def bleachSlot (s : State) (r : Request) (g : Nat) (ph : Phys) : State :=
  let pg := physG s g
  let s1 := readStateWord (damageRow s pg ph.flips) r g ph.sw
  let p2 := operandP2 (noteSlot s1 r g true) r g allBytes ph
  if vZero (stateOf s1 pg) then
    let fs := flipAt p2.2 r 1
    let s2 := storeRow fs.2 pg 0 allBytes p2.1 fs.1
    if p2.1 = 0 then s2 else makeState s2 g .stained
  else p2.2

-- ## The bank-local adder

/-- One ACCUM over a granule: the new bytes and the NaN sums (R317 to R320). -/
def accumRow (mode old operand be : Nat) : Nat × Nat :=
  let w := if mode = 1 then 2 else 4
  let rs := (List.range (64 / w)).map (fun j =>
    let a := bits old (8 * w * j) (8 * w)
    if bitAt be (w * j) then accumElem mode a (bits operand (8 * w * j) (8 * w)) else (a, false))
  (fieldsWord (rs.zipIdx.map (fun p => (8 * w * p.2, p.1.1))), (rs.filter (fun p => p.2)).length)

/-- The write slot of an ACCUM or atomic: fresh parity, inverted at ADDER where the flip mask says so. -/
def adderStore (s : State) (r : Request) (g : Nat) (d : Nat) (st : Bool) : State :=
  let pg := physG s g
  let f := flipAt s r 2
  let old := stateOf f.2 pg
  let s1 := setFlip (setPar (writeRow f.2 pg (BitVec.ofNat 512 d) allBytes) pg f.1) pg f.1
  makeState s1 g (if st then .stained else stateAfter old 2)


/-- Count an adder operation (R729, R770). -/
def noteAdder (s : State) (r : Request) (g : Nat) : State :=
  energyEvt (ctrEvent s 0x0B (trackOf g) 1 (accCtx r g)) 1 r.h.part (energyCls r) 1

/-- Both slots of an ACCUM on one granule (R112, R317): P2 in A1, then P3 in A4. -/
def accumSlots (s : State) (r : Request) (a : GAcc) (ph : Phys) : State :=
  let g := a.gran
  let p2 := operandP2 s r g a.be { ph with p2 := ph.p2 ^^^ BitVec.ofNat 64 a.pm }
  let rd := readSlot p2.2 r g ph
  let s1 := noteAdder (noteSlot rd.2 r g true) r g
  let x := accumRow (bits r.h.mod 0 2) rd.1.data.toNat a.data.toNat a.be
  adderStore (noteXf s1 (trackOf g) 0 x.2) r g x.1 (a.st || p2.1 != 0)

/-- Both slots of an atomic (R112 to R114, R321), P2 before P3: the old word, whether it is delivered stained, the state. -/
def atomSlots (s : State) (r : Request) (a : GAcc) (ph : Phys) : Nat × Bool × State :=
  let g := a.gran
  let w := if bitAt r.h.mod 0 then 64 else 32
  let o := r.base % 64
  let p2 := operandP2 s r g ((2 ^ (w / 8) - 1) * 2 ^ o) ph
  let rd := readSlot p2.2 r g ph
  let old := bits rd.1.data.toNat (8 * o) w
  let x := atomArgs r.h r.beats
  let s1 := noteAdder (noteSlot rd.2 r g true) r g
  match atomicNew r.h.op w old x.1 x.2 with
  | none => (old, rd.1.st, s1)
  | some v =>
    let d := rd.1.data.toNat - old * 2 ^ (8 * o) + v * 2 ^ (8 * o)
    (old, rd.1.st, adderStore s1 r g d (bitAt r.h.stainMap 0 || p2.1 != 0))

-- ## P4 on a read

/-- P4 of a transformed read: the input of the transform unit (R326, R533); the bytes that mismatched at P3 are the same
damage (R808). -/
def readP4 (s : State) (r : Request) (g p3 : Nat) (ph : Phys) : Bool × State :=
  if r.h.op = 0 then (false, s)
  else
    let f := flipAt s r 3
    let m := lessBytes (Nat.xor ph.p4.toNat f.1) p3
    if m = 0 then (false, f.2)
    else (true, noteP4 f.2 r (if r.h.op = 3 then burstTrack r else trackOf g) false g m (f.1 != 0))

end Sys2Proof.Machine
end

