-- ==== Sys2Proof/Machine/Stage.lean ====
section
/-! DEFINITION. From admission to the bank port: release, the scoreboard, and the concourse's arbitration, ports and return buffers
(R194 to R210, R257, R258, R353 to R357). -/

namespace Sys2Proof.Machine

-- ## The scoreboard

/-- The ranges of a request, one for each copy (R353). -/
def hulls (r : Request) : List (Nat × Nat) := (hullOf r 0).toList ++ (hullOf r 1).toList

/-- Two lists of ranges share a granule. -/
def anyOverlap (a b : List (Nat × Nat)) : Bool := a.any (fun x => b.any (fun y => overlaps (some x) (some y)))

/-- The entries that a request holds: one for each copy with a granule still to commit (R353); a mirror repair keeps both to its end
(R549). -/
def entriesOf (r : Request) : List (Nat × Nat) :=
  if r.stage == .access && r.org == .scrub && r.aux.headD 0 == 12 then hulls r
  else if r.stage == .access && isWriteType r.h.op then
    ([0, 1] : List Nat).filterMap (fun c => if r.accs.any (fun a => a.copy == c && !a.done) then hullOf r c else none)
  else []

/-- Entries in use. -/
def entriesUsed (s : State) : Nat := (s.reqs.map (fun r => (entriesOf r).length)).sum

/-- A request is held under R354: by an entry of a request that reached stage 3 before it, or by such a request that takes
an entry and is still held there. An entry that such a request takes later holds it too, so that R355 and R118 commit
overlapping writes in their order of arrival (log entry 103). Two requests that are both held pass in their order (R355). -/
def sbHeld (s : State) (r : Request) : Bool :=
  s.reqs.any (fun q => decide (q.order < r.order) && q.id != r.id &&
    (anyOverlap (entriesOf q) (hulls r)
     || (q.stage == .stage3 && (isWriteType q.h.op || (q.counted && r.counted)) && anyOverlap (hulls q) (hulls r))))

/-- The entries that a request needs. -/
def entriesNeeded (r : Request) : Nat := if isWriteType r.h.op then (hulls r).length else 0

/-- A request that is not held finds too few entries free (R357). -/
def sbNoEntry (s : State) (r : Request) : Bool :=
  entriesNeeded r != 0 && decide (256 < entriesUsed s + entriesNeeded r)

/-- A request waits behind one of its requester that waits for an entry (R357). -/
def sbBehind (s : State) (r : Request) : Bool :=
  s.reqs.any (fun q => q.stage == .stage3 && decide (q.order < r.order) && reqId q.org == reqId r.org
    && !sbHeld s q && sbNoEntry s q)

/-- The track charge of an admitted request. -/
def relCharge (s : State) (r : Request) : Charge :=
  match r.place with
  | .task _ n => taskCharge (r.beats.headD 0).toNat (bits r.h.arg 0 4) r.h.part n
  | _ => (chargeOf r (declared s r)).1

/-- Coarse work belongs to the fine bucket into which it is released: its charge counts there too (R271). -/
def moveCharged (s : State) (r : Request) : State :=
  match r.place with
  | .coarse _ => notePart s (fineOf (now s)) (relCharge s r)
  | _ => s

/-- A request reaches stage 3 (R16, R354): its place of arrival, the fine bucket whose work it becomes (R271), the count of a
hold, and SB_FULL where it waits for an entry (R357). -/
def enterStage3 (s : State) (r : Request) : State :=
  let r1 := { r with stage := .stage3, order := s.orderNo, bucket := fineOf (now s), counted := false }
  let s1 := moveCharged { s with orderNo := s.orderNo + 1 } r
  if sbHeld s1 r1 then
    putReq (ctrEvent (incF s1 F.GLB_SB_HOLD_HOLD_CNT 1) 0x14 0 1 (ctxOf r)) { r1 with counted := true }
  else putReq (if sbNoEntry s1 r1 then setF s1 F.GLB_SB_STAT_SB_FULL 1 else s1) r1

/-- A new request that enters at stage 3 under an admission made before (R15). -/
def issueNew (s : State) (r : Request) : State := enterStage3 { s with reqs := s.reqs ++ [r] } r

-- ## Release (R257, R258)

/-- A combining write-back: it goes on while release is stopped (R760, R761). -/
def isWriteBack (r : Request) : Bool := match r.org with | .combine _ _ _ => true | _ => false

/-- A coarse request is the first to be released: coarse bucket index, then admission (R258). -/
def coarseFirst (s : State) (r : Request) (k : Nat) : Bool :=
  !s.reqs.any (fun q => q.stage == .admitted && q.id != r.id && (match q.place with
    | .coarse j => decide (j < k) || (j == k && (decide (q.adm < r.adm) || (q.adm == r.adm && decide (q.id < r.id))))
    | _ => false))

/-- Early release applies (R257, R690). -/
def earlyRel (s : State) : Bool := flagF s F.REG_CTL_EARLY_REL && pwrState s != 1

/-- Whether a request is released now, and the state after the spare capacity it uses. Work of coarse bucket K goes into fine
buckets of K (log entry 110). -/
def releaseTest (s : State) (r : Request) : Option State :=
  let spareTake : Option State :=
    let c := relCharge s r
    if spareFor' s c then some (useSpare s c) else none
  let fine (b : Nat) : Option State := if 64 * b ≤ now s then some s else if earlyRel s then spareTake else none
  match r.place with
  | .free => some s
  | .fine b => fine b
  | .task b _ => fine b
  | .coarse k =>
    if !coarseFirst s r k || decide (coarseOf (now s) < k) then none
    else if 65536 * (k + 1) - 64 ≤ now s then some s
    else spareTake

/-- The journal entry of a request goes on to RUNNING (R577). -/
def jnlRunning (s : State) (rid : Nat) : State :=
  match entryOf s rid with
  | some e => if e.state = 0 then jnlWrite s e 1 else s
  | none => s

/-- The last fine bucket of the coarse bucket of a request has begun (R258). -/
def coarseDue (s : State) (r : Request) : Bool :=
  match r.place with
  | .coarse k => r.stage == .admitted && coarseFirst s r k && decide (65536 * (k + 1) - 64 ≤ now s) && (!s.parked || isWriteBack r)
  | _ => false

/-- Coarse work that is due is released at the first tick of its last fine bucket, at most `n` requests (R258). -/
def releaseCoarse : Nat → State → State
  | 0, s => s
  | n + 1, s =>
    match s.reqs.find? (coarseDue s) with
    | some r => releaseCoarse n (enterStage3 s r)
    | none => s

/-- A released PACE_LAUNCH starts its stream (R383). -/
def startTask (s : State) (r : Request) : State :=
  match taskOfReq s r.id with
  | some t => jnlRunning (putTask (putReq s { r with stage := .waiting }) { t with started := true }) r.id
  | none => s

/-- A read of a SPILL waits: a write-type request that resolved to its bib before the move was admitted has not committed
(R518). -/
def moveWaits (s : State) (r : Request) : Bool :=
  match r.org, r.aux with
  | .spill _, [3, id, j, _] =>
    (match s.moves.find? (fun m => m.id == id) with
     | some m =>
       let g := m.gb.getD j 0
       let n := getF s (F.BIB_LEN_LEN (m.bibs.getD j 0))
       s.reqs.any (fun q => decide (q.id < id) && isWriteType q.h.op
         && q.accs.any (fun a => !a.done && decide (g ≤ a.gran) && decide (a.gran < g + n)))
     | none => false)
  | _, _ => false

/-- ISSUE_RELEASE (R257, R258, R518). -/
def execIssueRelease (id : Nat) (s : State) : Host.Outcome State Fault Refusal :=
  if !arrayRuns s then .next s else
  match findReq s id with
  | some r =>
    if r.stage != .admitted || (s.parked && !isWriteBack r) || moveWaits s r then .next s
    else match releaseTest s r with
      | some s1 => .next (if r.h.op = 0x16 then startTask s1 r else enterStage3 s1 r)
      | none => .next s
  | none => .next s

-- ## Level 1 (R194 to R206)

/-- The issue width of a requester (R195). -/
def issueWidth (q : Nat) : Nat := if q < 192 then (if q % 3 = 0 then 2 else 1) else if q ≤ 0xD4 then 2 else 1

/-- The next access of a burst. -/
def burstHead (r : Request) (b : Nat) : Option GAcc := r.accs.find? (fun a => a.burst == b && !a.done)

/-- A burst that holds no track input yet; `st`: the stream of a pacer's. -/
structure Cand where
  rid : Nat
  q : Nat
  st : Nat
  burst : Nat
  order : Nat
  gran : Nat
  since : Nat
deriving DecidableEq, Repr

/-- The stream of a pacer's access. -/
def streamOf (o : Origin) : Nat := match o with | .pacer _ st => st | _ => 0

/-- The bursts of a request that wait for a track input. -/
def waitingBursts (s : State) (r : Request) : List Cand :=
  if r.stage == .access && r.needs.isNone then
    ((r.accs.filter (fun a => !a.done)).map (fun a => a.burst)).dedup.filterMap (fun b =>
      if s.inputs.any (fun i => i.rid == r.id && i.burst == b) then none
      else (burstHead r b).map (fun a => ⟨r.id, reqId r.org, streamOf r.org, b, r.order, a.gran, a.at_⟩))
  else []

/-- Insert by order of release. -/
def insertCand (c : Cand) : List Cand → List Cand
  | [] => [c]
  | d :: r => if c.order < d.order then c :: d :: r else d :: insertCand c r

/-- Every waiting burst, in the order in which the requests were released to stage 3 (R195). -/
def allWaiting (s : State) : List Cand := (s.reqs.flatMap (waitingBursts s)).foldl (fun l c => insertCand c l) []

/-- The best of a list under an order, the first of equals. -/
def bestOf {α : Type} (before : α → α → Bool) : List α → Option α
  | [] => none
  | x :: l => some (l.foldl (fun b y => if before y b then y else b) x)

/-- The bursts that a pacer presents: its streams in turn, starting after the one served last, each its oldest (R375). -/
def inTurn : Nat → Nat → List Cand → List Cand
  | 0, _, _ => []
  | n + 1, last, l =>
    match bestOf (fun a b => decide ((a.st + 3 - last) % 4 < (b.st + 3 - last) % 4)) l with
    | some c => c :: inTurn n c.st (l.erase c)
    | none => []

/-- The track inputs that a requester holds. -/
def inputsHeld (s : State) (q : Nat) : Nat :=
  (s.inputs.filter (fun i => (s.reqs.any (fun r => r.id == i.rid && reqId r.org == q)))).length

/-- The bursts that requesters present: at most w less the inputs each holds, oldest first, a pacer's streams in turn
(R195, R375). -/
def presented (s : State) : List Cand :=
  let l := allWaiting s
  (l.map (fun c => c.q)).dedup.flatMap (fun q =>
    let n := issueWidth q - inputsHeld s q
    let mine := l.filter (fun c => c.q == q)
    if 0xC0 ≤ q ∧ q < 0xD0 then inTurn n (Sparse.at s.conc.served (q - 0xC0) 3) mine else mine.take n)

/-- Note the array cycle of presentation, plus one, of the bursts presented first now. -/
def markPresented (s : State) : State :=
  let new := (presented s).filter (fun c => c.since == 0)
  if new = [] then s
  else
    let mark (r : Request) : Request :=
      { r with accs := r.accs.map (fun a => if a.at_ = 0 && new.any (fun c => c.rid == r.id && c.burst == a.burst)
          then { a with at_ := s.cad.cycles + 1 } else a) }
    { s with reqs := s.reqs.map mark }

/-- A wait has reached AGE_LIMIT (R203). -/
def aged (s : State) (wait : Nat) : Bool :=
  getF s F.GLB_CONC_CTL_AGE_LIMIT != 0 && decide (getF s F.GLB_CONC_CTL_AGE_LIMIT ≤ wait)

/-- The effective priority at level 1, aging left out (R202, R551). -/
def levelPrio (s : State) (rid q t : Nat) : Nat :=
  if (findReq s rid).any (fun r => r.kill) then 15
  else max (staticPrio s q t) (if flagF s F.GLB_CONC_CTL_BOOST_EN then boostOf s q else 0)

/-- The wait of a presented burst. -/
def candWait (s : State) (c : Cand) : Nat := s.cad.cycles + 1 - c.since

/-- The effective priority of a presented burst. -/
def candPrio (s : State) (c : Cand) : Nat :=
  if aged s (candWait s c) then 15 else levelPrio s c.rid c.q (trackOf c.gran)

/-- `a` is granted before `b` (R206). -/
def candBefore (s : State) (last : Nat) (a b : Cand) : Bool :=
  let pa := candPrio s a
  let pb := candPrio s b
  let wa := candWait s a
  let wb := candWait s b
  decide (pb < pa) || (pa == pb && (decide (wb < wa) || (wa == wb &&
    decide ((a.q + 255 - last) % 256 < (b.q + 255 - last) % 256))))

/-- A granule request that has waited AGE_LIMIT array cycles at a level is promoted: AGED, and in the cycle in which it
reaches the limit the event (R203, R770). -/
def noteAged (s : State) (rid g wait : Nat) : State :=
  if !aged s wait then s
  else
    let s1 := setF s F.GLB_CONC_STAT_AGED 1
    match findReq s rid with
    | some r => if wait = getF s F.GLB_CONC_CTL_AGE_LIMIT then ctrEvent s1 0x16 (trackOf g) 1 (accCtx r g) else s1
    | none => s1

/-- A burst takes a track input: it stands at its head from the next array cycle on (R198, R204, R206). -/
def grantInput (s : State) (t i : Nat) (c : Cand) : State :=
  let sv := if 0xC0 ≤ c.q ∧ c.q < 0xD0 then Sparse.put s.conc.served (c.q - 0xC0) c.st else s.conc.served
  { s with inputs := s.inputs ++ [⟨t, i, c.rid, c.burst, candPrio s c, s.cad.cycles + 1, 0⟩],
           lastId := Sparse.put s.lastId t c.q, conc := { s.conc with served := sv } }

/-- Grants of level 1 in track `t` among the bursts presented in this array cycle, at most `n` (R206); of two entries of
one requester that are equal in everything the older goes first (log entry 104). -/
def level1 (t : Nat) : Nat → List Cand → State → State
  | 0, _, s => s
  | n + 1, cand, s =>
    match (List.range 32).find? (fun i => !s.inputs.any (fun x => x.track == t && x.n == i)),
          bestOf (candBefore s (Sparse.at s.lastId t 255)) cand with
    | some i, some c => level1 t n (cand.erase c) (grantInput s t i c)
    | _, _ => s

/-- Level 1 of every track, once in an array cycle. -/
def arbitrate (s : State) : State :=
  let s1 := markPresented s
  let cand := presented s1
  (cand.map (fun c => trackOf c.gran)).dedup.foldl (fun x t => level1 t 32 (cand.filter (fun c => trackOf c.gran == t)) x) s1

-- ## The return buffers (R208, R209)

/-- An access that reads: a read operation, or the reading half of a mirror repair. -/
def accReads (r : Request) (a : GAcc) : Bool := isRead r.h.op || (r.org == .scrub && r.aux.headD 0 == 12 && a.be == 0)

/-- An access that needs a return-buffer entry at its grant: a read, and the read slot of an ACCUM or atomic. -/
def needsRet (r : Request) (a : GAcc) : Bool := accReads r a || r.h.op == 6 || isAtomic r.h.op

/-- The head of a track input. -/
def inputHead (s : State) (i : TInput) : Option (Request × GAcc) :=
  (findReq s i.rid).bind (fun r => (burstHead r i.burst).map (fun a => (r, a)))

/-- The effective priority at level 2 (R203, R204). -/
def inputPrio (s : State) (i : TInput) : Nat :=
  if aged s (s.cad.cycles - i.since) || (findReq s i.rid).any (fun r => r.kill) then 15 else i.prio

/-- Free entries of a track's return buffer, which holds 64 granules. -/
def retFree (s : State) (t : Nat) : Nat := 64 - (s.conc.ret.filter (fun e => e.track == t)).length

/-- The port of the granule request at the head of an input, where it needs an entry and may pass in this cycle. -/
def retPort (s : State) (i : TInput) : Option Nat :=
  if i.passed = s.cad.cycles + 1 then none
  else (inputHead s i).bind (fun h => if needsRet h.1 h.2 then some (portOf s h.2.gran) else none)

/-- `i` comes before `j` among the read candidates of their track (R208). -/
def retBefore (s : State) (i j : TInput) : Bool :=
  let pi := inputPrio s i
  let pj := inputPrio s j
  decide (pj < pi) || (pi == pj && (decide (i.since < j.since) || (i.since == j.since &&
    decide ((retPort s i).getD 0 < (retPort s j).getD 0))))

/-- The head of an input gets one of the free entries, if it needs one (R208). -/
def mayReturn (s : State) (i : TInput) : Bool :=
  (retPort s i).isNone ||
  decide ((s.inputs.filter (fun j => j.track == i.track && j.n != i.n && (retPort s j).isSome && retBefore s j i)).length
    < retFree s i.track)

-- ## Level 2 (R207)

/-- `a` is granted before `b` at level 2 (R207). -/
def inputBefore (s : State) (a b : TInput) : Bool :=
  let pa := inputPrio s a
  let pb := inputPrio s b
  decide (pb < pa) || (pa == pb && (decide (a.since < b.since) || (a.since == b.since && decide (a.n < b.n))))

/-- The port of a granule, over the whole instance. -/
def portKey (s : State) (g : Nat) : Nat := trackOf g * 64 + portOf s g

/-- A bank port grants a candidate in this array cycle: it has granted none in it, and the cycle holds no reserved entry
for it (R207). -/
def portOpen (s : State) (p : Nat) : Bool :=
  Sparse.at s.conc.ports p 0 != s.cad.cycles + 1 && !s.conc.rsv.contains (p, s.cad.cycles)

/-- The head of an input is for a bank: it has come to the head by this cycle, and its input has passed none in it (R198). -/
def headsFor (s : State) (bank : Nat) (i : TInput) : Bool :=
  decide (i.since ≤ s.cad.cycles) && i.passed != s.cad.cycles + 1 &&
  (match inputHead s i with
   | some (_, a) => bankOf a.gran == bank && portOpen s (portKey s a.gran)
   | none => false)

/-- The track input granted at a bank in this array cycle, if any. -/
def level2 (s : State) (bank : Nat) : Option TInput :=
  bestOf (inputBefore s) (s.inputs.filter (fun i => headsFor s bank i && mayReturn s i))

/-- A read for the bank at the head of a track input waits for a return-buffer entry (R208, R773). -/
def retWaits (s : State) (bank : Nat) : Bool := s.inputs.any (fun i => headsFor s bank i && !mayReturn s i)

/-- The granule request at the head of an input has passed: the next one stands at the head from the next array cycle on;
an input whose burst has ended is held to the end of the cycle (R198, R200). -/
def passInput (s : State) (i : TInput) : State :=
  let same (x : TInput) : Bool := x.track == i.track && x.n == i.n
  { s with inputs := s.inputs.map (fun x => if same x then { x with since := s.cad.cycles + 1, passed := s.cad.cycles + 1 } else x) }

/-- The port of an access has granted it; the write slot of an ACCUM or atomic is reserved 6 array cycles later (R112,
R207). -/
def notePort (s : State) (r : Request) (g : Nat) : State :=
  let p := portKey s g
  let rs := if r.h.op == 6 || isAtomic r.h.op then s.conc.rsv ++ [(p, s.cad.cycles + 6)] else s.conc.rsv
  { s with conc := { s.conc with ports := Sparse.put s.conc.ports p (s.cad.cycles + 1), rsv := rs } }

/-- The inputs whose bursts have ended are free again. -/
def freeInputs (s : State) : State := { s with inputs := s.inputs.filter (fun i => (inputHead s i).isSome) }

/-- Each track in which a read waited for an entry counts the cycle once, with the first such read as its cause (R770). -/
def countReturnWaits (s : State) (w : List TInput) : State :=
  (w.map (fun i => i.track)).eraseDups.foldl (fun x t =>
    match (w.find? (fun i => i.track == t)).bind (inputHead s) with
    | some (r, a) => ctrEvent x 0x17 t 1 (accCtx r a.gran)
    | none => x) s

/-- The waits of an array cycle: promotions at both levels (R203), and reads that wait for an entry (R208). -/
def noteWaits (s : State) : State :=
  let s1 := (presented s).foldl (fun x c => if c.since = 0 then x else noteAged x c.rid c.gran (candWait s c)) s
  let s2 := s.inputs.foldl (fun x i => match inputHead s i with
    | some (r, a) => noteAged x r.id a.gran (s.cad.cycles - i.since)
    | none => x) s1
  let w := s.inputs.filter (fun i => !mayReturn s i)
  if w.isEmpty then s2 else countReturnWaits (setF s2 F.GLB_CONC_STAT_RET_FULL 1) w

-- ## Passing stage 3

/-- The source beats of a WRITE_N that mismatch at P4, by damage `p4` (beat and bytes) or by the flip mask (R326, R533). -/
def narrowP4 (s : State) (r : Request) (p4 : List (Nat × BitVec 64)) : List Nat × State :=
  (List.range r.beats.length).foldl (fun (acc : List Nat × State) k =>
    let f := flipAt acc.2 r 3
    let m := Nat.xor (((p4.find? (fun x => x.1 == k)).map (fun x => x.2.toNat)).getD 0) f.1
    if m = 0 then (acc.1, f.2) else (acc.1 ++ [k], noteP4 f.2 r (burstTrack r) true 0 m (f.1 != 0))) ([], s)

/-- A WRITE_N's beats go through the transform unit: its accesses take their bytes (R308 to R316, R325, R326). -/
def convertWrite (s : State) (r : Request) (pd : List (Nat × BitVec 64)) : Request × State :=
  if r.h.op = 5 then
    let p4 := narrowP4 s r pd
    let src := match r.bib with | some b => b + 1 | none => 0
    let x := narrowElems r.h r.beats (r.aux.getD 1 0) r.key r.step src
    let d := xfData r.h r.base
    let o := r.base
    let fill (a : GAcc) : GAcc :=
      -- offsets of the copy: the mirror copy holds the same bytes at the same place
      let g0 := d.1 / 64
      let bad := (narrowFeeds r.h o a.k).any (fun b => bitAt r.h.stainMap b || p4.1.contains b)
      if a.k = 255 then
        { a with data := BitVec.ofNat 512 (fieldsWord (x.2.1.zipIdx.map (fun p => (8 * (o % 64 + p.2), p.1)))),
                 be := (2 ^ x.2.1.length - 1) * 2 ^ (o % 64), st := bad }
      else
        { a with data := BitVec.ofNat 512 (bits (x.1 * 2 ^ (8 * (d.1 % 64))) (512 * a.k) 512),
                 be := byteMask (g0 + a.k) d.1 d.2, st := bad }
    let n := (r.accs.filter (fun a => a.copy == 0)).length
    let s1 := noteXf p4.2 (burstTrack r) x.2.2.1 x.2.2.2
    let s2 := energyEvt (ctrEvent s1 0x0C (burstTrack r) n (accCtx r (o / 64))) 2 r.h.part (energyCls r) n
    ({ r with accs := r.accs.map fill }, s2)
  else (r, s)

/-- A request passes stage 3 (R354, R577): it takes its entries and its granule requests go to the concourse. -/
def passStage3 (s : State) (r : Request) (p4 : List (Nat × BitVec 64)) : State :=
  let c := convertWrite s r p4
  let s1 := jnlRunning (putReq c.2 { c.1 with stage := .access }) r.id
  let used := entriesUsed s1
  if getF s1 F.GLB_SB_STAT_PEAK < used then setF s1 F.GLB_SB_STAT_PEAK used else s1

/-- SCOREBOARD_PASS (R354 to R357). -/
def execScoreboardPass (p : Passing) (s : State) : Host.Outcome State Fault Refusal :=
  if !arrayRuns s then .next s else
  match findReq s p.id with
  | some r =>
    if r.stage != .stage3 || sbHeld s r then .next s
    else if sbNoEntry s r then .next (setF s F.GLB_SB_STAT_SB_FULL 1)
    else if sbBehind s r then .next s
    else .next (passStage3 s r p.p4)
  | none => .next s

end Sys2Proof.Machine
end

