-- ==== Sys2Proof/Machine/Pacers.lean ====
section
/-! DEFINITION. The pacer instructions: decode, moves, signals, waits and relay operations, the end of a task, the
answers to its remote traffic, and hints (R385 to R417). -/

namespace Sys2Proof.Machine

-- ## Decode (R386, R387)

/-- The bits [63:16] that an operation lists, as lowest unused bit. -/
def insTop (op : Nat) : Option Nat :=
  match op with
  | 0x00 => some 16 | 0x01 => some 64 | 0x02 => some 16 | 0x03 => some 48 | 0x04 => some 32 | 0x05 => some 22
  | 0x06 => some 22 | 0x07 => some 48 | 0x08 => some 24 | 0x09 => some 24 | 0x0A => some 24 | 0x0B => some 51
  | 0x0C => some 26 | 0x10 => some 38 | 0x11 => some 32 | 0x12 => some 23 | 0x13 => some 48 | 0x14 => some 31
  | 0x15 => some 23 | 0x16 => some 24 | 0x17 => some 16 | 0x18 => some 16 | _ => none

/-- Operations that use D. -/
def usesD (op : Nat) : Bool := (1 ≤ op && op ≤ 7) || op == 0x15

/-- Operations that use A. -/
def usesA (op ins : Nat) : Bool :=
  (2 ≤ op && op ≤ 7) || op == 9 || op == 0xA || (op == 0xB && bitAt ins 18) || op == 0x12
  || (op == 0x13 && bitAt ins 47) || op == 0x14 || op == 0x16

/-- Operations that use B. -/
def usesB (op ins : Nat) : Bool :=
  op == 2 || op == 0xA || (op == 0x10 && bitAt ins 18) || (op == 0x11 && bitAt ins 19) || op == 0x12
  || ((op == 0x13 || op == 0x14) && bitAt ins 30) || (op == 0x16 && bitAt ins 23)

/-- An instruction that aborts its task with cause INSTR by its encoding alone (R386 to R388, R396, R412). A mode that names no
bib uses neither BIBN nor BREG nor B (R386). -/
def insBad (ins : Nat) : Bool :=
  let op := bits ins 0 6
  match insTop op with
  | none => true
  | some top =>
    ins / 2 ^ top != 0 || bitAt ins 15 || (!usesD op && bits ins 6 3 != 0) || (!usesA op ins && bits ins 9 3 != 0)
    || (!usesB op ins && bits ins 12 3 != 0)
    || (match op with
        | 0x0B => bitAt ins 18 && bits ins 19 24 != 0
        | 0x10 => bits ins 16 2 == 3 || 3 < bits ins 31 3 || 6 < bits ins 34 4 || (bitAt ins 18 && bits ins 19 12 != 0)
            || ((bits ins 16 2 != 0 || bits ins 31 3 == 0) && bits ins 34 4 != 0)
            || (bits ins 16 2 == 0 && bits ins 18 13 != 0)
        | 0x11 => 4 < bits ins 16 3 || (bitAt ins 19 && bits ins 20 12 != 0)
            || ((bits ins 16 3 < 2 || bits ins 16 3 == 4) && bits ins 19 13 != 0)
        | 0x13 => bits ins 31 16 == 0 || (bitAt ins 30 && bits ins 16 14 != 0)
        | 0x14 => bitAt ins 30 && bits ins 16 14 != 0
        | _ => false)

/-- The instruction that a stream has fetched. -/
def fetched (s : State) (q st : Nat) : Nat := Sparse.at s.pm (q * 256 + getF s (F.PACER_S_STAT_PC q st)) 0

/-- X[i]. -/
def xReg (t : Task) (i : Nat) : Nat := t.x.getD i 0

/-- Set X[i], modulo 2^64 (R385). -/
def setX (t : Task) (i v : Nat) : Task := { t with x := t.x.set i (v % 2 ^ 64) }

/-- Sign extension of a `w`-bit field to 64 bits. -/
def sext64 (w v : Nat) : Nat := ((signedOf w v) % (2 ^ 64 : Int)).toNat

/-- The program counter of a stream. -/
def pcOf (s : State) (q st : Nat) : Nat := getF s (F.PACER_S_STAT_PC q st)

/-- Set the program counter. -/
def setPc (s : State) (t : Task) (pc : Nat) : State := setF s (F.PACER_S_STAT_PC t.q t.st) pc

/-- The program counter advances by one; past instruction 255 the task aborts (R387, R412). -/
def advance (s : State) (t : Task) : State :=
  let pc := pcOf s t.q t.st
  if pc = 255 then abortTask s t.q t.st 1 else setPc s t (pc + 1)

/-- A refused remote request waits for its resend tick (R406). -/
def resendWait (s : State) (q st : Nat) : Bool := s.gw.any (fun e => e.stream == some (q, st) && e.retryAt != 0)

/-- A stream that decodes an instruction: RUNNING, started, not parked, not stalled for a resend, its clock running. -/
def decoding (s : State) (t : Task) : Bool :=
  streamState s t.q t.st == 1 && t.started && !t.parked && !resendWait s t.q t.st && arrayRuns s

/-- Execute the fetched instruction of a stream when it is one of row `op`; NOP's row takes the undefined ones too. -/
def runIns (op q st : Nat) (ups : InsUps) (f : State → Task → Nat → State) (s : State) : State :=
  match findTask s q st with
  | none => s
  | some t =>
    let ins := fetched s q st
    let mine := bits ins 0 6 == op || (op == 0 && (insTop (bits ins 0 6)).isNone)
    if !decoding s t || !mine then s
    else if ups.perr then abortTask (setF s (F.PACER_STAT_PM_PERR q) 1) q st (if insBad ins then 1 else 0x0E)
    else if insBad ins then abortTask s q st 1
    else f s t ins

/-- The result of a register instruction is written and the program counter advances. -/
def writeReg (v : Task → Nat → Nat) (s : State) (t : Task) (ins : Nat) : State :=
  advance (putTask s (setX t (bits ins 6 3) (v t ins))) t

-- ## Moves (R388 to R395)

/-- One side of a MOV, resolved: its accesses, the request fields, the page kept, or the abort causes and the residence
stall that stopped it. -/
structure Side where
  h : Hdr
  base : Nat
  mirror : Option Nat
  bib : Option Nat
  place : Nat
  off : Nat
  accs : List GAcc
  page : Option Page
deriving DecidableEq, Repr

/-- What a position resolves to; `reside`: to a bib that a fill is bringing in; `none`: it is not tried. -/
inductive SideRes
  | ok (x : Side) | abort (c : Nat) | reside (x : Side) | none
deriving DecidableEq, Repr

/-- A chain walk from a page, at most `n` links (R347): the page reached, or the abort cause. An uncorrectable entry ends it,
that of the page it starts from too (R336, R392). -/
def walk (s : State) (part x : Nat) : Nat → Page → Except Nat Page
  | 0, _ => .error 5
  | n + 1, p =>
    let len := 64 * getF s (F.BIB_LEN_LEN p.bib)
    if s.bibBad.contains p.bib then .error 0x11
    else if x < p.start + len then .ok p
    else if !flagF s (F.BIB_CTL_CHAINED p.bib) then .error 4
    else
      let b := getF s (F.BIB_CTL_NEXT p.bib)
      if 4095 < p.links + 1 then .error 5
      else if s.bibBad.contains b then .error 0x11
      else if !bibValid s b || getF s (F.BIB_CTL_PART b) != part then .error 6
      else walk s part x n ⟨b, p.start + len, p.links + 1⟩

/-- The bibs whose entries a walk reads, at most `n` (R347). -/
def walkBibs (s : State) (x : Nat) : Nat → Page → List Nat
  | 0, _ => []
  | n + 1, p =>
    let stop := p.start + 64 * getF s (F.BIB_LEN_LEN p.bib)
    if x < stop || !flagF s (F.BIB_CTL_CHAINED p.bib) || decide (4095 < p.links + 1) then [p.bib]
    else p.bib :: walkBibs s x n ⟨getF s (F.BIB_CTL_NEXT p.bib), stop, p.links + 1⟩

/-- The page from which a walk to a position starts: the kept page, or the head for a position below it (R392). -/
def fromPage (bib pos : Nat) (kept : Option Page) : Page :=
  match kept with
  | some p => if p.start ≤ pos then p else ⟨bib, 0, 0⟩
  | none => ⟨bib, 0, 0⟩

/-- Where a position lies: the bib, if any, the offset, and the page kept (R388, R392). -/
def locate (s : State) (mode bib pos : Nat) (kept : Option Page) : Except Nat (Option Nat × Nat × Option Page) :=
  let wid := match mode with | 0 => 26 | 1 => 28 | _ => 40
  if 2 ^ wid ≤ pos then .error 2
  else match mode with
    | 0 => .ok (none, pos, none)
    | 1 => .ok (some bib, pos, none)
    | _ =>
      match walk s (getF s (F.BIB_CTL_PART bib)) pos 4097 (fromPage bib pos kept) with
      | .ok p => .ok (some p.bib, pos - p.start, some p)
      | .error c => .error c

/-- Resolve a header at a located position (R390, R392, R393); where several causes arise, the lowest (R414). -/
def resolveSide (s : State) (h : Hdr) (part : Nat) (loc : Option Nat × Nat × Option Page) : SideRes :=
  let side (base place off : Nat) (mir : Option Nat) : Side :=
    ⟨h, base, mir, loc.1, place, off, buildAccs h [] base mir, loc.2.2⟩
  match loc.1 with
  | none =>
    let o := loc.2.1
    let rs := (ranges h o).map (fun x => ((o : Int) + x.1, (o : Int) + x.2))
    let x := side o 0 o none
    if rs.any (fun x => decide ((2 ^ 26 : Int) ≤ x.2)) || !oneBlock h x.accs then .abort 2
    else if !regionOk s part h.op rs then .abort 3
    else .ok x
  | some b =>
    if s.bibBad.contains b then .abort 0x11
    else match resolveBib s h b loc.2.1 part with
      | .error _ => .abort 3
      | .ok d =>
        let x := side d.base d.place d.off d.mirror
        if d.place = 4 then .reside x
        else if d.place != 0 && d.place != 5 then .abort 7
        else if !oneBlock h x.accs then .abort 2
        else if d.place = 5 && !isRead h.op then .abort 7
        else .ok x

/-- The header of a pacer's access: the task's partition, class and SPREAD, the D engine of the launcher (R376). -/
def pacerHdr (t : Task) (op size mod addr : Nat) : Hdr :=
  { t.h with op := op, size := size, mod := mod, addr := addr, cls := bits t.blk 115 3, spread := bits t.blk 112 3, bib := false,
             engine := 3, retry := false, dlAbs := false, deadline := 0, arg := 0, attEn := false, attBaton := 0, attAdd := 0,
             stainMap := 0 }

/-- The count, the result granules and the read header of a MOV's source (R389, R390); none: BOUNDS. -/
def sourceShape (t : Task) (xf code cnt o : Nat) (mxOk : Bool) : Option (Nat × Hdr) :=
  if xf = 0 then (if o % 64 != 0 || 16 < cnt then none else some (cnt, pacerHdr t 0 (64 * cnt - 1) 0 o))
  else if 6 < code then none
  else
    let r := if xf = 1 then 2 else 1
    let n := if isMX code then 32 * cnt else 64 * cnt
    let ok := if isMX code then mxOk && decide (o % 64 + cnt ≤ 64) && (if r = 2 then decide (cnt ≤ 16) else cnt % 2 == 0)
      else o % 64 == 0 && decide (cnt ≤ (if r = 2 then 8 else 16))
    if ok then some (n * r / 64, pacerHdr t 3 (n * r - 1) (code + 16 * (xf - 1)) o) else none

/-- The format of a MOV's source. -/
def sourceCode (s : State) (m : PMode) (b : Option Nat) : Nat :=
  match b with
  | none => m.sfmt
  | some n => getF s (F.BIB_CTL_FORMAT n)

/-- The source of a MOV (R389 to R393): result granules with the side. An unconverted source needs no format, so its position
and count are tested where the position does not resolve too (R390, R414). -/
def sourceSide (s : State) (t : Task) (m : PMode) (pos cnt : Nat) : Nat × SideRes :=
  match locate s m.mode m.bib pos t.srcPage with
  | .error c =>
    if m.xf = 0 then (cnt, .abort (if pos % 64 != 0 || 16 < cnt then min 2 c else c)) else (0, .abort c)
  | .ok loc =>
    let code := sourceCode s m loc.1
    let mxOk := match loc.1 with | none => true | some n => getF s (F.BIB_CTL_LAYOUT n) == 1
    match sourceShape t m.xf code cnt loc.2.1 mxOk with
    | none => (0, .abort 2)
    | some (rg, h) => (rg, resolveSide s h t.h.part loc)

/-- A LOCAL, BIB or CHAIN sink of `rg` granules (R390, R392, R393); whole granules need a position that is a multiple of
64 (DEDUCED, R389). -/
def sinkSide (s : State) (t : Task) (m : PMode) (pos rg : Nat) : SideRes :=
  match locate s (m.mode - 1) m.bib pos t.dstPage with
  | .error c => .abort (if pos % 64 != 0 then min 2 c else c)
  | .ok loc => if loc.2.1 % 64 != 0 then .abort 2
      else if rg = 0 then .none
      else resolveSide s (pacerHdr t 4 (64 * rg - 1) 0 loc.2.1) t.h.part loc

/-- An address names this instance. -/
def namesSelf (s : State) (a : Nat) : Bool := isAlias a || isSelf s a

/-- An address names no instance that the system table reports good (R80). -/
def badInstance (s : State) (a : Nat) : Bool :=
  !assigned s || decide (23 < addrWafer a) || decide (479 < addrInst a) || !siteGood s (addrWafer a) (addrInst a)

/-- The abort causes of a REMOTE sink of `rg` granules (R388, R390, R406, R407). -/
def remoteCauses (s : State) (t : Task) (addr rg : Nat) : List Nat :=
  if 2 ^ 40 ≤ addr then [2]
  else if namesSelf s addr then [8]
  else
    let o := addr % 2 ^ 26
    (if o % 64 != 0 || (rg != 0 && o / 2048 != (o + 64 * rg - 1) / 2048) then [2] else [])
    ++ (if badInstance s addr then [9]
        else if bitAt (blkLinks t.blk) (Config.route (addrWafer addr) (addrInst addr)) then [] else [0xA])

/-- A MOV ready to issue. -/
structure MovGo where
  src : Side
  rg : Nat
  dst : Option Side
  need : List Nat
deriving DecidableEq, Repr

/-- What a MOV does now; `part`: it issues as much as its charge allows, per kind, and stalls for the next bucket (R408). -/
inductive MovPlan
  | abort (c : Nat) | stall (c : Nat) | part (x : List Nat) | go (g : MovGo)
deriving DecidableEq, Repr

/-- The lowest of a list of abort causes (R414). -/
def lowest : List Nat → Option Nat
  | [] => none
  | x :: l => some (l.foldl min x)

/-- The granules that the task may issue of a kind in fine bucket `f` by its charge (R408): 0 read, 1 write, 2 remote,
3 push beats, 4 entries. -/
def taskAllows (t : Task) (f k : Nat) : Nat :=
  if f < t.bFirst || t.bLast < f then 0
  else
    let n := t.bLast + 1 - t.bFirst
    ceilDiv (match k with
      | 0 => bits t.blk 0 24 | 1 => bits t.blk 24 24 | 2 => bits t.blk 48 24 | 3 => bits t.blk 72 24 | _ => bits t.blk 96 16) n

/-- The calendar counter of a kind. -/
def kindCtr (t : Task) (k : Nat) : Nat :=
  match k with
  | 0 => ctrPacer t.q 0 | 1 => ctrPacer t.q 1 | 2 => ctrPacer t.q 2
  | 3 => ctrChan (blkCons t.blk / 8 * 3 + 2) | _ => ctrIssue

/-- What the task has issued of each kind in the current bucket. -/
def usedNow (s : State) (t : Task) : List Nat := if t.usedB = fineOf (now s) then t.used else [0, 0, 0, 0, 0]

/-- What an issue takes beyond the charge, per kind (R408). -/
def beyond (s : State) (t : Task) (need : List Nat) : List (Nat × Nat) :=
  let f := fineOf (now s)
  (List.range 5).filterMap (fun k =>
    let a := taskAllows t f k
    let u := (usedNow s t).getD k 0
    let x := (u + need.getD k 0 - a) - (u - a)
    if x = 0 then none else some (kindCtr t k, x))

/-- What the charge of the current bucket, and what R267 adds to it, still allow of a kind (R408). -/
def chargeLeft (s : State) (t : Task) (k : Nat) : Nat :=
  (taskAllows t (fineOf (now s)) k - (usedNow s t).getD k 0) + (if earlyRel s then spare s (kindCtr t k) else 0)

/-- The charge test of R408. -/
def chargeOk (s : State) (t : Task) (need : List Nat) : Bool :=
  (List.range 5).all (fun k => decide (need.getD k 0 ≤ chargeLeft s t k))

/-- What a MOV has still to issue of each kind, when buckets before have let it issue a part (R408, log entry 112). -/
def needLeft (t : Task) (need : List Nat) : List Nat := (List.range 5).map (fun k => need.getD k 0 - t.prog.getD k 0)

/-- As much of it as the charge of the bucket allows. -/
def needPart (s : State) (t : Task) (need : List Nat) : List Nat :=
  (List.range 5).map (fun k => min (need.getD k 0) (chargeLeft s t k))

/-- Use up the charge of an issue. -/
def useCharge (s : State) (t : Task) (need : List Nat) : State × Task :=
  let f := fineOf (now s)
  let u := usedNow s t
  ({ s with early := (beyond s t need).foldl (fun m p => calAdd m f p.1 p.2) s.early },
   { t with usedB := f, used := (List.range 5).map (fun k => u.getD k 0 + need.getD k 0) })

/-- A part of a MOV is issued (R408). -/
def issuePart (s : State) (t : Task) (x : List Nat) : State :=
  let u := useCharge s t x
  putTask u.1 { u.2 with prog := (List.range 5).map (fun k => t.prog.getD k 0 + x.getD k 0) }

/-- An access of the stream waits at the scoreboard, or for its level-1 grant (R411 causes 4 and 5). -/
def issueStall (s : State) (t : Task) : Option Nat :=
  let rs := streamReqs s t.q t.st
  if rs.any (fun r => r.stage == .stage3) then some 4
  else if rs.any (fun r => waitingBursts s r != []) then some 5
  else none

/-- The stalls of a MOV whose positions resolve, lowest first (R401, R403, R408, R411). -/
def movStall (s : State) (t : Task) (g : MovGo) (push : Bool) : Option Nat :=
  if push && (decide (getF s (F.PACER_S_CRED_AVAIL t.q t.st) < g.rg) || !chanUp s (blkCons t.blk / 8) 2) then some 0
  else if !chargeOk s t (needLeft t g.need) then some 1
  else issueStall s t

/-- The abort cause that a side asks for. -/
def sideCause : SideRes → List Nat
  | .abort c => [c]
  | _ => []

/-- The side of a position that resolves. -/
def sideOf : SideRes → Option Side
  | .ok x => some x
  | .reside x => some x
  | _ => none

/-- A position waits for a fill (R393). -/
def resides : SideRes → Bool
  | .reside _ => true
  | _ => false

/-- Decide a MOV (R388 to R393, R401, R407, R408); of several stalls, the lowest (R411). -/
def movPlan (s : State) (t : Task) (ins : Nat) : MovPlan :=
  let cnt := bits ins 16 5 + 1
  let pa := xReg t (bits ins 9 3)
  let pb := xReg t (bits ins 12 3)
  match t.src, t.dst with
  | some sm, some dm =>
    let push := dm.mode == 0
    if push && (bitAt ins 22 || bits ins 12 3 != 0) then .abort 1
    else
      let sv := sourceSide s t sm pa cnt
      let local_ := decide (1 ≤ dm.mode) && decide (dm.mode ≤ 3)
      let dv : SideRes := if local_ then sinkSide s t dm pb sv.1 else .none
      let sink8 := if (sm.xf != 0 && !push) || (push && !blkConsEn t.blk) then [8] else []
      let rem := if dm.mode = 4 then remoteCauses s t pb sv.1 else []
      match lowest (sink8 ++ sideCause sv.2 ++ sideCause dv ++ rem) with
      | some c => .abort c
      | none =>
        match sideOf sv.2 with
        | some x =>
          let d := sideOf dv
          let w := match d with | some y => y.accs.length | none => 0
          let ent := match d with | some y => if y.mirror.isSome then 2 else 1 | none => 0
          let wait := resides sv.2 || resides dv
          let g : MovGo := ⟨x, sv.1, d, [x.accs.length, w, if dm.mode = 4 then sv.1 else 0, if push then sv.1 else 0, ent]⟩
          match movStall s t g push with
          | some c => if c = 1 && (issueStall s t).isNone && !wait then .part (needPart s t (needLeft t g.need)) else .stall c
          | none => if wait then .stall 7 else .go g
        | none => .stall 7
  | _, _ => .abort 1

/-- X[A] after a MOV with INCA (R391). -/
def incA (s : State) (m : PMode) (x : Side) (pa cnt : Nat) : Nat :=
  let code := sourceCode s m x.bib
  if m.xf != 0 && isMX code then
    if pa % 64 + cnt = 64 then pa - pa % 64 + 64 * tileGranules code else pa + cnt
  else pa + 64 * cnt

/-- A pacer's request (R15, R376). -/
def pacerReq (s : State) (t : Task) (x : Side) (sink : Sink) (needs : Option Nat) : Request :=
  { blankReq s.nextId (.pacer t.q t.st) x.h [] (now s) with
    adm := now s, promise := cutoff t, place := .task t.bFirst (t.bLast + 1 - t.bFirst), base := x.base, mirror := x.mirror,
    bib := x.bib, accs := x.accs, aux := [x.place, x.off], sink := sink, needs := needs }

/-- Issue a MOV (R391 to R395, R401, R403, R405). -/
def issueMov (s : State) (t : Task) (ins : Nat) (g : MovGo) : State :=
  let a := bits ins 9 3
  let b := bits ins 12 3
  let cnt := bits ins 16 5 + 1
  let pa := xReg t a
  let pb := xReg t b
  let u := useCharge s t (needLeft t g.need)
  let id := s.nextId
  let push := g.dst.isNone && (match t.dst with | some m => m.mode == 0 | none => false)
  let sink : Sink := match g.dst with
    | some _ => .write (id + 1)
    | none => if push then .push else .remote pb
  let t1 := { u.2 with prog := [0, 0, 0, 0, 0], srcPage := g.src.page,
                       dstPage := (match g.dst with | some d => d.page | none => u.2.dstPage) }
  let t2 := if bitAt ins 21 then setX t1 a (match t.src with | some m => incA s m g.src pa cnt | none => pa) else t1
  let t3 := if bitAt ins 22 then setX t2 b ((if a = b ∧ bitAt ins 21 = true then xReg t2 b else pb) + 64 * g.rg) else t2
  let seq := getF s (F.PACER_S_PUSHSEQ_SEQ t.q t.st)
  let t4 := if push then { t3 with pushes := t3.pushes ++ [⟨id, seq, g.rg, none⟩] } else t3
  let rd := pacerReq u.1 t g.src sink none
  let s1 := putTask { u.1 with nextId := u.1.nextId + 1 } t4
  let s2 := issueNew s1 rd
  let s3 := match g.dst with
    | some d => issueNew { s2 with nextId := s2.nextId + 1 } (pacerReq s2 t d .none (some id))
    | none => s2
  let s4 := if push then
      setF (setF s3 (F.PACER_S_CRED_AVAIL t.q t.st) (getF s (F.PACER_S_CRED_AVAIL t.q t.st) - g.rg))
        (F.PACER_S_PUSHSEQ_SEQ t.q t.st) (seq + g.rg)
    else s3
  let c : EvCtx := ⟨0xC0 + t.q, t.h.tag, t.h.part, some t.h.cls, trackOf ((g.src.accs.map (fun x => x.gran)).headD 0)⟩
  advance (ctrEvent s4 0x18 t.q (g.need.getD 0 0 + g.need.getD 1 0 + g.need.getD 2 0) c) t

/-- MOV. -/
def doMov (s : State) (t : Task) (ins : Nat) : State :=
  match movPlan s t ins with
  | .abort c => abortTask s t.q t.st c
  | .stall _ => s
  | .part x => issuePart s t x
  | .go g => issueMov s t ins g

/-- The bibs whose entries a position reads: that of BIB mode, the pages of a chain from the kept one on (R388, R392). -/
def sideBibs (s : State) (mode bib pos : Nat) (kept : Option Page) : List Nat :=
  match mode with
  | 1 => [bib]
  | 2 => walkBibs s pos 4097 (fromPage bib pos kept)
  | _ => []

/-- The upset of a bib's entry. -/
def bibUpset (l : List (Nat × Upset)) (b : Nat) : Upset :=
  match l.find? (fun p => p.1 == b) with
  | some p => p.2
  | none => .none

/-- The entries of a side are read and checked in turn, up to one that is uncorrectable (R336). -/
def readBibs (l : List (Nat × Upset)) : List Nat → State → State
  | [], s => s
  | b :: rest, s =>
    let r := readBibEntry s b (bibUpset l b)
    if r.2.bibBad.contains b then r.2 else readBibs l rest r.2

/-- MOV, after the check of the bib entries that its source and its sink read (R336). -/
def doMovChecked (l : List (Nat × Upset)) (s : State) (t : Task) (ins : Nat) : State :=
  let a := match t.src with
    | some m => sideBibs s m.mode m.bib (xReg t (bits ins 9 3)) t.srcPage
    | none => []
  let b := match t.dst with
    | some m => if m.mode = 2 || m.mode = 3 then sideBibs s (m.mode - 1) m.bib (xReg t (bits ins 12 3)) t.dstPage else []
    | none => []
  doMov (readBibs l b (readBibs l a s)) t ins

-- ## Remote traffic (R396, R399, R405, R588)

/-- A header of remote traffic: an absolute deadline at the task's remote deadline for the deadline classes (R405, R382);
TAG counts the gateway's requests (DESIGN CHOICE, log entry 32). -/
def remoteHdr (s : State) (t : Task) (op size addr arg sm : Nat) : Hdr :=
  let h := pacerHdr t op size 0 addr
  let dl := op == 4 || (decide (4 ≤ h.cls) && decide (h.cls ≤ 6))
  { h with arg := arg, stainMap := sm, tag := s.nextId % 4096, dlAbs := dl,
           deadline := if dl then remoteDl t % 2 ^ 32 else 0 }

/-- Send a request of the stream over the mesh. -/
def sendRemote (s : State) (t : Task) (op size addr arg sm : Nat) (beats : List Nat) : State :=
  gwOpen s none (some (t.q, t.st)) (remoteHdr s t op size addr arg sm) beats (remoteDl t)

/-- The instance that X[r][39:26] names, as an address (R78, R396, R399). -/
def instAddr (x : Nat) : Nat := bits x 26 14 * 2 ^ 26

/-- The number in an instruction: the immediate, or X[B] with BREG (R387). -/
def numOf (t : Task) (ins breg lo w : Nat) : Nat := if bitAt ins breg then xReg t (bits ins 12 3) % 2 ^ w else bits ins lo w

-- ## Signals, waits and relay queues

/-- SIG may be applied (R396). -/
def sigReady (s : State) (t : Task) : Bool := writesDone s t.q t.st && pushesLeft s t && remotesDone s t.q t.st

/-- SIG (R396, R429 to R431). A remote signal that names this instance is applied here (DEDUCED, R78). -/
def doSig (s : State) (t : Task) (ins : Nat) : State :=
  let b := numOf t ins 30 16 14
  let inc := bits ins 31 16
  let a := instAddr (xReg t (bits ins 9 3))
  if !sigReady s t then s
  else if !bitAt ins 47 || namesSelf s a then advance (signalAs s b inc t.h.part) t
  else if badInstance s a then abortTask s t.q t.st 9
  else advance (sendRemote s t 0x10 0 a (b + inc * 2 ^ 16) 0 []) t

/-- A wait record of the stream stands. -/
def waitStands (s : State) (t : Task) : Bool := s.waiters.any (fun w => w.stream == some (t.q, t.st))

/-- WAITB (R397, R430). -/
def doWaitb (s : State) (t : Task) (ins : Nat) : State :=
  let b := numOf t ins 30 16 14
  let x := xReg t (bits ins 9 3) % 2 ^ 32
  if t.pwait then (if waitStands s t then s else advance (putTask s { t with pwait := false }) t)
  else if !batonAllows s b t.h.part || batonShut s b then s
  else if reached (getF s (F.BTN_CNT_COUNT b)) x then advance (ctrEvent s 0x1B (b / 256) 1 noCtx) t
  else putTask { s with waiters := s.waiters ++ [⟨b, x, none, some (t.q, t.st)⟩] } { t with pwait := true }

/-- An instruction on a baton of this instance, after the check of the baton's word (R429); one word read may end waits,
so the task is looked up again. -/
def batonChecked (u : Upset) (f : State → Task → Nat → State) (s : State) (t : Task) (ins : Nat) : State :=
  let b := numOf t ins 30 16 14
  let s1 := readBatonWord s b u
  match findTask s1 t.q t.st with
  | some t1 => f s1 t1 ins
  | none => s1

/-- SIG, with the check of a baton of this instance. -/
def sigChecked (u : Upset) (s : State) (t : Task) (ins : Nat) : State :=
  if sigReady s t && (!bitAt ins 47 || namesSelf s (instAddr (xReg t (bits ins 9 3)))) then batonChecked u doSig s t ins
  else doSig s t ins

/-- RPOP (R398). -/
def doRpop (s : State) (t : Task) (ins : Nat) : State :=
  let q := bits ins 16 7
  if !relayAllows s q t.h.part then abortTask s t.q t.st 3
  else match popRelay s q with
    | (none, s1) => s1
    | (some h, s1) =>
      let t1 := (findTask s1 t.q t.st).getD t
      let t2 := { t1 with handles := t1.handles ++ [(q, h)] }
      if h.aborted then abortTask (putTask s1 t2) t.q t.st 0x0B
      else advance (putTask s1 (setX t2 (bits ins 6 3) h.bib)) t


/-- RPUSH may issue (R399). -/
def rpushReady (s : State) (t : Task) : Bool := writesDone s t.q t.st && remotesDone s t.q t.st

/-- RPUSH (R363, R364, R399). A handle stays the task's until its push is done: at once in a queue of this instance, when it
leaves the wait pool, or with the answer of a remote push (R369). -/
def doRpush (s : State) (t : Task) (ins : Nat) : State :=
  let q := bits ins 16 7
  let hb := xReg t (bits ins 9 3) % 2 ^ 12
  let a := instAddr (xReg t (bits ins 12 3))
  let done (x : State) : State :=
    let t1 := (findTask x t.q t.st).getD t
    advance (putTask x { t1 with handles := dropHandle hb t1.handles, pwait := false }) t
  let go (x : State) : State := advance (putTask x { (findTask x t.q t.st).getD t with pwait := false }) t
  if t.pwait then (if s.relayWait.any (fun w => w.stream == some (t.q, t.st)) then s else go s)
  else if !rpushReady s t then s
  else if bitAt ins 23 && !namesSelf s a then
    if badInstance s a then abortTask s t.q t.st 9
    else go (sendRemote s t 0x17 0 a (q + hb * 2 ^ 16) 0 [])
  else if !relayAllows s q t.h.part then abortTask s t.q t.st 3
  else
    let h : Handle := ⟨hb, false, some t.rid⟩
    if (relayQ s q).length < 64 && !s.relayWait.any (fun w => w.queue == q) then done (enterRelay s q h)
    else if s.relayWait.length < 256 then
      putTask { s with relayWait := s.relayWait ++ [⟨q, h, none, some (t.q, t.st)⟩] } { t with pwait := true }
    else abortTask (incF s (F.RLY_CNT_FULL_CNT q) 1) t.q t.st 0x0C

/-- SYNC. -/
def doSync (s : State) (t : Task) (_ : Nat) : State := if streamQuiet s t.q t.st then advance s t else s

/-- PUSH_LAST of a stream that has executed END, once its last push has been sent (R404). -/
def sendLast (s : State) (q st : Nat) : State :=
  match findTask s q st with
  | some t =>
    if streamState s q st = 2 && blkConsEn t.blk && t.pushes == [] && !t.lastSent then
      let n := getF s (F.PACER_S_PUSHSEQ_SEQ q st)
      streamSignal (putTask s { t with lastSent := true }) t (blkCons t.blk) 2
        (fieldsWord [(0, (blkBase t.blk + 64 * (n % blkRing t.blk)) % 2 ^ 32), (32, n)]) 0 0 []
    else s
  | none => s

/-- END (R384, R404); the program counter advances as after any instruction (R387, log entry 119). -/
def doEnd (s : State) (t : Task) (_ : Nat) : State :=
  sendLast (setF (setPc s t ((pcOf s t.q t.st + 1) % 256)) (F.PACER_S_STAT_STATE t.q t.st) 2) t.q t.st

-- ## The instruction rows

/-- NOP, and the undefined operations (R387, R412). -/
def execNop (q st : Nat) (ups : InsUps) (s : State) : Host.Outcome State Fault Refusal :=
  .next (runIns 0x00 q st ups (fun s t _ => advance s t) s)
/-- LI (R387). -/
def execLi (q st : Nat) (ups : InsUps) (s : State) : Host.Outcome State Fault Refusal :=
  .next (runIns 0x01 q st ups (writeReg (fun _ i => sext64 48 (bits i 16 48))) s)
/-- ADD (R387). -/
def execAdd (q st : Nat) (ups : InsUps) (s : State) : Host.Outcome State Fault Refusal :=
  .next (runIns 0x02 q st ups (writeReg (fun t i => xReg t (bits i 9 3) + xReg t (bits i 12 3))) s)
/-- ADDI (R387). -/
def execAddi (q st : Nat) (ups : InsUps) (s : State) : Host.Outcome State Fault Refusal :=
  .next (runIns 0x03 q st ups (writeReg (fun t i => xReg t (bits i 9 3) + sext64 32 (bits i 16 32))) s)
/-- MULI (R387). -/
def execMuli (q st : Nat) (ups : InsUps) (s : State) : Host.Outcome State Fault Refusal :=
  .next (runIns 0x04 q st ups (writeReg (fun t i => xReg t (bits i 9 3) * bits i 16 16)) s)
/-- SHLI (R387). -/
def execShli (q st : Nat) (ups : InsUps) (s : State) : Host.Outcome State Fault Refusal :=
  .next (runIns 0x05 q st ups (writeReg (fun t i => xReg t (bits i 9 3) * 2 ^ bits i 16 6)) s)
/-- SHRI (R387). -/
def execShri (q st : Nat) (ups : InsUps) (s : State) : Host.Outcome State Fault Refusal :=
  .next (runIns 0x06 q st ups (writeReg (fun t i => xReg t (bits i 9 3) / 2 ^ bits i 16 6)) s)
/-- ANDI (R387). -/
def execAndi (q st : Nat) (ups : InsUps) (s : State) : Host.Outcome State Fault Refusal :=
  .next (runIns 0x07 q st ups (writeReg (fun t i => Nat.land (xReg t (bits i 9 3)) (bits i 16 32))) s)
/-- JMP (R387). -/
def execJmp (q st : Nat) (ups : InsUps) (s : State) : Host.Outcome State Fault Refusal :=
  .next (runIns 0x08 q st ups (fun s t i => setPc s t (bits i 16 8)) s)
/-- BNZ (R387). -/
def execBnz (q st : Nat) (ups : InsUps) (s : State) : Host.Outcome State Fault Refusal :=
  .next (runIns 0x09 q st ups (fun s t i => if xReg t (bits i 9 3) != 0 then setPc s t (bits i 16 8) else advance s t) s)
/-- BEQ (R387). -/
def execBeq (q st : Nat) (ups : InsUps) (s : State) : Host.Outcome State Fault Refusal :=
  .next (runIns 0x0A q st ups (fun s t i =>
    if xReg t (bits i 9 3) = xReg t (bits i 12 3) then setPc s t (bits i 16 8) else advance s t) s)
/-- LOOP (R387). -/
def execLoop (q st : Nat) (ups : InsUps) (s : State) : Host.Outcome State Fault Refusal :=
  .next (runIns 0x0B q st ups (fun s t i =>
    let c := if bitAt i 18 then xReg t (bits i 9 3) % 2 ^ 24 else bits i 19 24
    if c = 0 then setPc s t (bits i 43 8) else advance (putTask s { t with l := t.l.set (bits i 16 2) c }) t) s)
/-- ENDL (R387); a counter of 0 wraps modulo 2^24 (DEDUCED, R385). -/
def execEndl (q st : Nat) (ups : InsUps) (s : State) : Host.Outcome State Fault Refusal :=
  .next (runIns 0x0C q st ups (fun s t i =>
    let c := (t.l.getD (bits i 16 2) 0 + 2 ^ 24 - 1) % 2 ^ 24
    let s1 := putTask s { t with l := t.l.set (bits i 16 2) c }
    if c != 0 then setPc s1 t (bits i 18 8) else advance s1 t) s)
/-- SRC (R388). -/
def execSrc (q st : Nat) (ups : InsUps) (s : State) : Host.Outcome State Fault Refusal :=
  .next (runIns 0x10 q st ups (fun s t i => advance (putTask s { t with
    src := some ⟨bits i 16 2, numOf t i 18 19 12, bits i 31 3, bits i 34 4⟩, srcPage := none }) t) s)
/-- DST (R388). -/
def execDst (q st : Nat) (ups : InsUps) (s : State) : Host.Outcome State Fault Refusal :=
  .next (runIns 0x11 q st ups (fun s t i => advance (putTask s { t with
    dst := some ⟨bits i 16 3, numOf t i 19 20 12, 0, 0⟩, dstPage := none }) t) s)
/-- MOV (R389 to R395). -/
def execMov (q st : Nat) (ups : InsUps) (s : State) : Host.Outcome State Fault Refusal := .next (runIns 0x12 q st ups (doMovChecked ups.bibs) s)
/-- SIG (R396). -/
def execSig (q st : Nat) (ups : InsUps) (s : State) : Host.Outcome State Fault Refusal := .next (runIns 0x13 q st ups (sigChecked ups.store) s)
/-- WAITB (R397). -/
def execWaitb (q st : Nat) (ups : InsUps) (s : State) : Host.Outcome State Fault Refusal := .next (runIns 0x14 q st ups (batonChecked ups.store doWaitb) s)
/-- RPOP (R398). -/
def execRpop (q st : Nat) (ups : InsUps) (s : State) : Host.Outcome State Fault Refusal := .next (runIns 0x15 q st ups doRpop s)
/-- RPUSH (R399). -/
def execRpush (q st : Nat) (ups : InsUps) (s : State) : Host.Outcome State Fault Refusal := .next (runIns 0x16 q st ups doRpush s)
/-- SYNC (R387). -/
def execSync (q st : Nat) (ups : InsUps) (s : State) : Host.Outcome State Fault Refusal := .next (runIns 0x17 q st ups doSync s)
/-- END (R384, R404). -/
def execEndTask (q st : Nat) (ups : InsUps) (s : State) : Host.Outcome State Fault Refusal := .next (runIns 0x18 q st ups doEnd s)

-- ## The end of a task, and its remote answers

/-- TASK_END: an ENDING stream with nothing outstanding (R384). -/
def execTaskEnd (q st : Nat) (s : State) : Host.Outcome State Fault Refusal :=
  if !arrayRuns s then .next s else
  match findTask s q st with
  | some t =>
    if streamState s q st = 2 && streamQuiet s q st && (!blkConsEn t.blk || t.lastSent) then .next (endTask s t) else .next s
  | none => .next s

/-- TASK_CUTOFF (R409). -/
def execTaskCutoff (q st : Nat) (s : State) : Host.Outcome State Fault Refusal :=
  if !arrayRuns s then .next s else
  match findTask s q st with
  | some t => if streamState s q st = 1 && decide (cutoff t ≤ now s) then .next (abortTask s q st 0x0D) else .next s
  | none => .next s


/-- PACER_REMOTE_ANSWER (R406, R413, R431, R399). -/
def execPacerRemoteAnswer (a : MeshAns) (s : State) : Host.Outcome State Fault Refusal :=
  if !arrayRuns s then .next s else
  match findGw s a.seq with
  | some e =>
    if e.rid.isSome || e.retryAt != 0 then .next s
    else match e.stream with
      | none => .next (dropGw s a.seq)
      | some (q, st) =>
        let op := bits e.hdr 4 5
        match findTask s q st with
        | none => .next (dropGw s a.seq)
        | some t =>
          if a.code ≤ 1 then
            .next (let s1 := dropGw s a.seq
                   if op = 4 then noteMoved s1 q st e.beats.length
                   else if op = 0x17 then putTask s1 { t with handles := dropHandle (bits e.hdr 152 12) t.handles }
                   else s1)
          else if (a.code = 2 || a.code = 3) && decide (a.value < remoteDl t) then
            .next (putGw s { e with retryAt := max 1 a.value })
          else .next (abortTask (dropGw s a.seq) q st (if op = 0x17 && a.code == 6 then 0x0C else 9))
  | none => .next s

/-- A refused request of a stream leaves as a new request, with a new tag (R406). It keeps its number, so that a FENCE that
came after it still waits for it (R478). -/
def gwAgain (s : State) (e : GwEntry) : State :=
  let e1 := { e with hdr := hdrWord { decodeHdr (BitVec.ofNat 256 e.hdr) with tag := s.nextId % 4096, retry := false },
                     link := Config.route (bits e.hdr 99 5) (bits e.hdr 90 9), resends := 0, retryAt := 0 }
  gwTransmit (putGw { s with nextId := s.nextId + 1 } e1) e1 false

/-- PACER_REMOTE_RESEND: the VALUE tick of a refused remote write has come; it leaves as a new request (R406). -/
def execPacerRemoteResend (seq : Nat) (s : State) : Host.Outcome State Fault Refusal :=
  if !arrayRuns s then .next s else
  match findGw s seq with
  | some e =>
    if e.stream.isSome && e.retryAt != 0 && decide (e.retryAt ≤ now s) then
      .next (gwAgain s e)
    else .next s
  | none => .next s

-- ## Hints (R416)

/-- HINT_START: the phase of a pacer's hint begins. -/
def execHintStart (q : Nat) (s : State) : Host.Outcome State Fault Refusal :=
  match Sparse.find s.hints q with
  | some (a, b) => if a ≤ now s && now s < b then .next (setF s (F.PACER_STAT_HINT_ACT q) 1) else .next s
  | none => .next s

/-- HINT_END: the phase ends. -/
def execHintEnd (q : Nat) (s : State) : Host.Outcome State Fault Refusal :=
  match Sparse.find s.hints q with
  | some (_, b) =>
    if b ≤ now s then .next (setF { s with hints := Sparse.del s.hints q } (F.PACER_STAT_HINT_ACT q) 0) else .next s
  | none => .next s

-- ## Stall cycles (R411)

/-- The stall of a stream that waits for its pushes and its other work: 0 while its consumer's D channel is down and holds
one of its pushes, else 5. -/
def workStall (s : State) (t : Task) : Nat :=
  if blkConsEn t.blk && !chanUp s (blkCons t.blk / 8) 2 && !pushesLeft s t then 0 else 5

/-- The stall that the fetched instruction asks for. -/
def insStall (s : State) (t : Task) : Option Nat :=
  let ins := fetched s t.q t.st
  match bits ins 0 6 with
  | 0x12 => (match movPlan s t ins with | .stall c => some c | .part _ => some 1 | _ => none)
  | 0x13 => if sigReady s t then none else some (workStall s t)
  | 0x14 => if t.pwait && !waitStands s t then none else some 2
  | 0x15 => if relayQ s (bits ins 16 7) == [] then some 3 else none
  | 0x16 => if t.pwait then some 3 else if rpushReady s t then none else some 5
  | 0x17 => if streamQuiet s t.q t.st then none else some (workStall s t)
  | _ => none

/-- The stall of a stream that executes nothing now, if it stalls, the lowest that applies (R411); a task not yet released
waits for its buckets (DEDUCED: CHARGE). -/
def stallOf (s : State) (t : Task) : Option Nat :=
  let st := streamState s t.q t.st
  if st = 2 then some (workStall s t)
  else if st != 1 then none
  else if !t.started then some 1
  else if resendWait s t.q t.st then some (min 6 ((insStall s t).getD 6))
  else insStall s t

/-- Add `n` stall cycles to every stalled stream (R411, R421). -/
def countStalls (s : State) (n : Nat) : State :=
  s.tasks.foldl (fun x t => match stallOf s t with
    | some c => ctrEvent (incF x (F.PACER_STALL_CYCLES t.q c) n) 0x19 (t.q * 8 + c) n
        ⟨0xC0 + t.q, t.h.tag, t.h.part, some t.h.cls, 0⟩
    | none => x) s

end Sys2Proof.Machine
end

