-- ==== Sys2Proof/Machine/Spill.lean ====
section
/-! DEFINITION. The spill engine: descriptors, admission of moves, pages to and from the tiers, completion and failure
(R491 to R526), and the requests that units of the block make for themselves. -/

namespace Sys2Proof.Machine

-- ## Requests of the block's own units

/-- A header of class 7, partition 15 or another, for an access of one of the block's own units. -/
def unitHdr (op cls part size addr : Nat) : Hdr :=
  { op := op, cls := cls, part := part, tag := 0, core := 0, engine := 0, retry := false, dlAbs := false, spread := 0,
    bib := false, size := size, mod := 0, addr := addr, deadline := 0, arg := 0, attBaton := 0, attAdd := 0, attEn := false,
    stainMap := 0 }

/-- Submit such a request to admission (R247): none when it is refused. -/
def submitUnit (s : State) (r : Request) : Option State :=
  let p := min (promisedTime s r.h.cls (now s) 0) (horizonEnd s)
  let c := chargeOf r 0
  match admission s r.h.cls (now s) p c.1 with
  | (.admitted pl, s1) => some (accept s1 { r with trx := now s, promise := p, factor := c.2 } pl)
  | _ => none

/-- Submit a request that waits for its next fine bucket when it is refused. -/
def submitOrHold (s : State) (r : Request) : State :=
  let s1 := { s with reqs := s.reqs ++ [r], nextId := s.nextId + 1 }
  (submitUnit s1 r).getD s1

-- ## Rings (R504 to R507)

/-- The 512 bits of an entry granule of ring `p` as an instance byte offset; `k` 0 the descriptor, 1 the record. -/
def ringAddr (s : State) (p i k : Nat) : Nat := 64 * (getF s (F.BIB_LOC_LOC (getF s (F.SPL_RING_CFG_BIB p))) % 2 ^ 20 + 2 * i + k)

/-- Entries of ring `p`. -/
def ringLen (s : State) (p : Nat) : Nat := getF s (F.BIB_LEN_LEN (getF s (F.SPL_RING_CFG_BIB p))) / 2

/-- Ring `p` is enabled and its bib is still its own (R504, R521). -/
def ringUsable (s : State) (p : Nat) : Bool :=
  let b := getF s (F.SPL_RING_CFG_BIB p)
  flagF s (F.SPL_RING_CFG_EN p) && bibValid s b && getF s (F.BIB_CTL_PART b) == p && ringLen s p != 0

/-- MOVE_DESCRIPTOR_READ (R505): a refused read is submitted again by a later command. -/
def execMoveDescriptorRead (p : Nat) (s : State) : Host.Outcome State Fault Refusal :=
  if !arrayRuns s then .next s else
  let taken := Sparse.at s.ringTaken p 0
  if decide (16 ≤ p) || !flagF s F.SPL_CTL_EN || !ringUsable s p || s.parked
     || !reached (getF s (F.BTN_CNT_COUNT (getF s (F.SPL_RING_BATON_DOORBELL p)))) ((taken + 1) % 2 ^ 32) then .next s
  else
    let i := taken % ringLen s p
    let a := ringAddr s p i 0
    let r := { blankReq s.nextId (.spill p) (unitHdr 0 7 15 63 a) [] (now s) with
                 base := a, accs := [readAcc (a / 64) 0 0 0], aux := [1, i] }
    match submitUnit { s with reqs := s.reqs ++ [r], nextId := s.nextId + 1 } r with
    | some s1 => .next (setF { s1 with ringTaken := Sparse.set s1.ringTaken p ((taken + 1) % 2 ^ 32) 0 }
        (F.SPL_RING_POS_TAKEN p) (taken + 1))
    | none => .next s

/-- The descriptor of an entry has been read (R508). -/
def holdDesc (s : State) (p i word : Nat) : State := { s with descs := s.descs ++ [⟨p, i, word, now s⟩] }

/-- Write the completion record of an entry (R507, R510). -/
def writeRecord (s : State) (p idx word code cause doneBibs value stain last : Nat) : State :=
  if !ringUsable s p then s
  else
    let w := fieldsWord [(0, code), (8, cause), (16, doneBibs), (32, bits word 192 16), (64, value % 2 ^ 64),
      (128, stain % 2 ^ 32), (160, last)]
    let a := ringAddr s p idx 1
    let beat : Beat := BitVec.ofNat 512 w
    submitOrHold s { blankReq s.nextId (.spill p) (unitHdr 4 7 15 63 a) [beat] (now s) with
      base := a, accs := buildAccs (unitHdr 4 7 15 63 a) [beat] a none, aux := [2, idx, code] }

/-- The completion record has committed (R507, R525, R531). -/
def recordDone (s : State) (p code : Nat) : State :=
  let s1 := if code = 1 then
      incF (ctrEvent s 0x1F 0xD4 1 ⟨0xD4, 0, p, some 7, 0⟩) (F.PART_INTEG_DELIVERED p) 1
    else s
  signalBaton (setF s1 (F.SPL_RING_POS_COMPLETED p) (getF s1 (F.SPL_RING_POS_COMPLETED p) + 1))
    (getF s1 (F.SPL_RING_BATON_DONE p)) 1

/-- The completion records of a ring that are on their way, in the order in which their entries completed. -/
def ringRecords (s : State) (p : Nat) : List Request := s.reqs.filter (fun q => q.org == .spill p && q.aux.headD 0 == 2)

/-- The records at the head of the ring's order that have committed signal DONE (R507): at most `n`. -/
def recordsOn : Nat → State → Nat → State
  | 0, s, _ => s
  | n + 1, s, p =>
    match ringRecords s p with
    | q :: _ => if q.stage == .signal then recordsOn n (recordDone (dropReq s q.id) p (q.aux.getD 2 0)) p else s
    | [] => s

/-- A completion record has committed: it signals once every earlier one of its ring has (R507). -/
def recordEnd (s : State) (r : Request) (p : Nat) : State :=
  recordsOn s.reqs.length (putReq s { r with stage := .signal }) p

-- ## Checks of a descriptor (R508, R509, R511)

/-- A refusal: CODE, CAUSE and VALUE; of a FAULT the bib at which it occurred stands in the place of VALUE, which is zero. -/
abbrev MoveErr := Nat × Nat × Nat

/-- Check 1: the descriptor. -/
def descBad (w : Nat) : Option MoveErr :=
  let k := bits w 0 4
  if bits w 6 2 != 0 || bits w 26 6 != 0 || bits w 72 24 != 0 || bits w 180 12 != 0 || w / 2 ^ 208 != 0
     || !(k == 1 || k == 2) || (k == 1 && (bits w 4 2 == 3 || bits w 160 20 != 0))
     || (k == 2 && (bits w 4 2 != 0 || bits w 128 32 != 0)) then some (5, 1, 0)
  else if bits w 32 40 % 64 != 0 || bits w 160 20 % 32 != 0 then some (5, 2, 0)
  else none

/-- The next bibs of a chain after `b`, at most `n` (R347, R509). -/
def nextBibs (s : State) (part : Nat) : Nat → Nat → Nat → Except MoveErr (List Nat)
  | 0, _, _ => .ok []
  | n + 1, b, links =>
    if !flagF s (F.BIB_CTL_CHAINED b) then .error (4, 1, 0)
    else
      let x := getF s (F.BIB_CTL_NEXT b)
      if 4095 < links + 1 then .error (4, 2, 0)
      else if s.bibBad.contains x then .error (7, 3, x)
      else if !bibValid s x || getF s (F.BIB_CTL_PART x) != part then .error (4, 3, 0)
      else match nextBibs s part n x (links + 1) with
        | .ok l => .ok (x :: l)
        | .error e => .error e

/-- The bibs that follow `b` in its chain, at most `n`. -/
def chainBibs (s : State) : Nat → Nat → List Nat
  | 0, _ => []
  | n + 1, b => if flagF s (F.BIB_CTL_CHAINED b) then getF s (F.BIB_CTL_NEXT b) :: chainBibs s n (getF s (F.BIB_CTL_NEXT b)) else []

/-- The bibs whose entries check 2 reads, in order (R336, R509). -/
def moveWalk (s : State) (w : Nat) : List Nat :=
  let l := walkBibs s (bits w 32 40) 4097 ⟨bits w 8 12, 0, 0⟩
  l ++ chainBibs s (bits w 20 6) (l.getLastD 0)

/-- Check 2: the bibs of a move. -/
def moveBibs (s : State) (w : Nat) : Except MoveErr (List Nat) :=
  let part := getF s (F.BIB_CTL_PART (bits w 8 12))
  match walk s part (bits w 32 40) 4097 ⟨bits w 8 12, 0, 0⟩ with
  | .error c => .error (if c = 0x11 then (7, 3, ((moveWalk s w).find? (fun b => s.bibBad.contains b)).getD 0) else (4, c - 3, 0))
  | .ok p =>
    match nextBibs s part (bits w 20 6) p.bib p.links with
    | .ok l => .ok (p.bib :: l)
    | .error e => .error e

/-- The promised completion of the move that holds a bib. -/
def heldUntil (s : State) (b : Nat) : Option Nat :=
  (s.moves.find? (fun m => m.held.any (fun j => m.bibs.getD j 4096 == b))).map (fun m => m.promised)

/-- Check 3: each bib; one that another move holds is left to check 5 (DEDUCED, R514). -/
def bibErr (s : State) (p kind b : Nat) : Option MoveErr :=
  let pl := getF s (F.BIB_CTL_PLACE b)
  if !bibValid s b || getF s (F.BIB_CTL_PART b) != p then some (4, 3, 0)
  else if flagF s (F.BIB_CTL_PIN b) || flagF s (F.BIB_CTL_MIRROR b) then some (4, 4, 0)
  else if (heldUntil s b).isSome then none
  else if (kind == 1 && pl != 0) || (kind == 2 && !(1 ≤ pl && pl ≤ 3)) then some (4, 5, 0)
  else none

/-- Pages of a bib (R494). -/
def bibPages (s : State) (b : Nat) : Nat := ceilDiv (getF s (F.BIB_LEN_LEN b)) 1024

/-- First pages of the bibs of a SPILL (R509). -/
def spillPages (s : State) : List Nat → Nat → List Nat
  | [], _ => []
  | b :: l, x => x :: spillPages s l (x + bibPages s b)

/-- First granules of the bibs of a FILL (R509). -/
def fillGrans (s : State) : List Nat → Nat → List Nat
  | [], _ => []
  | b :: l, x => x :: fillGrans s l (32 * ceilDiv (x + getF s (F.BIB_LEN_LEN b)) 32)

/-- A move's bibs with their tier, first page and first granule. -/
structure MovePlan where
  bibs : List Nat
  tl : List Nat
  pg : List Nat
  gb : List Nat
deriving DecidableEq, Repr

/-- Where the bibs of a move lie (R509, R514). -/
def planMove (s : State) (w : Nat) (bs : List Nat) : MovePlan :=
  if bits w 0 4 = 1 then
    ⟨bs, bs.map (fun _ => bits w 4 2), spillPages s bs (bits w 128 32), bs.map (fun b => getF s (F.BIB_LOC_LOC b) % 2 ^ 20)⟩
  else
    ⟨bs, bs.map (fun b => getF s (F.BIB_CTL_PLACE b) - 1), bs.map (fun b => getF s (F.BIB_LOC_LOC b)),
     fillGrans s bs (bits w 160 20)⟩

/-- Pages `x` to `x + n - 1` of tier `t` lie in the range of partition `p` (R495). -/
def pagesOk (s : State) (p t x n : Nat) : Bool :=
  decide (getF s (F.PART_TIER_BASE_BASE p t) ≤ x)
  && decide (x + n ≤ getF s (F.PART_TIER_BASE_BASE p t) + getF s (F.PART_TIER_CNT_CNT p t))

/-- Check 4: the resources. -/
def resourceErr (s : State) (p w : Nat) (m : MovePlan) : Option MoveErr :=
  let js := List.range m.bibs.length
  let len (j : Nat) : Nat := getF s (F.BIB_LEN_LEN (m.bibs.getD j 0))
  let pagesIn := js.all (fun j => pagesOk s p (m.tl.getD j 0) (m.pg.getD j 0) (bibPages s (m.bibs.getD j 0)))
  let gransIn := bits w 0 4 == 1 || js.all (fun j =>
    let g := m.gb.getD j 0
    decide (g + len j ≤ 2 ^ 20) && (p == 15 || (decide ((regionOf s p).1 ≤ g) && decide (g + len j ≤ (regionOf s p).2))))
  if !pagesIn || !gransIn then some (4, 6, 0)
  else if m.tl.any (fun t => !flagF s (F.SPL_TIER_CFG_EN t)) then some (4, 7, 0)
  else none

/-- Data granules of a move. -/
def moveGrans (s : State) (bs : List Nat) : Nat := (bs.map (fun b => getF s (F.BIB_LEN_LEN b))).sum

/-- The access time of a tier in ticks (R524). -/
def tierAccess (s : State) (t : Nat) : Nat := 64 * getF s (F.SPL_TIER_CFG_ACCESS t)

/-- The charge of a move in each bucket of its window (R513). -/
def moveCharge (p kind t c g n : Nat) : Charge :=
  { tracks := (List.range 16).map (fun k => (k, ceilDiv g (16 * n)))
    ports := [(ctrTier t, c), (ctrSpill, c)] ++ (if kind = 2 then [(ctrIssue, ceilDiv (ceilDiv g 16) n)] else [])
    part := p, cls := 0 }

/-- A promised completion of a move lies inside the holdover window (R46, R513). -/
def holdOkMove (s : State) (promised : Nat) : Bool :=
  s.cad.st != .holdover || decide (promised < s.cad.holdEntry + 16777216)

/-- The window search of R513 from bucket `x` on, `k` starts, of those that `ok` allows. -/
def findWindow (s : State) (step n : Nat) (c : Charge) (ok : Nat → Bool) : Nat → Nat → Option Nat
  | 0, _ => none
  | k + 1, x =>
    if ok x && (bookWindow step c n s x).isSome then some x else findWindow s step n c ok k (x + 1)

/-- How a move ends at its checks: the refusal, whether SPL_CNT counts it (R514, R515, R523) and, where it lacks room, the
first bucket tested and the charge (R280). -/
abbrev MoveStop := MoveErr × Bool × Option (Nat × Charge)

/-- Checks 5 and 6 (R513 to R515): the start and the length of the window, the charge, and the promised completion, or the
refusal. The search for s* disregards the end of the window and the holdover limit alike. -/
def windowOf (s : State) (p w trx : Nat) (m : MovePlan) : Except MoveStop (Nat × Nat × Charge × Nat) :=
  match m.bibs.filterMap (heldUntil s) with
  | v :: _ => .error ((2, 0, v), true, none)
  | [] =>
    match pauseOf s 7 with
    | some v => .error ((2, 0, v), false, none)
    | none =>
      if !jnlRoom s 2 then .error ((2, 0, jnlEarliest s), false, none)
      else
        let kind := bits w 0 4
        let t := m.tl.headD 0
        let g := moveGrans s m.bibs
        let c := getF s (F.SPL_TIER_CFG_RATE t)
        let n := ceilDiv (g + 5 * ((m.bibs.map (bibPages s)).sum)) c
        if c = 0 then .error ((2, 0, never), true, none)
        else
          let d0 := if bits w 96 32 = 0 then trx + getF s (F.REG_BOUND_BOUND 7) else absTick trx (bits w 96 32)
          let d := admitD s d0
          let acc := tierAccess s t
          let lo := bFirst s trx + (if kind = 2 then acc / 64 else 0)       -- R513, R690 (log entry 128)
          let hi := if kind = 2 then (d + 1) / 64 else (d + 1 - acc) / 64   -- s_max + 2 + n
          let top := fineOf (now s) + 4096 + 2                              -- the horizon's bound plus 2 plus n
          let ch := moveCharge p kind t c g n
          let prom (x : Nat) : Nat := 64 * (x + n + 2) - 1 + (if kind = 1 then acc else 0)
          let ok (x : Nat) : Bool := holdOkMove s (prom x)
          let any (_ : Nat) : Bool := true
          let span := min hi top + 1 - (2 + n) - lo
          match findWindow s (admitStep s) n ch ok span lo with
          | some x => .ok (x, n, ch, prom x)
          | none =>
            let value : MoveErr × Bool :=
              if s.cad.ann.isSome && (findWindow s (currentStep s) n ch ok span lo).isSome
              then ((3, 0, s.cad.ann.map Ann.tick |>.getD 0), true)
              else if (findWindow s (admitStep s) n ch any span lo).isSome then ((2, 0, now s + 131072), false)
              else match findWindow s (admitStep s) n ch any (top + 1 - (2 + n) - lo) lo with
                | some x => ((2, 0, 64 * (x - 1)), true)
                | none => ((2, 0, never), true)
            .error (value.1, value.2, some (lo, ch))

/-- Checks 1 to 6 of R511. -/
def checkMove (s : State) (d : MvDesc) : Except MoveStop (MovePlan × Nat × Nat × Charge × Nat) :=
  match descBad d.word with
  | some e => .error (e, false, none)
  | none =>
    match moveBibs s d.word with
    | .error e => .error (e, false, none)
    | .ok bs =>
      match bs.filterMap (bibErr s d.p (bits d.word 0 4)) with
      | e :: _ => .error (e, false, none)
      | [] =>
        let m := planMove s d.word bs
        match resourceErr s d.p d.word m with
        | some e => .error (e, false, none)
        | none =>
          match windowOf s d.p d.word d.trx m with
          | .error e => .error e
          | .ok x => .ok (m, x)

-- ## Carrying out a move (R517, R518)

/-- Group consecutive granules that share a fine bucket and a 16-granule block: (bucket, first granule, count). -/
def groupGrans (l : List (Nat × Nat)) : List (Nat × Nat × Nat) :=
  l.foldl (fun acc x =>
    match acc.getLast? with
    | some (b, g, n) => if b = x.1 ∧ g / 16 = x.2 / 16 ∧ x.2 = g + n then acc.dropLast ++ [(b, g, n + 1)] else acc ++ [(x.1, x.2, 1)]
    | none => [(x.1, x.2, 1)]) []

/-- The granules of page `k` of bib `j` of a move. -/
def pageLen (s : State) (m : Move) (j k : Nat) : Nat := min 1024 (getF s (F.BIB_LEN_LEN (m.bibs.getD j 0)) - 1024 * k)

/-- Granules on the tier channel before page `k` of bib `j`. -/
def tierIndex (s : State) (m : Move) (j k : Nat) : Nat :=
  ((m.bibs.take j).map (fun b => getF s (F.BIB_LEN_LEN b) + 5 * bibPages s b)).sum + k * 1029

/-- The bursts of a page: each granule in the bucket that its place on the tier channel gives it (R517). -/
def pageBursts (s : State) (m : Move) (j k skip : Nat) : List (Nat × Nat × Nat) :=
  groupGrans ((List.range (pageLen s m j k)).map (fun i =>
    (m.start + (tierIndex s m j k + skip + i) / max 1 m.c, m.gb.getD j 0 + 1024 * k + i)))

/-- A burst of a move as an admitted request (R15, R513, R517). -/
def moveReq (s : State) (m : Move) (op tag j k : Nat) (b : Nat × Nat × Nat) (accs : List GAcc) : Request :=
  { blankReq s.nextId (.spill m.p) (unitHdr op 7 m.p (64 * b.2.2 - 1) (64 * b.2.1)) [] (now s) with
    adm := now s, promise := m.promised, place := .fine b.1, bucket := b.1, stage := .admitted, base := 64 * b.2.1,
    bib := some (m.bibs.getD j 0), accs := accs, aux := [tag, m.id, j, k] }

/-- Add a request of a move. -/
def addReq (s : State) (r : Request) : State := { s with reqs := s.reqs ++ [r], nextId := s.nextId + 1 }

/-- Issue the reads of one page of a SPILL. -/
def readPage (s : State) (m : Move) (j k : Nat) : State :=
  let s0 := { s with pagesOut := s.pagesOut ++ [⟨m.id, j, k, 0, 0, []⟩] }
  (pageBursts s m j k 0).foldl (fun t b =>
    addReq t (moveReq t m 0 3 j k b ((List.range b.2.2).map (fun i => readAcc (b.2.1 + i) i 0 0)))) s0

/-- Start the pages of a move that are still outstanding. -/
def startPages (s : State) (m : Move) : State :=
  m.pend.foldl (fun t x =>
    if m.kind = 1 then readPage t m x.1 x.2
    else
      let tr := m.tl.getD x.1 0
      let pg := m.pg.getD x.1 0 + x.2
      emit t (.tierRead tr (getF t (F.SPL_TIER_BASE_BASE tr) + pg) m.id x.1 x.2)) s

/-- Replace a move. -/
def putMove (s : State) (m : Move) : State := { s with moves := s.moves.map (fun x => if x.id == m.id then m else x) }

/-- The move with an id. -/
def findMove (s : State) (id : Nat) : Option Move := s.moves.find? (fun m => m.id == id)

/-- A move goes to RUNNING and its pages start (R577, R517). -/
def startMove (s : State) (id : Nat) : State :=
  match findMove s id with
  | some m => startPages (jnlRunning s id) m
  | none => s

/-- Claim a bib (R514). -/
def claimBib (s : State) (kind b g : Nat) : State :=
  if kind = 1 then setF s (F.BIB_CTL_PLACE b) 5 else setF (setF s (F.BIB_CTL_PLACE b) 4) (F.BIB_LOC_LOC b) g

/-- Admit a move (R513, R514, R574, R577). -/
def admitMove (s : State) (d : MvDesc) (m : MovePlan) (x n : Nat) (ch : Charge) (prom : Nat) : State :=
  let kind := bits d.word 0 4
  let id := s.nextId
  let js := List.range m.bibs.length
  let s1 := (bookWindow (admitStep s) ch n s x).getD s
  let mv : Move := { id := id, p := d.p, idx := d.idx, kind := kind, word := d.word, promised := prom, start := x, n := n,
                     c := getF s (F.SPL_TIER_CFG_RATE (m.tl.headD 0)), bibs := m.bibs, tl := m.tl, pg := m.pg, gb := m.gb, held := js,
                     pend := js.flatMap (fun j => (List.range (bibPages s (m.bibs.getD j 0))).map (fun k => (j, k))),
                     got := [], done := 0, stain := 0, fail := none, ended := false }
  let s2 := js.foldl (fun t j => claimBib t kind (m.bibs.getD j 0) (m.gb.getD j 0)) s1
  let e : JEntry := { entry0 3 with part := d.p, cls := 7, req := 0xD4, owafer := selfWafer s, oinst := selfInst s, body := 1,
                                    promised := prom, unit := d.p * 16 + d.idx % 16, words := [d.word], rid := (some id) }
  let s3 := jnlOpen { s2 with moves := s2.moves ++ [mv], nextId := id + 1 } e
  if shadowOn s3 then s3 else startMove s3 id

/-- A refusal of a move is counted (R276, R280, R523, R575). -/
def noteMoveRefused (s : State) (e : MoveStop) : State :=
  if e.1.1 = 2 ∨ e.1.1 = 3 then
    let s0 := if e.2.1 then incF s F.SPL_CNT_REFUSED 1 else s
    let s1 := incF s0 (if e.1.1 = 2 then F.REG_REFUSE_BUSY_CNT else F.REG_REFUSE_RATE_CNT) 1
    let full := !jnlRoom s 2 && !e.2.1 && (pauseOf s 7).isNone
    let s2 := if full then setF s1 F.JNL_STAT_JNL_FULL 1 else s1
    match e.2.2 with
    | some (lo, ch) => countRef s2 lo (lo + 1) ch
    | none => s2
  else s

/-- A held descriptor is checked and acted on (R511 to R515); `ups`: the upsets that the bib entries it reads meet (R336). -/
def takeDesc (s : State) (d : MvDesc) (ups : List (Nat × Upset)) : State :=
  let s0 := { s with descs := s.descs.erase d }
  let s1 := if (descBad d.word).isSome then s0 else readBibs ups (moveWalk s0 d.word) s0
  match checkMove s1 d with
  | .error e =>
    let fault := e.1.1 == 7
    writeRecord (noteMoveRefused s1 e) d.p d.idx d.word e.1.1 e.1.2.1 0 (if fault then 0 else e.1.2.2) 0 (if fault then e.1.2.2 else 0)
  | .ok (m, x, n, ch, prom) => admitMove s1 d m x n ch prom

/-- The oldest held descriptor of a ring. -/
def headDesc (s : State) (p : Nat) : Option MvDesc := s.descs.find? (fun d => d.p == p)

/-- SPILL (R511, R513): also a descriptor of an undefined KIND, which is refused. -/
def execSpill (m : MoveStart) (s : State) : Host.Outcome State Fault Refusal :=
  if !arrayRuns s then .next s else
  match headDesc s m.p with
  | some d => if bits d.word 0 4 != 2 && !s.parked then .next (takeDesc s d m.bibs) else .next s
  | none => .next s

/-- FILL (R511, R513). -/
def execFill (m : MoveStart) (s : State) : Host.Outcome State Fault Refusal :=
  if !arrayRuns s then .next s else
  match headDesc s m.p with
  | some d => if bits d.word 0 4 == 2 && !s.parked then .next (takeDesc s d m.bibs) else .next s
  | none => .next s

-- ## Completion (R518 to R520)

/-- The completion record of a move that has ended, and the end of the move. -/
def closeMove (s : State) (id : Nat) : State :=
  match findMove s id with
  | some m =>
    let s1 := { s with moves := s.moves.filter (fun x => x.id != id) }
    match m.fail with
    | some (c, b) => writeRecord s1 m.p m.idx m.word 7 c m.done 0 m.stain b
    | none => writeRecord s1 m.p m.idx m.word (if m.stain = 0 then 0 else 1) 0 m.done m.promised m.stain 0
  | none => s

/-- A move ends (R520): its journal entry, then its record once the buddy has acknowledged the final state (R580). -/
def endMove (s : State) (m : Move) : State :=
  let code := if m.fail.isSome then 7 else if m.stain = 0 then 0 else 1
  let s1 := putMove s { m with ended := true }
  let s2 := if code = 7 then s1 else incF s1 F.SPL_CNT_MOVES 1
  match entryOf s2 m.id with
  | some e =>
    let s3 := jnlFinish s2 e code (match m.fail with | some (c, _) => c | none => 0) (if code = 7 then 0 else m.promised) 0 none
    if shadowOn s2 then s3 else closeMove s3 m.id
  | none => closeMove s2 m.id

/-- A request still uses the Elras granules of bib `j` of a move (R344). -/
def bibInUse (s : State) (m : Move) (j : Nat) : Bool :=
  let g := m.gb.getD j 0
  let n := getF s (F.BIB_LEN_LEN (m.bibs.getD j 0))
  s.reqs.any (fun r => r.stage != .signal && r.stage != .waiting && !(r.aux.take 2 == [3, m.id])
    && r.accs.any (fun a => decide (g ≤ a.gran) && decide (a.gran < g + n)))

/-- Bib `j` of a move completes (R518). -/
def completeBib (s : State) (m : Move) (j : Nat) : State :=
  let b := m.bibs.getD j 0
  let s1 := if m.kind = 1 then setF (setF s (F.BIB_CTL_PLACE b) (m.tl.getD j 0 + 1)) (F.BIB_LOC_LOC b) (m.pg.getD j 0)
    else setF s (F.BIB_CTL_PLACE b) 0
  putMove s1 { m with held := m.held.erase j, done := m.done + 1 }

/-- Complete the bibs of a move whose pages are all done, and end the move that holds none. -/
def settleMove (s : State) (id : Nat) : State :=
  match findMove s id with
  | some m =>
    if m.ended then s
    else
      let ready := m.held.filter (fun j => m.pend.all (fun x => x.1 != j) && !(m.kind == 1 && bibInUse s m j))
      let s1 := ready.foldl (fun t j => match findMove t id with | some x => completeBib t x j | none => t) s
      match findMove s1 id with
      | some x => if x.held = [] then endMove s1 x else s1
      | none => s1
  | none => s

/-- Every move. -/
def settleMoves (s : State) : State := (s.moves.map (fun m => m.id)).foldl settleMove s

/-- Granules on the tier channel (R729, R770). -/
def noteTier (s : State) (m : Move) (t n : Nat) : State :=
  energyEvt (ctrEvent s 0x13 t n ⟨0xD4, 0, m.p, some 7, 0⟩) 5 m.p 0 n

/-- The page record of a page that leaves (R497); `data` are its 1,024 granules. -/
def pageRecord (s : State) (m : Move) (j k v sb : Nat) (data : List Nat) : List Nat :=
  let b := m.bibs.getD j 0
  let g0 := fieldsWord [(0, m.p), (4, getF s (F.PART_TIER_CTL_EPOCH m.p)), (20, b), (32, k)]
  let rest := [bits v 0 512, bits v 512 512, bits sb 0 512, bits sb 512 512]
  let crc := crc32c ((g0 :: rest ++ data).flatMap (toBytes 64))
  (g0 + crc * 2 ^ 480) :: rest

/-- A granule of a SPILL page has been read (R498). -/
def spillGran (s : State) (m : Move) (j k : Nat) (x : GRes) : State :=
  let i := x.gran - m.gb.getD j 0 - 1024 * k
  let sb := x.st || x.p3 != 0 || x.p6 != 0
  let upd (p : PageOut) : PageOut :=
    if p.mv == m.id && p.bi == j && p.page == k then
      { p with v := p.v + b2n x.v * 2 ^ i, sb := p.sb + b2n sb * 2 ^ i, data := Sparse.set p.data i x.data.toNat 0 }
    else p
  let s1 := { s with pagesOut := s.pagesOut.map upd }
  if sb then (match findMove s1 m.id with | some y => putMove s1 { y with stain := y.stain + 1 } | none => s1) else s1

/-- A burst of a SPILL has been read; the page leaves when it was its last (R498). -/
def spillRead (s : State) (r : Request) : State :=
  let id := r.aux.getD 1 0
  let j := r.aux.getD 2 0
  let k := r.aux.getD 3 0
  match findMove s id with
  | none => s
  | some m =>
    let s1 := r.res.foldl (fun t x => spillGran t m j k x) s
    if s1.reqs.any (fun q => q.id != r.id && q.aux == r.aux) then s1
    else match s1.pagesOut.find? (fun p => p.mv == id && p.bi == j && p.page == k) with
      | none => s1
      | some p =>
        let t := m.tl.getD j 0
        let data := (List.range 1024).map (fun i => Sparse.at p.data i 0)
        let s2 := { s1 with pagesOut := s1.pagesOut.erase p }
        let s3 := match findMove s2 id with | some y => putMove s2 { y with got := y.got ++ [(j, k)] } | none => s2
        emit (noteTier s3 m t (pageLen s m j k + 5)) (.tierPage t (getF s (F.SPL_TIER_BASE_BASE t) + m.pg.getD j 0 + k) id j k
          (pageRecord s m j k p.v p.sb data) data)

/-- A burst of a FILL has committed. -/
def fillWrite (s : State) (r : Request) : State :=
  let id := r.aux.getD 1 0
  if s.reqs.any (fun q => q.id != r.id && q.aux == r.aux) then s
  else match findMove s id with
    | some m => putMove s { m with pend := m.pend.erase (r.aux.getD 2 0, r.aux.getD 3 0) }
    | none => s

/-- TIER_ACK (R518). -/
def execTierAck (mv bib page : Nat) (s : State) : Host.Outcome State Fault Refusal :=
  if !arrayRuns s then .next s else
  match findMove s mv with
  | some m =>
    if m.kind = 1 && m.got.contains (bib, page) && m.pend.contains (bib, page) then
      .next (settleMove (putMove s { m with pend := m.pend.erase (bib, page) }) mv)
    else .next s
  | none => .next s

/-- SPL_ERR_LOG and SPL_ERR_PAGE (R523). -/
def tierErr (s : State) (m : Move) (kind j page : Nat) : State :=
  let s1 := setF (setF s F.SPL_ERR_LOG_TIER (m.tl.getD j 0)) F.SPL_ERR_LOG_KIND kind
  let s2 := setF (setF s1 F.SPL_ERR_LOG_PART m.p) F.SPL_ERR_LOG_BIB (m.bibs.getD j 0)
  irqIf (setF s2 F.SPL_ERR_PAGE_PAGE (m.pg.getD j 0 + page)) F.SPL_CTL_ERR_IRQ_EN 6

/-- The state that a record gives granule `i` (R102, R499). -/
def recState (rec : List Beat) (i : Nat) : GState :=
  let bit (a b : Nat) : Bool := bitAt (rec.getD (if i < 512 then a else b) 0).toNat (i % 512)
  if bit 1 2 then (if bit 3 4 then .stained else .clean) else (if bit 3 4 then .lost else .unwritten)

/-- How a page is filled: the state of each granule, and the error kind that stained it, if one did (R500, R501). The granules
that the tier names are stained whatever the checks of R500 say (log entry 120). -/
def pageStates (s : State) (m : Move) (j k : Nat) (d : TierPage) : List GState × Option Nat :=
  let x := (d.record.getD 0 0).toNat
  let crc := crc32c (((BitVec.ofNat 512 (x % 2 ^ 480) : Beat) :: d.record.drop 1 ++ d.data).flatMap (fun b => toBytes 64 b.toNat))
  let n := pageLen s m j k
  let owner := bits x 0 4 == m.p && bits x 4 16 == getF s (F.PART_TIER_CTL_EPOCH m.p) && bits x 20 12 == m.bibs.getD j 0
    && bits x 32 12 == k
  let ok := crc == x / 2 ^ 480
  ((List.range n).map (fun i => if d.bad.contains i || !ok then .stained else if owner then recState d.record i else .unwritten),
   if d.bad != [] then some 3 else if ok then none else some 2)

/-- One write of a FILL granule (R499). -/
def fillAcc (g i : Nat) (data : Beat) (st : GState) : GAcc :=
  { readAcc g i 0 0 with data := data, be := allBytes, st := st == .stained,
                         fset := (match st with | .unwritten => some .unwritten | .lost => some .lost | _ => none) }

/-- TIER_PAGE_DELIVERY (R499 to R501). -/
def execTierPageDelivery (d : TierPage) (s : State) : Host.Outcome State Fault Refusal :=
  if !arrayRuns s then .next s else
  match findMove s d.mv with
  | none => .next s
  | some m =>
    let j := d.bib
    let k := d.page
    if m.kind != 2 || !m.pend.contains (j, k) || m.got.contains (j, k) then .next s
    else
      let ps := pageStates s m j k d
      let bad := (ps.1.filter (fun x => x == .stained || x == .lost)).length
      let s1 := putMove (noteTier s m (m.tl.getD j 0) (pageLen s m j k + 5)) { m with got := m.got ++ [(j, k)], stain := m.stain + bad }
      let s2 := match ps.2 with
        | none => s1
        | some kind =>
          let t1 := incF (setF s1 F.SPL_STAT_PAGE_STAIN 1) F.SPL_ERR_CNT_PAGE_STAIN_CNT 1
          let t2 := if kind = 3 then setF t1 F.SPL_STAT_TIER_ERR 1 else t1
          logEvt (tierErr t2 m kind j k) 0x0D 2 m.p 0xD4 (m.gb.getD j 0 + 1024 * k) 0 0 0
      let lo := m.gb.getD j 0 + 1024 * k
      .next ((pageBursts s m j k 5).foldl (fun t b =>
        addReq t (moveReq t m 4 4 j k b ((List.range b.2.2).map (fun i =>
          let x := b.2.1 + i - lo
          fillAcc (b.2.1 + i) i (d.data.getD x 0) (ps.1.getD x .unwritten))))) s2)

-- ## Failure (R519, R521)

/-- A miss with cause fault of work that is no lane request (R270, R519). -/
def faultMiss (s : State) (part cls req promise track : Nat) : State :=
  let s1 := incF (incF s F.REG_MISS_CNT_MISS_CNT 1) (F.PART_MISS_MISS_CNT part) 1
  let s2 := setF (setF s1 F.REG_MISS_LOG_PART part) F.REG_MISS_LOG_CLASS cls
  let s3 := setF (setF s2 F.REG_MISS_LOG_CAUSE 0) F.REG_MISS_LOG_TRACK track
  let s4 := setF (setF s3 F.REG_MISS_LOG_REQ req) F.REG_MISS_TICK_LO_VAL promise
  let s5 := ctrEvent (setF (setF s4 F.REG_MISS_TICK_HI_VAL (promise / 2 ^ 32)) F.REG_STAT_MISS 1) 0x08 track 1
    ⟨req, 0, part, some cls, track⟩
  irqIf s5 F.REG_CTL_MISS_IRQ_EN 3

/-- A request serves one of the bibs of a move from index `j` on. -/
def servesFrom (id j : Nat) (r : Request) : Bool :=
  (r.aux.headD 0 == 3 || r.aux.headD 0 == 4) && r.aux.getD 1 0 == id && decide (j ≤ r.aux.getD 2 0)

/-- Withdraw the accesses of a move, from bib `j` on, that have not passed stage 3. -/
def withdrawMove (s : State) (id j : Nat) : State :=
  { s with reqs := s.reqs.filter (fun r => !(servesFrom id j r && r.stage != .access)),
           pagesOut := s.pagesOut.filter (fun p => !(p.mv == id && decide (j ≤ p.bi))) }

/-- Release bib `j` of a move unmoved (R519). -/
def releaseBib (s : State) (m : Move) (j : Nat) : State :=
  let b := m.bibs.getD j 0
  if m.kind = 1 then setF s (F.BIB_CTL_PLACE b) 0
  else setF (setF s (F.BIB_CTL_PLACE b) (m.tl.getD j 0 + 1)) (F.BIB_LOC_LOC b) (m.pg.getD j 0)

/-- Bib `j` of a move fails (R519): it and the bibs after it are released. -/
def failMove (s : State) (m : Move) (j cause : Nat) : State :=
  let s1 := (m.held.filter (fun x => decide (j ≤ x))).foldl (fun t x => releaseBib t m x) (withdrawMove s m.id j)
  let m1 := { m with held := m.held.filter (fun x => decide (x < j)), pend := m.pend.filter (fun x => decide (x.1 < j)),
                     fail := some (cause, m.bibs.getD j 0) }
  let page := (m.pend.find? (fun x => x.1 == j)).getD (j, 0)
  let s2 := incF (putMove s1 m1) F.SPL_ERR_CNT_LATE_CNT 1
  let s3 := setF s2 (if cause = 1 then F.SPL_STAT_LATE else F.SPL_STAT_TIER_ERR) 1
  let s4 := faultMiss (tierErr s3 m (cause - 1) j page.2) m.p 7 0xD4 m.promised (trackOf (m.gb.getD j 0))
  settleMove { s4 with faults := s4.faults ++ [(3, now s, now s)] } m.id

/-- The tier still owes a page of a move: its delivery for a FILL, its acknowledgement for a SPILL (R519). -/
def owedByTier (m : Move) (x : Nat × Nat) : Bool := m.kind != 2 || !m.got.contains x

/-- TIER_TIMEOUT (R519, cause 1): the first bib with a page outstanding fails. -/
def execTierTimeout (mv : Nat) (s : State) : Host.Outcome State Fault Refusal :=
  match findMove s mv with
  | some m =>
    match m.pend.filter (owedByTier m) with
    | x :: _ =>
      if !m.ended && decide (m.promised + 1024 * getF s (F.SPL_TIER_CFG_TMO (m.tl.getD x.1 0)) ≤ now s)
      then .next (failMove s m x.1 1) else .next s
    | [] => .next s
  | none => .next s

/-- TIER_PAGE_FAILURE (R519, cause 2) on bib `bib` of a move. -/
def execTierPageFailure (mv bib : Nat) (s : State) : Host.Outcome State Fault Refusal :=
  match findMove s mv with
  | some m => if !m.ended && m.pend.any (fun x => x.1 == bib && owedByTier m x) then .next (failMove s m bib 2) else .next s
  | none => .next s

/-- The moves of a killed partition stop at once (R521, R608). -/
def killMoves (s : State) (p : Nat) : State :=
  (s.moves.filter (fun m => m.p == p)).foldl (fun t m =>
    let t1 := withdrawMove { t with moves := t.moves.filter (fun x => x.id != m.id) } m.id 0
    match entryOf t1 m.id with
    | some e => jnlFinish t1 e 6 1 0 0 none
    | none => t1) { s with descs := s.descs.filter (fun d => d.p != p) }

/-- A parked move restarts its current bibs from the start (R518, R600). -/
def restartMove (s : State) (m : Move) : State :=
  let m1 := { m with pend := m.held.flatMap (fun j => (List.range (bibPages s (m.bibs.getD j 0))).map (fun k => (j, k))), got := [] }
  startPages (putMove (withdrawMove s m.id 0) m1) m1

end Sys2Proof.Machine
end

