-- ==== Sys2Proof/Machine/Bibs.lean ====
section
/-! DEFINITION. The bib table's commits and what the marshal's bib commands do to it (R332 to R351, R541, R641). -/

namespace Sys2Proof.Machine

/-- One bib entry (R332). -/
structure BibE where
  valid : Bool
  place : Nat
  part : Nat
  fmt : Nat
  layout : Nat
  spread : Nat
  mirror : Bool
  chained : Bool
  pin : Bool
  next : Nat
  loc : Nat
  len : Nat
  mirG : Nat
deriving DecidableEq, Repr

/-- The entry of bib `n`, without the check of its code. -/
def bibE (s : State) (n : Nat) : BibE :=
  ⟨flagF s (F.BIB_CTL_VALID n), getF s (F.BIB_CTL_PLACE n), getF s (F.BIB_CTL_PART n), getF s (F.BIB_CTL_FORMAT n),
   getF s (F.BIB_CTL_LAYOUT n), getF s (F.BIB_CTL_SPREAD n), flagF s (F.BIB_CTL_MIRROR n), flagF s (F.BIB_CTL_CHAINED n),
   flagF s (F.BIB_CTL_PIN n), getF s (F.BIB_CTL_NEXT n), getF s (F.BIB_LOC_LOC n), getF s (F.BIB_LEN_LEN n),
   getF s (F.BIB_AUX_MIRROR_G n)⟩

/-- Track blocks of an entry. -/
def bibBlocks (e : BibE) : Nat := e.len / 32

/-- The lines of a MIRROR entry (R541). -/
def bibLines (n : Nat) (e : BibE) : List MirLine :=
  (List.range (bibBlocks e)).map (fun i => ⟨n, e.loc % 2 ^ 20 / 32 + i, e.mirG / 32 + i, 0, 0⟩)

/-- The conditions of R334 on a VALID entry fail. -/
def bibInvalid (e : BibE) : Bool :=
  (e.place == 0 && (e.loc / 2 ^ 20 != 0 || decide (2 ^ 20 < e.loc + e.len)))
  || (e.mirror && (e.place != 0 || decide (2 ^ 20 < e.mirG + e.len)
        || (decide (e.loc < e.mirG + e.len) && decide (e.mirG < e.loc + e.len))))
  || (e.layout == 2 && (e.len % 32 != 0 || (e.place == 0 && e.loc % 32 != 0)))
  || (e.layout == 1 && (!isMX e.fmt || e.len % tileGranules e.fmt != 0))
  || e.place == 4 || e.place == 5 || e.len == 0 || decide (4194304 < e.len)

/-- A commit that keeps VALID 1 changes what R335 forbids. -/
def bibMoved (old new : BibE) : Bool :=
  old.valid && new.valid &&
  !(old.part == new.part && old.place == new.place && old.loc == new.loc && old.len == new.len && old.layout == new.layout
    && old.fmt == new.fmt && old.mirror == new.mirror && old.mirG == new.mirG)

/-- A commit that sets VALID 1 with MIRROR 1 finds no lines (R541); a bib that keeps them needs no more. -/
def bibNoLines (s : State) (n : Nat) (old new : BibE) : Bool :=
  new.valid && new.mirror && !(old.valid && old.mirror) &&
  (new.loc % 32 != 0 || new.mirG % 32 != 0 || new.len % 32 != 0
   || s.integ.mir.any (fun l => l.bib != n && decide (new.loc / 32 ≤ l.prim) && decide (l.prim < (new.loc + new.len) / 32))
   || decide (4096 < (s.integ.mir.filter (fun l => l.bib != n)).length + bibBlocks new))

/-- A commit is ignored (R334, R335, R541), also to a bib that a move holds (R514). -/
def bibIgnored (s : State) (n : Nat) (old new : BibE) : Bool :=
  (heldUntil s n).isSome || (new.valid && bibInvalid new) || bibMoved old new || bibNoLines s n old new

/-- Give an entry its value, with its mirror lines (R333, R541). -/
def setBib (s : State) (n : Nat) (old e : BibE) : State :=
  let s1 := setF (setF (setF s (F.BIB_CTL_VALID n) (b2n e.valid)) (F.BIB_CTL_PLACE n) e.place) (F.BIB_CTL_PART n) e.part
  let s2 := setF (setF (setF s1 (F.BIB_CTL_FORMAT n) e.fmt) (F.BIB_CTL_LAYOUT n) e.layout) (F.BIB_CTL_SPREAD n) e.spread
  let s3 := setF (setF (setF s2 (F.BIB_CTL_MIRROR n) (b2n e.mirror)) (F.BIB_CTL_CHAINED n) (b2n e.chained)) (F.BIB_CTL_PIN n) (b2n e.pin)
  let s4 := setF (setF (setF s3 (F.BIB_CTL_NEXT n) e.next) (F.BIB_LOC_LOC n) e.loc) (F.BIB_LEN_LEN n) e.len
  let s5 := setF { s4 with bibBad := s4.bibBad.filter (fun x => x != n) } (F.BIB_AUX_MIRROR_G n) e.mirG
  let keep := old.valid && old.mirror && e.valid && e.mirror
  let others := s5.integ.mir.filter (fun l => l.bib != n)
  if keep then s5
  else { s5 with integ := { s5.integ with mir := if e.valid && e.mirror then others ++ bibLines n e else others } }

/-- Commit an entry or ignore it (R334, R335); the flag says that it took effect. -/
def commitBib (s : State) (n : Nat) (old new : BibE) : Bool × State :=
  if bibIgnored s n old new then
    (false, setF (setF (incF s F.GLB_BIB_CNT_IGN_CNT 1) F.GLB_BIB_STAT_WR_IGN 1) F.GLB_BIB_STAT_LAST_BIB n)
  else (true, setBib s n old new)

/-- A bib takes VALID 0 (R351, R541). -/
def dropBib (s : State) (n : Nat) : State := setBib s n (bibE s n) { bibE s n with valid := false }

-- ## Allocation (R350)

/-- Every valid bib. -/
def validBibs (s : State) : List Nat := (List.range 4096).filter (bibValid s)

/-- Elras granule ranges that bibs use: (first, after the last). -/
def usedGrans (s : State) : List (Nat × Nat) :=
  (validBibs s).flatMap (fun n =>
    let e := bibE s n
    if e.place = 0 ∨ e.place = 4 ∨ e.place = 5 then
      (e.loc % 2 ^ 20, e.loc % 2 ^ 20 + e.len) :: (if e.mirror then [(e.mirG, e.mirG + e.len)] else [])
    else [])

/-- Two half-open ranges meet. -/
def meets (a b : Nat × Nat) : Bool := decide (a.1 < b.2) && decide (b.1 < a.2)

/-- Track blocks of partition `p`'s region from which `len` granules are free. -/
def freeBlocks (s : State) (p len : Nat) (taken : List (Nat × Nat)) : List Nat :=
  let rg := regionOf s p
  ((List.range ((rg.2 - rg.1) / 32)).map (fun i => rg.1 / 32 + i)).filter (fun b =>
    let r : Nat × Nat := (32 * b, 32 * b + 32 * ceilDiv len 32)
    decide (r.2 ≤ rg.2) && taken.all (fun x => !meets x r))

/-- Tier pages of partition `p` that bibs and moves use in tier `t`. -/
def usedPages (s : State) (p t : Nat) : List (Nat × Nat) :=
  (validBibs s).filterMap (fun n =>
    let e := bibE s n
    if e.part = p ∧ e.place = t + 1 then some (e.loc, e.loc + ceilDiv e.len 1024) else none)
  ++ (s.moves.filter (fun m => m.p == p)).flatMap (fun m => m.held.filterMap (fun j =>
    if m.tl.getD j 3 = t then some (m.pg.getD j 0, m.pg.getD j 0 + bibPages s (m.bibs.getD j 0)) else none))

/-- Pages of a tier range from which `n` pages are free. -/
def freePages (s : State) (p t n : Nat) : List Nat :=
  let b := getF s (F.PART_TIER_BASE_BASE p t)
  let c := getF s (F.PART_TIER_CNT_CNT p t)
  ((List.range (c + 1 - n)).map (fun i => b + i)).filter (fun x => (usedPages s p t).all (fun y => !meets y (x, x + n)))

/-- The partition's tier order, ended by 3 (R526). -/
def tierOrder (s : State) (p : Nat) : List Nat :=
  [getF s (F.PART_TIER_CTL_ORD0 p), getF s (F.PART_TIER_CTL_ORD1 p), getF s (F.PART_TIER_CTL_ORD2 p)].takeWhile (fun t => t != 3)

/-- One of a list, freely chosen: the spec does not say which (log entry 13). -/
def chooseFrom (s : State) (l : List Nat) : Option Nat × State :=
  if l = [] then (none, s) else let f := takeFree s l.length; (l[f.1]?, f.2)

/-- Place a new bib in a tier (R350). -/
def placeTier (s : State) (p : Nat) (e : BibE) : List Nat → Option (BibE × State)
  | [] => none
  | t :: l =>
    match chooseFrom s (freePages s p t (ceilDiv e.len 1024)) with
    | (some x, s1) => some ({ e with place := t + 1, loc := x }, s1)
    | (none, _) => placeTier s p e l

/-- Place a new bib (R350): in the region, else, when it has no mirror copy, in a tier. -/
def placeBib (s : State) (p : Nat) (e : BibE) : Option (BibE × State) :=
  let used := usedGrans s
  match chooseFrom s (freeBlocks s p e.len used) with
  | (some b, s1) =>
    if e.mirror then
      match chooseFrom s1 (freeBlocks s1 p e.len ((32 * b, 32 * b + 32 * ceilDiv e.len 32) :: used)) with
      | (some m, s2) => some ({ e with loc := 32 * b, mirG := 32 * m }, s2)
      | (none, _) => none
    else some ({ e with loc := 32 * b }, s1)
  | (none, _) => if e.mirror then none else placeTier s p e (tierOrder s p)

/-- Following the chain from bib `b` reaches bib `x`, within `n` links. -/
def chainReaches (s : State) (x : Nat) : Nat → Nat → Bool
  | 0, b => b == x
  | n + 1, b => b == x || (flagF s (F.BIB_CTL_CHAINED b) && chainReaches s x n (getF s (F.BIB_CTL_NEXT b)))

end Sys2Proof.Machine
end

