-- ==== Sys2Proof/Machine/Command.lean ====
section
/-! DEFINITION. Marshal commands: their arrival, their journal entry, their result, and the commands whose work goes on
after they are taken: the kill of a partition and the context commands (R459 to R461, R551, R608, R641 to R645). -/

namespace Sys2Proof.Machine

-- ## The bridge (R212, R213)

/-- A requester of the bridge has fewer than 8 accesses outstanding. -/
def bridgeRoom (s : State) (o : Origin) : Bool :=
  decide ((s.reqs.filter (fun r => r.org == o && r.stage != .held && r.stage != .signal)).length < 8)

/-- An access of the marshal: a ninth stalls until one has been answered, and a refused one is made again (R213). -/
def submitBridge (s : State) (r : Request) : State :=
  let s1 := { s with reqs := s.reqs ++ [r], nextId := s.nextId + 1 }
  if bridgeRoom s r.org then (submitUnit s1 r).getD s1 else s1

/-- The oldest access of a requester that stalls goes on when there is room. -/
def bridgeNext (s : State) (o : Origin) : State :=
  match s.reqs.find? (fun r => r.org == o && r.stage == .held) with
  | some r => if bridgeRoom s o then (submitUnit s r).getD s else s
  | none => s

-- ## Arrival (R643, R644, R645)

/-- The order of sources whose commands arrive in one array cycle (R643). -/
def srcRank : CmdSrc → Nat
  | .supervisor => 0
  | .debug => 1
  | .ring p => 2 + p

/-- The command of a word string: its code, USER and ARGk. -/
def cmdCode (w : Nat) : Nat := bits w 0 8
/-- USER. -/
def cmdUser (w : Nat) : Nat := bits w 16 16
/-- ARGk. -/
def cmdArg (w k : Nat) : Nat := bits w (32 * (k + 1)) 32

/-- The command taken next: the first that arrived. -/
def headCmd (s : State) : Option CmdIn :=
  bestOf (fun a b => decide (a.cyc < b.cyc) || (a.cyc == b.cyc && decide (srcRank a.src < srcRank b.src))) s.msh.cmdQ

/-- Marshal ring `p` may be read (R504, R505, R645). -/
def cmdRingUsable (s : State) (p : Nat) : Bool :=
  let b := getF s (F.MSH_PR_CFG_BIB p)
  flagF s (F.MSH_PR_CFG_EN p) && bibValid s b && getF s (F.BIB_CTL_PART b) == p && decide (2 ≤ getF s (F.BIB_LEN_LEN b))

/-- The instance byte offset of an entry granule of marshal ring `p`. -/
def cmdRingAddr (s : State) (p i k : Nat) : Nat :=
  64 * (getF s (F.BIB_LOC_LOC (getF s (F.MSH_PR_CFG_BIB p))) % 2 ^ 20 + 2 * i + k)

/-- Read the next descriptor of ring `p` when its doorbell has rung and none is being read (R505, R645). -/
def pollRing (s : State) (p : Nat) : State :=
  let taken := Sparse.at s.ringTaken (16 + p) 0
  if !cmdRingUsable s p || s.msh.ringRd.contains p
     || !reached (getF s (F.BTN_CNT_COUNT (getF s (F.MSH_PR_BATON_DOORBELL p)))) ((taken + 1) % 2 ^ 32) then s
  else
    let i := taken % (getF s (F.BIB_LEN_LEN (getF s (F.MSH_PR_CFG_BIB p))) / 2)
    let a := cmdRingAddr s p i 0
    let s1 := { s with ringTaken := Sparse.set s.ringTaken (16 + p) ((taken + 1) % 2 ^ 32) 0,
                       msh := { s.msh with ringRd := s.msh.ringRd ++ [p] } }
    submitBridge (setF s1 (F.MSH_PR_POS_TAKEN p) (taken + 1))
      { blankReq s.nextId .marshal (unitHdr 0 7 15 63 a) [] (now s) with
        base := a, accs := [readAcc (a / 64) 0 0 0], aux := [21, p, i] }

/-- The rings are looked at, at each fine bucket boundary (log entry 14). -/
def pollRings (s : State) : State := if s.activeM.isSome then (List.range 16).foldl pollRing s else s

/-- A command has arrived. -/
def cmdArrive (s : State) (src : CmdSrc) (words idx : Nat) : State :=
  { s with msh := { s.msh with cmdQ := s.msh.cmdQ ++ [⟨src, words, s.cad.cycles, idx⟩] } }

-- ## Taking a command (R573, R596, R597)

/-- CMD entries that a takeover would replay (R596). -/
def replayable (s : State) : Nat := s.msh.done.length + (s.jnl.filter (fun e => e.kind == 4)).length

/-- The journal entry of a command (R576): its source's partition, code and words; `addr` keeps the ring's entry. -/
def cmdEntry (s : State) (c : CmdIn) : JEntry :=
  { entry0 4 with part := (match c.src with | .ring p => p | _ => 15), cls := 7, req := 0xD5, owafer := selfWafer s,
                  oinst := selfInst s, body := 1, unit := cmdCode c.words, words := [c.words], addr := c.idx, csrc := some c.src }

/-- Take the command of source `c` when it is next and its code belongs to the row (R643). -/
def takeCmd (s : State) (c : CmdSrc) (row : Nat → Bool) : Option (CmdRun × State) :=
  if s.activeM.isNone || s.msh.run.isSome || (s.parked && !flagF s F.GLB_SHDN_STAT_SHDN_ACT) || pwrState s == 2
     || decide (256 < replayable s) then none
  else match headCmd s with
    | some h =>
      if h.src = c && row (cmdCode h.words) then
        let seq := getF s F.JNL_SEQ_SEQ
        let r : CmdRun := ⟨seq, c, h.words, [], []⟩
        let s1 := jnlOpen { s with msh := { s.msh with cmdQ := s.msh.cmdQ.erase h } } (cmdEntry s h)
        some (r, { s1 with msh := { s1.msh with run := some r, lastSeq := seq } })
      else none
    | none => none

-- ## Results (R642, R644, R645)

/-- The result words R0 to R3. -/
def resultWords (words code cause value : Nat) : Nat :=
  fieldsWord [(0, code), (8, cause), (16, cmdUser words), (32, value % 2 ^ 64)]

/-- The result of a command reaches its source. -/
def cmdResult (s : State) (src : CmdSrc) (words idx code cause value : Nat) : State :=
  let w := resultWords words code cause value
  let mail (m : Nat) : State :=
    let s1 := (List.range 4).foldl (fun t i => setF t (F.MSH_MB_R_WORD m i) (bits w (32 * i) 32)) s
    irqIf (setF (setF s1 (F.MSH_MB_CTL_BUSY m) 0) (F.MSH_MB_CTL_DONE m) 1) (F.MSH_MB_CTL_IRQ_EN m) 9
  match src with
  | .supervisor => mail 0
  | .debug => mail 1
  | .ring p =>
    if !cmdRingUsable s p then s
    else
      let a := cmdRingAddr s p idx 1
      let beat : Beat := BitVec.ofNat 512 w
      submitBridge s { blankReq s.nextId .marshal (unitHdr 4 7 15 63 a) [beat] (now s) with
        base := a, accs := buildAccs (unitHdr 4 7 15 63 a) [beat] a none, aux := [20, p, code] }

/-- The final state of a CMD entry is shadowed: its result becomes visible (R580); a takeover may still replay it (R597). -/
def closeCmd (s : State) (e : JEntry) : State :=
  let s1 := dropEntry s e.seq
  let s2 := { s1 with msh := { s1.msh with done := s1.msh.done ++ [e.seq] } }
  match e.csrc with
  | some c => cmdResult s2 c (e.words.headD 0) e.addr e.code e.cause e.value
  | none => s2

/-- A command ends with a result. -/
def finishCmd (s : State) (r : CmdRun) (code cause value : Nat) : State :=
  let s1 := { s with msh := { s.msh with run := none } }
  match findEntry s1 r.seq with
  | some e =>
    let s2 := jnlFinish s1 e code cause value 0 none
    if shadowOn s1 then s2
    else closeCmd s2 { e with code := code, cause := cause, value := value }
  | none => s1

/-- The response code of a cause, with the VALUE that it gives (R642). -/
def causeCode (cause : Nat) : Nat × Nat :=
  match cause with
  | 1 => (4, 0)
  | 2 => (5, 0)
  | 3 => (2, never)
  | 4 => (4, 0)
  | 5 => (4, 0)
  | 6 => (2, never)
  | 7 => (4, 0)
  | _ => (7, 5)

/-- A command is refused with a cause of R642. -/
def refuseCmd (s : State) (r : CmdRun) (cause : Nat) : State :=
  finishCmd s r (causeCode cause).1 cause (causeCode cause).2

/-- A refusal that names a partition keeps its cause in PARTn_STAT (R653). -/
def refusePart (s : State) (r : CmdRun) (p cause : Nat) : State :=
  let s1 := if p < 16 then setF s (F.PART_STAT_LAST_CAUSE p) cause else s
  let s2 := if cmdCode r.words = 1 && decide (p < 16) then setF s1 (F.PART_STAT_CREATE_REJ p) 1 else s1
  refuseCmd s2 r cause

/-- The running command keeps what it still needs. -/
def keepRun (s : State) (r : CmdRun) (d : List Nat) : State :=
  { s with msh := { s.msh with run := some { r with data := d } } }

/-- A command row: take the command and perform it. -/
def runCmd (c : CmdSrc) (row : Nat → Bool) (f : State → CmdRun → State) (s : State) : State :=
  match takeCmd s c row with
  | some (r, s1) => f s1 r
  | none => s

-- ## Kill (R370, R459, R551, R608)

/-- Drop what a waiting request holds: its waiter, arrival or push record. -/
def dropWait (s : State) (id : Nat) : State :=
  { s with waiters := s.waiters.filter (fun w => w.rid != some id), arrivals := s.arrivals.filter (fun a => a.rid != some id),
           relayWait := s.relayWait.filter (fun w => w.rid != some id) }

/-- A request of another party than the block's own units. -/
def outside (r : Request) : Bool := match r.org with | .lane _ _ => true | .mesh _ _ _ _ => r.aux.headD 0 != 30 | _ => false

/-- A request whose access has passed stage 3 is answered; its accesses go on without an answer (R551 step 2, R608). -/
def cutRmt (s : State) (r : Request) (reason : Nat) : State :=
  let s1 := answer s r 6 reason
  { s1 with reqs := s1.reqs ++ [{ r with aux := [31], h := { r.h with attEn := false } }] }

/-- Answer a request whose attached signal is not applied. -/
def endSignal (s : State) (r : Request) : State :=
  if r.isRemote then respond s r (if r.vst then 1 else 0) r.value 0 []
  else answer s r r.verdict.1 r.verdict.2

/-- One request of a killed partition (R551 step 1, R608). -/
def killReq (s : State) (id : Nat) : State :=
  match findReq s id with
  | none => s
  | some r =>
    if !outside r then s
    else match r.stage with
      | .held => reject s r 4 2
      | .shadow => answer s r 6 1
      | .admitted => answer s r 6 1
      | .stage3 => answer s r 6 1
      | .waiting => answer (dropWait s id) r 6 1
      | .signal => endSignal s r
      | .access =>
        if (entryOf s id).isSome then cutRmt s r 1
        else putReq s { r with h := { r.h with attEn := false } }
      | .remote => s

/-- The relay queues of a killed partition (R370). A stream whose push waited aborts as for any push answered ABANDONED
(R399, log entry 121). -/
def killRelay (s : State) (q : Nat) : State :=
  let s1 := setF (setRelay s q []) (F.RLY_CTL_EN q) 0
  (s1.relayWait.filter (fun w => w.queue == q)).foldl (fun t w =>
    let t1 := { t with relayWait := t.relayWait.erase w }
    match w.rid.bind (findReq t1), w.stream with
    | some r, _ => answer t1 r 6 1
    | none, some st => abortTask t1 st.1 st.2 0x0C
    | none, none => t1) s1

/-- A baton of a killed partition (R459). -/
def killBaton (s : State) (b : Nat) : State :=
  let s1 := (s.waiters.filter (fun w => w.baton == b)).foldl (fun t w =>
    let t1 := { t with waiters := t.waiters.filter (fun x => x != w) }
    match w.rid.bind (findReq t1) with
    | some r => answer t1 r 6 1
    | none => t1) s
  setF (setF (setF s1 (F.BTN_CNT_COUNT b) 0) (F.BTN_CTL_PARKED b) 0) (F.BTN_CTL_BROKEN b) 0

/-- A tape of a killed partition (R459). -/
def killTape (s : State) (n : Nat) : State :=
  let s1 := if flagF s (F.TAPE_CFG_EN n) || s.arrivals.any (fun a => a.tape == n) then tapeFault s n 7 1 none else s
  let s2 := setF (setF s1 (F.TAPE_HEAT_HEAT n) 0) (F.TAPE_STAT_STATE n) 0
  let s3 := setF (setF s2 (F.TAPE_STAT_FAULT_CAUSE n) 0) (F.TAPE_CFG_EN n) 0
  let s4 := setF (setF s3 (F.TAPE_STAT_ARRIVED n) 0) (F.TAPE_STAT_CHILD_ARR n) 0
  { s4 with tapeRel := Sparse.del s4.tapeRel n, tapeSent := Sparse.del s4.tapeSent n }

/-- The combining entries of the cores bound to the killed partition (R483), and those of words in its region: no byte of it
may come back (R552; log entry 33). -/
def killComb (s : State) (p : Nat) : State :=
  let rg := regionOf s p
  let hit (e : CombEntry) : Bool :=
    bound s e.lane e.core p || (decide (64 * rg.1 ≤ e.addr) && decide (e.addr < 64 * rg.2))
  let wb (r : Request) : Bool := r.stage != .access && (match r.org with
    | .combine l c _ => bound s l c p || (decide (64 * rg.1 ≤ r.base) && decide (r.base < 64 * rg.2))
    | _ => false)
  { s with comb := s.comb.filter (fun e => !hit e || s.reqs.any (fun r => r.org == .combine e.lane e.core e.slot && r.stage == .access)),
           reqs := s.reqs.filter (fun r => !wb r) }

/-- Step 1 of the kill of partition `p`. Its tapes fault first, while they still hold their records (R459). -/
def killStart (s : State) (p : Nat) : State :=
  let s0 := setF s (F.PART_STAT_STATE p) 2
  let s1 := ((List.range 256).filter (fun n => getF s0 (F.TAPE_CFG_PART n) == p)).foldl killTape s0
  let s2 := (s1.tasks.filter (fun t => t.h.part == p)).foldl (fun t k => abortTask t k.q k.st 0x10) s1
  let isTask (t : State) (id : Nat) : Bool := (taskOfReq t id).isSome
  let s3 := ((s2.reqs.filter (fun r => r.h.part == p && !isTask s2 r.id)).map (fun r => r.id)).foldl killReq s2
  let mark (r : Request) : Request := if r.h.part = p ∧ r.stage = .access then { r with kill := true } else r
  let s4 := killComb (killMoves { s3 with reqs := s3.reqs.map mark } p) p
  let s5 := ((List.range 128).filter (fun q => getF s4 (F.RLY_CTL_PART q) == p)).foldl killRelay s4
  let s6 := ((List.range 16384).filter (fun b => getF s5 (F.BTN_CTL_PART b) == p)).foldl killBaton s5
  { s6 with msh := { s6.msh with cmdQ := s6.msh.cmdQ.filter (fun c => c.src != .ring p) } }

/-- Work of a killed partition past stage 3 that has not committed (R551 step 2). -/
def killBusy (s : State) (p : Nat) : Bool :=
  let rg := regionOf s p
  s.reqs.any (fun r => r.stage == .access && (r.h.part == p || (match r.org with
    | .combine _ _ _ => decide (64 * rg.1 ≤ r.base) && decide (r.base < 64 * rg.2)
    | _ => false)))

/-- The physical rows `r0` to `r0 + n - 1`, those of the spares among them, keep no state (R108, R109). -/
def clearRows (s : State) (r0 n : Nat) : State :=
  let row (pg : Nat) : Nat := if pg < 2 ^ 20 then pg / 512 else (pg - 2 ^ 20) % 2048
  let keep (pg : Nat) : Bool := decide (row pg < r0) || decide (r0 + n ≤ row pg)
  { s with gst := Sparse.keep s.gst keep }

/-- Word `w` of a state store is shared by the rows `r0` to `r0 + n - 1` and by others (R109). -/
def boundaryWord (r0 n w : Nat) : Bool :=
  decide (8 * w < r0 + n) && decide (r0 < 8 * w + 8) && (decide (8 * w < r0) || decide (r0 + n < 8 * w + 8))

/-- The boundary words of a clear are read and checked (R105, R106, R109): `sw` are the upsets by bank and word; the log
names the marshal and partition `p` (log entry 122). -/
def checkBoundary (s : State) (p r0 n : Nat) (sw : List (Nat × Nat × Upset)) : State :=
  (sw.filter (fun u => boundaryWord r0 n u.2.1)).foldl (fun t u =>
    readStateWord t (blankReq 0 .marshal (unitHdr 4 7 p 63 0) [] (now s)) (granAt u.1 (8 * u.2.1)) u.2.2) s

/-- Steps 3 and 4 of a kill, and its log entry (R558), whose GRAN the spec does not state. -/
def killEnd (s : State) (p : Nat) (sw : List (Nat × Nat × Upset)) : State :=
  let rg := regionOf s p
  let n := (rg.2 - rg.1) / 512
  let s1 := clearRows (checkBoundary s p (rg.1 / 512) n sw) (rg.1 / 512) n
  let s2 := ((List.range 4096).filter (fun n => getF s1 (F.BIB_CTL_PART n) == p && flagF s1 (F.BIB_CTL_VALID n))).foldl dropBib s1
  let s3 := setF s2 (F.PART_TIER_CTL_EPOCH p) (getF s2 (F.PART_TIER_CTL_EPOCH p) + 1)
  let gran := takeFree (setF s3 (F.PART_STAT_STATE p) 0) (2 ^ 20)
  let s4 := logEvt gran.2 0x0E 0 p 0xFF gran.1 0 0 0
  if rg.1 = rg.2 then s4
  else { s4 with integ := { s4.integ with bleach := s4.integ.bleach ++ [⟨p, rg.1, rg.2, s4.nextId⟩] }, nextId := s4.nextId + 1 }

/-- The kill commands in progress go on once their partitions are quiet: `data` lists the partitions still to end. -/
def settleKill (s : State) : State :=
  match s.msh.run with
  | some r =>
    if cmdCode r.words = 2 then
      match r.data with
      | p :: _ => if killBusy s p then s else finishCmd (killEnd s p r.sw) r 0 0 0
      | [] => s
    else s
  | none => s

-- ## Abandoned and parked work (R599, R606, R761)

/-- Answer one accepted request ABANDONED: what it waits for is dropped, accesses past stage 3 go on without an answer. -/
def abandonReq (reason : Nat) (s : State) (id : Nat) : State :=
  match findReq s id with
  | none => s
  | some r =>
    if !outside r then s
    else match r.stage with
      | .held => s
      | .waiting => answer (dropWait s id) r 6 reason
      | .access => cutRmt s r reason
      | .remote => answer { s with gw := s.gw.filter (fun e => e.rid != some id) } r 6 reason
      | _ => answer s r 6 reason

/-- Nothing is past stage 3 and no combined value is left in a lane. -/
def drained (s : State) : Bool :=
  s.comb == [] && !s.reqs.any (fun r => r.stage == .access || r.stage == .stage3 || isWriteBack r)

/-- The entries of running tasks and moves become PARKED. -/
def parkEntries (s : State) : State :=
  (s.jnl.filter (fun (e : JEntry) => (e.kind == 2 || e.kind == 3) && e.state == 1)).foldl (fun t e => jnlWrite t e 2) s

/-- A MARK entry (R574, R576, R599, R610, R761): unit 1 DIP, 2 HANDOFF, 3 WARM. A DIP mark keeps the tick at which its
pause began in PROMISED and that of its end in VALUE (log entry 19). -/
def markEntry (s : State) (unit start : Nat) : State :=
  jnlOpen s { entry0 5 with part := 15, cls := 7, req := 0xD5, owafer := selfWafer s, oinst := selfInst s, unit := unit,
                            promised := start }

/-- A MARK entry that ends as soon as it is written. -/
def writeMark (s : State) (unit start stop : Nat) : State :=
  let q := getF s F.JNL_SEQ_SEQ
  let s1 := markEntry s unit start
  match findEntry s1 q with
  | some e => jnlFinish s1 e 0 0 stop 0 none
  | none => s1

/-- Every open entry is answered ABANDONED with reason SHUTDOWN (R761 step 4); the PWR_OFF command that runs is not. -/
def abandonEntries (s0 : State) : State :=
  let s := match s0.msh.run with
    | some r => finishCmd s0 r 6 0x0A 0x0A
    | none => s0
  (s.jnl.filter (fun (e : JEntry) => decide (e.state < 3) && e.kind != 5 && e.kind != 4)).foldl (fun t e =>
    match e.rid with
    | some id =>
      if (findReq t id).isSome then abandonReq 0x0A t id else jnlFinish t e 6 0x0A 0x0A 0 none
    | none => jnlFinish t e 6 0x0A 0x0A 0 none) s

/-- A shutdown whose drain has ended parks its entries and writes the HANDOFF mark; without a shadow every open entry is
first answered ABANDONED (R761 steps 3 and 4). -/
def settleShut (s : State) : State :=
  if !flagF s F.GLB_SHDN_STAT_SHDN_ACT || s.rst.mark.isSome || s.rst.warm != 0 || !drained s then s
  else
    let s1 := parkEntries s
    let s2 := if shadowOn s1 then s1 else abandonEntries s1
    let q := getF s2 F.JNL_SEQ_SEQ
    let s3 := writeMark s2 2 0 0
    { s3 with rst := { s3.rst with mark := some q } }

/-- Everything that waits for accesses to end. -/
def settleUnits (s : State) : State := settleShut (settleKill (settleMoves s))

/-- PART_KILL (R551, R641). -/
def doPartKill (s : State) (r : CmdRun) : State :=
  let p := cmdArg r.words 0
  if 15 < p then refusePart s r p 2
  else if p = 15 || !partCreated s p then refusePart s r p 3
  else settleKill (keepRun (killStart s p) r [p])

-- ## Context save and restore (R460, R461, R641)

/-- The window words of a baton (R464). -/
def batonRecord (s : State) (b : Nat) : Nat :=
  let ctl := fieldsWord [(0, getF s (F.BTN_CTL_PART b)), (4, getF s (F.BTN_CTL_PARKED b)), (5, getF s (F.BTN_CTL_BROKEN b)),
    (6, min 4095 (s.waiters.filter (fun w => w.baton == b)).length)]
  fieldsWord [(0, getF s (F.BTN_CNT_COUNT b)), (32, ctl)]

/-- The window words of a tape (R465, R466). -/
def tapeRecord (s : State) (n : Nat) : Nat :=
  let cfg := fieldsWord [(0, getF s (F.TAPE_CFG_EN n)), (1, getF s (F.TAPE_CFG_PART n)), (5, getF s (F.TAPE_CFG_ALIGN n)),
    (6, getF s (F.TAPE_CFG_EXPECT n)), (18, getF s (F.TAPE_CFG_NCHILD n))]
  let link := fieldsWord [(0, getF s (F.TAPE_LINK_PTAPE n)), (8, getF s (F.TAPE_LINK_PINST n)), (17, getF s (F.TAPE_LINK_PWAFER n)),
    (22, getF s (F.TAPE_LINK_PARENT_EN n)), (23, getF s (F.TAPE_LINK_ALIGN_DLY n))]
  let stat := fieldsWord [(0, getF s (F.TAPE_STAT_STATE n)), (2, getF s (F.TAPE_STAT_ARRIVED n)), (14, getF s (F.TAPE_STAT_CHILD_ARR n)),
    (22, getF s (F.TAPE_STAT_FAULT_CAUSE n))]
  fieldsWord [(0, cfg), (32, link), (64, stat), (96, getF s (F.TAPE_HEAT_HEAT n))]

/-- The batons and the tapes that a context command names. -/
def ctxBatons (w : Nat) : List Nat := (List.range (min 16384 (cmdArg w 2))).map (fun i => cmdArg w 1 + i)
/-- The tapes. -/
def ctxTapes (w : Nat) : List Nat := (List.range (min 256 (cmdArg w 4))).map (fun i => cmdArg w 3 + i)
/-- The bytes of their records. -/
def ctxBytes (w : Nat) : Nat := 8 * cmdArg w 2 + 16 * cmdArg w 4

/-- A tape is not between heats (R461). -/
def tapeBusy (s : State) (n : Nat) : Bool :=
  tapeState s n != 0 || getF s (F.TAPE_STAT_ARRIVED n) != 0 || getF s (F.TAPE_STAT_CHILD_ARR n) != 0

/-- The cause that refuses a context command (R641); `restore`: CTX_RESTORE. -/
def ctxCause (s : State) (w : Nat) (restore : Bool) : Option Nat :=
  let p := cmdArg w 0
  let b := cmdArg w 5
  if 15 < p || decide (16384 < cmdArg w 1 + cmdArg w 2) || decide (256 < cmdArg w 3 + cmdArg w 4) || decide (4095 < b)
     || (restore && decide (15 < cmdArg w 6)) then some 2
  else if (ctxBatons w).any (fun n => getF s (F.BTN_CTL_PART n) != p) || (ctxTapes w).any (fun n => getF s (F.TAPE_CFG_PART n) != p)
     || !bibValid s b || getF s (F.BIB_CTL_PART b) != p then some 1
  else if (ctxTapes w).any (tapeBusy s) || (restore && (ctxBatons w).any (fun n => s.waiters.any (fun x => x.baton == n)))
     || getF s (F.BIB_CTL_PLACE b) != 0 then some 3
  else if 64 * getF s (F.BIB_LEN_LEN b) < ctxBytes w then some 2
  else none

/-- The accesses of a context command to the first `n` bytes of a bib, one granule each (R212); `data` is the whole record
string. -/
def ctxAccesses (op tag b n data : Nat) (s : State) : State :=
  let a0 := 64 * (getF s (F.BIB_LOC_LOC b) % 2 ^ 20)
  (List.range (ceilDiv n 64)).foldl (fun t i =>
    let a := a0 + 64 * i
    let h := unitHdr op 7 15 (min 64 (n - 64 * i) - 1) a
    let beats : List Beat := if op = 4 then [BitVec.ofNat 512 (bits data (512 * i) 512)] else []
    let mir := if op = 4 && flagF s (F.BIB_CTL_MIRROR b) then some (64 * getF s (F.BIB_AUX_MIRROR_G b) + 64 * i) else none
    submitBridge t { blankReq t.nextId .marshal h beats (now t) with
      base := a, mirror := mir, accs := buildAccs h beats a mir, aux := [tag, i] }) s

/-- CTX_SAVE: the batons are parked and the tapes disabled, and their records are written. -/
def doCtxSave (s : State) (r : CmdRun) : State :=
  let w := r.words
  match ctxCause s w false with
  | some c => refusePart s r (cmdArg w 0) c
  | none =>
    let s1 := (ctxBatons w).foldl (fun t n => setF t (F.BTN_CTL_PARKED n) 1) s
    let s2 := (ctxTapes w).foldl (fun t n => setF t (F.TAPE_CFG_EN n) 0) s1
    let data := leBytes ((ctxBatons w).flatMap (fun n => toBytes 8 (batonRecord s2 n))
      ++ (ctxTapes w).flatMap (fun n => toBytes 16 (tapeRecord s2 n)))
    let n := ctxBytes w
    if n = 0 then finishCmd s2 r 0 0 0
    else ctxAccesses 4 22 (cmdArg w 5) n data (keepRun s2 r [n])

/-- CTX_RESTORE: the records are read first. -/
def doCtxRestore (s : State) (r : CmdRun) : State :=
  let w := r.words
  match ctxCause s w true with
  | some c => refusePart s r (cmdArg w 0) c
  | none =>
    let n := ctxBytes w
    if n = 0 then finishCmd s r 0 0 0
    else ctxAccesses 0 23 (cmdArg w 5) n 0 (keepRun s r [0, 0])

/-- Restore a baton from its record (step 4 of R460). -/
def restoreBaton (part : Nat) (s : State) (x : Nat × Nat) : State :=
  let s1 := setF (setF s (F.BTN_CNT_COUNT x.1) (bits x.2 0 32)) (F.BTN_CTL_BROKEN x.1) 0
  testWaiters (setF (setF s1 (F.BTN_CTL_PART x.1) part) (F.BTN_CTL_PARKED x.1) 0) x.1

/-- Restore a tape from its record (step 4 of R460): EN is written last. -/
def restoreTapeRec (part : Nat) (s : State) (x : Nat × Nat) : State :=
  let n := x.1
  let cfg := bits x.2 0 32
  let l := bits x.2 32 32
  let s1 := setF (setF (setF s (F.TAPE_LINK_PTAPE n) (bits l 0 8)) (F.TAPE_LINK_PINST n) (bits l 8 9)) (F.TAPE_LINK_PWAFER n) (bits l 17 5)
  let s2 := setF (setF s1 (F.TAPE_LINK_PARENT_EN n) (bits l 22 1)) (F.TAPE_LINK_ALIGN_DLY n) (bits l 23 9)
  let s3 := restartTape s2 n (bits x.2 96 32)
  let s4 := setF (setF s3 (F.TAPE_CFG_PART n) part) (F.TAPE_CFG_ALIGN n) (bits cfg 5 1)
  setF (setF (setF s4 (F.TAPE_CFG_EXPECT n) (bits cfg 6 12)) (F.TAPE_CFG_NCHILD n) (bits cfg 18 8)) (F.TAPE_CFG_EN n) 1

/-- An access of a context command has completed; `data` of CTX_RESTORE keeps the bytes read and whether any was stained. -/
def ctxStep (s0 : State) (r : Request) : State :=
  let s := dropReq s0 r.id
  match s.msh.run with
  | none => s
  | some c =>
    let tag := r.aux.headD 0
    let d0 := c.data.headD 0 + (r.res.filter (fun x => x.copy == 0)).foldl
      (fun a x => a + x.data.toNat * 2 ^ (512 * (r.aux.getD 1 0 + x.k))) 0
    let st := if r.res.any (fun x => x.st || x.p3 != 0) then 1 else c.data.getD 1 0
    let s1 := if tag = 23 then keepRun s c [d0, st] else s
    if s1.reqs.any (fun q => q.org == .marshal && q.aux.headD 0 == tag) then s1
    else
      let w := c.words
      if tag = 22 then finishCmd s1 c 0 0 (ctxBytes w)
      else
        let nb := cmdArg w 2
        let s2 := ((ctxBatons w).zipIdx.map (fun p => (p.1, bits d0 (64 * p.2) 64))).foldl (restoreBaton (cmdArg w 6)) s1
        let s3 := ((ctxTapes w).zipIdx.map (fun p => (p.1, bits d0 (64 * nb + 128 * p.2) 128))).foldl (restoreTapeRec (cmdArg w 6)) s2
        finishCmd s3 c st 0 (ctxBytes w)

-- ## Accesses of the marshal

/-- The result records at the head of marshal ring `p`'s order that have committed signal DONE (R507, R645): at most `n`. -/
def resultsOn : Nat → State → Nat → State
  | 0, s, _ => s
  | n + 1, s, p =>
    match s.reqs.find? (fun q => q.org == .marshal && q.aux.take 2 == [20, p]) with
    | some q =>
      if q.stage == .signal then
        let s1 := dropReq s q.id
        let s2 := setF s1 (F.MSH_PR_POS_COMPLETED p) (getF s1 (F.MSH_PR_POS_COMPLETED p) + 1)
        resultsOn n (signalBaton s2 (getF s2 (F.MSH_PR_BATON_DONE p)) 1) p
      else s
    | none => s

/-- What a completed access of the marshal does: a ring's descriptor, its result record, or a granule of a context. -/
def marshalEnd (s : State) (r : Request) : State :=
  let p := r.aux.getD 1 0
  match r.aux.headD 0 with
  | 20 => resultsOn s.reqs.length (putReq s { r with stage := .signal }) p
  | 21 =>
    let s1 := dropReq s r.id
    cmdArrive { s1 with msh := { s1.msh with ringRd := s1.msh.ringRd.erase p } } (.ring p)
      ((r.res.map (fun x => x.data.toNat)).headD 0) (r.aux.getD 2 0)
  | 22 => ctxStep s r
  | 23 => ctxStep s r
  | _ => dropReq s r.id

/-- An access of the marshal has completed; one that stalled goes on (R213). -/
def marshalDone (s : State) (r : Request) : State := bridgeNext (marshalEnd s r) .marshal

end Sys2Proof.Machine
end

