-- ==== Sys2Proof/Machine/Steps.lean ====
section
/-! DEFINITION. The array clock's steps: the OTP voltage table, the switch to the standby PLL, Boost, and the triggers of a
reset (R639, R684 to R686, R717, R741, R742, R753 to R757). -/

namespace Sys2Proof.Machine

-- ## The OTP shadow (R639, R650)

/-- The generation in force. -/
def otpWord (s : State) : Nat := fieldsWord ((List.range 32).map (fun w => (32 * w, getF s (F.MSH_OTP_SH_SHADOW w))))

/-- Bits of the generation in force. -/
def otpBits (s : State) (lo w : Nat) : Nat := bits (otpWord s) lo w

/-- The voltage code of a step, 8 for Boost. -/
def vcode (s : State) (step : Nat) : Nat := otpBits s (96 + 8 * step) 8

/-- The table voltage of a step in mV. -/
def tableMv (s : State) (step : Nat) : Nat := 500 + 2 * vcode s step

/-- The frequency of a step in MHz, 8 for Boost (the operating points of the architecture chapter). -/
def mhz (step : Nat) : Nat := ([600, 800, 900, 1000, 1100, 1200, 1350, 1500, 1600] : List Nat).getD step 1600

/-- The step that BOOT_STEP names. -/
def bootStep (s : State) : Nat := ([0, 3, 5, 7] : List Nat).getD (otpBits s 230 2) 0

/-- CUR_STEP, 8 for Boost. -/
def curStep (s : State) : Nat := getF s F.CPM_STEP_CUR_STEP

/-- Both voltage monitors show at least `mv` (R686, R741). -/
def railsAt (s : State) (mv : Nat) : Bool :=
  decide (mv ≤ getF s (F.CPM_VMON_MV 0)) && decide (mv ≤ getF s (F.CPM_VMON_MV 1))

/-- The step that a change to `step` reaches (R720). -/
def targetStep (s : State) (step : Nat) : Nat :=
  if flagF s F.CPM_THERM_STAT_TRIPPED then min step (getF s F.CPM_THERM_CTL_TRIP_STEP) else step

/-- VREQ_CUR and VREQ_HI follow the steps (R688, R706). -/
def noteV (s : State) : State :=
  let c := vcode s (curStep s)
  setF (setF s F.CPM_STEP_VREQ_CUR c) F.CPM_STEP_VREQ_HI (max c (vcode s (getF s F.CPM_STEP_PEND_STEP)))

/-- The standby PLL is tuned to a step. -/
def retuneTo (s : State) (step : Nat) : State := noteV (setF s F.CPM_STEP_PEND_STEP step)

/-- The clock switches to the standby PLL and the PLLs exchange roles (R684), with the STEP record of R778. -/
def doSwitch (s : State) (step cause : Nat) : State :=
  let old := curStep s
  let s1 := setF (setF s F.CPM_STEP_CUR_STEP step) F.CPM_CLK_STAT_ACT_PLL (1 - getF s F.CPM_CLK_STAT_ACT_PLL)
  let s2 := retuneTo (setF s1 F.CPM_PWR_MODE_BOOST_ACT (b2n (step == 8))) old
  let s3 := faultEnd { s2 with clk := { s2.clk with sw := none, div := 1, retune := false }, est := { s2.est with taint := true } } 2
  if flagF s3 F.TRC_CTL_STEP_EN then trcPush s3 (trcRecord s3 6 step (old + 16 * cause) (now s3) 0) else s3

/-- A step change is due (R684); with calendar effect it marks the bucket of its tick (R685). -/
def stepDue (s : State) (step cause tick : Nat) (cal : Bool) : State :=
  let s1 := { s with clk := { s.clk with sw := some ⟨step, cause, tick, cal, false⟩ } }
  if cal then { s1 with swBucket := fineOf tick, swLow := min (min 7 (curStep s)) step } else s1

-- ## Boost (R741, R742)

/-- The conditions of R741. -/
def boostOk (s : State) : Bool :=
  flagF s F.CPM_PWR_MODE_BOOST_EN && !flagF s F.CPM_PWR_MODE_FIXED && decide (7 ≤ curStep s)
  && !flagF s F.CPM_THERM_STAT_TRIPPED && s.cad.ann.isNone && s.clk.sw.isNone
  && decide (getF s F.CPM_THERM_STAT_TJ_MAX < 2 * (getF s F.CPM_THERM_CTL_BOOST_TJ + 64))
  && decide (4 * getF s F.CPM_EST_STAT_P_AVG < 45 * getF s F.CPM_EST_CTL_PWR_LIMIT) && railsAt s (tableMv s 8)

/-- Boost at a fine-bucket boundary: the standby retunes at the first that meets the conditions, the clock switches at the
next; it switches back at the first that fails them, and a pending announcement's retune then starts (R742). -/
def boostBoundary (s : State) : State :=
  if s.clk.sw.isSome then { s with clk := { s.clk with retune := false } }
  else if curStep s = 8 then
    if boostOk s then s
    else
      let s1 := doSwitch s 7 3
      match s1.cad.ann with
      | some a => retuneTo s1 (targetStep s1 a.step)
      | none => s1
  else if boostOk s then
    if s.clk.retune then doSwitch s 8 3
    else retuneTo { s with clk := { s.clk with retune := true } } 8
  else { s with clk := { s.clk with retune := false } }

-- ## Triggers of a reset (R753 to R757, R764)

/-- A trigger is ignored. -/
def ignoreTrigger (s : State) : State := incF s F.GLB_RST_CAUSE_IGNORED 1

/-- The shutdown runs (R761). -/
def shdn (s : State) : Bool := flagF s F.GLB_SHDN_STAT_SHDN_ACT

/-- A cold trigger, causes 1 to 7: it takes over from every weaker reset, and is ignored while a cold reset is due or runs. -/
def triggerCold (s : State) (cause : Nat) : State :=
  if s.rst.coldRun || (s.rst.due != 0 && decide (s.rst.due ≤ 7)) then ignoreTrigger s
  else { s with rst := { s.rst with due := cause, warm := 0 } }

/-- A warm trigger, causes 8 to 10. -/
def triggerWarm (s : State) (cause : Nat) : State :=
  if s.rst.coldRun || s.rst.due != 0 || s.rst.warm != 0 || shdn s
     || (s.clk.stopped && decide (328 ≤ getF s F.CPM_THERM_STAT_TJ_MAX)) then ignoreTrigger s
  else { s with rst := { s.rst with due := cause } }

/-- GLB_RST_CAUSE takes a reset that is performed (R766). -/
def noteReset (s : State) (cause : Nat) : State :=
  incF (setF (setF s F.GLB_RST_CAUSE_PREV (getF s F.GLB_RST_CAUSE_CAUSE)) F.GLB_RST_CAUSE_CAUSE cause) F.GLB_RST_CAUSE_COUNT 1

end Sys2Proof.Machine
end

