-- ==== Sys2Proof/Machine/Integrity.lean ====
section
/-! DEFINITION. Mirrored buffers, the scrubber, the repair queue and bleach, and what a fine bucket boundary does
(R229, R262, R271, R536 to R556, R611). -/

namespace Sys2Proof.Machine

-- ## Mirror lines (R540 to R543)

/-- The line whose primary block is `b`. -/
def lineAt (s : State) (b : Nat) : Option MirLine := s.integ.mir.find? (fun l => l.prim == b)

/-- The line of a granule of a copy of a bib's data. -/
def lineOf (s : State) (copy g : Nat) : Option MirLine :=
  s.integ.mir.find? (fun l => if copy = 0 then l.prim == g / 32 else l.mir == g / 32)

/-- Change one line. -/
def putLine (s : State) (l : MirLine) : State :=
  { s with integ := { s.integ with mir := s.integ.mir.map (fun x => if x.prim == l.prim then l else x) } }

/-- A write-type access of a MIRROR request has committed: the generation of its copy in its line moves with the last
granule (R542). `r` is the request after the commit. -/
def bumpGen (s : State) (r : Request) (a : GAcc) : State :=
  if r.mirror.isNone || r.org == .scrub || r.accs.any (fun x => x.copy == a.copy && x.gran / 32 == a.gran / 32 && !x.done) then s
  else match lineOf s a.copy a.gran with
    | some l => if a.copy = 0 then putLine s { l with genP := (l.genP + 1) % 2 ^ 16 }
                else putLine s { l with genM := (l.genM + 1) % 2 ^ 16 }
    | none => s

/-- R543. -/
def genHigher (a b : Nat) : Bool :=
  let d := (a + 2 ^ 16 - b) % 2 ^ 16
  decide (1 ≤ d) && decide (d ≤ 32767)

-- ## Resolution of a mirrored granule (R546)

/-- How a pair of copies resolves. -/
inductive Resolve
  /-- The copy to deliver (0 or 1) is taken; `diff`: the line is queued for repair. -/
  | take (copy : Nat) (diff : Bool)
  /-- The primary, stained; both copies become STAINED (R548). -/
  | conflict
  /-- The primary, stained; `log`: no intact copy of equal or higher generation. -/
  | stained (log : Bool)
deriving DecidableEq, Repr

/-- The table of R546; `gp`, `gm` are the generations. -/
def resolvePair (p m : GRes) (gp gm : Nat) : Resolve :=
  if p.intact && m.intact then
    if p.data = m.data then .take 0 false
    else if genHigher gp gm then .take 0 true
    else if genHigher gm gp then .take 1 true
    else if gp = gm then .conflict
    else .take 0 true
  else if p.intact then (if gp = gm || genHigher gp gm then .take 0 true else .stained true)
  else if m.intact then (if gp = gm || genHigher gm gp then .take 1 true else .stained true)
  else .stained false

/-- Queue a line for repair (R549). -/
def queueRepair (s : State) (b : Nat) : State :=
  if s.integ.repQ.contains b then s
  else if 64 ≤ s.integ.repQ.length then setF s F.INT_STAT_REP_OVF 1
  else { s with integ := { s.integ with repQ := s.integ.repQ ++ [b] } }

/-- The generations of the line of a granule; equal where no line is held. -/
def gensOf (s : State) (g : Nat) : Nat × Nat :=
  match lineOf s 0 g with
  | some l => (l.genP, l.genM)
  | none => (0, 0)

/-- A conflict (R548). -/
def doConflict (s : State) (r : Request) (gp gm : Nat) : State :=
  let s1 := makeState (makeState s gp .stained) gm .stained
  let s2 := setF (incF s1 F.INT_MIR_CNT_CONFLICT 1) F.INT_STAT_MIR_CONFLICT 1
  logGran s2 r 8 3 gp 0

/-- Resolve a pair with the actions of R546; `quiet`: a repair, which neither counts nor queues again (DEDUCED). -/
def resolveAct (s : State) (r : Request) (p m : GRes) (quiet : Bool) : Resolve × State :=
  let g := gensOf s p.gran
  let v := resolvePair p m g.1 g.2
  (v, match v with
      | .take _ true =>
        if quiet then s
        else queueRepair (logGran (incF s F.INT_MIR_CNT_DIFF 1) r 7 1 p.gran 0) (p.gran / 32)
      | .conflict => doConflict s r p.gran m.gran
      | .stained true => logGran s r 9 2 p.gran 0
      | _ => s)

/-- What a mirrored read delivers for one data beat. -/
def resolveDel (s : State) (r : Request) (p m : GRes) : Del × State :=
  let x := resolveAct s r p m false
  (match x.1 with
   | .take 1 _ => ⟨p.k, m.data.toNat, m.p4⟩
   | .take _ _ => ⟨p.k, p.data.toNat, p.p4⟩
   | _ => ⟨p.k, p.data.toNat, true⟩, x.2)

/-- What a read delivers per data beat, mirrored reads resolved. -/
def deliveries (s : State) (r : Request) : List Del × State :=
  (r.res.filter (fun x => x.copy == 0)).foldl (fun acc p =>
    match r.res.find? (fun x => x.copy == 1 && x.k == p.k) with
    | some m => let y := resolveDel acc.2 r p m; (acc.1 ++ [y.1], y.2)
    | none => (acc.1 ++ [⟨p.k, p.data.toNat, p.st || p.p4⟩], acc.2)) ([], s)

-- ## Repair (R549)

/-- The accesses of both copies of a line, read. -/
def lineReads (l : MirLine) : List GAcc :=
  (List.range 32).map (fun i => readAcc (32 * l.prim + i) i 0 (i / 16))
  ++ (List.range 32).map (fun i => readAcc (32 * l.mir + i) i 1 (32 + i / 16))

/-- A request over a whole line: a check (R539, tag 11) or a repair (tag 12). -/
def lineReq (s : State) (l : MirLine) (op tag : Nat) : Request :=
  { blankReq s.nextId .scrub (unitHdr op 7 15 1023 (2048 * l.prim)) [] (now s) with
    base := 2048 * l.prim, mirror := some (2048 * l.mir), accs := lineReads l, aux := [tag, l.prim] }

/-- Submit a scrubber request; a refused one is deferred (R536). -/
def submitScrub (s : State) (r : Request) : Bool × State :=
  match submitUnit { s with reqs := s.reqs ++ [r], nextId := s.nextId + 1 } r with
  | some s1 => (true, s1)
  | none => (false, s)

/-- The oldest queued line goes to repair, one at a time. -/
def startRepair (s : State) : State :=
  match s.integ.repQ with
  | [] => s
  | b :: q =>
    if s.reqs.any (fun r => r.org == .scrub && r.aux.headD 0 == 12) then s
    else match lineAt s b with
      | none => { s with integ := { s.integ with repQ := q } }
      | some l =>
        match submitScrub s (lineReq s l 4 12) with
        | (true, s1) => { s1 with integ := { s1.integ with repQ := q } }
        | (false, s1) => s1

/-- The writes that a repair adds once both copies are read: each differing granule from the winning copy (R546, R549). -/
def repairWrites (s : State) (r : Request) : List GAcc × State :=
  (r.res.filter (fun x => x.copy == 0)).foldl (fun acc p =>
    match r.res.find? (fun x => x.copy == 1 && x.k == p.k) with
    | none => acc
    | some m =>
      let y := resolveAct acc.2 r p m true
      let w (loser winner : GRes) (copy : Nat) : GAcc :=
        { readAcc loser.gran loser.k copy (64 + 2 * copy + loser.k / 16) with
          data := winner.data, be := allBytes, fset := if winner.v then none else some .unwritten }
      match y.1 with
      | .take 0 true => (acc.1 ++ [w m p 1], y.2)
      | .take 1 true => (acc.1 ++ [w p m 0], y.2)
      | _ => (acc.1, y.2)) ([], s)

/-- The lower generation of a line becomes the higher one. -/
def levelGens (s : State) (b : Nat) : State :=
  match lineAt s b with
  | some l => let g := if genHigher l.genM l.genP then l.genM else l.genP
              putLine s { l with genP := g, genM := g }
  | none => s

/-- All the accesses of a repair so far are done: add its writes, or end it. -/
def repairStep (s : State) (r : Request) : State :=
  if r.accs.any (fun a => a.be != 0) then levelGens (dropReq s r.id) (r.aux.getD 1 0)
  else
    let w := repairWrites s r
    if w.1 = [] then levelGens (dropReq w.2 r.id) (r.aux.getD 1 0)
    else putReq w.2 { r with accs := r.accs ++ w.1 }

/-- A check of a whole line resolves every granule (R539). -/
def lineCheckDone (s : State) (r : Request) : State := dropReq (deliveries s r).2 r.id

-- ## The scrubber (R536 to R539)

/-- The scrub read of granule `g`. -/
def scrubReq (s : State) (g : Nat) : Request :=
  { blankReq s.nextId .scrub (unitHdr 0 7 15 63 (64 * g)) [] (now s) with
    base := 64 * g, accs := [readAcc g 0 0 0], aux := [10] }

/-- A scrub access was refused. -/
def deferScrub (s : State) : State := incF s F.INT_SCRUB_CNT_DEFER 1

/-- The position moves on (R536). -/
def nextScrub (s : State) : State :=
  let p := s.integ.scrubPos + 1
  if p = 2 ^ 20 then
    setF (incF { s with integ := { s.integ with scrubPos := 0 } } F.INT_SCRUB_CNT_PASSES 1) F.INT_STAT_SCRUB_WRAP 1
  else { s with integ := { s.integ with scrubPos := p } }

/-- Up to `n` scrub reads (R536, R539). -/
def scrubReads : Nat → State → State
  | 0, s => s
  | n + 1, s =>
    let g := s.integ.scrubPos
    let line := if g % 32 = 0 then lineAt s (g / 32) else none
    let c := match line with
      | some l => submitScrub s (lineReq s l 0 11)
      | none => (true, s)
    if !c.1 then deferScrub c.2
    else
      let x := submitScrub c.2 (scrubReq c.2 g)
      if x.1 then scrubReads n (nextScrub x.2) else deferScrub x.2

/-- A log entry of the Journal block, with its interrupt (R612, R613). -/
def jnlLog (s : State) (src sev info : Nat) : State :=
  let s1 := logEvt s src sev 15 0xFF 0 0 0 info
  if sev = 3 then irqIf s1 F.JNL_CTL_IRQ_EN 8 else s1

/-- The scrubber reads one mirror line (R538, R547). -/
def scrubLine (s : State) (i : Nat) (u : Upset) : State :=
  match s.integ.mir[i]? with
  | none => s
  | some l =>
    match resolveUpset s u with
    | (.single, s1) => logEvt s1 0x0A 1 15 0xD6 i 0 0 0
    | (.double, s1) => logEvt (putLine s1 { l with genP := 0, genM := 0 }) 0x0A 3 15 0xD6 i 0 0 1
    | (_, s1) => s1

/-- The scrubber reads one log entry (R538, R562). -/
def scrubLog (s : State) (i : Nat) (u : Upset) : State :=
  match resolveUpset s u with
  | (.double, s1) => if s1.integ.logFailed then s1 else logFail s1 i
  | (_, s1) => s1

/-- The scrubber checks one journal descriptor (R611); `shSt`: its shadow copy is stained. -/
def scrubJnl (s : State) (i : Nat) (u : Upset) (shSt : Bool) : State :=
  match s.jnl[i % max 1 s.jnl.length]? with
  | none => s
  | some e =>
    match resolveUpset s u with
    | (.single, s1) => jnlLog s1 0x26 1 0
    | (.double, s1) =>
      if shSt || !shadowOn s1 then
        let s2 := setF (dropEntry s1 e.seq) F.JNL_STAT_ENTRY_LOST 1
        match e.ans with
        | some a => deliver s2 a
        | none => s2
      else jnlLog s1 0x27 1 0
    | (_, s1) => s1

/-- The scrubber checks one filter entry (R611). -/
def scrubFilter (s : State) (u : Upset) : State :=
  match resolveUpset s u with
  | (.single, s1) => if s1.dedup = [] then s1 else jnlLog s1 0x26 1 0
  | (_, s1) => s1

/-- The reads of the SECDED stores in one fine bucket (R538, R611). -/
def scrubStores (s : State) (u : StoreUpsets) : State :=
  let i := s.integ.storePos
  let s1 := (readBibEntry s (i % 4096) u.bib).2
  let s2 := readBatonWord s1 (i % 16384) u.baton
  let s3 := scrubLog (scrubLine s2 (i % 4096) u.line) (i % 256) u.log
  let s4 := scrubFilter (scrubJnl s3 i u.jnl u.shSt) u.filter
  { s4 with integ := { s4.integ with storePos := (i + 1) % 16384 } }

-- ## Bleach (R553 to R556)

/-- A bleach burst of 16 granules. -/
def bleachReq (s : State) (b : BleachRange) : Request :=
  let acc (i : Nat) : GAcc := { readAcc (b.next + i) i 0 0 with be := allBytes }
  { blankReq s.nextId .scrub (unitHdr 4 7 15 1023 (64 * b.next)) [] (now s) with
    base := 64 * b.next, accs := (List.range 16).map acc, aux := [13, b.id] }

/-- Up to `n` bleach bursts, in the order of the kills (R553, R554). -/
def bleachBursts : Nat → State → State
  | 0, s => s
  | n + 1, s =>
    match s.integ.bleach.find? (fun b => decide (b.next < b.stop)) with
    | none => s
    | some b =>
      match submitScrub s (bleachReq s b) with
      | (false, s1) => s1
      | (true, s1) =>
        let step (x : BleachRange) : BleachRange := if x.id == b.id then { x with next := x.next + 16 } else x
        bleachBursts n { s1 with integ := { s1.integ with bleach := s1.integ.bleach.map step } }

/-- One range is bleached: it leaves the queue, and the log has its entry (R555, R558), whose GRAN the spec does not state. -/
def bleachRangeDone (s : State) (b : BleachRange) : State :=
  let g := takeFree { s with integ := { s.integ with bleach := s.integ.bleach.filter (fun x => x.id != b.id) } } (2 ^ 20)
  logEvt g.2 0x0F 0 b.part 0xD6 g.1 0 0 0

/-- Ranges whose last burst has committed leave the queue (R555). -/
def bleachDone (s : State) : State :=
  (s.integ.bleach.filter (fun b => decide (b.stop ≤ b.next) && !s.reqs.any (fun r => r.org == .scrub && r.aux == [13, b.id]))).foldl
    bleachRangeDone s

-- ## The fine bucket boundary

/-- Work of a fine bucket that is not complete at the end of the bucket after it (R271). -/
def noteOverruns (s : State) (f : Nat) : State :=
  s.reqs.foldl (fun t r =>
    if (r.stage == .stage3 || r.stage == .access) && decide (r.bucket + 2 ≤ f) then
      (((r.accs.filter (fun a => !a.done)).map (fun a => trackOf a.gran)).dedup).foldl (fun u k =>
        let key := r.bucket * 16 + k
        if Sparse.at u.ovr key 0 = 1 then u
        else incF { u with ovr := Sparse.put u.ovr key 1 } (F.TRK_CAL_CNT_OVR k) 1) t
    else t) s

/-- The answers that have not left (R163, R183, R580). -/
def waitingAns (s : State) : List Ans :=
  s.chans.flatMap (fun p => (p.2.heldOut ++ p.2.lead.map (fun x => x.2)).filterMap (fun x => x.ans))
    ++ s.jnl.filterMap (fun e => e.ans)

/-- The first fine bucket whose records are still needed. -/
def oldestBucket (s : State) (f : Nat) : Nat :=
  (s.reqs.map (fun r => if r.adm = 0 then f else r.bucket)
    ++ (waitingAns s).flatMap (fun a => (a.lag.map Lag.buckets).getD [])).foldl min f

/-- Buckets that have passed leave the calendars (R229); what R271 keeps of a bucket stays while a request needs it. -/
def pruneCalendars (s : State) (f : Nat) : State :=
  let o := oldestBucket s (f - 2)
  { s with fine := Sparse.keep s.fine (fun k => decide (f ≤ k / 512)), early := Sparse.keep s.early (fun k => decide (f ≤ k / 512)),
           coarse := Sparse.keep s.coarse (fun k => decide (f / 1024 ≤ k / 512)),
           used := Sparse.keep s.used (fun k => decide (o ≤ k / 16 / 512)), pcharge := Sparse.keep s.pcharge (fun k => decide (o ≤ k / 256)),
           ovr := Sparse.keep s.ovr (fun k => decide (o ≤ k / 16)) }

/-- Records that the spill engine or a command still has to write are submitted again, those of the bridge's requesters
within their 8 (R213). -/
def resubmitHeld (s : State) : State :=
  (s.reqs.filter (fun r => r.stage == .held && (match r.org with | .spill _ => true | .debug => true | .marshal => true | _ => false))).foldl
    (fun t r => match r.org with
      | .spill _ => (submitUnit t r).getD t
      | o => if bridgeRoom t o then (submitUnit t r).getD t else t) s

/-- FINE_BUCKET_BOUNDARY (R229, R258, R271, R536 to R538, R549, R554): the first boundary that the count has reached since
the last one. -/
def execFineBucketBoundary (u : StoreUpsets) (s : State) : Host.Outcome State Fault Refusal :=
  let f := fineOf (now s)
  if f ≤ s.fineSeen || !arrayRuns s then .next s
  else
    let s0 := pruneCalendars (noteOverruns { s with fineSeen := f } f) f
    let s1 := boostBoundary (pollRings (resubmitHeld (releaseCoarse s0.reqs.length s0)))
    let s2 := bleachBursts (getF s1 F.INT_BLEACH_CTL_RATE) s1
    let s3 := if flagF s2 F.INT_CTL_SCRUB_EN then scrubReads (getF s2 F.INT_SCRUB_CTL_RATE) (startRepair s2) else s2
    .next (scrubStores s3 u)

/-- LATENCY_DECAY (R262). -/
def execLatencyDecay (s : State) : Host.Outcome State Fault Refusal :=
  let k := coarseOf (now s)
  if k ≤ s.coarseSeen then .next s
  else
    let half (p : Nat × Nat) : Nat × Nat := if Sparse.at s.mcnt p.1 0 = 0 then (p.1, p.2 / 2) else p
    .next { s with coarseSeen := k, mlat := (s.mlat.map half).filter (fun p => p.2 != 0), mcnt := [] }

end Sys2Proof.Machine
end

