-- ==== Sys2Proof/Machine/Commit.lean ====
section
/-! DEFINITION. The end of a bank access, the completion of a request and its attached signal (R16, R101, R117, R149,
R150, R436 to R439, R542, R604). -/

namespace Sys2Proof.Machine

-- ## P6 (R101, R533, R808)

/-- A mismatch at P6 is recorded: the lane's count, flag and interrupt, the event and the log. -/
def noteP6 (s : State) (r : Request) (lane : Option Nat) (m : Nat) (flip : Bool) : State :=
  let g := (r.res.map (fun x => x.gran)).headD 0
  let s1 := match lane with
    | some l =>
      let t := setF (incF s (F.LANE_SEND_PERR_CNT l) 1) (F.LANE_STAT_SEND_PERR l) 1
      irqIf (ctrEvent t 0x20 l 1 (accCtx r g)) (F.LANE_CTL_ERR_IRQ_EN l) 2
    | none => ctrEvent s 0x20 0 1 (accCtx r g)
  logGran s1 r 4 2 g (mismInfo m flip)

/-- The bytes of result granule `j` that mismatch at P6 through damage: those of the access that delivered it, less what
mismatched before (R808). -/
def p6Of (r : Request) (j : Nat) : Nat :=
  match r.res.find? (fun x => x.k == j && x.copy == 0) with
  | some x =>
    if isRead r.h.op && r.h.op != 0 then x.p6
    else if x.p4 then 0 else lessBytes x.p6 x.p3
  | none => 0

/-- The stain map of result granules as they leave (P6). -/
def outbound (s : State) (r : Request) (lane : Option Nat) (n sm : Nat) : Nat × State :=
  (List.range n).foldl (fun acc j =>
    let f := flipAt acc.2 r 4
    let m := Nat.xor (p6Of r j) f.1
    if m = 0 then (acc.1, f.2) else (Nat.lor acc.1 (2 ^ j), noteP6 f.2 r lane m (f.1 != 0))) (sm, s)

-- ## Completion

/-- The lane whose send path a request's data leaves on. -/
def sendLaneOf (s : State) (r : Request) : Option Nat :=
  match r.org with
  | .lane l _ => some l
  | .pacer q st => match r.sink, findTask s q st with
    | .push, some t => some (blkCons t.blk / 8)
    | _, _ => none
  | _ => none

/-- The data of a read that has delivered every access: result granules and stain map, the transform's counts made. Data
that a pacer writes to the instance leaves by no lane, gateway or spill engine and meets no P6 (R101). -/
def readData (s : State) (r : Request) : List Nat × Nat × State :=
  let d := deliveries s r
  let m := makeResponse r.h r.base d.1
  let s1 := noteXf d.2 (burstTrack r) m.sat m.nan
  let s2 := if r.h.op = 3 then
      energyEvt (ctrEvent s1 0x0C (burstTrack r) m.beats.length (accCtx r (r.base / 64))) 2 r.h.part (energyCls r) m.beats.length
    else s1
  match r.sink with
  | .write _ => (m.beats, m.sm, s2)
  | _ =>
    let o := outbound s2 r (sendLaneOf s2 r) m.beats.length m.sm
    (m.beats, o.1, o.2)

/-- Answer a completed request. -/
def answerDone (s : State) (r : Request) : State :=
  if r.verdict != (0, 0) then answer s r r.verdict.1 r.verdict.2
  else if isRead r.h.op then
    let x := readData s r
    respond x.2.2 r (if x.2.1 = 0 then 0 else 1) 0 x.2.1 x.1
  else if isAtomic r.h.op then
    let s1 := respond s r (if r.vst then 1 else 0) r.value 0 []
    if r.vst then s1 else openComb s1 r r.value
  else answer s r 0 0

/-- The bytes of a read's beat whose parity travels on unchanged: those of a READ that mismatched at P3 (R101, R808); a
transform makes fresh parity. -/
def parityOn (r : Request) (k : Nat) : Nat :=
  if r.h.op = 0 then ((r.res.find? (fun x => x.k == k && x.copy == 0)).map (fun x => x.p3)).getD 0 else 0

/-- A pacer's read has delivered its data: to the ring, to its write, or over the mesh (R395, R403, R405). -/
def pacerRead (s : State) (r : Request) (q st : Nat) : State :=
  let x := readData s r
  let s1 := dropReq x.2.2 r.id
  match findTask s1 q st with
  | none => s1
  | some t =>
    let live := streamState s1 q st == 1 || streamState s1 q st == 2
    let kept := match r.sink with | .write w => (findReq s1 w).isSome | _ => live
    let s2 := if x.2.1 != 0 && kept then setF s1 (F.PACER_S_STAT_STAINED q st) 1 else s1
    match r.sink with
    | .push =>
      if live then
        let upd (p : Push) : Push := if p.rid == r.id then { p with data := some (x.1, x.2.1) } else p
        let s3 := putTask s2 { t with pushes := t.pushes.map upd }
        sendLast (flushPushes 4096 s3 q st) q st
      else settleAbort s2 q st
    | .write w =>
      match findReq s2 w with
      | some y =>
        let fill (a : GAcc) : GAcc := { a with data := BitVec.ofNat 512 (x.1.getD a.k 0), be := allBytes,
                                               st := bitAt x.2.1 a.k, pm := if bitAt x.2.1 a.k then parityOn r a.k else 0 }
        putReq s2 { y with accs := y.accs.map fill, needs := none, beats := x.1.map (fun v => BitVec.ofNat 512 v) }
      | none => settleAbort s2 q st
    | .remote a =>
      if live then sendRemote s2 t 4 (64 * x.1.length - 1) a 0 x.2.1 x.1 else settleAbort s2 q st
    | .none => settleAbort s2 q st

/-- A pacer's write has committed. -/
def pacerWrite (s : State) (r : Request) (q st : Nat) : State :=
  let n := (r.accs.filter (fun a => a.copy == 0)).length
  settleAbort (noteMoved (dropReq s r.id) q st n) q st

/-- A debug-port access has completed: its answer goes to the wrapper (R786). -/
def debugDone (s : State) (r : Request) : State :=
  let d := deliveries s r
  let v := (delAt d.1 0).data / 2 ^ (8 * (r.base % 64)) % 2 ^ 64
  let st := isRead r.h.op && (delAt d.1 0).st
  let s1 := dropReq d.2 r.id
  let code := if r.verdict != (0, 0) then r.verdict.1 else if st then 1 else 0
  { s1 with dbgRes := some (code, if isRead r.h.op then v else 0) }

/-- A partner's shadow write has committed: its acknowledgement leaves (R583). -/
def shadowDone (s : State) (r : Request) (link : Nat) : State :=
  let s0 := match missOf s (lagOf r) with
    | some m => noteMiss s r.org r.h r.place m
    | none => s
  let s1 := dropReq s0 r.id
  if r.verdict != (0, 0) then s1 else emit s1 (.mesh (.shadowAck link (r.aux.getD 1 0)))

/-- A request whose every access is done (R16). One that has been answered already ends without an answer (R156). -/
def completeReq (s : State) (r : Request) : State :=
  match r.org with
  | .lane _ _ =>
    if wasCut r then dropReq s r.id
    else if r.h.attEn && r.verdict == (0, 0) then putReq s { r with stage := .signal } else answerDone s r
  | .mesh k _ _ _ =>
    if wasCut r then dropReq s r.id
    else if r.aux.headD 0 = 30 then shadowDone s r k
    else answerDone s r
  | .combine l c k => dropReq (dropComb s l c k) r.id
  | .pacer q st => if isRead r.h.op then pacerRead s r q st else pacerWrite s r q st
  | .spill p =>
    (match r.aux.headD 0 with
     | 1 => holdDesc (dropReq s r.id) p (r.aux.getD 1 0) ((r.res.map (fun x => x.data.toNat)).headD 0)
     | 2 => recordEnd s r p
     | 3 => dropReq (spillRead s r) r.id
     | _ => dropReq (fillWrite s r) r.id)
  | .scrub =>
    (match r.aux.headD 0 with
     | 11 => lineCheckDone s r
     | 12 => repairStep s r
     | 13 => bleachDone (dropReq s r.id)
     | _ => dropReq s r.id)
  | .marshal => marshalDone s r
  | .debug => debugDone s r

-- ## One access

/-- What a read of a failed bank gives (R604). -/
def failedRes (a : GAcc) : GRes := ⟨a.gran, a.k, a.copy, 0, true, 0, false, 0, false, true⟩

/-- P6 of an access of the spill engine, whose reads leave the data path as they are (R101, R533, R808): the mismatching
bytes. -/
def spillP6 (s : State) (r : Request) (a : GAcc) (p3 : Nat) (ph : Phys) : Nat × State :=
  match r.org with
  | .spill _ =>
    let f := flipAt s r 4
    let m := lessBytes (Nat.xor ph.p6.toNat f.1) p3
    let x : GRes := ⟨a.gran, a.k, 0, 0, false, 0, false, 0, false, false⟩
    (m, if m = 0 then f.2 else noteP6 f.2 { r with res := [x] } none m (f.1 != 0))
  | _ => (ph.p6.toNat, s)

/-- A read access at its bank: what it delivers. -/
def readAccess (s : State) (r : Request) (a : GAcc) (ph : Phys) : GRes × State :=
  let rd := readSlot s r a.gran ph
  let p4 := readP4 rd.2 r a.gran rd.1.p3 ph
  let p6 := spillP6 p4.2 r a rd.1.p3 ph
  let st := stateOf p6.2 (physG p6.2 a.gran)
  let x : GRes := ⟨a.gran, a.k, a.copy, rd.1.data, rd.1.st, rd.1.p3, p4.1, p6.1, !rd.1.st && rd.1.p3 == 0, !vZero st⟩
  (x, if r.h.op = 1 ∨ r.h.op = 2 then
      energyEvt (ctrEvent p6.2 0x0C (trackOf a.gran) 1 (accCtx r a.gran)) 2 r.h.part (energyCls r) 1
    else p6.2)

/-- The effect of one access (R102, R110 to R114, R117, R604): its request, what goes to the return buffer, the state. An
atomic sends the old word of its primary copy. -/
def doAccess (s : State) (r : Request) (a : GAcc) (ph : Phys) : Request × Option (Option GRes) × State :=
  if s.failedBanks.contains (bankOf a.gran) then
    if accReads r a then (r, some (some (failedRes a)), s) else ({ r with verdict := (7, 1) }, none, s)
  else if accReads r a then
    let x := readAccess s r a ph
    (r, some (some x.1), x.2)
  else if r.h.op = 4 ∨ r.h.op = 5 then
    (r, none, if r.org = .scrub ∧ r.aux.headD 0 = 13 then bleachSlot s r a.gran ph else writeSlot s r a ph)
  else if r.h.op = 6 then (r, none, accumSlots s r a ph)
  else
    let x := atomSlots s r a ph
    if a.copy = 0 then ({ r with value := x.1, vst := x.2.1 }, some none, x.2.2) else (r, none, x.2.2)

/-- The first undone access like `a` is done. -/
def markDone (a : GAcc) : List GAcc → List GAcc
  | [] => []
  | b :: l => if !b.done && b.gran == a.gran && b.k == a.k && b.copy == a.copy && b.burst == a.burst then { b with done := true } :: l
      else b :: markDone a l

/-- A log entry that the access wrote reads back wrong (R560). -/
def logReadback (s0 s : State) (ph : Phys) : State :=
  let h := getF s F.INT_LOG_PTR_HEAD
  if ph.logBad && !s.integ.logFailed && h != getF s0 F.INT_LOG_PTR_HEAD then logFail s ((h + 255) % 256) else s

/-- A granule enters the return buffer of its track (R208). -/
def pushRet (s : State) (r : Request) (a : GAcc) (prio : Nat) (x : Option (Option GRes)) : State :=
  match x with
  | none => s
  | some y =>
    let e : RetEnt := ⟨r.id, reqId r.org, trackOf a.gran, prio, s.cad.cycles, y⟩
    { s with conc := { s.conc with ret := s.conc.ret ++ [e] } }

/-- A request whose accesses are all done and whose granules have all been delivered ends (R16). -/
def finishReq (s : State) (rid : Nat) : State :=
  match findReq s rid with
  | some r =>
    if r.stage == .access && r.accs.all (fun a => a.done) && s.conc.ret.all (fun e => e.rid != rid)
    then settleUnits (completeReq s r) else s
  | none => s

/-- One access of a request at its bank: its effect, the return of what it reads, and the end of a request that has nothing
more to come. -/
def commitAccess (s : State) (i : TInput) (r : Request) (a : GAcc) (ph : Phys) : State :=
  let x := doAccess s r a ph
  let r1 := { x.1 with accs := markDone a x.1.accs }
  let s1 := putReq x.2.2 r1
  let s2 := if accReads r a then s1 else bumpGen s1 r1 a
  let s3 := notePort (passInput (logReadback s s2 ph) i) r a.gran
  finishReq (pushRet s3 r a (inputPrio s i) x.2.1) r.id

/-- ACCESS_COMMIT: the access that level 2 grants at logical bank `bank` in this array cycle (R117, R207). -/
def execAccessCommit (bank : Nat) (ph : Phys) (s : State) : Host.Outcome State Fault Refusal :=
  if !arrayRuns s then .next s
  else match level2 s bank with
    | none => .next s
    | some i =>
      match inputHead s i with
      | some (r, a) => .next (commitAccess s i r a ph)
      | none => .next s

-- ## Delivery (R195, R209)

/-- `a` is delivered before `b` (R209). -/
def delBefore (a b : RetEnt) : Bool :=
  decide (b.prio < a.prio) || (a.prio == b.prio && (decide (a.since < b.since) || (a.since == b.since && decide (a.track < b.track))))

/-- The entries that requester `q` receives, at most `n`. -/
def delPick : Nat → List RetEnt → List RetEnt
  | 0, _ => []
  | n + 1, l => match bestOf delBefore l with
    | some e => e :: delPick n (l.erase e)
    | none => []

/-- A granule reaches its requester. -/
def deliverRet (s : State) (e : RetEnt) : State :=
  let s1 := { s with conc := { s.conc with ret := s.conc.ret.erase e } }
  match findReq s1 e.rid, e.x with
  | some r, some x => finishReq (putReq s1 { r with res := r.res ++ [x] }) e.rid
  | _, _ => finishReq s1 e.rid

/-- The track outputs of an array cycle: each requester receives at most its issue width (R195, R209). -/
def deliverRets (s : State) : State :=
  ((s.conc.ret.map (fun e => e.q)).dedup.flatMap (fun q =>
    delPick (issueWidth q) (s.conc.ret.filter (fun e => e.q == q)))).foldl deliverRet s

-- ## Attached signals (R150, R436 to R439)

/-- An earlier accepted local write of the same engine that has not committed (R436). -/
def earlierWrite (s : State) (r : Request) : Bool :=
  s.reqs.any (fun q => sameEngine q r && decide (q.id < r.id) && isWrite q.h.op && !q.isRemote && !wasCut q
    && (q.stage == .admitted || q.stage == .stage3 || q.stage == .access))

/-- The code of a request that waits to apply its signal: a remote write keeps its target's answer. -/
def signalled (s : State) (r : Request) : State :=
  if r.isRemote then respond s r (if r.vst then 1 else 0) r.value 0 [] else answerDone s r

/-- ATTACHED_SIGNAL_APPLY (R436, R437, R430). -/
def execAttachedSignalApply (id : Nat) (up : Upset) (s : State) : Host.Outcome State Fault Refusal :=
  if !arrayRuns s then .next s else
  match findReq s id with
  | some r =>
    if r.stage != .signal || !r.h.attEn then .next s
    else if r.verdict != (0, 0) then .next (answerDone s r)
    else if earlierWrite s r then .next s
    else
      let s1 := readBatonWord s r.h.attBaton up
      .next (signalled (attachedAs s1 r.h.attBaton r.h.attAdd r.h.part) r)
  | none => .next s

end Sys2Proof.Machine
end

