-- ==== Sys2Proof/Machine/Mesh.lean ====
section
/-! DEFINITION. The mesh: answers, resends and timeouts of outbound requests, the links, the partner's shadow writes and the
keep-alives (R579 to R589, R801). -/

namespace Sys2Proof.Machine

-- ## Outbound requests (R588)

/-- Mesh link `k` is trained and carries data. -/
def linkUsable (s : State) (k : Nat) : Bool := bitAt (getF s F.MESH_STAT_UP) k && !bitAt (getF s F.MESH_STAT_DATA_OFF) k

/-- Data granules arrive on a link (R729, R770). -/
def noteInbound (s : State) (k n : Nat) (c : EvCtx) : State :=
  energyEvt (ctrEvent s 0x12 k n c) 4 c.part (c.cls.getD 0) n

/-- The context of the events of an outbound request. -/
def gwCtx (s : State) (e : GwEntry) : EvCtx := ⟨gwReq s e, bits e.hdr 16 12, bits e.hdr 12 4, some (bits e.hdr 9 3), 0⟩

/-- The answer of a lane's non-local request (R150, R588). -/
def takeRemote (s : State) (r : Request) (a : MeshAns) : State :=
  if a.code ≤ 1 && r.h.attEn then putReq s { r with stage := .signal, value := a.value, vst := a.code == 1 }
  else
    let beats := a.data.map (fun b => b.toNat)
    let o := outbound s r (sendLaneOf s r) beats.length a.stainMap
    respond o.2 r (if a.code = 0 ∧ o.1 ≠ 0 then 1 else a.code) a.value o.1 beats

/-- REMOTE_ANSWER (R588): one that reaches no held tag is discarded. -/
def execRemoteAnswer (a : MeshAns) (s : State) : Host.Outcome State Fault Refusal :=
  if !arrayRuns s then .next s else
  match findGw s a.seq with
  | none => .next s
  | some e =>
    if e.stream.isSome then .next s
    else
      let s1 := dropGw (noteInbound s e.link a.data.length (gwCtx s e)) a.seq
      match e.rid.bind (findReq s1) with
      | some r => .next (takeRemote s1 r a)
      | none => .next s1

/-- GATEWAY_RESEND (R588): at the promised time plus 4,000 and plus 8,000 ticks. -/
def execGatewayResend (seq : Nat) (s : State) : Host.Outcome State Fault Refusal :=
  if !arrayRuns s then .next s else
  match findGw s seq with
  | some e =>
    if e.retryAt = 0 && decide (e.resends < 2) && decide (e.promised + 4000 * (e.resends + 1) ≤ now s) then
      let e1 := { e with resends := e.resends + 1 }
      .next (gwTransmit (putGw s e1) e1 true)
    else .next s
  | none => .next s

/-- REMOTE_TIMEOUT (R406, R588). -/
def execRemoteTimeout (seq : Nat) (s : State) : Host.Outcome State Fault Refusal :=
  match findGw s seq with
  | some e =>
    if e.retryAt = 0 && decide (e.promised + 12000 ≤ now s) then
      let s1 := dropGw s seq
      match e.rid.bind (findReq s1), e.stream with
      | some r, _ => .next (answer s1 r 7 9)
      | none, some (q, st) => .next (abortTask s1 q st 9)
      | none, none => .next s1
    else .next s
  | none => .next s

/-- DEDUP_EXPIRY (R587). -/
def execDedupExpiry (owafer oinst oreq tag : Nat) (s : State) : Host.Outcome State Fault Refusal :=
  match findDedup s owafer oinst oreq tag with
  | some d => if d.filled && decide (d.expiry ≤ now s) then .next (dropDedup s owafer oinst oreq tag) else .next s
  | none => .next s

-- ## Links

/-- MESH_LINK_TRAINED (R801). -/
def execMeshLinkTrained (k : Nat) (s : State) : Host.Outcome State Fault Refusal :=
  if 4 ≤ k || aonState s == 1 || aonState s == 3 then .next s else .next (orF s F.MESH_STAT_UP k)

/-- Another usable link than `k`: which one is free (R588, log entry 8). -/
def otherLink (s : State) (k : Nat) : Option Nat × State :=
  chooseFrom s ((List.range 4).filter (fun i => i != k && linkUsable s i))

/-- Resend at once what left on link `k` (R588); what finds no other link stays for its later resends. -/
def reroute (s : State) (k : Nat) : State :=
  (s.gw.filter (fun e => e.link == k && e.retryAt == 0)).foldl (fun t e =>
    match otherLink t k with
    | (some i, t1) =>
      let e1 := { e with link := i }
      gwTransmit (putGw t1 e1) e1 true
    | (none, t1) => t1) s

/-- MESH_LINK_DOWN (R588, R801). -/
def execMeshLinkDown (k : Nat) (s : State) : Host.Outcome State Fault Refusal :=
  if 4 ≤ k || !bitAt (getF s F.MESH_STAT_UP) k then .next s
  else .next (reroute (setF s F.MESH_STAT_UP (getF s F.MESH_STAT_UP - 2 ^ k)) k)

-- ## The partner's shadow writes (R581 to R583)

/-- The request of a shadow write. -/
def shadowReq (s : State) (link desc : Nat) (data : Beat) : Request :=
  let a := 64 * (512 * getF s F.JNL_SHADOW_ROW + desc)
  let h := unitHdr 4 7 15 63 a
  { blankReq s.nextId (.mesh link (getF s F.JNL_SHADOW_PWAFER) (getF s F.JNL_SHADOW_PINST) 0) h [data] (now s) with
    base := a, accs := buildAccs h [data] a none, aux := [30, desc] }

/-- Submit a shadow write to admission (R583): the tick at which a refused one is submitted again. -/
def submitShadow (s : State) (link desc : Nat) (data : Beat) : Option Nat × State :=
  let r := shadowReq s link desc data
  let p := min (now s + 8192) (horizonEnd s)
  let c := chargeOf r 0
  match admission s 7 (now s) p c.1 with
  | (.admitted pl, s1) =>
    let b := match pl with | .fine b => b | _ => fineOf (now s)
    let r1 := { r with promise := p, factor := c.2, place := pl, bucket := b, adm := now s, stage := .admitted }
    (none, ctrEvent { s1 with reqs := s1.reqs ++ [r1], nextId := s1.nextId + 1 } 0x03 (reqId r.org) 1 (ctxOf r1))
  | (.busy v, s1) => (some v, s1)
  | (.rate v, s1) => (some v, s1)

/-- SHADOW_WRITE (R583). -/
def execShadowWrite (link desc : Nat) (data : Beat) (s : State) : Host.Outcome State Fault Refusal :=
  if !arrayRuns s then .next s else
  if decide (4 ≤ link) || decide (8192 ≤ desc) || !linkUsable s link || !flagF s F.JNL_SHADOW_EN then .next s
  else
    let s1 := noteInbound s link 1 ⟨0xD0 + link, 0, 15, some 7, 0⟩
    let hold (t : State) (v : Nat) : State :=
      if 64 ≤ t.shHold.length then t else { t with shHold := t.shHold ++ [⟨link, desc, data, now s, v⟩] }
    if s.shHold != [] then .next (hold s1 0)
    else match submitShadow s1 link desc data with
      | (some v, s2) => .next (hold s2 v)
      | (none, s2) => .next s2

/-- SHADOW_RESUBMIT (R583): the oldest held write is discarded, submitted again, or still waits. -/
def execShadowResubmit (s : State) : Host.Outcome State Fault Refusal :=
  if !arrayRuns s then .next s else
  match s.shHold with
  | [] => .next s
  | w :: l =>
    if w.arrived + 16000 ≤ now s then .next { s with shHold := l }
    else if now s < w.at_ then .next s
    else match submitShadow s w.link w.desc w.data with
      | (some v, s1) => .next { s1 with shHold := { w with at_ := v } :: l }
      | (none, s1) => .next { s1 with shHold := l }

-- ## Acknowledgements (R579, R580, R584)

/-- A state of an entry is acknowledged, or needs no acknowledgement any more. -/
def ackState (s : State) (e : JEntry) (st : Nat) : State :=
  if st = 0 then
    match e.kind, e.rid with
    | 3, some id => startMove s id
    | _, some id =>
      (match findReq s id with
       | some r => if r.stage = .shadow then proceed s r else s
       | none => s)
    | _, none => s
  else if st = 3 ∨ st = 4 then
    match e.kind, e.rid with
    | 3, some id => closeMove (jnlClose s e) id
    | 4, _ => closeCmd s e
    | _, _ => jnlClose s e
  else s

/-- SHADOW_ACK (R579, R580): the oldest state of the entry that is still unacknowledged. -/
def execShadowAck (seq : Nat) (s : State) : Host.Outcome State Fault Refusal :=
  if !arrayRuns s then .next s else
  match findEntry s seq with
  | some e =>
    match e.states with
    | (st, _) :: l =>
      let e1 := { e with states := l }
      .next (settleUnits (ackState (putEntry s e1) e1 st))
    | [] => .next s
  | none => .next s

/-- Everything that waits for an acknowledgement of one entry goes on. -/
def ackAll (s : State) (seq : Nat) : State :=
  match findEntry s seq with
  | some e =>
    let e1 := { e with states := [] }
    e.states.foldl (fun t x => match findEntry t seq with
      | some y => ackState t y x.1
      | none => t) (putEntry s e1)
  | none => s

/-- The shadow is lost (R584). -/
def loseShadow (s : State) : State :=
  let s1 := jnlLog (setF s F.JNL_STAT_SHADOW_LOST 1) 0x25 3 0
  settleUnits ((s1.jnl.map (fun e => e.seq)).foldl ackAll s1)

/-- SHADOW_TIMEOUT (R584). -/
def execShadowTimeout (seq : Nat) (s : State) : Host.Outcome State Fault Refusal :=
  match findEntry s seq with
  | some e =>
    match e.states with
    | (_, t) :: _ => if t + 20000 ≤ now s then .next (loseShadow s) else .next s
    | [] => .next s
  | none => .next s

-- ## Keep-alives and the partner's end (R585, R586)

/-- Send a keep-alive to the buddy. -/
def sendKeepalive (s : State) : State :=
  emit s (.mesh (.keepalive (getF s F.JNL_BUDDY_WAFER) (getF s F.JNL_BUDDY_INST) (fenced s)))

/-- KEEPALIVE_SEND (R585): once in each 65,536 ticks, while the links are up (R761). -/
def execKeepaliveSend (s : State) : Host.Outcome State Fault Refusal :=
  let k := now s / 65536
  if k ≤ s.buddy.kaSent || !flagF s F.JNL_BUDDY_SET || !flagF s F.JNL_CTL_SHADOW_EN || getF s F.MESH_STAT_UP == 0 then .next s
  else .next (sendKeepalive { s with buddy := { s.buddy with kaSent := k } })

/-- KEEPALIVE (R585). -/
def execKeepalive (_fenced : Bool) (s : State) : Host.Outcome State Fault Refusal :=
  if flagF s F.JNL_SHADOW_EN then .next { s with buddy := { s.buddy with kaLast := some (now s) } } else .next s

/-- The answer for one entry of a lost partner (R586): `h` is its header and `blk` its launch block. The cause of the notice
is a free value. -/
def lostEntry (s : State) (h blk : Nat) : State :=
  let k := bits h 0 4
  if 2 < bits h 4 3 then s
  else if k = 1 then
    emit (incF s F.JNL_CNT_ABANDONED 1) (.mesh (.answer (bits h 34 5) (bits h 39 9) (bits h 14 8) (bits h 22 12) 6 9 0 []))
  else if k = 2 && bitAt blk 239 then
    let w := bits blk 240 5
    let i := bits blk 245 9
    if (w == 31 && i == 511) || (w == getF s F.JNL_SHADOW_PWAFER && i == getF s F.JNL_SHADOW_PINST) then s
    else
      let f := takeFree s 256
      emit (incF f.2 F.JNL_CNT_ABANDONED 1)
        (.mesh (.abortNotice w i (bits blk 183 9) (bits h 256 8 / 4) (bits h 256 8 % 4) f.1))
  else s

/-- The shadowed entries from descriptor `i` on; stained descriptors are passed over. -/
def scanShadow : Nat → Nat → State → State
  | 0, _, s => s
  | n + 1, i, s =>
    if 8192 ≤ i then s
    else
      let g0 := 512 * getF s F.JNL_SHADOW_ROW
      let desc (k : Nat) : Option Nat :=
        let pg := physG s (g0 + k)
        if stateOf s pg = .clean then some (readRow s pg).toNat else none
      match desc i with
      | none => scanShadow n (i + 1) s
      | some h =>
        if bits h 0 4 = 0 then scanShadow n (i + 1) s
        else scanShadow n (i + 1 + bits h 53 2) (lostEntry s h ((desc (i + 1)).getD 0))

/-- PARTNER_LOST (R585, R586). -/
def execPartnerLost (s : State) : Host.Outcome State Fault Refusal :=
  let silent := match s.buddy.kaLast with
    | some t => decide (t + 4 * 65536 ≤ now s)
    | none => false
  if !flagF s F.JNL_SHADOW_EN || !(silent || s.buddy.cold) then .next s
  else
    let s1 := scanShadow 8192 0 s
    let s2 := setF (clearRows s1 (getF s1 F.JNL_SHADOW_ROW) 16) F.JNL_STAT_PARTNER_LOST 1
    .next (jnlLog { s2 with buddy := { s2.buddy with kaLast := none, cold := false } } 0x29 3 0)

end Sys2Proof.Machine
end

