-- ==== Sys2Proof/Machine/Cadence.lean ====
section
/-! DEFINITION. The cadence unit: timing-lane frames, lock, holdover, announcements, the step changes they make, and wakes
(R34 to R68, R684 to R686, R697 to R701, R806, R807). -/

namespace Sys2Proof.Machine

-- ## Frames (R37, R38)

/-- A frame that R38 does not discard. -/
structure Frame where
  ty : Nat
  hop : Nat
  seq : Nat
  pay : Nat
deriving DecidableEq, Repr

/-- A nonzero reserved field of a payload, and for a wake pattern a reserved STEP (R53, R699). -/
def badPayload (ty f : Nat) : Bool :=
  match ty with
  | 0 => bits f 32 16 != 0
  | 1 => bits f 36 4 != 0 || bits f 48 16 != 0
  | _ => bits f 47 1 != 0 || bits f 52 44 != 0 || decide (7 < bits f 48 4)

/-- Read a frame (R37, R38). -/
def parseFrame (f : Nat) : Option Frame :=
  let ty := bits f 8 4
  if bits f 0 8 != 0x5A || crc16 112 (f % 2 ^ 112) != bits f 112 16 || decide (2 < ty) || bits f 18 6 != 0
     || bits f 96 16 != 0 || badPayload ty f then none
  else some ⟨ty, bits f 12 6, bits f 24 8, bits f 32 64⟩

/-- Write a frame. -/
def frameBits (f : Frame) : Nat :=
  let w := fieldsWord [(0, 0x5A), (8, f.ty), (12, f.hop), (24, f.seq), (32, f.pay)]
  w + 2 ^ 112 * crc16 112 w

/-- A link on which frames are received and forwarded (R65). -/
def linkEn (s : State) (k : Nat) : Bool := decide (k < 4) && bitAt (getF s F.CPM_CAD_CTL_LINK_EN) k

/-- A frame on an enabled link: a valid one of type `ty`, or the count of a discarded one. -/
def takeFrame (s : State) (link ty : Nat) (f : BitVec 128) : Option Frame × State :=
  if !linkEn s link || aonState s == 3 then (none, s)
  else match parseFrame f.toNat with
    | none => (none, incF (setF s F.CPM_CAD_STAT_FRAME_ERR 1) F.CPM_CAD_ERR_FRAME_ERR_CNT 1)
    | some fr => (if fr.ty = ty then some fr else none, s)

/-- Send a frame on every enabled link but one (R40, R700). -/
def sendFrames (s : State) (notOn : Nat) (f : Frame) : State :=
  (List.range 4).foldl (fun t k => if k != notOn && linkEn t k then emit t (.frame k (frameBits f)) else t) s

/-- Forward a frame of the source while LOCKED (R40). -/
def forwardFrame (s : State) (link : Nat) (f : Frame) : State :=
  if s.cad.st == .locked && flagF s F.CPM_CAD_CTL_FWD_EN && link == s.cad.src && decide (f.hop < 63) then
    sendFrames s link { f with hop := f.hop + 1 }
  else s

-- ## Sources (R39, R43)

/-- The delay compensation of a link in whole ticks (R41, log entry 15). -/
def linkDelay (s : State) (k : Nat) : Nat := getF s (F.CPM_LINK_DLY_DELAY k) / 4

/-- An enabled link with a valid count frame within its last interval. -/
def linkLive (s : State) (k : Nat) : Bool :=
  linkEn s k && (match Sparse.find s.cad.links k with
    | some r => decide (now s ≤ r.mark + 65536 + 64)
    | none => false)

/-- HOP of the last count frame of a link. -/
def linkHop (s : State) (k : Nat) : Nat := ((Sparse.find s.cad.links k).map (fun r => r.hop)).getD 63

/-- The link that R39 selects: lowest HOP, then lowest number. -/
def bestLink (s : State) : Option Nat :=
  bestOf (fun a b => decide (linkHop s a < linkHop s b) || (linkHop s a == linkHop s b && decide (a < b)))
    ((List.range 4).filter (linkLive s))

/-- FORCE_SRC names another link. -/
def forcedAway (s : State) (k : Nat) : Bool := flagF s F.CPM_CAD_CTL_FORCE_SRC && getF s F.CPM_CAD_CTL_SRC_SEL != k

/-- The link is the source that R39 or FORCE_SRC selects. -/
def selectedLink (s : State) (k : Nat) : Bool :=
  if flagF s F.CPM_CAD_CTL_FORCE_SRC then getF s F.CPM_CAD_CTL_SRC_SEL == k else bestLink s == some k

/-- A frame of the source is missed (R44). -/
def srcMissed (s : State) : Bool :=
  match Sparse.find s.cad.links s.cad.src with
  | some r => decide (r.mark + 65536 + 64 < now s)
  | none => true

/-- The reference of a link that counted `dc` ticks while `dt` passed here is within ±200 ppm of 62.5 MHz (R42): 16 ticks
are one reference period. -/
def refInRange (dc dt : Nat) : Bool := decide ((max dc dt - min dc dt) * 5000 ≤ dt)

/-- Remember a valid count frame of count `c` whose mark edge lies `d` ticks back. Where 2,000 ticks or more lie between it
and the link's last one, they measure the link's reference (R42, log entry 46). -/
def noteLink (s : State) (k hop c d : Nat) : State :=
  let p := s.cad.passed - d
  let ok := match Sparse.find s.cad.links k with
    | some r => if r.passed + 2000 ≤ p then refInRange (c - r.count) (p - r.passed) else r.ok
    | none => false
  { s with cad := { s.cad with links := Sparse.put s.cad.links k ⟨now s - d, p, hop, c, ok⟩ } }

/-- The source is a link: REF_OK is what was measured of it (R64). -/
def takeSource (s : State) (k hop : Nat) : State :=
  let ok := ((Sparse.find s.cad.links k).map (fun r => r.ok)).getD false
  { s with cad := { s.cad with src := k, hop := hop, refOk := ok } }

-- ## Resolving a difference (R49, R807)

/-- C − L in two's complement, saturated to 32 bits (R68). -/
def jumpWord (c l : Nat) : Nat :=
  if l ≤ c then min (c - l) (2 ^ 31 - 1) else 2 ^ 32 - min (l - c) (2 ^ 31)

/-- Move the mark edges of the links along with a forward step: a mark edge is a tick of the count that steps. -/
def stepMarks (l : Sparse LinkRec) (n : Nat) : Sparse LinkRec := l.map (fun p => (p.1, { p.2 with mark := p.2.mark + n }))

/-- Resolve the received count `c` with the local count at the mark edge `d` ticks ago; `bound`: where JUMP is set. The
heartbeat's ticks are those that pass, so a forward step moves its last write along, and so it does the links' mark edges
(log entry 16). -/
def resolveCount (s : State) (c d bound : Nat) : State :=
  let l := now s - d
  let s1 := setF s F.CPM_JUMP_TICKS_VAL (jumpWord c l)
  if l ≤ c then
    let s2 := ctrEvent s1 0x02 0 (c - l) noCtx
    { s2 with cad := { s2.cad with count := now s + (c - l), slow := 0, links := stepMarks s2.cad.links (c - l) },
              msh := { s2.msh with hb := s2.msh.hb + (c - l) } }
  else
    let s2 := { s1 with cad := { s1.cad with slow := l - c } }
    if bound < l - c then setF s2 F.CPM_CAD_STAT_JUMP 1 else s2

-- ## Lock (R42, R61, R668)

/-- LOCKED is reached with count `c`: the sleep account, and in stage CADENCE the stage OPEN with OPEN set. -/
def lockCad (s : State) (link hop c : Nat) : State :=
  let s0 := takeSource s link hop
  let s1 := { s0 with cad := { s0.cad with st := .locked, loaded := none, holdEntry := 0 } }
  let s2 :=
    if s1.cad.sleepPend then
      let n := c - (getF s1 F.CPM_SLEEP_ENTRY_LO_VAL + 2 ^ 32 * getF s1 F.CPM_SLEEP_ENTRY_HI_VAL)
      let t := setF (setF s1 F.CPM_SLEEP_TICKS_LO_VAL n) F.CPM_SLEEP_TICKS_HI_VAL (n / 2 ^ 32)
      { t with cad := { t.cad with sleepPend := false } }
    else s1
  if getF s2 F.MSH_BOOT_STAGE = 9 then
    let s3 := setF (setF s2 F.MSH_BOOT_STAGE 10) F.REG_CTL_OPEN 1
    { s3 with rst := { s3.rst with coldRun := false, pause := false } }
  else s2

/-- The unit may leave UNLOCKED on a count frame: in stages CADENCE and OPEN (R806), and in FAILED, which forwards the
cadence (R622, log entry 25). -/
def cadPermitted (s : State) : Bool := getF s F.MSH_BOOT_STAGE == 9 || getF s F.MSH_BOOT_STAGE == 10 || getF s F.MSH_BOOT_STAGE == 15

/-- A count frame of a link that is not LOCKED to a source (R42, R49). -/
def acquireFrame (s : State) (link hop c d : Nat) : State :=
  if !selectedLink s link then s
  else
    let l := now s - d
    let t := takeSource s link hop
    if s.cad.loaded == some (c - 65536) && decide (65536 ≤ c) && c == l && t.cad.refOk && s.cad.slow == 0 then lockCad s link hop c
    else
      let s1 := resolveCount t c d (holdErrBound s)
      { s1 with cad := { s1.cad with loaded := some c } }

/-- A frame that equals the local count makes its link the source: the count equals the source, so a slow advance is over
(R43, R49). -/
def takeEqual (s : State) (link hop : Nat) : State :=
  let s1 := takeSource s link hop
  { s1 with cad := { s1.cad with slow := 0 } }

/-- A count frame while LOCKED (R43, R807). -/
def lockedFrame (s : State) (link hop c d : Nat) (missed : Bool) : State :=
  let l := now s - d
  if forcedAway s link then s
  else if link = s.cad.src || flagF s F.CPM_CAD_CTL_FORCE_SRC then
    if c = l then takeEqual s link hop else resolveCount (takeSource s link hop) c d 2
  else if c = l && (missed || selectedLink s link) then takeEqual s link hop
  else s

/-- COUNT_FRAME (R38 to R49, R806, R807). -/
def execCountFrame (link : Nat) (frame : BitVec 128) (s : State) : Host.Outcome State Fault Refusal :=
  match takeFrame s link 0 frame with
  | (none, s1) => .next s1
  | (some f, s0) =>
    if aonState s0 == 1 || !flagF s0 F.CPM_CLK_STAT_REF_READY then .next s0
    else
      let missed := srcMissed s0
      let d := linkDelay s0 link
      let s1 := noteLink s0 link f.hop f.pay d
      let s2 := match s1.cad.st with
        | .unlocked =>
          if cadPermitted s1 && aonState s1 == 0 then
            acquireFrame { s1 with cad := { s1.cad with st := .acquiring, loaded := none } } link f.hop f.pay d
          else s1
        | .acquiring => acquireFrame s1 link f.hop f.pay d
        | .holdover => acquireFrame s1 link f.hop f.pay d
        | .locked => lockedFrame s1 link f.hop f.pay d missed
      .next (forwardFrame s2 link { f with pay := 65536 * ((now s2 - d) / 65536) })

-- ## Loss of lock (R44, R47, R48)

/-- LOCKED is lost: HOLDOVER, or UNLOCKED where HOLD_LIMIT is zero (R44, R48). -/
def loseLock (s : State) : State :=
  let c := { s.cad with loaded := none, slow := 0, links := Sparse.del s.cad.links s.cad.src, refOk := false }
  let s1 := irqIf s F.CPM_CAD_CTL_IRQ_EN 0
  if getF s F.CPM_CAD_CTL_HOLD_LIMIT = 0 then { s1 with cad := { c with st := .unlocked } }
  else { s1 with cad := { c with st := .holdover, holdEntry := now s } }

/-- Two consecutive count frames of the source are missed (R44): each missed frame adds 65,536 to the due tick. -/
def srcLost (s : State) : Bool :=
  match Sparse.find s.cad.links s.cad.src with
  | some r => decide (r.mark + 2 * 65536 + 64 < now s)
  | none => false

/-- A LOCKED unit whose source has missed two frames loses LOCKED at that tick (R44, log entry 39). -/
def checkSource (s : State) : State := if s.cad.st == .locked && srcLost s then loseLock s else s

/-- SOURCE_LOSS (R44, R48): the source shows no reference edge for 64 ticks, and no other link has taken over; the frames
that it misses count by themselves (log entry 39). -/
def execSourceLoss (s : State) : Host.Outcome State Fault Refusal :=
  if s.cad.st != .locked || aonState s == 1 || aonState s == 3 then .next s else .next (loseLock s)

/-- HOLDOVER_EXPIRY (R47, R48; log entry 45). -/
def execHoldoverExpiry (s : State) : Host.Outcome State Fault Refusal :=
  if s.cad.st == .holdover && decide (s.cad.holdEntry + 65536 * getF s F.CPM_CAD_CTL_HOLD_LIMIT ≤ now s) then
    let s1 := irqIf s F.CPM_CAD_CTL_IRQ_EN 0
    .next (setF { s1 with cad := { s1.cad with st := .unlocked, loaded := none, slow := 0, holdEntry := 0 } } F.CPM_CAD_STAT_HOLD_EXPIRED 1)
  else .next s

-- ## Announcements (R53 to R60)

/-- Reject an announcement (R57, R58). -/
def rejectAnn (s : State) : State := setF s F.CPM_CAD_STAT_ANN_REJ 1

/-- Accept an announcement, or let it replace the pending one: the standby retunes (R58, R684), while boosted only at the
end of Boost (R742). -/
def acceptAnn (s : State) (a : Ann) : State :=
  let s1 := setF (setF { s with cad := { s.cad with ann := some a } } F.CPM_ANN_TICK_LO_VAL a.tick) F.CPM_ANN_TICK_HI_VAL (a.tick / 2 ^ 32)
  if curStep s1 = 8 then s1 else retuneTo s1 (targetStep s1 a.step)

/-- An announcement is refused by R57. -/
def annBad (s : State) (a : Ann) (mark : Nat) : Bool :=
  decide (7 < a.step) || a.tick % 65536 != 0 || decide (a.tick < mark + 65536) || decide (mark + 67108864 < a.tick)
  || s.cad.st != .locked

/-- Handle an announcement with its mark edge (R57, R58). -/
def takeAnn (s : State) (a : Ann) (mark : Nat) : State :=
  match s.cad.ann with
  | some p =>
    if p == a then s
    else if annBad s a mark then rejectAnn s
    else if a.tick = p.tick && decide (a.step < p.step) then acceptAnn s a
    else rejectAnn s
  | none => if annBad s a mark then rejectAnn s else acceptAnn s a

/-- ANNOUNCEMENT_FRAME (R40, R53, R57, R58). -/
def execAnnouncementFrame (link : Nat) (frame : BitVec 128) (s : State) : Host.Outcome State Fault Refusal :=
  match takeFrame s link 1 frame with
  | (none, s1) => .next s1
  | (some f, s0) =>
    if aonState s0 == 1 then .next s0
    else
      let mark := now s0 - linkDelay s0 link
      let s1 := takeAnn s0 ⟨bits f.pay 0 4, bits f.pay 8 8, absTick mark (bits f.pay 32 32)⟩ mark
      .next (forwardFrame s1 link f)

-- ## Step changes (R60, R684 to R686, R720)

/-- EFFECTIVE_TICK (R60, R684, R685): the announcement ends; a move down not yet made is made, a move up becomes due. A trip
whose switch is still due goes to the lower step (R722). -/
def execEffectiveTick (s : State) : Host.Outcome State Fault Refusal :=
  match s.cad.ann with
  | some a =>
    if now s < a.tick then .next s
    else
      let st := targetStep s a.step
      let s1 := { s with cad := { s.cad with ann := none } }
      match s.clk.sw with
      | some w =>
        if w.cause = 1 then .next { s1 with clk := { s1.clk with sw := some { w with step := min w.step st } } }
        else .next (stepDue s1 st 0 a.tick true)
      | none =>
        if st = curStep s then .next s1
        else if st < curStep s then .next (doSwitch { s1 with swBucket := fineOf a.tick, swLow := st } st 0)
        else .next (stepDue s1 st 0 a.tick true)
  | none => .next s

/-- A move up whose rails are too low waits (R686). -/
def lateSwitch (s : State) (w : StepReq) : State :=
  irqIf (setF (faultBegin { s with clk := { s.clk with sw := some { w with late := true } } } 2) F.CPM_CLK_STAT_STEP_LATE 1)
    F.CPM_CLK_CTL_CLK_IRQ_EN 10

/-- STEP_SWITCH (R684, R686): the announced move down from 16 ticks before T_e on, or the step change that is due. -/
def execStepSwitch (s : State) : Host.Outcome State Fault Refusal :=
  if !arrayRuns s then .next s else
  match s.clk.sw, s.cad.ann with
  | some w, _ =>
    if w.cause = 1 || w.late || decide (now s < w.tick) then .next s
    else if curStep s < w.step && !railsAt s (tableMv s w.step) then .next (lateSwitch s w)
    else .next (doSwitch s w.step w.cause)
  | none, some a =>
    let st := targetStep s a.step
    if a.tick ≤ now s + 16 && st < curStep s && curStep s != 8 then
      .next (doSwitch { s with swBucket := fineOf a.tick, swLow := st } st 0)
    else .next s
  | none, none => .next s

/-- STEP_SWITCH_DEFERRED (R686). -/
def execStepSwitchDeferred (s : State) : Host.Outcome State Fault Refusal :=
  if !arrayRuns s then .next s else
  match s.clk.sw with
  | some w => if w.late && railsAt s (tableMv s w.step) then .next (doSwitch s w.step w.cause) else .next s
  | none => .next s

-- ## Wakes (R61, R697 to R701)

/-- The supplies are there: the PLLs lock at the wake step and the cadence unit acquires (R698). -/
def startWake (s : State) (w : WakeReq) : State :=
  let s1 := { s with cad := { s.cad with st := .acquiring, loaded := none, sleepPend := true, links := [], refOk := false, ann := none },
                     clk := { s.clk with sw := none, div := 1 } }
  retuneTo (setF s1 F.CPM_STEP_CUR_STEP w.step) w.step

/-- A wake event: the always-on record (R701), then the wake, or a cold start when retention was lost (R695, R698). -/
def wakeTo (s : State) (w : WakeReq) : State :=
  let lost := getF s F.CPM_AON_STAT_RET_LOST
  let s1 := setF (setF (setF s F.CPM_AON_LAST_SOURCE w.src) F.CPM_AON_LAST_LANE w.lane) F.CPM_AON_LAST_LINK w.link
  let s2 := incF (setF (setF s1 F.CPM_AON_LAST_RAILS_OFF (b2n s.clk.railsOff)) F.CPM_AON_LAST_RET_LOST lost) F.CPM_AON_CNT_WAKES 1
  if lost = 1 then triggerCold s2 6
  else
    let s3 := setF { s2 with clk := { s2.clk with wake := some w } } F.CPM_AON_STAT_AON_STATE 2
    if s3.clk.rails then startWake s3 w else s3

/-- A wake pattern names the instance (R700). -/
def namesMe (s : State) (p : Nat) : Bool :=
  bits p 9 5 == selfWafer s && (bitAt p 14 || bits p 0 9 == selfInst s)

/-- WAKE_PATTERN (R697 to R701). -/
def execWakePattern (link : Nat) (frame : BitVec 128) (s : State) : Host.Outcome State Fault Refusal :=
  match takeFrame s link 2 frame with
  | (none, s1) => .next s1
  | (some f, s0) =>
    let s1 :=
      if s0.clk.wakeSeq == some f.seq || decide (63 ≤ f.hop) then s0
      else sendFrames { s0 with clk := { s0.clk with wakeSeq := some f.seq } } link { f with hop := f.hop + 1 }
    if namesMe s1 f.pay && aonState s1 == 1 then .next (wakeTo s1 ⟨0, 0, link, bits f.pay 16 4⟩) else .next s1

end Sys2Proof.Machine
end

