-- ==== Sys2Proof/Machine/Marshal.lean ====
section
/-! DEFINITION. The marshal's commands on partitions, bibs, stochastic rounding, contexts and OTP, each a row of its own
(R84 to R87, R244, R348 to R350, R495, R551, R639 to R645). -/

namespace Sys2Proof.Machine

-- ## Rights (R641, R645)

/-- A command code that R641, R703 or R744 defines. -/
def knownCode (c : Nat) : Bool := (decide (1 ≤ c) && decide (c ≤ 10)) || (decide (0x20 ≤ c) && decide (c ≤ 0x24)) || (decide (0x28 ≤ c) && decide (c ≤ 0x2A))

/-- The source is a mailbox. -/
def fromMailbox (r : CmdRun) : Bool := match r.src with | .ring _ => false | _ => true

/-- The source may act on partition `p`. -/
def mayActOn (r : CmdRun) (p : Nat) : Bool := match r.src with | .ring q => q == p | _ => true

/-- A command that only the mailboxes may issue. -/
def mailboxOnly (f : State → CmdRun → State) (s : State) (r : CmdRun) : State :=
  if fromMailbox r then f s r else refuseCmd s r 1

-- ## Partitions

/-- The conditions of R244. -/
def qosOk (s : State) : Bool :=
  decide (((List.range 16).map (fun p => getF s (F.PART_QOS_SHARE p))).sum ≤ 256)
  && (List.range 16).all (fun p => decide (getF s (F.PART_QOS_DL_RES p) ≤ getF s (F.PART_QOS_SHARE p)))

/-- The partition is created in the sense of R86: CREATED or KILLING. -/
def partTaken (s : State) (p : Nat) : Bool := getF s (F.PART_STAT_STATE p) != 0

/-- The page range of a partition in a tier. -/
def tierRange (s : State) (p t : Nat) : Nat × Nat :=
  let b := getF s (F.PART_TIER_BASE_BASE p t)
  (b, b + getF s (F.PART_TIER_CNT_CNT p t))

/-- Two ranges that are not empty meet. -/
def rangesMeet (a b : Nat × Nat) : Bool := decide (a.1 < a.2) && decide (b.1 < b.2) && meets a b

/-- The region or a tier range of `p` breaks R87 or R495. -/
def createOverlap (s : State) (p : Nat) : Bool :=
  let others := (List.range 15).filter (fun q => q != p && partTaken s q)
  others.any (fun q => rangesMeet (regionOf s p) (regionOf s q))
  || (List.range 3).any (fun t => decide (getF s (F.SPL_TIER_PAGES_PAGES t) < (tierRange s p t).2 ∧ (tierRange s p t).1 < (tierRange s p t).2)
      || (others ++ [15]).any (fun q => q != p && rangesMeet (tierRange s p t) (tierRange s q t)))

/-- The cause that refuses a create. -/
def createCause (s : State) (p : Nat) : Option Nat :=
  if 15 < p then some 2
  else if p = 15 || partTaken s p then some 3
  else if createOverlap s p then some 4
  else if !qosOk s then some 5
  else if 32 ≤ s.integ.bleach.length then some 6
  else none

/-- Create a partition. -/
def createPart (s : State) (p : Nat) : State := setF s (F.PART_STAT_STATE p) 1

/-- PART_CREATE, and the codes that no row has (R641). -/
def doPartCreate (s : State) (r : CmdRun) : State :=
  if !knownCode (cmdCode r.words) then refuseCmd s r 2
  else if !fromMailbox r then refusePart s r (cmdArg r.words 0) 1
  else match createCause s (cmdArg r.words 0) with
    | some c => refusePart s r (cmdArg r.words 0) c
    | none => finishCmd (createPart s (cmdArg r.words 0)) r 0 0 0

/-- PART_CREATE (R641); its row also answers undefined codes. -/
def execPartCreate (c : CmdSrc) (s : State) : Host.Outcome State Fault Refusal :=
  .next (runCmd c (fun k => k == 1 || !knownCode k) doPartCreate s)

/-- PART_KILL (R551, R608, R641, R109). -/
def execPartKill (k : Kill) (s : State) : Host.Outcome State Fault Refusal :=
  .next (runCmd k.src (fun n => n == 2) (mailboxOnly (fun t r => doPartKill t { r with sw := k.sw })) s)

-- ## Bibs

/-- The entry that BIB_ALLOC asks for, before it is placed. -/
def allocEntry (w : Nat) : BibE :=
  let a := cmdArg w 2
  { valid := true, place := 0, part := cmdArg w 0 % 16, fmt := bits a 0 4, layout := bits a 4 2, spread := bits a 6 3,
    mirror := bitAt a 9, chained := false, pin := bitAt a 10, next := 0, loc := 0, len := cmdArg w 1, mirG := 0 }

/-- An invalid combination (R334). -/
def allocBad (w : Nat) (e : BibE) : Bool :=
  decide (15 < cmdArg w 0) || decide (2 < e.layout) || decide (4 < e.spread) || e.len == 0 || decide (4194304 < e.len)
  || (e.layout == 2 && e.len % 32 != 0) || (e.layout == 1 && (!isMX e.fmt || e.len % tileGranules e.fmt != 0))
  || (e.mirror && e.len % 32 != 0)

/-- BIB_ALLOC (R350): which free bib it takes is a free value (log entry 13). -/
def doBibAlloc (s : State) (r : CmdRun) : State :=
  let p := cmdArg r.words 0
  let e := allocEntry r.words
  if !mayActOn r p then refusePart s r p 1
  else if allocBad r.words e then refusePart s r p 2
  else
    let frees := (List.range 4096).filter (fun n => !flagF s (F.BIB_CTL_VALID n))
    match chooseFrom s frees with
    | (some n, s1) =>
      (match if partCreated s1 p then placeBib s1 p e else none with
       | some (e1, s2) =>
         if bibNoLines s2 n (bibE s2 n) e1 then refusePart s r p 6
         else finishCmd (setBib s2 n (bibE s2 n) e1) r 0 0 n
       | none => refusePart s r p 6)
    | (none, _) => refusePart s r p 6

/-- BIB_ALLOC (R350, R641). -/
def execBibAlloc (c : CmdSrc) (s : State) : Host.Outcome State Fault Refusal :=
  .next (runCmd c (fun k => k == 3) doBibAlloc s)

/-- A move holds the bib. -/
def bibHeld (s : State) (b : Nat) : Bool := s.moves.any (fun m => m.held.any (fun j => m.bibs.getD j 4096 == b))

/-- BIB_FREE (R641). -/
def doBibFree (s : State) (r : CmdRun) : State :=
  let b := cmdArg r.words 0
  if 4095 < b then refuseCmd s r 2
  else if !flagF s (F.BIB_CTL_VALID b) || !mayActOn r (getF s (F.BIB_CTL_PART b)) then refuseCmd s r 1
  else if bibHeld s b then refuseCmd s r 3
  else finishCmd (dropBib s b) r 0 0 0

/-- BIB_FREE (R641). -/
def execBibFree (c : CmdSrc) (s : State) : Host.Outcome State Fault Refusal :=
  .next (runCmd c (fun k => k == 4) doBibFree s)

/-- BIB_LINK (R348, R641). -/
def doBibLink (s : State) (r : CmdRun) : State :=
  let t := cmdArg r.words 0
  let n := cmdArg r.words 1
  if 4095 < t || 4095 < n then refuseCmd s r 2
  else if !flagF s (F.BIB_CTL_VALID t) || !flagF s (F.BIB_CTL_VALID n) || getF s (F.BIB_CTL_PART t) != getF s (F.BIB_CTL_PART n)
       || !mayActOn r (getF s (F.BIB_CTL_PART t)) then refuseCmd s r 1
  else if flagF s (F.BIB_CTL_CHAINED t) then refuseCmd s r 3
  else if chainReaches s t 4096 n then refuseCmd s r 7
  else finishCmd (setF (setF s (F.BIB_CTL_CHAINED t) 1) (F.BIB_CTL_NEXT t) n) r 0 0 0

/-- BIB_LINK (R348, R641). -/
def execBibLink (c : CmdSrc) (s : State) : Host.Outcome State Fault Refusal :=
  .next (runCmd c (fun k => k == 5) doBibLink s)

-- ## Stochastic rounding and contexts

/-- SR_SET (R331, R641). -/
def doSrSet (s : State) (r : CmdRun) : State :=
  let p := cmdArg r.words 0
  if !mayActOn r p then refusePart s r p 1
  else if 15 < p then refuseCmd s r 2
  else
    let s1 := setF (setF s (F.PART_SR_KEY_LO_KEY_LO p) (cmdArg r.words 1)) (F.PART_SR_KEY_HI_KEY_HI p) (cmdArg r.words 2)
    finishCmd (setF s1 (F.PART_SR_STEP_STEP p) (cmdArg r.words 3)) r 0 0 0

/-- SR_SET (R331, R641). -/
def execSrSet (c : CmdSrc) (s : State) : Host.Outcome State Fault Refusal :=
  .next (runCmd c (fun k => k == 6) doSrSet s)

/-- CTX_SAVE (R460, R461, R641). -/
def execCtxSave (c : CmdSrc) (s : State) : Host.Outcome State Fault Refusal :=
  .next (runCmd c (fun k => k == 7) (mailboxOnly doCtxSave) s)

/-- CTX_RESTORE (R460, R461, R641). -/
def execCtxRestore (c : CmdSrc) (s : State) : Host.Outcome State Fault Refusal :=
  .next (runCmd c (fun k => k == 8) (mailboxOnly doCtxRestore) s)

-- ## OTP (R639, R640)

/-- Generation `g` as it is burned. -/
def otpGen (s : State) (g : Nat) : Nat :=
  match Sparse.find s.msh.otp g with
  | some w => w
  | none => (Config.otpFactory g).toNat

/-- CRC-32C over bits [975:0] of a generation. -/
def otpCrc (w : Nat) : Nat := crc32c (toBytes 122 (w % 2 ^ 976))

/-- A valid generation. -/
def otpValid (w : Nat) : Bool := bits w 1016 8 == 0xC3 && bits w 976 32 == otpCrc w

/-- The bits g of 0 to 3 that a test accepts. -/
def genMask (s : State) (f : Nat → Bool) : Nat := ((List.range 4).map (fun g => if f (otpGen s g) then 2 ^ g else 0)).sum

/-- MSH_OTP shows the generations (R649). -/
def noteOtp (s : State) : State :=
  setF (setF (setF s F.MSH_OTP_BLANK (genMask s (fun w => w == 0))) F.MSH_OTP_VALID (genMask s otpValid))
    F.MSH_OTP_CONFIRMED (genMask s (fun w => bitAt w 1008))

/-- Burn a generation. -/
def burnGen (s : State) (g w : Nat) : State := { s with msh := { s.msh with otp := Sparse.put s.msh.otp g w } }

/-- The staged generation. -/
def stagedGen (s : State) : Nat := fieldsWord ((List.range 32).map (fun w => (32 * w, getF s (F.MSH_OTP_STG_STAGE w))))

/-- OTP_BURN (R640): whether the read-back matches, and what a bad burn leaves, are free values. -/
def doOtpBurn (s : State) (r : CmdRun) : State :=
  if flagF s F.REG_CTL_OPEN then refuseCmd s r 3
  else match (List.range 4).find? (fun g => otpGen s g == 0) with
    | none => refuseCmd s r 6
    | some g =>
      let w := stagedGen s % 2 ^ 976
      let v := w + 2 ^ 976 * otpCrc w
      let f := takeFree s 2
      if f.1 = 0 then finishCmd (noteOtp (burnGen f.2 g (v + 2 ^ 1016 * 0xC3))) r 0 0 g
      else
        let b := takeFree f.2 (2 ^ 1008)
        refuseCmd (noteOtp (burnGen b.2 g b.1)) r 8

/-- OTP_BURN (R640, R641). -/
def execOtpBurn (c : CmdSrc) (s : State) : Host.Outcome State Fault Refusal :=
  .next (runCmd c (fun k => k == 9) (mailboxOnly doOtpBurn) s)

end Sys2Proof.Machine
end

