-- ==== Sys2Proof/Machine/Recovery.lean ====
section
/-! DEFINITION. Part faults and their recovery windows, the fence, failover and takeover of the marshal pair, checkpoints, and
the warm reset (R591 to R607, R753 to R758, R760). -/

namespace Sys2Proof.Machine

-- ## Parts (R603, R604, R609)

/-- The logical banks that a request still needs. -/
def needsBank (r : Request) (b : Nat) : Bool := r.accs.any (fun a => !a.done && bankOf a.gran == b)

/-- A request needs a faulted part (R606). -/
def needsPart (s : State) (part : Nat × Nat) (r : Request) : Bool :=
  match part.1 with
  | 1 => needsBank r part.2
  | 2 => (match r.org with | .lane l _ => l == part.2 | _ => false)
  | 3 => s.tasks.any (fun t => t.rid == r.id && t.q == part.2)
  | 4 => s.gw.any (fun e => e.rid == some r.id && e.link == part.2)
  | 6 => (entryOf s r.id).isSome
  | _ => false

/-- Every accepted request that a test selects is answered ABANDONED. -/
def abandonAll (reason : Nat) (f : State → Request → Bool) (s : State) : State :=
  (s.reqs.filter (fun r => r.stage != .held && f s r)).foldl (fun t r => abandonReq reason t r.id) s

/-- The instance is fenced (R606): `parts` are the parts that its accepted work may not need any more. -/
def fenceInst (s : State) (parts : List (Nat × Nat)) : State :=
  if fenced s then s
  else
    let s1 := jnlLog (setF s F.JNL_STAT_FENCED 1) 0x23 3 0
    let s2 := raiseIrq s1 8
    let s3 := if flagF s2 F.JNL_BUDDY_SET && flagF s2 F.JNL_CTL_SHADOW_EN then sendKeepalive s2 else s2
    let s4 := abandonAll 8 (fun t r => parts.any (fun p => needsPart t p r)) s3
    (parts.filter (fun p => p.1 == 3)).foldl (fun t p =>
      ((t.tasks.filter (fun k => k.q == p.2)).map (fun k => k.st)).foldl (fun u st => abortTask u p.2 st 0x0F) t) s4

/-- The open window's part. -/
def openPart (s : State) : Option (Nat × Nat) :=
  if flagF s F.JNL_STAT_RECOVERING then some (getF s F.JNL_FAULT_CLASS, getF s F.JNL_FAULT_INDEX) else none

/-- The blind tags of a lane (R604): which tag-table words are lost is not said, so each tag of the lane is one or not
(free values). -/
def blindTags (s : State) (l : Nat) : State :=
  let keys := (List.range 12288).filter (fun i => Config.freeNat (s.free + i) % 2 == 1)
  { s with free := s.free + 12288, blind := s.blind ++ (keys.map (fun i => l * 12288 + i)).filter (fun k => !s.blind.contains k) }

/-- Handle a part fault (R604). -/
def handlePart (s : State) (cls idx : Nat) : State :=
  match cls with
  | 1 =>
    let s1 := { s with failedBanks := idx :: s.failedBanks.filter (fun b => b != idx), roll := { s.roll with bankBad := true } }
    setF (setF s1 F.JNL_FAIL_BANK idx) F.JNL_FAIL_BANK_V 1
  | 2 =>
    let s1 := if idx < 32 then orF s F.JNL_FAIL_LANE_LO_LANE_LO idx else orF s F.JNL_FAIL_LANE_HI_LANE_HI (idx - 32)
    blindTags ((List.range 3).foldl (fun t ch => channelDown t idx ch) s1) idx
  | 3 =>
    let s1 := setF (orF s F.JNL_FAIL_PACER idx) (F.PACER_CTL_EN idx) 0
    ((s1.tasks.filter (fun k => k.q == idx)).map (fun k => k.st)).foldl (fun u st => abortTask u idx st 0x0F) s1
  | 4 =>
    let s1 := orF (orF s F.JNL_FAIL_LINK idx) F.MESH_STAT_DATA_OFF idx
    reroute { s1 with cad := { s1.cad with links := Sparse.del s1.cad.links idx } } idx
  | _ => s

/-- Open the window of a part and handle its fault; the windows of a bank and of the journal end at once. -/
def openWindow (s : State) (p : Nat × Nat) : State :=
  let s1 := setF (setF (setF s F.JNL_STAT_RECOVERING 1) F.JNL_FAULT_CLASS p.1) F.JNL_FAULT_INDEX p.2
  handlePart s1 p.1 p.2

/-- The end of the open window has come (R604). -/
def windowOver (s : State) : Bool :=
  match openPart s with
  | none => false
  | some (cls, idx) =>
    match cls with
    | 2 => !s.reqs.any (fun r => match r.org with | .lane l _ => l == idx && r.stage != .held | _ => false)
    | 3 => !s.tasks.any (fun t => t.q == idx)
    | 4 => !s.gw.any (fun e => e.link == idx)
    | 5 => s.activeM.isSome && flagF s F.REG_CTL_OPEN
    | _ => true

/-- Close the open window (R605, R612); the next queued fault is then handled. -/
def closeWindow (s : State) : State :=
  let s1 := setF (setF (setF s F.JNL_STAT_RECOVERING 0) F.JNL_FAULT_CLASS 0) F.JNL_FAULT_INDEX 0
  let s2 := jnlLog s1 0x21 0 0
  match s2.partQ with
  | p :: l => openWindow (setF { s2 with partQ := l } F.JNL_STAT_QUEUED l.length) p
  | [] => faultEnd s2 0

/-- A part fault is declared (R603 to R606). -/
def declarePart (s : State) (cls idx : Nat) : State :=
  let s1 := jnlLog (incF s F.JNL_DIP_FAULT_CNT 1) 0x20 3 (cls % 16 + 16 * (idx % 512))
  let s2 := faultBegin s1 0
  match openPart s2 with
  | none => openWindow s2 (cls, idx)
  | some p =>
    if p = (cls, idx) then fenceInst s2 (p :: s2.partQ)
    else if s2.partQ.contains (cls, idx) then s2
    else if 4 ≤ s2.partQ.length then fenceInst s2 ((cls, idx) :: p :: s2.partQ)
    else jnlLog (setF { s2 with partQ := s2.partQ ++ [(cls, idx)] } F.JNL_STAT_QUEUED (s2.partQ.length + 1)) 0x22 1 0

/-- The part exists (R609). -/
def partOk (cls idx : Nat) : Bool :=
  match cls with
  | 1 => decide (idx < 512)
  | 2 => decide (idx < 64)
  | 3 => decide (idx < 16)
  | 4 => decide (idx < 4)
  | 6 => idx == 0
  | _ => false

/-- PART_FAULT (R603 to R606): the table gives the declaration a row, and the command is it (log entry 17). A
failover declares its own. -/
def execPartFault (cls idx : Nat) (s : State) : Host.Outcome State Fault Refusal :=
  if !partOk cls idx || aonState s != 0 then .next s else .next (settleUnits (declarePart s cls idx))

/-- RECOVERY_WINDOW_CLOSE (R604, R605). -/
def execRecoveryWindowClose (s : State) : Host.Outcome State Fault Refusal :=
  if windowOver s then .next (settleUnits (closeWindow s)) else .next s

-- ## Failover and takeover (R591 to R598, R620)

/-- Mx_FAIL. -/
def failBit (m : Nat) : Fld := if m = 0 then F.MSH_STAT_M0_FAIL else F.MSH_STAT_M1_FAIL

/-- Failover: the active marshal is held in reset, and the standby takes over; without one the instance is fenced. -/
def failover (s : State) : State :=
  match s.activeM with
  | none => s
  | some a =>
    let s1 := setF { s with activeM := none, msh := { s.msh with copy := none, remap := Sparse.del s.msh.remap a } } (failBit a) 1
    let s2 := jnlLog (noteReset (setF s1 F.JNL_CKPT_CMD_BUSY 0) 12) 0x24 3 0
    if flagF s2 F.MSH_STAT_STBY_OK then
      declarePart (setF { s2 with msh := { s2.msh with taking := some (1 - a) } } F.MSH_STAT_STBY_OK 0) 5 0
    else fenceInst s2 [(5, 0)]

/-- The firmware runs: from roll-call on, and not after boot has failed (R619, R621). -/
def firmwareRuns (s : State) : Bool := decide (8 ≤ getF s F.MSH_BOOT_STAGE) && decide (getF s F.MSH_BOOT_STAGE ≤ 11)

/-- HEARTBEAT_TIMEOUT (R591). -/
def execHeartbeatTimeout (s : State) : Host.Outcome State Fault Refusal :=
  if s.activeM.isSome && firmwareRuns s && aonState s == 0 && decide (s.msh.hb + 1024 * getF s F.JNL_HB_HB_TMO ≤ now s)
  then .next (failover s) else .next s

/-- MARSHAL_FAILURE (R591): a hardware failure of the active marshal. -/
def execMarshalFailure (s : State) : Host.Outcome State Fault Refusal :=
  if aonState s = 0 then .next (failover s) else .next s

/-- The body of a checkpoint slot of a marshal, in its working SRAM (R592). -/
def slotBody (s : State) (m k len : Nat) : List Byte :=
  (List.range (1024 * len)).map (fun i => BitVec.ofNat 8 (Sparse.at s.msh.sram (m * 2 ^ 18 + 0x20000 + 0x10000 * k + i) 0))

/-- A complete slot whose CRC matches (R594). -/
def slotOk (s : State) (m k : Nat) : Option Slot :=
  match Sparse.find s.msh.slots (2 * m + k) with
  | some sl => if sl.complete = sl.gen ∧ sl.complete ≠ 0 ∧ sl.crc = crc32c (slotBody s m k sl.len) then some sl else none
  | none => none

/-- The checkpoint that a takeover loads (R594). -/
def pickSlot (s : State) (m : Nat) : Option Slot :=
  match slotOk s m 0, slotOk s m 1 with
  | some a, some b => some (if a.gen < b.gen then b else a)
  | some a, none => some a
  | none, b => b

/-- MARSHAL_TAKEOVER (R594, R597): the entries done after the checkpoint are applied from their results, the open one goes on,
which R598 makes the same as performing it again (log entry 18); then OPEN is set. -/
def execMarshalTakeover (s : State) : Host.Outcome State Fault Refusal :=
  match s.msh.taking with
  | none => .next s
  | some m =>
    let s1 := setF { s with activeM := some m, msh := { s.msh with taking := none, hb := now s } } F.MSH_STAT_ACTIVE m
    match pickSlot s1 m with
    | some sl =>
      let n := (s1.msh.done.filter (fun q => decide (sl.jseq < q))).length + (s1.jnl.filter (fun e => e.kind == 4)).length
      let s2 := incF s1 F.JNL_CNT_REPLAYED n
      if shdn s2 then .next s2
      else .next { setF s2 F.REG_CTL_OPEN 1 with rst := { s2.rst with pause := false } }
    | none => .next (fenceInst s1 [(5, 0)])

/-- START: a write of JNL_CKPT_CMD with START set (R592, R593, R615). -/
def startCopy (s : State) : State :=
  let src := getF s F.JNL_CKPT_CMD_SRC_KB
  let len := getF s F.JNL_CKPT_CMD_LEN_KB
  match s.activeM with
  | some a =>
    if s.msh.copy.isSome || !flagF s F.MSH_STAT_STBY_OK || decide (128 < src + len) || len == 0 then s
    else
      let m := 1 - a
      let gen (k : Nat) : Nat := match Sparse.find s.msh.slots (2 * m + k) with
        | some sl => if sl.complete = sl.gen then sl.gen else 0
        | none => 0
      let k := if gen 0 ≤ gen 1 ∧ gen 1 ≠ 0 then 0 else if gen 0 = 0 then 0 else 1
      let jseq := match s.msh.run with | some r => (r.seq + 2 ^ 32 - 1) % 2 ^ 32 | none => s.msh.lastSeq
      let zero (sl : Slot) : Slot := { sl with complete := 0 }
      let slots := match Sparse.find s.msh.slots (2 * m + k) with
        | some sl => Sparse.put s.msh.slots (2 * m + k) (zero sl)
        | none => s.msh.slots
      setF { s with msh := { s.msh with copy := some ⟨k, src, len, jseq⟩, slots := slots } } F.JNL_CKPT_CMD_BUSY 1
  | none => s

/-- CHECKPOINT_COMPLETE (R592). -/
def execCheckpointComplete (s : State) : Host.Outcome State Fault Refusal :=
  match s.msh.copy, s.activeM with
  | some c, some a =>
    let m := 1 - a
    let put (t : Sparse Nat) (i : Nat) : Sparse Nat :=
      Sparse.set t (m * 2 ^ 18 + 0x20000 + 0x10000 * c.slot + i) (Sparse.at s.msh.sram (a * 2 ^ 18 + 1024 * c.src + i) 0) 0
    let sram := (List.range (1024 * c.len)).foldl put s.msh.sram
    let g := (getF s F.JNL_CKPT_GEN + 1) % 2 ^ 32
    let s1 := { s with msh := { s.msh with sram := sram, copy := none } }
    let sl : Slot := ⟨g, c.jseq, c.len, crc32c (slotBody s1 m c.slot c.len), g⟩
    let s2 := { s1 with msh := { s1.msh with slots := Sparse.put s1.msh.slots (2 * m + c.slot) sl,
                                             done := s1.msh.done.filter (fun q => decide (c.jseq < q)) } }
    .next (setF (setF (setF s2 F.JNL_CKPT_GEN g) F.JNL_STAT_CKPT_SLOT c.slot) F.JNL_CKPT_CMD_BUSY 0)
  | _, _ => .next s

-- ## Parking (R599, R761)

/-- A task is stopped or goes on. -/
def setParked (b : Bool) (t : Task) : Task := { t with parked := b }

/-- Stop the tasks and the moves, close the combining entries, and stop release at stage 3. -/
def parkWork (s : State) : State :=
  let s1 := { s with parked := true, tasks := s.tasks.map (setParked true) }
  s1.comb.foldl closeComb s1

/-- Parked work resumes: tasks where they stopped, moves from the start of their current bibs (R518, R600). -/
def resumeWork (s : State) : State :=
  let s1 := { s with parked := false, tasks := s.tasks.map (setParked false) }
  let s2 := (s1.jnl.filter (fun (e : JEntry) => (e.kind == 2 || e.kind == 3) && e.state == 2)).foldl (fun t e => jnlWrite t e 1) s1
  (s2.moves.filter (fun (m : Move) => !m.ended)).foldl restartMove s2

-- ## The shutdown begins (R761, R764)

/-- A request that step 2 of R761 answers: accepted, not journalled and not past stage 3, or still unanswered elsewhere. -/
def shutCuts (s : State) (r : Request) : Bool :=
  r.stage == .remote || ((entryOf s r.id).isNone && (r.stage == .admitted || r.stage == .stage3 || r.stage == .waiting))

/-- A Doze that drains ends: its command is refused with cause STATE. -/
def endDrain (s : State) : State :=
  if pwrState s != 2 then s
  else
    let s1 := setF s F.CPM_PWR_STAT_STATE s.clk.dozePrior
    match s1.msh.run with
    | some r => if cmdCode r.words = 0x22 then refuseCmd s1 r 3 else s1
    | none => s1

/-- A shutdown begins; `src`: 0 PWR_OFF, 1 PFAIL_N. -/
def startShutdown (s : State) (src : Nat) : State :=
  let s1 := setF (setF (endDrain s) F.REG_CTL_OPEN 0) F.GLB_SHDN_STAT_SHDN_ACT 1
  let s2 := setF (setF s1 F.GLB_SHDN_STAT_SOURCE src) F.GLB_SHDN_STAT_HANDED_OFF 0
  let s3 := parkWork (abandonAll 0x0A shutCuts { s2 with rst := { s2.rst with mark := none, shutDue := false } })
  settleUnits s3

-- ## Field resets (R4, R760)

/-- The field whose bits lie at a key of `regs`. -/
def fldAt (key : Nat) : Option Fld := (fieldsAt (key / 32 * 4)).find? (fun f => f.key == key)

/-- Put every field that the test rejects back to its reset value. -/
def keepFields (s : State) (keep : Fld → Bool) : State :=
  { s with regs := Sparse.keep s.regs (fun k => match fldAt k with | some f => keep f | none => true) }

/-- The always-on fields (R563, R704, GLB_RST_CAUSE). -/
def alwaysOn (f : Fld) : Bool :=
  (decide (0x1084 ≤ f.off) && decide (f.off ≤ 0x1094)) || f.off == 0x0010 || f == F.INT_STAT_LOG_LOST || f == F.INT_LOG_CNT_LOST_CNT

/-- The relay, baton and tape registers, which R371 and R463 keep. -/
def syncBlock (f : Fld) : Bool :=
  (decide (0x24000 ≤ f.off) && decide (f.off < 0x28000)) || (decide (0x40000 ≤ f.off) && decide (f.off < 0x61000))

/-- What a warm reset keeps: RWS, OTP and hardware state, the always-on fields, and the synchronisation objects. -/
def warmKeeps (f : Fld) : Bool :=
  alwaysOn f || syncBlock f || (match f.acc with | .ro => true | .rws => true | .otp => true | _ => false)

-- ## Warm reset (R599 to R601, R758)

/-- WARM_RESET (R599 steps 1 and 2): a due warm reset begins. -/
def execWarmReset (s : State) : Host.Outcome State Fault Refusal :=
  if s.rst.due < 8 || decide (10 < s.rst.due) || aonState s != 0 then .next s
  else
    let s1 := noteReset s s.rst.due
    .next (parkWork { s1 with rst := { s1.rst with due := 0, warm := s.rst.due, pause := true },
                              clk := { s1.clk with stopped := false, safeDead := false } })

/-- The logic is reset (R599 step 5, R601, R757, R758, R760). -/
def warmLogic (s : State) : State :=
  let s1 := keepFields s warmKeeps
  let s2 := setF (setF (setF s1 F.JNL_STAT_FENCED 0) F.JNL_STAT_RECOVERING 0) F.JNL_STAT_QUEUED 0
  let s3 := setF (setF s2 F.JNL_FAULT_CLASS 0) F.JNL_FAULT_INDEX 0
  let m := match s3.activeM with
    | some a => some a
    | none => s3.msh.taking
  let s4 := { s3 with partQ := [], latch := [], bibStage := [], pmLo := [], activeM := m,
                      msh := { s3.msh with remap := [], taking := none, copy := none, hb := now s3 },
                      wrap := ⟨0, 0, none⟩, dbgRes := none, lastId := [], conc := ⟨[], [], [], [], []⟩, mlat := [], mcnt := [] }
  (List.range 192).foldl (fun t id => if (chanOf t id).linkUp then channelDown t (id / 3) (id % 3) else t) (faultEnd s4 0)

/-- WARM_RESUME (R599 steps 3 to 5, R600, R767): the drain has ended. -/
def execWarmResume (s : State) : Host.Outcome State Fault Refusal :=
  if s.rst.warm = 0 || !drained s then .next s
  else
    let c := s.rst.warm
    let s1 := warmLogic (writeMark (parkEntries s) 3 0 0)
    let s2 := resumeWork { s1 with rst := { s1.rst with warm := 0 } }
    let s3 := logEvt (jnlLog s2 0x2A 0 0) 0x3D 0 15 0xFF 0 0 0 c
    let s4 := trcPush s3 (trcRecord s3 4 1 c (now s3) 0)
    .next (if s4.rst.shutDue then startShutdown s4 1 else s4)

end Sys2Proof.Machine
end

