-- ==== Sys2Proof/Machine/Power.lean ====
section
/-! DEFINITION. Power states and wakes, clock faults and SAFE, temperature, supply, the power estimator and the monitor chain
(R674 to R752). -/

namespace Sys2Proof.Machine

-- ## The power commands (R703, R744, R764)

/-- A power command: only from the supervisor's mailbox, and refused in a shutdown. -/
def powerCmd (f : State → CmdRun → State) (s : State) (r : CmdRun) : State :=
  if r.src != .supervisor then refuseCmd s r 1
  else if shdn s then refuseCmd s r 3
  else f s r

/-- PWR_IDLE (R690). -/
def doPwrIdle (s : State) (r : CmdRun) : State :=
  if pwrState s = 0 then finishCmd (setF s F.CPM_PWR_STAT_STATE 1) r 0 0 0 else refuseCmd s r 3

/-- PWR_IDLE (R690, R703). -/
def execPwrIdle (c : CmdSrc) (s : State) : Host.Outcome State Fault Refusal :=
  .next (runCmd c (fun k => k == 0x20) (powerCmd doPwrIdle) s)

/-- PWR_ACTIVE (R689). -/
def doPwrActive (s : State) (r : CmdRun) : State :=
  if pwrState s = 1 then finishCmd (setF s F.CPM_PWR_STAT_STATE 0) r 0 0 0 else refuseCmd s r 3

/-- PWR_ACTIVE (R689, R703). -/
def execPwrActive (c : CmdSrc) (s : State) : Host.Outcome State Fault Refusal :=
  .next (runCmd c (fun k => k == 0x21) (powerCmd doPwrActive) s)

/-- PWR_STEP_SET: a switch with no calendar effect (R703, R720). -/
def doPwrStepSet (s : State) (r : CmdRun) : State :=
  let st := cmdArg r.words 0
  if 7 < st then refuseCmd s r 2
  else if flagF s F.REG_CTL_OPEN || s.cad.ann.isSome then refuseCmd s r 3
  else
    let t := targetStep s st
    let s1 := match s.clk.sw with
      | some w => if w.cause = 1 then { s with clk := { s.clk with sw := some { w with step := min w.step t } } }
                  else retuneTo (stepDue s t 2 (now s) false) t
      | none => if t = curStep s then s else retuneTo (stepDue s t 2 (now s) false) t
    finishCmd s1 r 0 0 0

/-- PWR_STEP_SET (R703). -/
def execPwrStepSet (c : CmdSrc) (s : State) : Host.Outcome State Fault Refusal :=
  .next (runCmd c (fun k => k == 0x24) (powerCmd doPwrStepSet) s)

/-- PWR_CAP (R737, R744). -/
def doPwrCap (s : State) (r : CmdRun) : State :=
  let c := cmdArg r.words 0 % 512
  if c = 0 || 256 < c then refuseCmd s r 2
  else if c < ((List.range 16).map (fun p => getF s (F.PART_QOS_SHARE p))).sum then refuseCmd s r 5
  else finishCmd (setF s F.CPM_PWR_MODE_CAP c) r 0 0 0

/-- PWR_CAP (R737). -/
def execPwrCap (c : CmdSrc) (s : State) : Host.Outcome State Fault Refusal :=
  .next (runCmd c (fun k => k == 0x28) (powerCmd doPwrCap) s)

/-- PWR_FIXED (R740): Boost then ends under R742. -/
def doPwrFixed (s : State) (r : CmdRun) : State :=
  finishCmd (setF s F.CPM_PWR_MODE_FIXED (cmdArg r.words 0)) r 0 0 0

/-- PWR_FIXED (R740, R744). -/
def execPwrFixed (c : CmdSrc) (s : State) : Host.Outcome State Fault Refusal :=
  .next (runCmd c (fun k => k == 0x29) (powerCmd doPwrFixed) s)

/-- PWR_BOOST (R744). -/
def doPwrBoost (s : State) (r : CmdRun) : State :=
  if flagF s F.CPM_PWR_MODE_FIXED && bitAt (cmdArg r.words 0) 0 then refuseCmd s r 3
  else finishCmd (setF s F.CPM_PWR_MODE_BOOST_EN (cmdArg r.words 0)) r 0 0 0

/-- PWR_BOOST (R741, R744). -/
def execPwrBoost (c : CmdSrc) (s : State) : Host.Outcome State Fault Refusal :=
  .next (runCmd c (fun k => k == 0x2A) (powerCmd doPwrBoost) s)

-- ## Doze (R691)

/-- The reason that refuses PWR_DOZE at once. -/
def dozeReason (s : State) : Option Nat :=
  if (List.range 8).any (fun i => flagF s (F.CPM_TEMP_VALID i) && decide (298 < getF s (F.CPM_TEMP_TEMP i))) then some 1
  else if s.cad.ann.isSome then some 2
  else if flagF s F.CPM_CLK_STAT_SAFE || fenced s then some 3
  else none

/-- PWR_DOZE steps 1 and 2. -/
def doPwrDoze (s : State) (r : CmdRun) : State :=
  match dozeReason s with
  | some k => refuseCmd (setF s F.CPM_PWR_STAT_DOZE_REJ k) r 3
  | none =>
    let a := cmdArg r.words 0
    let s1 := setF (setF s F.CPM_AON_WAKE_EN_TMR_EN a) F.CPM_AON_WAKE_EN_LANE_EN (a / 2)
    let s2 := setF (setF s1 F.CPM_AON_WAKE_EN_THERM_EN (a / 4)) F.CPM_AON_WAKE_EN_DEBUG_EN (a / 8)
    let s3 := setF (setF s2 F.CPM_AON_TMR_PERIODS (cmdArg r.words 1)) F.REG_CTL_OPEN 0
    let by' := now s + 65536 * getF s F.CPM_PWR_CTL_DOZE_TMO
    let s4 := { setF s3 F.CPM_PWR_STAT_STATE 2 with clk := { s3.clk with dozePrior := pwrState s, dozeBy := by' } }
    keepRun (s4.comb.foldl closeComb s4) r []

/-- PWR_DOZE (R691, R703). -/
def execPwrDoze (c : CmdSrc) (s : State) : Host.Outcome State Fault Refusal :=
  .next (runCmd c (fun k => k == 0x22) (powerCmd doPwrDoze) s)

/-- A charge stands at or after bucket `b` of a calendar. -/
def chargedFrom (cal : Sparse Nat) (b : Nat) : Bool := cal.any (fun p => decide (b ≤ p.1 / 512) && p.2 != 0)

/-- Step 3 of R691: the drain has ended; `own` is the command's own entry. -/
def dozeDrained (s : State) (own : Nat) : Bool :=
  !chargedFrom s.fine (fineOf (now s)) && !chargedFrom s.coarse (coarseOf (now s)) && s.tasks == [] && s.moves == []
  && s.comb == [] && s.jnl.all (fun e => e.seq == own || decide (3 ≤ e.state))

/-- Every lane channel and every mesh link goes down. -/
def linksDown (s : State) : State :=
  let s1 := (List.range 192).foldl (fun t id => if (chanOf t id).linkUp then channelDown t (id / 3) (id % 3) else t) s
  setF s1 F.MESH_STAT_UP 0

/-- The PLLs and the array clock stop. -/
def clocksOff (s : State) : State :=
  setF (setF (setF s F.CPM_CLK_STAT_LOCK_A 0) F.CPM_CLK_STAT_LOCK_B 0) F.CPM_CLK_STAT_ON_PLL 0

/-- Steps 5 to 7 of R691 (R48, R61, R780). From here to the wake the cadence unit reads UNLOCKED, and an announcement that
was accepted during the drain is dropped without its step change (log entry 101). -/
def enterDoze (s : State) : State :=
  let s1 := trcPush s (trcRecord s 2 s.clk.dozePrior (curStep s) (now s) 0)
  let s2 := (List.range 16).foldl (fun t _ => trcDrain t) s1
  let s3 := setF (setF s2 F.CPM_SLEEP_ENTRY_LO_VAL (now s)) F.CPM_SLEEP_ENTRY_HI_VAL (now s / 2 ^ 32)
  let sI := if s.cad.st = .locked then irqIf s3 F.CPM_CAD_CTL_IRQ_EN 0 else s3
  let s4 := setF (setF (clocksOff (linksDown sI)) F.CPM_PWR_STAT_STATE 0) F.CPM_AON_STAT_AON_STATE 1
  { s4 with cad := { s4.cad with st := .unlocked, loaded := none, slow := 0, ann := none, links := [], refOk := false },
            clk := { s4.clk with railsOff := false, wake := none, sw := none, wakeSeq := none } }

/-- DOZE_ENTRY (R691): once the drain has ended the OK result is written; once it has left, the instance enters Doze. -/
def execDozeEntry (s : State) : Host.Outcome State Fault Refusal :=
  if pwrState s != 2 || aonState s != 0 || shdn s || s.rst.warm != 0 then .next s
  else
    let s1 := match s.msh.run with
      | some r => if cmdCode r.words = 0x22 && dozeDrained s r.seq then finishCmd s r 0 0 0 else s
      | none => s
    if s1.msh.run.isNone && s1.jnl == [] then .next (enterDoze s1) else .next s1

/-- The Doze command is refused while it drains; OPEN is set again. -/
def dozeBack (s : State) (r : CmdRun) : State :=
  let s1 := setF (setF s F.REG_CTL_OPEN 1) F.CPM_PWR_STAT_STATE s.clk.dozePrior
  refuseCmd (setF s1 F.CPM_PWR_STAT_DOZE_REJ 4) r 3

/-- DOZE_DRAIN_TIMEOUT (R691 step 3). -/
def execDozeDrainTimeout (s : State) : Host.Outcome State Fault Refusal :=
  match s.msh.run with
  | some r =>
    if cmdCode r.words = 0x22 && pwrState s == 2 && decide (s.clk.dozeBy < now s) && !dozeDrained s r.seq then .next (dozeBack s r)
    else .next s
  | none => .next s

-- ## Wakes (R695 to R701)

/-- A write of WAKE by the supervisor: the source of a recorded request, else SUPERVISOR (log entry 20). -/
def cpmAonWake (m : Master) (w : Nat) (s : State) : State :=
  if m != .supervisor || aonState s != 1 || !bitAt w 0 || decide (7 < bits w 1 4) then s
  else
    let s1 := setF s F.CPM_AON_STAT_PWR_REQ 0
    match s.clk.wake with
    | some q => if flagF s F.CPM_AON_STAT_PWR_REQ then wakeTo s1 { q with step := bits w 1 4 } else wakeTo s1 ⟨1, 0, 0, bits w 1 4⟩
    | none => wakeTo s1 ⟨1, 0, 0, bits w 1 4⟩

/-- A source of wake requests is enabled. -/
def wakeEnabled (s : State) (source : Nat) : Bool :=
  match source with
  | 2 => flagF s F.CPM_AON_WAKE_EN_TMR_EN && getF s F.CPM_AON_TMR_PERIODS != 0
  | 3 => flagF s F.CPM_AON_WAKE_EN_LANE_EN
  | 4 => flagF s F.CPM_AON_WAKE_EN_THERM_EN
  | 5 => flagF s F.CPM_AON_WAKE_EN_DEBUG_EN
  | _ => false

/-- A wake request: PWR_REQ, the source on record, and the line to the supervisor (R697). -/
def wakeRequest (s : State) (source lane : Nat) : State :=
  if aonState s != 1 || !wakeEnabled s source then s
  else
    let l := if source = 3 then lane % 64 else 0
    emit { setF s F.CPM_AON_STAT_PWR_REQ 1 with clk := { s.clk with wake := some ⟨source, l, 0, 0⟩ } } (.wakeLine source l)

/-- WAKE_REQUEST (R696, R697). -/
def execWakeRequest (source lane : Nat) (s : State) : Host.Outcome State Fault Refusal := .next (wakeRequest s source lane)

/-- DOZE_TIMER_EXPIRY (R697). -/
def execDozeTimerExpiry (s : State) : Host.Outcome State Fault Refusal := .next (wakeRequest s 2 0)

/-- LANE_TRAINING_REQUEST (R697). -/
def execLaneTrainingRequest (lane : Nat) (s : State) : Host.Outcome State Fault Refusal := .next (wakeRequest s 3 lane)

/-- WAKE_COMPLETE (R698, R778): the PLLs are locked and so is the cadence unit. -/
def execWakeComplete (s : State) : Host.Outcome State Fault Refusal :=
  match s.clk.wake with
  | some w =>
    if aonState s != 2 || !s.clk.rails || s.cad.st != .locked then .next s
    else
      let s1 := setF (setF (setF s F.CPM_CLK_STAT_LOCK_A 1) F.CPM_CLK_STAT_LOCK_B 1) F.CPM_CLK_STAT_ON_PLL 1
      let s2 := { setF s1 F.CPM_AON_STAT_AON_STATE 0 with
        clk := { s1.clk with wake := none, tokenAt := now s }, msh := { s1.msh with hb := now s },
        buddy := { s1.buddy with kaLast := s1.buddy.kaLast.map (fun _ => now s) }, fineSeen := fineOf (now s), coarseSeen := coarseOf (now s),
        est := { s1.est with taint := true, win := now s / 1000, cyc0 := s1.cad.cycles } }
      let n := getF s2 F.CPM_SLEEP_TICKS_LO_VAL + 2 ^ 32 * getF s2 F.CPM_SLEEP_TICKS_HI_VAL
      let t0 := getF s2 F.CPM_SLEEP_ENTRY_LO_VAL + 2 ^ 32 * getF s2 F.CPM_SLEEP_ENTRY_HI_VAL
      let a := fieldsWord [(0, w.lane), (6, w.link), (8, b2n s.clk.railsOff), (9, w.step)]
      .next (setF (trcPush s2 (trcRecord s2 3 w.src a (t0 + n) n)) F.REG_CTL_OPEN 1)
  | none => .next s

/-- RETENTION_BROWNOUT (R695). -/
def execRetentionBrownout (s : State) : Host.Outcome State Fault Refusal :=
  if aonState s = 1 then .next (incF (setF s F.CPM_AON_STAT_RET_LOST 1) F.CPM_AON_CNT_BROWNOUTS 1) else .next s

-- ## Clock faults (R678 to R681)

/-- The clock interrupt. -/
def clkIrq (s : State) : State := irqIf s F.CPM_CLK_CTL_CLK_IRQ_EN 10

/-- The monitors run: not in Doze and not in Off. -/
def monitorsRun (s : State) : Bool := aonState s != 1 && aonState s != 3

/-- The timing-lane reference may be used. -/
def altUsable (s : State) : Bool := flagF s F.CPM_CLK_CTL_ALT_REF_EN && s.cad.st == .locked

/-- The flag of a clock fault. -/
def clockFlag : ClockFaultKind → Fld
  | .refFail => F.CPM_CLK_STAT_REF_FAIL
  | .pllUnder => F.CPM_CLK_STAT_PLL_UNDER
  | .pllOver => F.CPM_CLK_STAT_PLL_OVER
  | .pllUnlock => F.CPM_CLK_STAT_PLL_UNLOCK

/-- A reference is usable after a fault of a kind (R680). -/
def refAfter (s : State) (k : ClockFaultKind) : Bool := if k = .refFail then altUsable s else flagF s F.CPM_CLK_STAT_REF_READY

/-- SAFE is entered (R679); within 65,536 ticks of leaving it, the instance is fenced (R681). -/
def enterSafe (s : State) (k : ClockFaultKind) : State :=
  let s1 := setF (setF (setF s F.CPM_CLK_STAT_SAFE 1) F.CPM_CLK_STAT_ON_PLL 0) F.CPM_CLK_STAT_UNCLEAN (b2n (k == .pllOver))
  let s2 := setF s1 F.CPM_CLK_STAT_ALT_REF (b2n (k == .refFail && altUsable s))
  let s3 := logEvt (clkIrq { faultBegin s2 1 with clk := { s2.clk with safeAt := now s, refUsable := refAfter s k },
                                                  est := { s2.est with taint := true } }) 0x30 3 15 0xFF 0 0 0 0
  if s.clk.safeExit != 0 && decide (now s < s.clk.safeExit + 65536) then fenceInst s3 [] else s3

/-- CLOCK_FAULT (R678, R679, R681); a fault in SAFE is recorded. -/
def execClockFault (k : ClockFaultKind) (s : State) : Host.Outcome State Fault Refusal :=
  if !monitorsRun s then .next s
  else
    let s1 := setF s (clockFlag k) 1
    if flagF s F.CPM_CLK_STAT_SAFE then
      .next { s1 with clk := { s1.clk with refUsable := if k = .refFail then altUsable s else s1.clk.refUsable } }
    else .next (enterSafe s1 k)

/-- RC_FAIL (R678). -/
def execRcFail (s : State) : Host.Outcome State Fault Refusal :=
  if monitorsRun s then .next (clkIrq (setF s F.CPM_CLK_STAT_RC_FAIL 1)) else .next s

/-- REFERENCE_USABLE (R680): the timing-lane reference while REFCLK has failed and the cadence unit is LOCKED, else
REFCLK (log entry 21). -/
def execReferenceUsable (s : State) : Host.Outcome State Fault Refusal :=
  if !flagF s F.CPM_CLK_STAT_SAFE || s.clk.safeDead then .next s
  else
    let alt := flagF s F.CPM_CLK_STAT_REF_FAIL && altUsable s
    .next { setF s F.CPM_CLK_STAT_ALT_REF (b2n alt) with clk := { s.clk with refUsable := true } }

/-- SAFE_EXIT (R680): the clock restarts, after a forced stop with a warm reset. -/
def execSafeExit (s : State) : Host.Outcome State Fault Refusal :=
  if !flagF s F.CPM_CLK_STAT_SAFE || !s.clk.refUsable || s.clk.safeDead then .next s
  else
    let s1 := faultEnd (setF (setF s F.CPM_CLK_STAT_SAFE 0) F.CPM_CLK_STAT_ON_PLL 1) 1
    let s2 := { s1 with clk := { s1.clk with safeExit := now s + 1 }, est := { s1.est with win := now s / 1000, cyc0 := s1.cad.cycles } }
    .next (if flagF s F.CPM_CLK_STAT_UNCLEAN then triggerWarm s2 10 else s2)

/-- The count is held: REFCLK is not present, and the unit runs on no source: UNLOCKED, or ACQUIRING before the first valid
count frame (the lock states of the cadence chapter). In LOCKED and HOLDOVER, and once a frame has loaded the count, it goes
on (R679). -/
def countHeld (s : State) : Bool :=
  flagF s F.CPM_CLK_STAT_SAFE && flagF s F.CPM_CLK_STAT_REF_FAIL && !s.clk.refUsable
  && (s.cad.st == .unlocked || (s.cad.st == .acquiring && s.cad.loaded == none))

/-- SAFE_TIMEOUT (R681); while the count is held the 10 ms are those of the RC oscillator. -/
def execSafeTimeout (s : State) : Host.Outcome State Fault Refusal :=
  if flagF s F.CPM_CLK_STAT_SAFE && !s.clk.refUsable && !s.clk.safeDead
     && (countHeld s || decide (s.clk.safeAt + 10000000 ≤ now s)) then
    .next { fenceInst s [] with clk := { s.clk with safeDead := true } }
  else .next s

/-- FM_DONE (R677): a channel-1 measurement that runs has completed. -/
def execFmDone (count : Nat) (s : State) : Host.Outcome State Fault Refusal :=
  if !s.clk.fmRun || !monitorsRun s then .next s
  else .next (setF (setF { s with clk := { s.clk with fmRun := false } } F.CPM_FM_CNT_COUNT count) F.CPM_FM_CTL_DONE 1)

-- ## Temperature (R710, R711, R718 to R721)

/-- A sensor's reading (R710). -/
def trimmed (s : State) (i : Nat) (raw : Int) : Int := raw + signedOf 5 (otpBits s (190 + 5 * i) 5)

/-- A reading is valid (R711). -/
def tempOk (t : Int) : Bool := decide (48 ≤ t) && decide (t ≤ 428)

/-- One sensor's sample: TEMP outside its field is not stated, and is free. -/
def sampleOne (raw : List Int) (s : State) (i : Nat) : State :=
  let t := trimmed s i (raw.getD i 0)
  let was := flagF s (F.CPM_TEMP_VALID i)
  let f := if 0 ≤ t ∧ t < 1024 then (t.toNat, s) else takeFree s 1024
  let s1 := setF (setF f.2 (F.CPM_TEMP_TEMP i) f.1) (F.CPM_TEMP_VALID i) (b2n (tempOk t))
  if tempOk t then s1
  else
    let s2 := setF s1 F.CPM_THERM_STAT_SENS_BAD 1
    if was then logEvt s2 0x37 1 15 0xFF 0 0 0 0 else s2

/-- TJ_MAX and HOT: which of several hottest sensors HOT names is free. -/
def noteTj (s : State) : State :=
  let ok := (List.range 8).filter (fun i => flagF s (F.CPM_TEMP_VALID i))
  if ok.length < 2 then
    let f := takeFree s 8
    setF (setF f.2 F.CPM_THERM_STAT_TJ_MAX 358) F.CPM_THERM_STAT_HOT f.1
  else
    let m := (ok.map (fun i => getF s (F.CPM_TEMP_TEMP i))).foldl max 0
    match chooseFrom s (ok.filter (fun i => getF s (F.CPM_TEMP_TEMP i) == m)) with
    | (some h, s1) => setF (setF s1 F.CPM_THERM_STAT_TJ_MAX m) F.CPM_THERM_STAT_HOT h
    | (none, s1) => setF s1 F.CPM_THERM_STAT_TJ_MAX m

/-- The thermal interrupt. -/
def thermIrq (s : State) : State := irqIf s F.CPM_THERM_CTL_THERM_IRQ_EN 11

/-- The warning and the throttle request, logged as they are set. -/
def thermLevels (s : State) (tj : Nat) : State :=
  let s1 :=
    if 328 ≤ tj && !flagF s F.CPM_THERM_STAT_TWARN then logEvt (thermIrq (setF s F.CPM_THERM_STAT_TWARN 1)) 0x31 0 15 0xFF 0 0 0 0
    else s
  if 338 ≤ tj && !flagF s1 F.CPM_THERM_STAT_THROT_REQ then
    logEvt (thermIrq (setF s1 F.CPM_THERM_STAT_THROT_REQ 1)) 0x32 1 15 0xFF 0 0 0 0
  else if tj < 332 then setF s1 F.CPM_THERM_STAT_THROT_REQ 0
  else s1

/-- The trip (R719, R722). At or below TRIP_STEP the clock has nowhere lower to go, so nothing switches (log entry 22). -/
def thermTrip (s : State) : State :=
  let t := getF s F.CPM_THERM_CTL_TRIP_STEP
  let cur := curStep s
  let s1 := setF (setF s F.CPM_THERM_STAT_TRIPPED 1) F.CPM_PWR_MODE_BOOST_ACT 0
  let s0 := logEvt { s1 with est := { s1.est with taint := true } } 0x33 3 15 0xFF 0 0 0 0
  if cur ≤ t then s0
  else
    let s2 := { s0 with trips := s0.trips ++ [now s] }
    let tgt := match s2.clk.sw with
      | some w => min w.step t
      | none => t
    let s3 := { stepDue s2 tgt 1 (now s) false with clk := { (stepDue s2 tgt 1 (now s) false).clk with div := ceilDiv (mhz cur) (mhz t) } }
    retuneTo s3 tgt

/-- TEMP_SAMPLE (R710, R711, R718 to R721). -/
def execTempSample (raw : List Int) (s : State) : Host.Outcome State Fault Refusal :=
  if !monitorsRun s then .next s
  else
    let s1 := noteTj ((List.range 8).foldl (sampleOne raw) s)
    let tj := getF s1 F.CPM_THERM_STAT_TJ_MAX
    let s2 := thermLevels s1 tj
    let s3 := if 358 ≤ tj && !flagF s2 F.CPM_THERM_STAT_TRIPPED then thermTrip s2 else s2
    if 368 ≤ tj && flagF s3 F.CPM_THERM_STAT_TRIPPED && decide (curStep s3 ≤ getF s3 F.CPM_THERM_CTL_TRIP_STEP) && !s3.clk.stopped then
      let s4 := fenceInst (logEvt s3 0x3A 3 15 0xFF 0 0 0 0) []
      .next { s4 with clk := { s4.clk with stopped := true } }
    else .next s3

/-- TRIP_SWITCH (R719). -/
def execTripSwitch (s : State) : Host.Outcome State Fault Refusal :=
  match s.clk.sw with
  | some w => if w.cause = 1 && arrayRuns s then .next (doSwitch s w.step 1) else .next s
  | none => .next s

/-- A write of 1 to TRIPPED (R720). -/
def trippedClear (s : State) : State :=
  if flagF s F.CPM_THERM_STAT_TRIPPED && decide (getF s F.CPM_THERM_STAT_TJ_MAX < 328) then
    logEvt (setF s F.CPM_THERM_STAT_TRIPPED 0) 0x34 0 15 0xFF 0 0 0 0
  else s

-- ## Supply (R714 to R716)

/-- SUPPLY_BELOW_WARN (R714): a fall within the 2,000 ticks of a pause goes on with that pause. -/
def execSupplyBelowWarn (rail : Nat) (s : State) : Host.Outcome State Fault Refusal :=
  if aonState s != 0 || !s.clk.powerOk || flagF s F.CPM_SUP_BELOW_WARN then .next s
  else
    let start := if flagF s F.REG_STAT_P_DIP then s.clk.dipFrom else now s
    let s1 := setF (setF s F.CPM_SUP_BELOW_WARN 1) F.CPM_SUP_DIP 1
    let s2 := setF (setF s1 F.CPM_SUP_RAIL (b2n (rail != 0))) F.REG_STAT_P_DIP 1
    let s3 := logEvt { s2 with clk := { s2.clk with dipFrom := start, supReturn := none }, est := { s2.est with taint := true } }
      0x35 1 15 0xFF 0 0 0 0
    .next (irqIf s3 F.CPM_SUP_SUP_IRQ_EN 12)

/-- SUPPLY_RETURN (R714). -/
def execSupplyReturn (s : State) : Host.Outcome State Fault Refusal :=
  if flagF s F.CPM_SUP_BELOW_WARN then
    .next { setF s F.CPM_SUP_BELOW_WARN 0 with clk := { s.clk with supReturn := some (now s) } }
  else .next s

/-- SUPPLY_PAUSE_END (R256, R610, R714). -/
def execSupplyPauseEnd (s : State) : Host.Outcome State Fault Refusal :=
  match s.clk.supReturn with
  | some t =>
    if flagF s F.REG_STAT_P_DIP && decide (t + 2000 ≤ now s) && aonState s == 0 then
      let s1 := setF { s with clk := { s.clk with supReturn := none } } F.REG_STAT_P_DIP 0
      let s2 := jnlLog (logEvt s1 0x36 0 15 0xFF 0 0 0 0) 0x28 0 0
      .next (incF (writeMark s2 1 s.clk.dipFrom (now s)) F.JNL_DIP_DIP_CNT 1)
    else .next s
  | none => .next s

/-- VMON_REFRESH (R712). -/
def execVmonRefresh (mv : List Nat) (s : State) : Host.Outcome State Fault Refusal :=
  if monitorsRun s then .next ((List.range 4).foldl (fun t m => setF t (F.CPM_VMON_MV m) (mv.getD m 0)) s) else .next s

/-- PMON_REFRESH (R713). -/
def execPmonRefresh (edges : List Nat) (s : State) : Host.Outcome State Fault Refusal :=
  if monitorsRun s then .next ((List.range 8).foldl (fun t p => setF t (F.CPM_PMON_COUNT p) (edges.getD p 0)) s) else .next s

-- ## The estimator (R729 to R735)

/-- The quotient of a division whose rounding the spec does not state: down or up, free (log entry 23). -/
def divVal (s : State) (n d : Nat) : Nat := if n % d = 0 then n / d else n / d + (takeFree s 2).1

/-- The state after it. -/
def divSt (s : State) (n d : Nat) : State := if n % d = 0 then s else (takeFree s 2).2

/-- The events of term `c` for a partition and class. -/
def eventsOf (s : State) (c part cls : Nat) : Nat := Sparse.at s.energy ((c * 16 + part) * 8 + cls) 0

/-- The term 0 to 5 energy of a partition and class, in 0.1 pJ. -/
def partEnergy (s : State) (terms : List Nat) (part cls : Nat) : Nat :=
  (terms.map (fun c => getF s (F.CPM_EST_COEF_COEF c) * eventsOf s c part cls)).sum

/-- The partitions and classes, as 8 * partition + class. -/
def parties : List Nat := List.range 128

/-- The sum of terms over every partition and class. -/
def termSum (s : State) (terms : List Nat) : Nat := (parties.map (fun k => partEnergy s terms (k / 8) (k % 8))).sum

/-- The numerator of an energy in 0.1 pJ over 2^32 * v7^2: `dyn` scaled to the step's voltage plus `half` halves of term 7. -/
def scaledEnergy (s : State) (dyn half : Nat) : Nat :=
  let v := tableMv s (min 7 (curStep s))
  let v1 := if curStep s = 8 then tableMv s 8 else v
  let v7 := tableMv s 7
  2 ^ 32 * (dyn * v1 * v1) + half * 5000 * getF s (F.CPM_EST_COEF_COEF 7) * Config.leakPower (getF s F.CPM_THERM_STAT_TJ_MAX) * v7 * v7

/-- The denominator. -/
def scaleDen (s : State) : Nat := 2 ^ 32 * tableMv s 7 * tableMv s 7

/-- Add energy to a counter of 48 bits with its remainder (R734). -/
def addEnergy (s : State) (lo hi : Fld) (key x : Nat) : State :=
  let t := Sparse.at s.est.rem key 0 + x
  let c := (getF s lo + 2 ^ 32 * getF s hi + t / 10000000) % 2 ^ 48
  let s1 := setF (setF s lo (c % 2 ^ 32)) hi (c / 2 ^ 32)
  { s1 with est := { s1.est with rem := Sparse.set s1.est.rem key (t % 10000000) 0 } }

/-- Add the share of one partition and class. -/
def addShare (s : State) (k x : Nat) : State :=
  let p := k / 8
  let c := k % 8
  if x = 0 then s
  else addEnergy (addEnergy s (F.CPM_ECLASS_LO_E_LO c) (F.CPM_ECLASS_HI_E_HI c) (1 + c) x) (F.PART_ENERGY_LO_E_LO p) (F.PART_ENERGY_HI_E_HI p) (16 + p) x

/-- Share an estimate in proportion to the parties' energy: the parts sum to the whole, and which party the odd 0.1 pJ of a
rounding goes to is free. -/
def shareOut (s : State) (e : Nat) : State :=
  let t := termSum s [0, 1, 2, 3, 4, 5]
  let s0 := addEnergy s F.CPM_ENERGY_LO_E_LO F.CPM_ENERGY_HI_E_HI 0 e
  if t = 0 then addShare s0 127 e
  else
    let f := takeFree s0 128
    (parties.foldl (fun (acc : Nat × State) i =>
      let k := (i + f.1) % 128
      let c1 := acc.1 + partEnergy s [0, 1, 2, 3, 4, 5] (k / 8) (k % 8)
      (c1, addShare acc.2 k (e * c1 / t - e * acc.1 / t))) (0, f.2)).2

/-- The ratio of the measured energy to the estimate, times 2^14 (R731); a free value where the estimate is 0. -/
def calRatio (s : State) (measured : Nat) : Nat :=
  let ea := scaledEnergy s (termSum s [0, 1, 2]) 1
  if ea = 0 then (takeFree s (2 ^ 15 + 1)).1 else divVal s (2 ^ 14 * (measured * scaleDen s)) ea

/-- The state after it. -/
def ratioSt (s : State) (measured : Nat) : State :=
  let ea := scaledEnergy s (termSum s [0, 1, 2]) 1
  if ea = 0 then (takeFree s (2 ^ 15 + 1)).2 else divSt s (2 ^ 14 * (measured * scaleDen s)) ea

/-- The rounding of a correction of `d` 64ths: free where it is not whole (log entry 23). -/
def calRound (s : State) (d : Int) : Nat × State := if d % 64 = 0 then (0, s) else takeFree s 2

/-- Bin `b` moves by a 64th of the distance to the ratio `r` (R731). -/
def calStep (s : State) (b r : Nat) : State :=
  let k := getF s (F.CPM_EST_K_K b)
  let d : Int := (max 8192 (min 32768 r) : Nat) - (k : Int)
  let g := calRound s d
  setF g.2 (F.CPM_EST_K_K b) ((k : Int) + d / 64 + g.1).toNat

/-- Calibration of bin `b` with the measured energy (R731). -/
def calibrate (s : State) (b measured : Nat) : State :=
  let s1 := calStep (ratioSt s measured) b (calRatio s measured)
  let s2 := incF s1 (F.CPM_EST_K_WINDOWS b) 1
  if getF s1 (F.CPM_EST_K_WINDOWS b) = 1023 then logEvt (orF s2 F.CPM_EST_STAT_CAL b) 0x39 0 15 0xFF 0 0 0 0 else s2

/-- P_AVG of the windows kept, in units of 10 mW; a value beyond its field is free. -/
def noteAverage (s : State) : State :=
  let h := s.est.hist
  let n := 100000 * max 1 h.length
  let a := divVal s h.sum n
  let s0 := divSt s h.sum n
  let p := if a < 4096 then a else (takeFree s0 4096).1
  let s1 := setF (if a < 4096 then s0 else (takeFree s0 4096).2) F.CPM_EST_STAT_P_AVG p
  if 25 * getF s1 F.CPM_EST_CTL_PWR_LIMIT < 2 * p && !flagF s1 F.CPM_EST_STAT_OVER_LIMIT then
    irqIf (logEvt (setF s1 F.CPM_EST_STAT_OVER_LIMIT 1) 0x3B 1 15 0xFF 0 0 0 0) F.CPM_EST_CTL_LIMIT_IRQ_EN 11
  else s1

/-- The numerator of E of the window before calibration: terms 0 to 7 (R729). -/
def rawEnergy (s : State) : Nat :=
  scaledEnergy s (termSum s [0, 1, 2, 3, 4, 5] + getF s (F.CPM_EST_COEF_COEF 6) * (s.cad.cycles - s.est.cyc0)) 2

/-- The bin of a window's energy (R730). -/
def estBin (raw : Nat) : Nat := min 3 (raw / 60000000)

/-- The bin has closed 1,024 windows: its K counts (R732). -/
def estGood (s : State) (b : Nat) : Bool := decide (1024 ≤ getF s (F.CPM_EST_K_WINDOWS b))

/-- Numerator and denominator of the calibrated estimate, or of the guarded one (R732). -/
def calNum (s : State) (b raw : Nat) : Nat := if estGood s b then raw * getF s (F.CPM_EST_K_K b) else 112 * raw
/-- The denominator. -/
def calDen (s : State) (b : Nat) : Nat := if estGood s b then 2 ^ 14 else 100

/-- The estimate's bin and guard are shown and counted. -/
def noteGuard (s : State) (b : Nat) (good : Bool) : State :=
  let s1 := setF (setF s F.CPM_EST_STAT_BIN b) F.CPM_EST_STAT_GUARD (b2n (!good))
  if good then s1 else incF s1 F.CPM_EST_STAT_GUARD_CNT 1

/-- A window of `s0` closes with the raw estimate and the estimate `e`: counters, calibration, shares, P_AVG. -/
def closeWith (s0 s : State) (raw e measured : Nat) : State :=
  let b := estBin raw
  let s1 := noteGuard s b (estGood s b)
  let s2 := if s0.est.taint then s1 else calibrate s1 b measured
  let s3 := noteAverage (shareOut { s2 with est := { s2.est with hist := (e :: s2.est.hist).take 128 } } e)
  { s3 with energy := [], est := { s3.est with taint := flagF s0 F.REG_STAT_P_DIP, cyc0 := s0.cad.cycles, win := now s0 / 1000 } }

/-- A window closes (R729 to R734). -/
def closeEst (s : State) (measured : Nat) : State :=
  let raw := divVal s (rawEnergy s) (scaleDen s)
  let s1 := divSt s (rawEnergy s) (scaleDen s)
  let b := estBin raw
  closeWith s (divSt s1 (calNum s b raw) (calDen s b)) raw (divVal s1 (calNum s b raw) (calDen s b)) measured

/-- ESTIMATOR_WINDOW (R729 to R735). -/
def execEstimatorWindow (measured milliamps : Nat) (s : State) : Host.Outcome State Fault Refusal :=
  if now s / 1000 ≤ s.est.win || aonState s != 0 || flagF s F.CPM_CLK_STAT_SAFE then .next s
  else .next (closeEst (setF s F.CPM_ISENSE_IA (min 65535 milliamps)) measured)

/-- The calibration starts anew (R732). -/
def calReset (s : State) : State :=
  let s1 := (List.range 4).foldl (fun t b => rstF (rstF t (F.CPM_EST_K_K b)) (F.CPM_EST_K_WINDOWS b)) s
  setF s1 F.CPM_EST_STAT_CAL 0

-- ## The monitor chain (R723, R724, R728)

/-- P_HINT (R733). -/
def pHint (s : State) : Nat :=
  let on := (List.range 16).filter (fun q => flagF s (F.PACER_STAT_HINT_ACT q))
  let word (q : Nat) : Nat := getF s (F.PACER_HINT_LO_DESC_LO q) + 2 ^ 32 * getF s (F.PACER_HINT_HI_DESC_HI q)
  150 * (on.map (fun q => bits (word q) 60 4)).foldl max 0

/-- Bits [111:0] of the chain record (R724); a voltage beyond its ten bits shows the largest (log entry 24). -/
def chainBody (s : State) (sweep : Nat) : Nat :=
  fieldsWord [(0, Config.siteSite), (4, 1), (5, getF s F.CPM_THERM_STAT_TJ_MAX), (15, getF s F.CPM_EST_STAT_P_AVG),
    (27, min 1023 (getF s (F.CPM_VMON_MV 0))), (37, min 1023 (getF s (F.CPM_VMON_MV 1))), (47, curStep s),
    (51, getF s F.CPM_THERM_STAT_TWARN), (52, getF s F.CPM_THERM_STAT_THROT_REQ), (53, getF s F.CPM_THERM_STAT_TRIPPED),
    (54, getF s F.CPM_SUP_BELOW_WARN), (55, getF s F.CPM_EST_STAT_GUARD), (56, getF s F.CPM_PWR_MODE_FIXED),
    (57, getF s F.CPM_PWR_MODE_BOOST_ACT), (58, pHint s), (80, sweep % 2 ^ 16)]

/-- The record with its CRC. -/
def chainRecord (body : Nat) : Nat := body + 2 ^ 112 * crc16 112 body

/-- MONITOR_TOKEN (R723): outside Active and Idle VALID is 0, and what the readings then show is free. -/
def execMonitorToken (sweep : Nat) (s : State) : Host.Outcome State Fault Refusal :=
  if aonState s = 3 then .next s
  else if aonState s = 0 then
    let s1 := setF { s with clk := { s.clk with tokenAt := now s } } F.CPM_MON_STAT_LAST_SWEEP sweep
    .next (emit s1 (.token (chainRecord (chainBody s1 sweep))))
  else
    let f := takeFree s (2 ^ 65)
    .next (emit f.2 (.token (chainRecord (fieldsWord [(0, Config.siteSite), (5, f.1), (80, sweep % 2 ^ 16)]))))

/-- NO_TOKEN (R728). -/
def execNoToken (s : State) : Host.Outcome State Fault Refusal :=
  if aonState s = 0 && s.clk.tokenAt + 1000000 ≤ now s then
    .next (logEvt (setF { s with clk := { s.clk with tokenAt := now s } } F.CPM_MON_STAT_NO_TOKEN 1) 0x38 1 15 0xFF 0 0 0 0)
  else .next s

end Sys2Proof.Machine
end

