-- ==== Sys2Proof/Machine/RollCall.lean ====
section
/-! DEFINITION. Roll-call: the messages between neighbours, within the field and to the supervisor, and the write of GLB_SELF
that ends it (R93, R654 to R668, R672). -/

namespace Sys2Proof.Machine

-- ## Sites (R77, R648, R654 to R656)

/-- The index of the instance's own site. -/
def siteIndex : Nat := 12 * Config.siteField + Config.siteSite

/-- The instance row and column of a site index. -/
def gridOf (i : Nat) : Nat × Nat :=
  let f := i / 12
  let p : Nat × Nat :=
    if f < 5 then (0, f + 2) else if f < 12 then (1, f - 4) else if f < 20 then (2, f - 12) else if f < 28 then (3, f - 20)
    else if f < 35 then (4, f - 27) else (5, f - 33)
  (3 * p.1 + i % 12 / 4, 4 * p.2 + i % 4)

/-- Link `k` of the instance leads to site `i`; N goes to the row with the next lower number (log entry 26). -/
def leadsTo (k i : Nat) : Bool :=
  let a := gridOf siteIndex
  let b := gridOf i
  decide (i < 480) && (match k with
    | 0 => b.1 + 1 == a.1 && b.2 == a.2
    | 1 => b.1 == a.1 && b.2 == a.2 + 1
    | 2 => b.1 == a.1 + 1 && b.2 == a.2
    | _ => b.1 == a.1 && b.2 + 1 == a.2)

-- ## Messages (R660, R661)

/-- A field that is RO for the other masters takes a value from the active marshal, where the value is a defined encoding
(R11, R93). -/
def forceField (s : State) (f : Fld) (v : Nat) : State := if f.mn ≤ v ∧ v ≤ f.mx then setF s f v else s

/-- The instance's own status; a bank that has failed makes it not good in the roll-calls that follow (R604; log entry 127). -/
def rollStatus (s : State) : Nat :=
  let g := getF s F.MSH_BOOT_STAGE
  let calls := decide (1 ≤ getF s F.GLB_RC_STAT_STEP) && decide (getF s F.GLB_RC_STAT_STEP ≤ 4)
  if g = 15 || unrepaired s || (s.roll.bankBad && calls) then 3 else if g < 8 then 0 else if g = 11 || s.boot.unused then 2 else 1

/-- A message that R660 does not discard; `body` is bits [95:32]. -/
structure RollMsg where
  kind : Nat
  status : Nat
  inst : Nat
  body : Nat
  hold : Nat
deriving DecidableEq, Repr

/-- Read a message; one with a reserved KIND or STATUS is discarded too (log entry 27). -/
def parseRoll (m : Nat) : Option RollMsg :=
  if crc16 112 (m % 2 ^ 112) != bits m 112 16 || bits m 24 8 != 0 || decide (3 < bits m 0 4) || decide (3 < bits m 4 3)
     || (bits m 0 4 == 3 && bits m 68 28 != 0) || (bits m 0 4 != 1 && bits m 96 16 != 0) then none
  else some ⟨bits m 0 4, bits m 4 3, bits m 7 9, bits m 32 64, bits m 96 16⟩

/-- Write a message of the instance. -/
def rollBits (s : State) (kind body hold : Nat) : Nat :=
  let st := rollStatus s
  let cause := if st = 3 then getF s F.MSH_BOOT_CAUSE else 0
  let w := fieldsWord [(0, kind), (4, st), (7, siteIndex), (16, cause), (20, getF s F.GLB_RC_NBR_DONE), (32, body), (96, hold)]
  w + 2 ^ 112 * crc16 112 w

/-- The low 32 bits of the count of quarter ticks; the sub-tick part is that of whole ticks (log entry 15). -/
def quarters (s : State) : Nat := 4 * now s % 2 ^ 32

/-- Roll-call messages pass: the instance is awake and the link trained. -/
def rollLinkUp (s : State) (k : Nat) : Bool := decide (k < 4) && bitAt (getF s F.MESH_STAT_UP) k && aonState s == 0

/-- A roll-call message of the partner while the instance is OPEN shows that the partner started from cold (R585, log
entry 28). -/
def notePartner (s : State) (m : RollMsg) : State :=
  if getF s F.MSH_BOOT_STAGE = 10 ∧ flagF s F.JNL_SHADOW_EN ∧ m.inst = getF s F.JNL_SHADOW_PINST then
    { s with buddy := { s.buddy with cold := true } }
  else s

-- ## Step 1: the neighbours (R662)

/-- The roll-call step; the firmware takes part while a marshal is active. -/
def rollStep (s : State) : Nat := if s.activeM.isSome && aonState s == 0 then getF s F.GLB_RC_STAT_STEP else 0

/-- The status of a link is final. -/
def nbrDone (s : State) (k : Nat) : Bool := bitAt (getF s F.GLB_RC_NBR_DONE) k

/-- The statuses of the four links, two bits each. -/
def nbrWord (s : State) : Nat := fieldsWord ((List.range 4).map (fun k => (2 * k, getF s (F.GLB_RC_NBR_NBR k))))

/-- FIELD_STATUS goes to every other site of the field. -/
def sendFieldStatus (s : State) : State :=
  ((List.range 12).filter (fun i => i != Config.siteSite)).foldl (fun t i => emit t (.rollSite i (rollBits s 2 (nbrWord s) 0))) s

/-- A link takes its final status; with the fourth, step 1 ends and step 2 begins (R662, R663). -/
def setNbr (s : State) (k st : Nat) : State :=
  if nbrDone s k then s
  else
    let s1 := orF (setF s (F.GLB_RC_NBR_NBR k) st) F.GLB_RC_NBR_DONE k
    if getF s1 F.GLB_RC_NBR_DONE = 15 then
      sendFieldStatus { setF s1 F.GLB_RC_STAT_STEP 2 with roll := { s1.roll with step1 := now s + 1 } }
    else s1

/-- HELLO_SEND (R662): on each trained link once in 100 µs; an untrained link is silent. -/
def execHelloSend (s : State) : Host.Outcome State Fault Refusal :=
  let i := now s / 100000 + 1
  if rollStep s != 1 || s.roll.sent == i then .next s
  else
    let one (t : State) (k : Nat) : State :=
      if rollLinkUp t k then emit t (.rollLink k (rollBits t 0 (quarters t) 0)) else setNbr t k 0
    .next ((List.range 4).foldl one { s with roll := { s.roll with sent := i } })

/-- HELLO (R661): the gateway answers; how long the reply is held is free. -/
def execHello (link : Nat) (m : BitVec 128) (s : State) : Host.Outcome State Fault Refusal :=
  if !rollLinkUp s link then .next s
  else match parseRoll m.toNat with
    | some r =>
      if r.kind = 0 then
        let f := takeFree (notePartner s r) (2 ^ 16)
        let body := quarters s + 2 ^ 32 * (r.body % 2 ^ 32)
        .next (emit f.2 (.rollLink link (rollBits s 1 body f.1)))
      else .next s
    | none => .next s

/-- HELLO_REPLY (R662); `receipt` is in quarter ticks. -/
def execHelloReply (link : Nat) (m : BitVec 128) (receipt : Nat) (s : State) : Host.Outcome State Fault Refusal :=
  if !rollLinkUp s link || rollStep s != 1 then .next s
  else match parseRoll m.toNat with
    | some r =>
      if r.kind = 1 then
        let d := (receipt % 2 ^ 32 + 2 ^ 33 - bits r.body 32 32 - r.hold) % 2 ^ 32
        let s1 := setF (notePartner s r) (F.CPM_LINK_DLY_DELAY link) ((d + 1) / 2)
        if r.status = 0 then
          if (Sparse.find s1.roll.booting link).isSome then .next s1
          else .next { s1 with roll := { s1.roll with booting := Sparse.put s1.roll.booting link (now s + 1) } }
        else .next (setNbr s1 link r.status)
      else .next s
    | none => .next s

/-- NEIGHBOUR_SILENT (R662). -/
def execNeighbourSilent (link : Nat) (s : State) : Host.Outcome State Fault Refusal :=
  if 4 ≤ link || rollStep s != 1 then .next s
  else match Sparse.find s.roll.booting link with
    | some t => if t + 999999999 ≤ now s then .next (setNbr s link 0) else .next s
    | none => .next s

-- ## Step 2: the field (R663, R667)

/-- The status of a site of the field, if one was heard. -/
def siteStatus (s : State) (i : Nat) : Option Nat :=
  if i = Config.siteSite then some (rollStatus s) else Sparse.find s.roll.heard i

/-- The buddy was found silent or NOT_GOOD; of a site neither in the field nor next to the instance nothing is known. -/
def buddyBad (s : State) : Bool :=
  let b := getF s F.JNL_BUDDY_INST
  if b / 12 = Config.siteField then (match siteStatus s (b % 12) with | some st => st == 3 | none => true)
  else match (List.range 4).find? (fun k => leadsTo k b) with
    | some k => getF s (F.GLB_RC_NBR_NBR k) == 0 || getF s (F.GLB_RC_NBR_NBR k) == 3
    | none => false

/-- Step 2 ends: the captain is found, and reports (R663); what it writes for a silent site is free. -/
def closeField (s : State) : State :=
  let cap := (List.range 12).find? (fun i => siteStatus s i == some 1 || siteStatus s i == some 2)
  let s1 := setF { s with roll := { s.roll with closed := true } } F.GLB_RC_STAT_STEP 3
  let s2 := setF s1 F.GLB_RC_STAT_CAPT_IDX (12 * Config.siteField + cap.getD 0)
  let s3 := if rollStatus s = 1 ∧ buddyBad s then loseShadow s2 else s2
  if cap = some Config.siteSite then
    let r := (List.range 12).foldl (fun (acc : Nat × State) i =>
      let x := match siteStatus s i with
        | some st => (st, acc.2)
        | none => takeFree acc.2 8
      (acc.1 + x.1 * 2 ^ (3 * i), x.2)) (0, s3)
    emit (setF r.2 F.GLB_RC_STAT_CAPTAIN 1) (.rollSup (rollBits r.2 3 r.1 0))
  else s3

/-- FIELD_STATUS (R663): once every site of the field is known, step 2 ends. -/
def execFieldStatus (m : BitVec 128) (s : State) : Host.Outcome State Fault Refusal :=
  if aonState s != 0 then .next s
  else match parseRoll m.toNat with
    | some r =>
      if r.kind = 2 && r.inst / 12 == Config.siteField && !s.roll.closed then
        let s1 := notePartner s r
        let s2 := { s1 with roll := { s1.roll with heard := Sparse.put s1.roll.heard (r.inst % 12) r.status } }
        if rollStep s2 = 2 && (List.range 12).all (fun i => (siteStatus s2 i).isSome) then .next (closeField s2) else .next s2
      else .next (if r.kind = 2 then notePartner s r else s)
    | none => .next s

/-- FIELD_STATUS_TIMEOUT (R663). -/
def execFieldStatusTimeout (s : State) : Host.Outcome State Fault Refusal :=
  if rollStep s = 2 && s.roll.step1 != 0 && decide (s.roll.step1 + 4999999 ≤ now s) then .next (closeField s) else .next s

-- ## Step 4: GLB_SELF (R93, R665)

/-- The end of roll-call: JNL_BUDDY and JNL_SHADOW take the wafer (R581, R634; log entry 29), and stage CADENCE begins; an
instance that is LOCKED goes on to OPEN at once (R668, R806). -/
def endRollCall (s : State) : State :=
  let w := selfWafer s
  let s1 := if s.boot.unused then s else setF (setF s F.JNL_BUDDY_WAFER w) F.JNL_BUDDY_SET 1
  let s2 := if flagF s1 F.JNL_SHADOW_EN then setF s1 F.JNL_SHADOW_PWAFER w else s1
  let s3 := setF (setF s2 F.MSH_BOOT_STAGE 9) F.GLB_RC_STAT_STEP 5
  match s3.cad.st with
  | .locked => lockCad s3 s3.cad.src s3.cad.hop (now s3)
  | .holdover => s3
  | _ => { s3 with cad := { s3.cad with st := .acquiring, loaded := none } }

/-- A write of GLB_SELF by a master. -/
def glbSelfWrite (m : Master) (w : Nat) (s : State) : State :=
  if m != .marshal || s.activeM.isNone then s
  else
    let s0 := forceField (forceField s F.GLB_SELF_INSTANCE (bits w 0 9)) F.GLB_SELF_WAFER (bits w 16 5)
    let s1 := forceField s0 F.GLB_SELF_ASSIGNED (bits w 31 1)
    let g := getF s1 F.MSH_BOOT_STAGE
    if assigned s1 && (g == 8 || g == 11) then endRollCall s1 else s1

end Sys2Proof.Machine
end

