-- ==== Sys2Proof/Machine/Resets.lean ====
section
/-! DEFINITION. Cold resets and their triggers, the pins and supplies, the shutdown, and the re-form (R646, R647, R689, R693,
R716, R753 to R767). -/

namespace Sys2Proof.Machine

-- ## Cold reset (R753, R756, R760, R766)

/-- The state right after a cold reset with a cause: what R760 keeps is the always-on state, the burned OTP and the supplies. -/
def coldState (s : State) (cause : Nat) : State :=
  let k := keepFields s alwaysOn
  let c := State.reset
  let s1 : State := { c with
    pending := s.pending, free := s.free, out := s.out, regs := k.regs, integ := { c.integ with gasp := s.integ.gasp },
    msh := { c.msh with otp := s.msh.otp }, rst := { c.rst with pfail := s.rst.pfail },
    clk := { c.clk with rails := s.clk.rails, vaon := s.clk.vaon, powerOk := s.clk.powerOk } }
  noteReset (setF s1 F.CPM_AON_STAT_AON_STATE 0) cause

/-- COLD_RESET (R753, R756): a due cold reset is performed. -/
def execColdReset (s : State) : Host.Outcome State Fault Refusal :=
  if 1 ≤ s.rst.due ∧ s.rst.due ≤ 7 ∧ s.clk.vaon then .next (coldState s s.rst.due) else .next s

/-- VAON_APPLIED (R704, R753): a cold reset with the always-on state at its reset values; cause POWER is the reset value. -/
def execVaonApplied (s : State) : Host.Outcome State Fault Refusal :=
  let c := State.reset
  .next { c with pending := s.pending, free := s.free, out := s.out, msh := { c.msh with otp := s.msh.otp },
                 rst := { c.rst with pfail := s.rst.pfail }, clk := { c.clk with rails := s.clk.rails } }

/-- VAON_REMOVED (R689, R760): from Doze, and in Off, everything but the burned OTP is lost. -/
def execVaonRemoved (s : State) : Host.Outcome State Fault Refusal :=
  if aonState s = 1 || aonState s = 3 then
    let c := State.reset
    .next (setF { c with pending := s.pending, free := s.free, out := s.out, msh := { c.msh with otp := s.msh.otp },
                         rst := { c.rst with pfail := s.rst.pfail, coldRun := false },
                         clk := { c.clk with rails := s.clk.rails, vaon := false } } F.CPM_AON_STAT_AON_STATE 3)
  else .next s

/-- SUPPLY_RESET (R716, R756, R759): the instance is held in reset. -/
def execSupplyReset (s : State) : Host.Outcome State Fault Refusal :=
  if aonState s = 1 || aonState s = 3 || !s.clk.powerOk then .next s
  else if s.rst.coldRun || (s.rst.due != 0 && decide (s.rst.due ≤ 7)) then .next (ignoreTrigger s)
  else .next (coldState { s with clk := { s.clk with powerOk := false } } 4)

/-- SUPPLY_RESET_RELEASE (R759). -/
def execSupplyResetRelease (s : State) : Host.Outcome State Fault Refusal := .next { s with clk := { s.clk with powerOk := true } }

/-- RAILS_REMOVED (R693, R701): of an instance in Doze or Off. -/
def execRailsRemoved (s : State) : Host.Outcome State Fault Refusal :=
  if aonState s = 1 || aonState s = 3 then .next { s with clk := { s.clk with rails := false, railsOff := true } } else .next s

/-- RAILS_APPLIED (R698, R702, R753): a pending wake proceeds; after Off a cold reset starts. -/
def execRailsApplied (s : State) : Host.Outcome State Fault Refusal :=
  let s1 := { s with clk := { s.clk with rails := true } }
  if s.clk.rails || !s.clk.vaon then .next s1
  else if aonState s = 3 then .next (triggerCold s1 7)
  else if aonState s = 2 then (match s1.clk.wake with
    | some w => .next (startWake s1 w)
    | none => .next s1)
  else .next s1

-- ## The pins (R753, R754) and GLB_RST_CMD (R755)

/-- WARM_RST_N (R753). -/
def execWarmRstN (s : State) : Host.Outcome State Fault Refusal := if s.clk.vaon then .next (triggerWarm s 8) else .next s

/-- COLD_RST_N (R753). -/
def execColdRstN (s : State) : Host.Outcome State Fault Refusal := if s.clk.vaon then .next (triggerCold s 2) else .next s

/-- A write of WARM by a master. -/
def rstWarm (m : Master) (s : State) : State := if m = .marshal then s else triggerWarm s 9

/-- A write of COLD by a master. -/
def rstCold (m : Master) (s : State) : State := if m = .marshal then s else triggerCold s 3

-- ## The shutdown (R761 to R764)

/-- PWR_OFF: from Active or Idle. -/
def doPwrOff (s : State) (r : CmdRun) : State :=
  if pwrState s = 2 then refuseCmd s r 3
  else startShutdown { s with msh := { s.msh with run := none }, rst := { s.rst with offRun := some r } } 0

/-- PWR_OFF (R703, R761). -/
def execPwrOff (c : CmdSrc) (s : State) : Host.Outcome State Fault Refusal :=
  .next (runCmd c (fun k => k == 0x23) (powerCmd doPwrOff) s)

/-- PFAIL_ASSERT (R761, R764): no further effect in a shutdown; a warm reset that runs comes first. -/
def execPfailAssert (s : State) : Host.Outcome State Fault Refusal :=
  let s1 := { s with rst := { s.rst with pfail := true } }
  if s.rst.pfail || shdn s || aonState s != 0 || !s.clk.powerOk then .next s1
  else if s.rst.warm != 0 then .next { s1 with rst := { s1.rst with shutDue := true } }
  else .next (startShutdown s1 1)

/-- The HANDOFF mark is acknowledged, or committed where there is no shadow. -/
def markAcked (s : State) : Bool :=
  match s.rst.mark with
  | some q => (findEntry s q).isNone || !shadowOn s
  | none => false

/-- The PWR_OFF result is written. -/
def offResult (s : State) : State :=
  match s.rst.offRun with
  | some r =>
    let s1 := { s with rst := { s.rst with offRun := none } }
    match findEntry s1 r.seq with
    | some e => closeCmd s1 { e with code := 0, cause := 0, value := 0 }
    | none => s1
  | none => s

/-- HANDOFF_POINT (R761 steps 5 and 6, R763). -/
def execHandoffPoint (s : State) : Host.Outcome State Fault Refusal :=
  if !shdn s || aonState s != 0 || !markAcked s then .next s
  else
    let s1 := logEvt (offResult (setF s F.GLB_SHDN_STAT_HANDED_OFF 1)) 0x3C 0 15 0xFF 0 0 0 0
    let s2 := setF (clocksOff (linksDown s1)) F.CPM_AON_STAT_AON_STATE 3
    .next (if s2.clk.rails && !s2.rst.pfail then triggerCold s2 5 else s2)

/-- PFAIL_RELEASE (R762, R763). -/
def execPfailRelease (s : State) : Host.Outcome State Fault Refusal :=
  let s1 := { s with rst := { s.rst with pfail := false, shutDue := false } }
  if !s.rst.pfail then .next s
  else if aonState s = 3 then
    if shdn s && s.clk.rails && s.clk.vaon then .next (triggerCold s1 5) else .next s1
  else if shdn s && flagF s F.GLB_SHDN_STAT_SOURCE && !flagF s F.GLB_SHDN_STAT_HANDED_OFF then
    let s2 := resumeWork { s1 with rst := { s1.rst with mark := none } }
    .next (setF (setF (setF s2 F.GLB_SHDN_STAT_SHDN_ACT 0) F.GLB_SHDN_STAT_ABORTED 1) F.REG_CTL_OPEN 1)
  else .next s1

-- ## Re-form (R646, R647)

/-- REFORM step 1. -/
def doReform (s : State) (r : CmdRun) : State := keepRun (setF s F.REG_CTL_OPEN 0) r []

/-- REFORM (R641, R646). -/
def execReform (c : CmdSrc) (s : State) : Host.Outcome State Fault Refusal :=
  .next (runCmd c (fun k => k == 10) (mailboxOnly doReform) s)

/-- Step 2 has ended: only waits and work that was never accepted are left. -/
def reformDrained (s : State) : Bool :=
  s.reqs.all (fun r => r.stage == .held || r.stage == .waiting) && s.tasks == [] && s.moves.all (fun m => m.ended)

/-- Step 3 for one partition. -/
def reformKill (s : State) (p : Nat) : State := if partCreated s p then killEnd (killStart s p) p [] else s

/-- What a re-form restart keeps (R647). -/
def reformKeeps (f : Fld) : Bool :=
  alwaysOn f || f.acc == .otp
  || f.off == F.GLB_SELF_INSTANCE.off || f.off == F.MSH_SITE_FIELD.off || f.off == F.MSH_OTP_GEN.off
  || f == F.MSH_STAT_M0_FAIL || f == F.MSH_STAT_M1_FAIL
  || (f.off == F.CPM_CLK_STAT_REF_READY.off && f.acc == .ro) || f.off == F.CPM_STEP_CUR_STEP.off
  || f == F.MESH_STAT_UP || (List.range 4).any (fun k => f == F.CPM_LINK_DLY_DELAY k) || f == F.MSH_BOOT_OTP_BAD
  || (List.range 16).any (fun t => f.off == (F.TRK_REPAIR_OTP_EN t).off || f.off == (F.TRK_BIST_FAIL_FAIL t).off
    || f == F.TRK_STAT_BIST_DONE t || f == F.TRK_STAT_BIST_FAIL t || f == F.TRK_STAT_SPARE_FAIL t || f == F.TRK_STAT_SPARE_USED t
    || f == F.TRK_STAT_SOFT_REPAIR t || f == F.TRK_STAT_UNREPAIRED t)
  || f == F.REG_STAT_P_DIP || f == F.CPM_SUP_BELOW_WARN

/-- The marshals run their self-test (R618); `bad`: those that fail it. -/
def startMarshals (s : State) (bad : List Nat) : State :=
  let ok (m : Nat) : Bool := !bad.contains m && !flagF s (failBit m)
  let s1 := bad.foldl (fun t m => if m < 2 then setF t (failBit m) 1 else t) s
  if ok 0 then setF (setF { s1 with activeM := some 0 } F.MSH_STAT_ACTIVE 0) F.MSH_STAT_STBY_OK (b2n (ok 1))
  else if ok 1 then setF (setF { s1 with activeM := some 1 } F.MSH_STAT_ACTIVE 1) F.MSH_STAT_STBY_OK 0
  else { s1 with activeM := none }

/-- Boot stops in FAILED with a cause (R622). -/
def bootFail (s : State) (cause : Nat) : State :=
  let s1 := setF (setF s F.MSH_BOOT_STAGE 15) F.MSH_BOOT_CAUSE cause
  { s1 with rst := { s1.rst with coldRun := false } }

/-- Step 4: the logic is reset, every row is UNWRITTEN, and the instance is in stage IMAGE (R646, R647, R760). The marshals
that have not failed pass their self-test (log entry 34). -/
def reformState (s : State) : State :=
  let c := State.reset
  let k := keepFields s reformKeeps
  let s1 : State := { c with
    pending := s.pending, free := s.free, out := s.out, regs := k.regs, mem := s.mem, par := s.par, parFlip := s.parFlip,
    cad := s.cad, clk := s.clk, roll := { c.roll with bankBad := s.roll.bankBad }, faults := s.faults.filter (fun f => f.1 != 0), trips := s.trips, fineSeen := s.fineSeen, coarseSeen := s.coarseSeen,
    est := { c.est with cyc0 := s.cad.cycles, win := now s / 1000 },
    integ := { c.integ with gasp := s.integ.gasp, bleach := s.integ.bleach }, nextId := s.nextId,
    msh := { c.msh with otp := s.msh.otp, hb := now s },
    rst := { c.rst with coldRun := false, pfail := s.rst.pfail } }
  let s2 := startMarshals (noteReset s1 11) []
  if s2.activeM.isNone then bootFail s2 12 else setF s2 F.MSH_BOOT_STAGE 5

/-- REFORM_RESTART (R646 steps 2 to 5, R756): no result is seen, since the mailboxes are reset too. -/
def execReformRestart (s : State) : Host.Outcome State Fault Refusal :=
  match s.msh.run with
  | some r =>
    if cmdCode r.words = 10 && reformDrained s && aonState s == 0 then .next (reformState ((List.range 15).foldl reformKill s))
    else .next s
  | none => .next s

end Sys2Proof.Machine
end

