-- ==== Sys2Proof/Machine/Control.lean ====
section
/-! DEFINITION. Writes to the control space: what a write does to fields by their access codes (R4 to R13), the registers
whose writes do more, the commands of the table that are such writes (R93 to R97, R796), and the
stores of a marshal at its own addresses (R218 to R222). -/

namespace Sys2Proof.Machine

-- ## The plain rule (R4, R11)

/-- A write reaches one field: RW and RWS take a defined encoding, a W1C bit written 1 clears, and a W1C count clears whole
on any 1. -/
def writeF (w : Nat) (s : State) (f : Fld) : State :=
  let v := bits w f.lo f.w
  match f.acc with
  | .rw => if f.mn ≤ v ∧ v ≤ f.mx then setF s f v else s
  | .rws => if f.mn ≤ v ∧ v ≤ f.mx then setF s f v else s
  | .w1c => setF s f (getF s f - Nat.land (getF s f) v)
  | .w1cf => if v = 0 then s else setF s f 0
  | _ => s

/-- A write of `w` reaches the fields of the register at `off`. -/
def writeFields (off w : Nat) (s : State) : State := (fieldsAt off).foldl (writeF w) s

/-- The RO fields of a register take a write of the active marshal as RW fields do: a defined encoding sets them (R4, R11,
R93). -/
def forceFields (off w : Nat) (s : State) : State := (fieldsAt off).foldl (fun t f => forceField t f (bits w f.lo f.w)) s

/-- A write to GLB_RC_STAT or GLB_RC_NBR by a master (R93). A STATUS that the active marshal writes is shown until
roll-call writes the field again, when the instance's own status changes (R661, R672; log entry 102). -/
def rollRegSet (m : Master) (off w : Nat) (s : State) : State :=
  if m != .marshal then s
  else
    let s1 := forceFields off w s
    let v := bits w 4 3
    if off = 0x200 ∧ v ≤ F.GLB_RC_STAT_STATUS.mx then { s1 with roll := { s1.roll with shown := some (v, rollStatus s1) } } else s1

/-- The readable and writable fields of a register as they stand: what a write leaves alone that is made for one bit. -/
def keptBits (s : State) (off : Nat) : Nat :=
  fieldsWord ((fieldsAt off).map (fun f => (f.lo, match f.acc with | .rw => getF s f | .rws => getF s f | _ => 0)))

/-- A master's number. -/
def masterIx : Master → Nat
  | .marshal => 0
  | .debug => 1
  | .supervisor => 2

/-- A master reaches a register now (R95, R704, R783). -/
def reaches (m : Master) (off : Nat) (s : State) : Bool :=
  s.clk.powerOk && s.clk.vaon && match aonState s with
    | 1 => m == .supervisor && decide (0x1080 ≤ off) && decide (off ≤ 0x1094)
    | 3 => false
    | _ => match m with
      | .marshal => s.activeM.isSome
      | .debug => flagF s F.GLB_DBG_CTL_CSR_EN
      | .supervisor => true

/-- The MARK record of a debug write (R778, R779). -/
def debugMark (m : Master) (off w : Nat) (s : State) : State :=
  if m = .debug ∧ flagF s F.TRC_CTL_DBG_MARK then trcPush s (trcRecord s 4 3 off (now s) (w % 2 ^ 32)) else s

/-- In Doze the always-on domain answers an access of the supervisor to any other register with BAD_REQUEST (R704). -/
def unreached (m : Master) (s : State) : State :=
  if s.clk.powerOk && s.clk.vaon && m == .supervisor && aonState s == 1 then emit s (.busReject m 5) else s

/-- A control-space write with effect `f` (R803: one command, one effect). -/
def asWrite (m : Master) (off w : Nat) (f : State → State) (s : State) : State :=
  if reaches m off s then debugMark m off w (f s) else unreached m s

-- ## Bibs (R332 to R336)

/-- The staging key of a word. -/
def stageKey (m : Master) (n k : Nat) : Nat := (masterIx m * 4096 + n) * 4 + k

/-- A write to BIBn_LOC, BIBn_LEN or BIBn_AUX (`k` 1 to 3) is staged; an undefined LEN changes nothing. -/
def bibStageWord (m : Master) (n k w : Nat) (s : State) : State :=
  let v := match k with | 1 => bits w 0 32 | 2 => bits w 0 23 | _ => bits w 0 20
  if 4096 ≤ n || k == 0 || 4 ≤ k || (k == 2 && (v == 0 || decide (4194304 < v))) then s
  else { s with bibStage := Sparse.put s.bibStage (stageKey m n k) v }

/-- The entry that a commit starts from: zero where its code is uncorrectable. -/
def bibCurrent (s : State) (n : Nat) : BibE :=
  if s.bibBad.contains n then ⟨false, 0, 0, 0, 0, 0, false, false, false, 0, 0, 0, 0⟩ else bibE s n

/-- The entry that a commit makes of the current one, the CTL word and the staged words. -/
def bibMerge (s : State) (m : Master) (n w : Nat) (c : BibE) : BibE :=
  let pick (v old : Nat) (ok : Bool) : Nat := if ok then v else old
  let staged (k old : Nat) : Nat := Sparse.at s.bibStage (stageKey m n k) old
  { valid := bitAt w 0, place := pick (bits w 1 3) c.place (decide (bits w 1 3 ≤ 5)), part := bits w 4 4,
    fmt := pick (bits w 8 4) c.fmt (decide (bits w 8 4 ≤ 7) || bits w 8 4 == 15),
    layout := pick (bits w 12 2) c.layout (decide (bits w 12 2 ≤ 2)),
    spread := pick (bits w 14 3) c.spread (decide (bits w 14 3 ≤ 4)),
    mirror := bitAt w 17, chained := bitAt w 18, pin := bitAt w 19, next := bits w 20 12,
    loc := staged 1 c.loc, len := staged 2 c.len, mirG := staged 3 c.mirG }

/-- A write to BIBn_CTL (R333 to R336). -/
def bibCommitWrite (m : Master) (n w : Nat) (up : Upset) (s : State) : State :=
  if 4096 ≤ n then s
  else
    let s1 := (readBibEntry s n up).2
    let c := bibCurrent s1 n
    let r := commitBib s1 n c (bibMerge s1 m n w c)
    if r.1 then { r.2 with bibStage := Sparse.keep r.2.bibStage (fun k => k / 4 != stageKey m n 0 / 4) } else r.2

/-- BIB_COMMIT (R333). -/
def execBibCommit (m : Master) (n : Nat) (w : Word) (up : Upset) (s : State) : Host.Outcome State Fault Refusal :=
  .next (asWrite m (0x30000 + 16 * (n % 4096)) w.toNat (bibCommitWrite m n w.toNat up) s)

/-- BIB_STAGE_WRITE (R333). -/
def execBibStageWrite (m : Master) (n k : Nat) (w : Word) (s : State) : Host.Outcome State Fault Refusal :=
  .next (asWrite m (0x30000 + 16 * (n % 4096) + 4 * (k % 4)) w.toNat (bibStageWord m n k w.toNat) s)

-- ## Batons and tapes (R429, R451, R452, R462)

/-- A write ignored by the sync block. -/
def syncIgnored (s : State) : State := setF s F.GLB_SYNC_STAT_WR_IGN 1

/-- A write of BTNn_CNT; the store word that it changes is read and checked first. -/
def btnCountWrite (n w : Nat) (up : Upset) (s : State) : State :=
  if 16384 ≤ n then s
  else
    let s1 := if flagF s (F.BTN_CTL_BROKEN n) then s else readBatonWord s n up
    testWaiters (setF (setF s1 (F.BTN_CNT_COUNT n) w) (F.BTN_CTL_BROKEN n) 0) n

/-- A write of BTNn_CTL. -/
def btnControlWrite (n w : Nat) (s : State) : State :=
  if 16384 ≤ n then s
  else
    let s1 := setF s (F.BTN_CTL_PARKED n) (bits w 4 1)
    if bits w 0 4 = getF s (F.BTN_CTL_PART n) then s1
    else if s.waiters.any (fun x => x.baton == n) then syncIgnored s1
    else setF s1 (F.BTN_CTL_PART n) (bits w 0 4)

/-- BTN_CNT_WRITE (R429). -/
def execBtnCntWrite (m : Master) (n : Nat) (w : Word) (up : Upset) (s : State) : Host.Outcome State Fault Refusal :=
  .next (asWrite m (0x40000 + 8 * (n % 16384)) w.toNat (btnCountWrite n w.toNat up) s)

/-- BTN_CTL_WRITE (R462). -/
def execBtnCtlWrite (m : Master) (n : Nat) (w : Word) (s : State) : Host.Outcome State Fault Refusal :=
  .next (asWrite m (0x40004 + 8 * (n % 16384)) w.toNat (btnControlWrite n w.toNat) s)

/-- A write of TAPEn_HEAT. -/
def tapeHeatSet (n w : Nat) (s : State) : State := if 256 ≤ n then s else restartTape s n (w % 2 ^ 32)

/-- FORCE: as though every missing arrival had come. -/
def forceTape (n : Nat) (s : State) : State :=
  if decide (256 ≤ n) || tapeState s n != 0 then s else tapeRun 6 (completeHeat s n) n

/-- A write of TAPEn_CFG. -/
def tapeCfgSet (n w : Nat) (s : State) : State :=
  let locked := [F.TAPE_CFG_PART n, F.TAPE_CFG_ALIGN n, F.TAPE_CFG_EXPECT n, F.TAPE_CFG_NCHILD n]
  if 256 ≤ n then s
  else if flagF s (F.TAPE_CFG_EN n) then
    let s1 := writeF w s (F.TAPE_CFG_EN n)
    if locked.any (fun f => bits w f.lo f.w != getF s f && decide (bits w f.lo f.w ≤ f.mx)) then syncIgnored s1 else s1
  else writeFields (0x60000 + 16 * n) w s

/-- A write of TAPEn_LINK. -/
def tapeLinkSet (n w : Nat) (s : State) : State :=
  if 256 ≤ n then s else if flagF s (F.TAPE_CFG_EN n) then syncIgnored s else writeFields (0x60004 + 16 * n) w s

/-- TAPE_HEAT_WRITE (R451). -/
def execTapeHeatWrite (m : Master) (n : Nat) (w : Word) (s : State) : Host.Outcome State Fault Refusal :=
  .next (asWrite m (0x6000C + 16 * (n % 256)) w.toNat (tapeHeatSet n w.toNat) s)

/-- FORCE (R452). -/
def execForce (m : Master) (n : Nat) (s : State) : Host.Outcome State Fault Refusal :=
  .next (asWrite m (0x60008 + 16 * (n % 256)) (2 ^ 26) (forceTape n) s)

/-- TAPE_CFG_WRITE (R462); `link`: TAPEn_LINK. -/
def execTapeCfgWrite (m : Master) (n : Nat) (link : Bool) (w : Word) (s : State) : Host.Outcome State Fault Refusal :=
  .next (asWrite m (0x60000 + 16 * (n % 256) + 4 * b2n link) w.toNat
    (if link then tapeLinkSet n w.toNat else tapeCfgSet n w.toNat) s)

-- ## Relay queues and pacers (R373, R414, R419, R810)

/-- A write of RLYn_LOAD. -/
def relayLoad (n w : Nat) (s : State) : State :=
  if 128 ≤ n then s
  else if 64 ≤ (relayQ s n).length then incF s (F.RLY_CNT_FULL_CNT n) 1
  else enterRelay s n ⟨w % 4096, false, none⟩

/-- RLY_LOAD (R373, R810). -/
def execRlyLoad (m : Master) (n : Nat) (w : Word) (s : State) : Host.Outcome State Fault Refusal :=
  .next (asWrite m (0x24014 + 128 * (n % 128)) w.toNat (relayLoad n w.toNat) s)

/-- FLUSH (R373). -/
def execFlush (m : Master) (n : Nat) (s : State) : Host.Outcome State Fault Refusal :=
  .next (asWrite m (0x2401C + 128 * (n % 128)) 1 (fun t => if n < 128 then flushRelay t n else t) s)

/-- A write of PACERn_CMD: from the cycle of END on it is ignored; of an ABORTING task it can lower the cause (R414). -/
def pacerAbort (q w : Nat) (s : State) : State :=
  let live (t : State) (st : Nat) : Bool := streamState t q st == 1 || streamState t q st == 3
  if 16 ≤ q then s
  else settleUnits ((List.range 4).foldl (fun t st => if bitAt w st && live t st then abortTask t q st 0x0F else t) s)

/-- ABORT (R414). -/
def execAbort (m : Master) (q : Nat) (w : Word) (s : State) : Host.Outcome State Fault Refusal :=
  .next (asWrite m (0x20014 + 1024 * (q % 16)) w.toNat (pacerAbort q w.toNat) s)

/-- Every stream of a pacer is IDLE. -/
def pacerIdle (s : State) (q : Nat) : Bool := (List.range 4).all (fun st => streamState s q st == 0)

/-- A write of PM_DATA_LO. -/
def pmStage (q w : Nat) (s : State) : State := if 16 ≤ q then s else { s with pmLo := Sparse.set s.pmLo q (w % 2 ^ 32) 0 }

/-- A write of PM_DATA_HI. -/
def pmWrite (q w : Nat) (s : State) : State :=
  if 16 ≤ q then s
  else if !pacerIdle s q then setF s (F.PACER_STAT_PM_IGN q) 1
  else
    let a := getF s (F.PACER_PM_ADDR_ADDR q)
    let s1 := { s with pm := Sparse.set s.pm (q * 256 + a) (Sparse.at s.pmLo q 0 + 2 ^ 32 * (w % 2 ^ 32)) 0 }
    if flagF s (F.PACER_PM_ADDR_AUTOINC q) then setF s1 (F.PACER_PM_ADDR_ADDR q) (a + 1) else s1

/-- PM_DATA_LO_WRITE (R419). -/
def execPmDataLoWrite (m : Master) (q : Nat) (w : Word) (s : State) : Host.Outcome State Fault Refusal :=
  .next (asWrite m (0x2000C + 1024 * (q % 16)) w.toNat (pmStage q w.toNat) s)

/-- PM_DATA_HI_WRITE (R419). -/
def execPmDataHiWrite (m : Master) (q : Nat) (w : Word) (s : State) : Host.Outcome State Fault Refusal :=
  .next (asWrite m (0x20010 + 1024 * (q % 16)) w.toNat (pmWrite q w.toNat) s)

-- ## Partitions and the regulator (R86, R245, R272, R276, R526)

/-- The offset of PARTn_REGION (`k` 0), or of the base and count of tier t (`k` 1 + 2t and 2 + 2t). -/
def partRangeOff (n k : Nat) : Nat := 0x4000 + 1024 * (n % 16) + (if k = 0 then 0 else 0x4C + 4 * k)

/-- A write to a region or a tier range: ignored while the partition is created. -/
def partRangeWrite (n k w : Nat) (s : State) : State :=
  if 16 ≤ n || 7 ≤ k then s
  else if partTaken s n then setF s (F.PART_STAT_WR_IGN n) 1
  else writeFields (partRangeOff n k) w s

/-- PART_REGION_WRITE (R86, R526). -/
def execPartRegionWrite (m : Master) (n k : Nat) (w : Word) (s : State) : Host.Outcome State Fault Refusal :=
  .next (asWrite m (partRangeOff n k) w.toNat (partRangeWrite n k w.toNat) s)

/-- A write to PARTn_QOS. -/
def partQosSet (n w : Nat) (s : State) : State :=
  if 16 ≤ n then s
  else
    let s1 := writeFields (0x4020 + 1024 * n) w s
    if qosOk s1 then s1 else setF s F.REG_STAT_QOS_REJ 1

/-- PART_QOS_WRITE (R245). -/
def execPartQosWrite (m : Master) (n : Nat) (w : Word) (s : State) : Host.Outcome State Fault Refusal :=
  .next (asWrite m (0x4020 + 1024 * (n % 16)) w.toNat (partQosSet n w.toNat) s)

/-- A write to REG_SPLITq. -/
def regSplitSet (q w : Nat) (s : State) : State :=
  if 16 ≤ q then s
  else if 16 < bits w 0 4 + bits w 4 4 + bits w 8 4 then setF s F.REG_STAT_QOS_REJ 1
  else writeFields (0x2080 + 4 * q) w s

/-- REG_SPLIT_WRITE (R276). -/
def execRegSplitWrite (m : Master) (q : Nat) (w : Word) (s : State) : Host.Outcome State Fault Refusal :=
  .next (asWrite m (0x2080 + 4 * (q % 16)) w.toNat (regSplitSet q w.toNat) s)

/-- A write to REG_CTL: OPEN written by the marshal ends the pause of a warm reset (R600). -/
def regCtlSet (m : Master) (w : Nat) (s : State) : State :=
  let s1 := writeFields 0x2000 w s
  if bitAt w 0 && m == .marshal then { s1 with rst := { s1.rst with pause := false } } else s1

/-- REG_CTL_WRITE (R272). -/
def execRegCtlWrite (m : Master) (w : Word) (s : State) : Host.Outcome State Fault Refusal :=
  .next (asWrite m 0x2000 w.toNat (regCtlSet m w.toNat) s)

/-- TARGET values above BOUND are undefined too (R275). -/
def regTargetSet (c w : Nat) (s : State) : State :=
  if getF s (F.REG_BOUND_BOUND c) < bits w 0 24 then s else writeFields (0x2030 + 4 * c) w s

-- ## Tracks, lanes and cadence (R43, R128, R190, R482)

/-- The state bits of a track's repair (R120, R126); a spare that failed BIST covers no failing bank (R124). -/
def noteRepair (t : Nat) (s : State) : State :=
  let sp := spareFor s t
  let fails := getF s (F.TRK_BIST_FAIL_FAIL t)
  let left := (List.range 32).any (fun b => bitAt fails b && (sp != some b || flagF s (F.TRK_STAT_SPARE_FAIL t)))
  let s1 := setF (setF s (F.TRK_STAT_SPARE_USED t) (b2n sp.isSome)) (F.TRK_STAT_UNREPAIRED t) (b2n left)
  setF s1 (F.TRK_STAT_SOFT_REPAIR t) (b2n (sp.isSome && !flagF s (F.TRK_REPAIR_OTP_EN t)))

/-- A write to GLB_SB_STAT: what is in use stays below the largest use (R372). -/
def sbStatSet (w : Nat) (s : State) : State :=
  let s1 := writeFields 0x58 w s
  setF s1 F.GLB_SB_STAT_PEAK (max (getF s1 F.GLB_SB_STAT_PEAK) (entriesUsed s1))

/-- A write to TRKn_CAL_STAT: the same for the charge of the current fine bucket (R280). -/
def calStatSet (n w : Nat) (s : State) : State :=
  if 16 ≤ n then s
  else
    let s1 := writeFields (0x8100 + 1024 * n) w s
    let c := min 0xFFF (calAt s1.fine (fineOf (now s1)) (ctrTrack n))
    setF s1 (F.TRK_CAL_STAT_PEAK n) (max (getF s1 (F.TRK_CAL_STAT_PEAK n)) c)

/-- A write to TRKn_REPAIR. -/
def trkRepairSet (n w : Nat) (s : State) : State :=
  if 16 ≤ n || flagF s F.REG_CTL_OPEN then s else noteRepair n (writeFields (0x8008 + 1024 * n) w s)

/-- TRK_REPAIR_WRITE (R128). -/
def execTrkRepairWrite (m : Master) (n : Nat) (w : Word) (s : State) : Host.Outcome State Fault Refusal :=
  .next (asWrite m (0x8008 + 1024 * (n % 16)) w.toNat (trkRepairSet n w.toNat) s)

/-- CAD_CTL_WRITE (R43, R65): a forced source counts from its next count frame. -/
def execCadCtlWrite (m : Master) (w : Word) (s : State) : Host.Outcome State Fault Refusal :=
  .next (asWrite m 0x100C w.toNat (writeFields 0x100C w.toNat) s)

/-- A write to LANEn_COMB. -/
def laneCombSet (n w : Nat) (s : State) : State :=
  if 64 ≤ n then s
  else
    let s1 := writeFields (0x10080 + 1024 * n) w s
    if bitAt w 0 then s1 else (s1.comb.filter (fun e => e.lane == n)).foldl closeComb s1

/-- LANE_COMB_WRITE (R482). -/
def execLaneCombWrite (m : Master) (n : Nat) (w : Word) (s : State) : Host.Outcome State Fault Refusal :=
  .next (asWrite m (0x10080 + 1024 * (n % 64)) w.toNat (laneCombSet n w.toNat) s)

/-- CH_EN of a channel changed while its link is up: the channel comes up, with its CREDIT packet and grants, or goes down
(R166, R167, R169, R183, R185). -/
def channelSwitch (old lane : Nat) (s : State) (ch : Nat) : State :=
  let e := bitAt (getF s (F.LANE_CTL_CH_EN lane)) ch
  if e == bitAt old ch || !(chanOf s (lane * 3 + ch)).linkUp then s
  else if e then channelInit s lane ch else channelOff s lane ch

/-- A write to LANEn_CTL. -/
def laneCtlSet (n w : Nat) (s : State) : State :=
  if 64 ≤ n then s
  else [0, 1, 2].foldl (channelSwitch (getF s (F.LANE_CTL_CH_EN n)) n) (writeFields (0x10000 + 1024 * n) w s)

/-- DCRD_MAX of an M channel is fixed (R190). -/
def laneCreditSet (n k w : Nat) (s : State) : State :=
  if k = 0 then writeF w s (F.LANE_CH_CRD_HCRD_MAX n 0) else writeFields (0x10030 + 1024 * n + 4 * k) w s

-- ## Spill engine and rings (R504, R505, R524, R645)

/-- A bib suits a ring of partition `p`. -/
def ringBibOk (s : State) (p b : Nat) : Bool :=
  let e := bibE s b
  bibValid s b && e.part == p && e.place == 0 && e.layout == 0 && !e.mirror && e.len % 2 == 0 && decide (e.len ≤ 512)

/-- A write to a ring's CFG: `key` is its place in `ringTaken`, `off` the register's offset. EN with a bib that does not suit
stays 0, and the flag says so. -/
def ringCfgSet (p key w : Nat) (en bib pos : Fld) (s : State) : Bool × State :=
  let s1 := setF s bib (bits w 1 12)
  if !bitAt w 0 then (true, setF s1 en 0)
  else if !ringBibOk s1 p (bits w 1 12) then (false, setF s1 en 0)
  else if flagF s en then (true, s1)
  else (true, setF (setF { s1 with ringTaken := Sparse.del s1.ringTaken key } en 1) pos 0)

/-- A write to SPL_RINGp_CFG. -/
def splRingSet (p w : Nat) (s : State) : State :=
  if 16 ≤ p then s
  else
    let r := ringCfgSet p p w (F.SPL_RING_CFG_EN p) (F.SPL_RING_CFG_BIB p) (F.SPL_RING_POS_TAKEN p) s
    if r.1 then r.2 else setF r.2 F.SPL_STAT_RING_ERR 1

/-- SPL_RING_CFG_WRITE (R504). -/
def execSplRingCfgWrite (m : Master) (p : Nat) (w : Word) (s : State) : Host.Outcome State Fault Refusal :=
  .next (asWrite m (0x63100 + 16 * (p % 16)) w.toNat (splRingSet p w.toNat) s)

/-- A write to MSH_PRp_CFG (R652). -/
def mshRingSet (p w : Nat) (s : State) : State :=
  (ringCfgSet p (16 + p) w (F.MSH_PR_CFG_EN p) (F.MSH_PR_CFG_BIB p) (F.MSH_PR_POS_TAKEN p) s).2

/-- A write to a tier register: `k` 0 BASE, 1 PAGES, 2 CFG. RATE 0 with EN 1 leaves both as they are (R11). -/
def splTierSet (t k w : Nat) (s : State) : State :=
  if 3 ≤ t || 3 ≤ k || s.moves.any (fun x => !x.ended && x.tl.contains t) then s
  else if k = 2 ∧ bitAt w 0 ∧ bits w 1 8 = 0 then
    writeF w (writeF w s (F.SPL_TIER_CFG_ACCESS t)) (F.SPL_TIER_CFG_TMO t)
  else writeFields (0x63020 + 16 * t + 4 * k) w s

/-- SPL_TIER_WRITE (R524). -/
def execSplTierWrite (m : Master) (t k : Nat) (w : Word) (s : State) : Host.Outcome State Fault Refusal :=
  .next (asWrite m (0x63020 + 16 * (t % 4) + 4 * (k % 4)) w.toNat (splTierSet t k w.toNat) s)

-- ## Journal, marshals and mesh (R584, R591, R592, R613 to R615, R801)

/-- The present state of an open entry goes to the buddy. -/
def copyEntry (s : State) (e : JEntry) : State :=
  emit s (.mesh (.shadow (getF s F.JNL_BUDDY_WAFER) (getF s F.JNL_BUDDY_INST) e.seq e.state (jnlHeader e :: e.words)))

/-- A write to JNL_BUDDY: after SHADOW_LOST the open entries are copied, and SHADOW_LOST clears. -/
def jnlBuddySet (w : Nat) (s : State) : State :=
  let s1 := writeFields 0x6200C w s
  if flagF s1 F.JNL_STAT_SHADOW_LOST && flagF s1 F.JNL_BUDDY_SET then
    let s2 := if flagF s1 F.JNL_CTL_SHADOW_EN
      then (s1.jnl.filter (fun (e : JEntry) => decide (e.state ≤ 2))).foldl copyEntry s1 else s1
    setF s2 F.JNL_STAT_SHADOW_LOST 0
  else s1

/-- JNL_BUDDY_WRITE (R584). -/
def execJnlBuddyWrite (m : Master) (w : Word) (s : State) : Host.Outcome State Fault Refusal :=
  .next (asWrite m 0x6200C w.toNat (jnlBuddySet w.toNat) s)

/-- A write to JNL_HB. -/
def jnlHbSet (m : Master) (w : Nat) (s : State) : State :=
  let s1 := writeFields 0x62014 w s
  if m = .marshal then { s1 with msh := { s1.msh with hb := now s } } else s1

/-- JNL_HB_WRITE (R591, R615). -/
def execJnlHbWrite (m : Master) (w : Word) (s : State) : Host.Outcome State Fault Refusal :=
  .next (asWrite m 0x62014 w.toNat (jnlHbSet m w.toNat) s)

/-- FAILOVER: a write of JNL_CTL.FAILOVER (R591, R613). -/
def execFailover (m : Master) (s : State) : Host.Outcome State Fault Refusal :=
  .next (asWrite m 0x62000 (keptBits s 0x62000 + 4) failover s)

/-- A write to JNL_CTL. -/
def jnlCtlSet (w : Nat) (s : State) : State :=
  let s1 := writeFields 0x62000 w s
  if bitAt w 2 then failover s1 else s1

/-- A write to JNL_CKPT_CMD. -/
def ckptSet (w : Nat) (s : State) : State :=
  let s1 := writeFields 0x6201C w s
  if bitAt w 0 then startCopy s1 else s1

/-- START: a write of JNL_CKPT_CMD with START set (R592, R593, R615). -/
def execStart (m : Master) (w : Word) (s : State) : Host.Outcome State Fault Refusal :=
  .next (asWrite m 0x6201C (w.toNat / 2 * 2 + 1) (ckptSet (w.toNat / 2 * 2 + 1)) s)

/-- A write to MESH_CTL. -/
def meshCtlSet (w : Nat) (s : State) : State :=
  if flagF s F.MESH_CTL_WILGUS_EN && bits w 1 4 != getF s F.MESH_CTL_W_LINKS then s else writeFields 0x64000 w s

/-- MESH_CTL_WRITE (R801). -/
def execMeshCtlWrite (m : Master) (w : Word) (s : State) : Host.Outcome State Fault Refusal :=
  .next (asWrite m 0x64000 w.toNat (meshCtlSet w.toNat) s)

/-- A marshal can issue accesses: it is not held in reset (R591), and its logic runs. -/
def marshalRuns (mi : Nat) (s : State) : Bool :=
  decide (mi < 2) && !flagF s (failBit mi) && (aonState s == 0 || aonState s == 2)

/-- A write of MSH_LMAP. -/
def lmapSet (mi w : Nat) (s : State) : State :=
  { s with msh := { s.msh with remap := Sparse.set s.msh.remap mi (w % 2) 0 } }

/-- MSH_LMAP_WRITE (R221, R222). -/
def execMshLmapWrite (mi : Nat) (w : Word) (s : State) : Host.Outcome State Fault Refusal :=
  .next (if marshalRuns mi s then lmapSet mi w.toNat s else s)

-- ## Integrity (R534, R561, R563)

/-- A write to INT_FLIP_CTL. -/
def flipCtlSet (w : Nat) (s : State) : State :=
  if flagF s F.INT_FLIP_CTL_ARM && bitAt w 0 then s
  else
    let s1 := writeFields 0x61020 w s
    let n := getF s1 F.INT_FLIP_CTL_COUNT
    if !bitAt w 0 then s1
    else if n = 0 then setF s1 F.INT_FLIP_CTL_ARM 0
    else { s1 with integ := { s1.integ with flipLeft := n } }

/-- FLIP_CTL_WRITE (R534). -/
def execFlipCtlWrite (m : Master) (w : Word) (s : State) : Host.Outcome State Fault Refusal :=
  .next (asWrite m 0x61020 w.toNat (flipCtlSet w.toNat) s)

/-- The march test of the log memory starts. -/
def startLogTest (s : State) : State := { s with integ := { s.integ with logTest := true } }

/-- GASP_CLR: ignored while the log memory has failed. -/
def clearGasp (s : State) : State :=
  if s.integ.logFailed then s
  else setF (setF { s with integ := { s.integ with gasp := [] } } F.INT_STAT_LOG_LOST 0) F.INT_LOG_CNT_LOST_CNT 0

/-- RETRY (R561). -/
def execRetry (m : Master) (s : State) : Host.Outcome State Fault Refusal := .next (asWrite m 0x61040 1 startLogTest s)

/-- GASP_CLR (R563). -/
def execGaspClr (m : Master) (s : State) : Host.Outcome State Fault Refusal := .next (asWrite m 0x61040 2 clearGasp s)

/-- A write to INT_LOG_CTL. -/
def logCtlSet (w : Nat) (s : State) : State :=
  let s1 := if bitAt w 1 then clearGasp s else s
  if bitAt w 0 then startLogTest s1 else s1

/-- LOG_TEST_DONE (R561); which entry a failed test names is free. -/
def execLogTestDone (pass : Bool) (s : State) : Host.Outcome State Fault Refusal :=
  if !s.integ.logTest then .next s
  else if pass then
    .next (setF (setF { s with integ := { s.integ with logTest := false, logFailed := false, logEnt := [], logBad := [] } }
      F.INT_LOG_PTR_HEAD 0) F.INT_LOG_PTR_TAIL 0)
  else
    let f := takeFree s 256
    .next (logFail { f.2 with integ := { f.2.integ with logTest := false } } f.1)

-- ## Clock, power, thermal and energy (R677, R697, R708, R720, R732)

/-- CPM_AON_WAKE (R697, R708). -/
def execCpmAonWake (m : Master) (w : Word) (s : State) : Host.Outcome State Fault Refusal :=
  .next (asWrite m 0x1080 w.toNat (cpmAonWake m w.toNat) s)

/-- A write to CPM_FM_CTL. -/
def fmCtlSet (w : Nat) (s : State) : State :=
  let s1 := writeFields 0x1048 w s
  if bitAt w 0 then setF { s1 with clk := { s1.clk with fmRun := true } } F.CPM_FM_CTL_DONE 0 else s1

/-- A write to CPM_THERM_STAT. -/
def thermStatSet (w : Nat) (s : State) : State :=
  let s1 := writeF w (writeF w s F.CPM_THERM_STAT_TWARN) F.CPM_THERM_STAT_SENS_BAD
  if bitAt w 15 then trippedClear s1 else s1

/-- TRIPPED_CLEAR (R720). -/
def execTrippedClear (m : Master) (s : State) : Host.Outcome State Fault Refusal :=
  .next (asWrite m 0x1120 (2 ^ 15) trippedClear s)

/-- A write to CPM_EST_CTL. -/
def estCtlSet (w : Nat) (s : State) : State :=
  let s1 := writeFields 0x1170 w s
  if bitAt w 9 then calReset s1 else s1

/-- CAL_RESET (R732). -/
def execCalReset (m : Master) (s : State) : Host.Outcome State Fault Refusal :=
  .next (asWrite m 0x1170 (keptBits s 0x1170 + 2 ^ 9) calReset s)

-- ## Resets (R755)

/-- WARM (R755). -/
def execWarm (m : Master) (s : State) : Host.Outcome State Fault Refusal := .next (asWrite m 0x14 1 (rstWarm m) s)

/-- COLD (R755). -/
def execCold (m : Master) (s : State) : Host.Outcome State Fault Refusal := .next (asWrite m 0x14 2 (rstCold m) s)

/-- A write to GLB_RST_CMD. -/
def rstCmdSet (m : Master) (w : Nat) (s : State) : State :=
  let s1 := if bitAt w 0 then rstWarm m s else s
  if bitAt w 1 then rstCold m s1 else s1

-- ## Counters and trace (R771, R774, R778, R782)

/-- A write to CTRi_SEL. -/
def ctrSelSet (i w : Nat) (s : State) : State :=
  if 32 ≤ i then s
  else
    let s1 := writeFields (0x28100 + 16 * i) w s
    { s1 with ctr := Sparse.del s1.ctr i }

/-- CTR_SEL_WRITE (R771). -/
def execCtrSelWrite (m : Master) (i : Nat) (w : Word) (s : State) : Host.Outcome State Fault Refusal :=
  .next (asWrite m (0x28100 + 16 * (i % 32)) w.toNat (ctrSelSet i w.toNat) s)

/-- Every event counter becomes zero. -/
def clearCounters (s : State) : State := { s with ctr := [] }

/-- CLEAR (R771). -/
def execClear (m : Master) (s : State) : Host.Outcome State Fault Refusal :=
  .next (asWrite m 0x28000 (keptBits s 0x28000 + 4) clearCounters s)

/-- A write to CTR_CTL. -/
def ctrCtlSet (w : Nat) (s : State) : State :=
  let s1 := writeFields 0x28000 w s
  if bitAt w 2 then clearCounters s1 else s1

/-- The live slot-category counters are copied, then zeroed, as the two bits say (R774). -/
def tdCtl (snap clear : Bool) (s : State) : State :=
  let s1 := if snap then { s with tdSnap := Sparse.keep s.td (fun k => decide (k < 1024)) } else s
  if clear then { s1 with td := Sparse.keep s1.td (fun k => decide (1024 ≤ k)) } else s1

/-- SNAP (R774); `andClear`: CLEAR is written with it. -/
def execSnap (m : Master) (andClear : Bool) (s : State) : Host.Outcome State Fault Refusal :=
  .next (asWrite m 0x28008 (keptBits s 0x28008 + 2 + 4 * b2n andClear) (tdCtl true andClear) s)

/-- TD_CLEAR (R774). -/
def execTdClear (m : Master) (s : State) : Host.Outcome State Fault Refusal :=
  .next (asWrite m 0x28008 (keptBits s 0x28008 + 4) (tdCtl false true) s)

/-- The trace buffer is emptied. -/
def clearTrace (s : State) : State := setF { s with trc := { s.trc with head := 0, count := 0 } } F.TRC_STAT_FULL 0

/-- TRC_CLEAR (R782). -/
def execTrcClear (m : Master) (s : State) : Host.Outcome State Fault Refusal :=
  .next (asWrite m 0x28400 (keptBits s 0x28400 + 2 ^ 7) clearTrace s)

/-- A write to TRC_CTL. -/
def trcCtlSet (w : Nat) (s : State) : State :=
  let s1 := writeFields 0x28400 w s
  if bitAt w 7 then clearTrace s1 else s1

/-- A firmware MARK record. -/
def markTrace (w : Nat) (s : State) : State := trcPush s (trcRecord s 4 0 (w % 2 ^ 32) (now s) 0)

/-- TRC_MARK (R778). -/
def execTrcMark (m : Master) (w : Word) (s : State) : Host.Outcome State Fault Refusal :=
  .next (asWrite m 0x28414 w.toNat (markTrace w.toNat) s)

-- ## Debug, roll-call and mailbox registers (R93, R644, R651, R673, R787)

/-- A write to GLB_DBG_CTL. -/
def dbgCtlSet (m : Master) (w : Nat) (s : State) : State :=
  if m = .debug ∨ flagF s F.GLB_DBG_CTL_LOCK then s else writeFields 0x20 w s

/-- DBG_CTL_WRITE (R787). -/
def execDbgCtlWrite (m : Master) (w : Word) (s : State) : Host.Outcome State Fault Refusal :=
  .next (asWrite m 0x20 w.toNat (dbgCtlSet m w.toNat) s)

/-- The marshal writes what the supervisor passes in step 4 of roll-call. -/
def rollStep4 (s : State) : State := if getF s F.GLB_RC_STAT_STEP = 3 then setF s F.GLB_RC_STAT_STEP 4 else s

/-- GLB_SELF_WRITE (R93, R665, R806). -/
def execGlbSelfWrite (m : Master) (w : Word) (s : State) : Host.Outcome State Fault Refusal :=
  .next (asWrite m 8 w.toNat (fun t => glbSelfWrite m w.toNat (if m = .marshal then rollStep4 t else t)) s)

/-- A write to GLB_SYSw_j: R80 uses a row once its last word is written. -/
def sysRowSet (m : Master) (off w : Nat) (s : State) : State :=
  if m != .marshal then s
  else
    let i := (off - 0x400) / 64
    let j := off / 4 % 16
    let s1 := rollStep4 (setF s (F.GLB_SYS_ROW i j) (if j = 15 then 0 else w))
    if j = 15 then
      { s1 with sysRow := Sparse.set s1.sysRow i (fieldsWord ((List.range 15).map (fun x => (32 * x, getF s1 (F.GLB_SYS_ROW i x))))) 0 }
    else s1

/-- The mailbox of a register in the mailbox range. -/
def mailboxOf (off : Nat) : Nat := (off - 0x70200) / 128

/-- The mailbox accepts writes of this master (R651). -/
def mailboxOpen (m : Master) (off : Nat) : Bool := if mailboxOf off = 0 then m == .supervisor else m == .debug

/-- A write to a mailbox register; GO starts the command in its words. -/
def mailboxSet (m : Master) (off w : Nat) (s : State) : State :=
  if !mailboxOpen m off then s
  else
    let i := mailboxOf off
    let s1 := writeFields off w s
    if off % 128 != 0x50 || !bitAt w 0 then s1
    else if flagF s1 (F.MSH_MB_CTL_BUSY i) then setF s1 (F.MSH_MB_CTL_OVR i) 1
    else
      let words := fieldsWord ((List.range 16).map (fun k => (32 * k, getF s1 (F.MSH_MB_W_WORD i k))))
      cmdArrive (setF s1 (F.MSH_MB_CTL_BUSY i) 1) (if i = 0 then .supervisor else .debug) words 0

-- ## Any register (R4, R6, R97)

/-- A write to a register of a repeated block, where it does more than R4 says. -/
def writeBlock (m : Master) (off w : Nat) (s : State) : State :=
  if off < 0x8000 then
    let n := (off - 0x4000) / 1024
    let o := off % 1024
    if o = 0 then partRangeWrite n 0 w s
    else if o = 0x20 then partQosSet n w s
    else if 0x50 ≤ o ∧ o < 0x68 then partRangeWrite n ((o - 0x4C) / 4) w s
    else writeFields off w s
  else if off < 0xC000 then
    if off % 1024 = 8 then trkRepairSet ((off - 0x8000) / 1024) w s
    else if off % 1024 = 0x100 then calStatSet ((off - 0x8000) / 1024) w s
    else writeFields off w s
  else if off < 0x20000 then
    let n := (off - 0x10000) / 1024
    let o := off % 1024
    if o = 0 then laneCtlSet n w s
    else if o = 0x80 then laneCombSet n w s
    else if 0x30 ≤ o ∧ o < 0x3C then laneCreditSet n ((o - 0x30) / 4) w s
    else writeFields off w s
  else if off < 0x24000 then
    let q := (off - 0x20000) / 1024
    let o := off % 1024
    if o = 0x0C then pmStage q w s else if o = 0x10 then pmWrite q w s else if o = 0x14 then pacerAbort q w s
    else writeFields off w s
  else if off < 0x28000 then
    let q := (off - 0x24000) / 128
    let o := off % 128
    if o = 0x14 then relayLoad q w s
    else if o = 0x1C then (if bitAt w 0 then flushRelay s q else s)
    else writeFields off w s
  else if off < 0x30000 then
    if 0x28100 ≤ off ∧ off < 0x28300 ∧ off % 16 = 0 then ctrSelSet ((off - 0x28100) / 16) w s
    else if off = 0x28000 then ctrCtlSet w s
    else if off = 0x28008 then tdCtl (bitAt w 1) (bitAt w 2) (writeFields off w s)
    else if off = 0x28400 then trcCtlSet w s
    else if off = 0x28414 then markTrace w s
    else writeFields off w s
  else if off < 0x40000 then
    let n := (off - 0x30000) / 16
    if off % 16 = 0 then bibCommitWrite m n w .none s else bibStageWord m n (off / 4 % 4) w s
  else if off < 0x60000 then
    let n := (off - 0x40000) / 8
    if off % 8 = 0 then btnCountWrite n w .none s else btnControlWrite n w s
  else
    let n := (off - 0x60000) / 16
    match off / 4 % 4 with
    | 0 => tapeCfgSet n w s
    | 1 => tapeLinkSet n w s
    | 2 => if bitAt w 26 then forceTape n s else s
    | _ => tapeHeatSet n w s

/-- A write to a register of the other blocks, where it does more than R4 says. -/
def writeSingle (m : Master) (off w : Nat) (s : State) : State :=
  if off = 0x8 then glbSelfWrite m w (if m = .marshal then rollStep4 s else s)
  else if off = 0x14 then rstCmdSet m w s
  else if off = 0x20 then dbgCtlSet m w s
  else if off = 0x58 then sbStatSet w s
  else if off = 0x200 ∨ off = 0x204 then rollRegSet m off w s
  else if 0x400 ≤ off ∧ off < 0xA00 then sysRowSet m off w s
  else if off = 0x1048 then fmCtlSet w s
  else if off = 0x1080 then cpmAonWake m w s
  else if off = 0x1120 then thermStatSet w s
  else if off = 0x1170 then estCtlSet w s
  else if off = 0x2000 then regCtlSet m w s
  else if 0x2020 ≤ off ∧ off < 0x202C then s
  else if 0x2034 ≤ off ∧ off < 0x2040 then regTargetSet ((off - 0x2030) / 4) w s
  else if 0x2080 ≤ off ∧ off < 0x20C0 then regSplitSet ((off - 0x2080) / 4) w s
  else if off = 0x61020 then flipCtlSet w s
  else if off = 0x61040 then logCtlSet w s
  else if off = 0x62000 then jnlCtlSet w s
  else if off = 0x6200C then jnlBuddySet w s
  else if off = 0x62014 then jnlHbSet m w s
  else if off = 0x6201C then ckptSet w s
  else if 0x63020 ≤ off ∧ off < 0x63050 then splTierSet ((off - 0x63020) / 16) (off / 4 % 4) w s
  else if 0x63100 ≤ off ∧ off < 0x63200 ∧ off % 16 = 0 then splRingSet ((off - 0x63100) / 16) w s
  else if off = 0x64000 then meshCtlSet w s
  else if 0x70200 ≤ off ∧ off < 0x70300 then mailboxSet m off w s
  else if 0x70300 ≤ off ∧ off < 0x70400 ∧ off % 16 = 0 then mshRingSet ((off - 0x70300) / 16) w s
  else writeFields off w s

/-- A write of `w` at an aligned offset. -/
def writeAny (m : Master) (off w : Nat) (s : State) : State :=
  if (0x4000 ≤ off ∧ off < 0xC000) ∨ (0x10000 ≤ off ∧ off < 0x61000) then writeBlock m off w s else writeSingle m off w s

/-- A control-space write of `size` bytes at `off` (R4, R6, R97): one that is not an aligned one of 4 bytes is answered
BAD_REQUEST and has no effect. -/
def busWrite (m : Master) (off size w : Nat) (s : State) : State :=
  if 2 ^ 20 ≤ off then s
  else if size != 4 || off % 4 != 0 then (if reaches m off s then emit s (.busReject m 5) else unreached m s)
  else asWrite m off w (writeAny m off w) s

-- ## A marshal's own address space (R218 to R222)

/-- What an address of a marshal's space names. -/
inductive Mapped
  | rom (i : Nat)
  | sram (i : Nat)
  | lmap
  | control (off : Nat)
  | data (off : Nat)
  | nothing
deriving DecidableEq, Repr

/-- The layout of marshal `mi`'s address space, by its REMAP and, for the two windows, its role (R218 to R220). -/
def mapped (s : State) (mi a : Nat) : Mapped :=
  let act := s.activeM == some mi
  if a < 0x40000 then
    (if Sparse.at s.msh.remap mi 0 = 1 then .sram a else if a < 0x10000 then .rom a else .nothing)
  else if 0x100000 ≤ a ∧ a < 0x110000 then .rom (a - 0x100000)
  else if 0x200000 ≤ a ∧ a < 0x240000 then .sram (a - 0x200000)
  else if 0x300000 ≤ a ∧ a < 0x300004 then .lmap
  else if act ∧ 0x40000000 ≤ a ∧ a < 0x40100000 then .control (a - 0x40000000)
  else if act ∧ 0x80000000 ≤ a ∧ a < 0x84000000 then .data (a - 0x80000000)
  else .nothing

/-- The bytes of a store to the working SRAM. -/
def sramStore (mi i size w : Nat) (s : State) : State :=
  let put (m : Sparse Nat) (k : Nat) : Sparse Nat := Sparse.set m (mi * 2 ^ 18 + (i + k) % 2 ^ 18) (bits w (8 * k) 8) 0
  { s with msh := { s.msh with sram := (List.range size).foldl put s.msh.sram } }

/-- A data-path access of the active marshal, of at most one granule: requester 0xD5, partition 15, class 7 (R212, R218). -/
def dataAccess (op off size w : Nat) (s : State) : State :=
  if size = 0 ∨ 64 < off % 64 + size then s
  else
    let h := unitHdr op 7 15 (size - 1) off
    let beats : List Beat := if op = 4 then [BitVec.ofNat 512 (bits w 0 (8 * size) * 2 ^ (8 * (off % 64)))] else []
    submitBridge s { blankReq s.nextId .marshal h beats (now s) with base := off, accs := buildAccs h beats off none }

/-- A store of marshal `mi` at an address of its own space. -/
def marshalStore (mi a size w : Nat) (s : State) : State :=
  if !marshalRuns mi s then s
  else match mapped s mi a with
    | .sram i => sramStore mi i size w s
    | .lmap => lmapSet mi w s
    | .control off => busWrite .marshal off size w s
    | .data off => dataAccess 4 off size w s
    | .rom _ => s
    | .nothing => s

/-- REGISTER_WRITE (R4, R6, R97, R218 to R222): a master's write at a control-space offset, or a marshal's store at an
address of its own space, whose windows lead to the control space and to the bank array. -/
def execRegisterWrite (b : Bus) (off size : Nat) (w : Word) (s : State) : Host.Outcome State Fault Refusal :=
  match b with
  | .port m => .next (busWrite m off size w.toNat s)
  | .core mi => .next (marshalStore mi off size w.toNat s)

end Sys2Proof.Machine
end

