-- ==== Sys2Proof/Machine/Debug.lean ====
section
/-! DEFINITION. Reads of the control space, and the debug port: the wrapper's instructions (R7, R8, R10, R97, R783 to R788). -/

namespace Sys2Proof.Machine

-- ## What a register shows that is kept elsewhere

/-- The code of the lock state (R64). -/
def cadCode : CadState → Nat
  | .unlocked => 0
  | .acquiring => 1
  | .locked => 2
  | .holdover => 3

/-- CPM_CAD_STAT (R64). -/
def cadView (s : State) : List (Nat × Nat) :=
  [(0, cadCode s.cad.st), (2, s.cad.src), (4, s.cad.hop), (10, b2n s.cad.refOk), (11, b2n s.cad.ann.isSome),
   (12, match s.cad.ann with | some a => a.step | none => 0)]

/-- REG_STAT (R273): the pause of a cadence that is not locked leaves class 7 alone and ADMITTING at 1. -/
def regStatView (s : State) : List (Nat × Nat) :=
  let shut := !flagF s F.REG_CTL_OPEN
  let noM := s.activeM.isNone
  let noCad := !cadGood s
  let all := !shut && !unrepaired s && !noM && !s.rst.pause && !flagF s F.REG_STAT_P_DIP && !fenced s
  [(0, b2n all), (1, b2n shut), (2, b2n noM), (3, b2n noCad),
   (4, b2n (s.cad.st == .holdover)), (6, b2n (fenced s)), (7, b2n s.cad.ann.isSome)]

/-- REG_CAL_DATA (R279). -/
def calDataView (s : State) : Nat :=
  let sel := getF s F.REG_CAL_SEL_BUCKET
  let c := getF s F.REG_CAL_SEL_COUNTER
  if flagF s F.REG_CAL_SEL_COARSE then
    let k := coarseOf (now s)
    calAt s.coarse (k + (sel + 256 - k % 256) % 256) c
  else
    let f := fineOf (now s)
    calAt s.fine (f + (sel + 4096 - f % 4096) % 4096) c

/-- Tags of a channel identity in a state. -/
def tagCount (s : State) (id : Nat) (f : Tag → Bool) : Nat := (s.tags.filter (fun p => p.1 / 4096 == id && f p.2)).length

/-- The state of a tag is HELD. -/
def isHeldTag : Tag → Bool
  | .held => true
  | _ => false

/-- The state of a tag is ANSWERED. -/
def isAnsweredTag : Tag → Bool
  | .answered _ => true
  | _ => false

/-- A lane's registers (R186, R190, R191). -/
def laneView (s : State) (n o : Nat) : List (Nat × Nat) :=
  let c (k : Nat) : Chan := chanOf s (n * 3 + k)
  let map (f : Chan → Bool) : Nat := fieldsWord ((List.range 3).map (fun k => (k, b2n (f (c k)))))
  if o = 4 then [(0, map (fun x => x.linkUp)), (10, map (fun x => x.heldOut != []))]
  else if 0x30 ≤ o ∧ o < 0x3C then [(16, (c ((o - 0x30) / 4)).hAvail), (24, (c ((o - 0x30) / 4)).dAvail)]
  else if 0x40 ≤ o ∧ o < 0x4C then
    let id := n * 3 + (o - 0x40) / 4
    [(0, tagCount s id isHeldTag), (13, tagCount s id isAnsweredTag)]
  else []

/-- The register of a stream that its REG_SEL selects (R422). -/
def streamReg (s : State) (q st : Nat) : Nat :=
  let i := getF s (F.PACER_S_REG_SEL_SEL q st)
  match findTask s q st with
  | some t => (t.x ++ t.l).getD i 0
  | none => Sparse.at s.xKeep ((q * 4 + st) * 16 + i) 0

/-- A pacer's registers (R417 to R419, R422). -/
def pacerView (s : State) (q o : Nat) : List (Nat × Nat) :=
  let i := Sparse.at s.pm (q * 256 + getF s (F.PACER_PM_ADDR_ADDR q)) 0
  if o = 4 then
    [(0, fieldsWord ((List.range 4).map (fun st => (st, b2n (streamState s q st != 0))))),
     (11, b2n (flagF s (F.PACER_CTL_GATE_EN q) && pacerIdle s q && !flagF s (F.PACER_STAT_HINT_ACT q)))]
  else if o = 0x0C then [(0, bits i 0 32)]
  else if o = 0x10 then [(0, bits i 32 32)]
  else if 0x100 ≤ o ∧ o % 64 = 0x20 then [(0, bits (streamReg s q ((o - 0x100) / 64)) 0 32)]
  else if 0x100 ≤ o ∧ o % 64 = 0x24 then [(0, bits (streamReg s q ((o - 0x100) / 64)) 32 32)]
  else []

/-- A relay queue's registers (R373). -/
def relayView (s : State) (n o : Nat) : List (Nat × Nat) :=
  let q := relayQ s n
  if o = 4 then [(0, q.length), (7, min 63 (s.relayWait.filter (fun w => w.queue == n)).length)]
  else if o = 0x10 then
    match q[getF s (F.RLY_PEEK_SEL_INDEX n)]? with
    | some h => [(0, h.bib), (12, b2n h.aborted), (13, 1)]
    | none => []
  else []

/-- A trace record read through TRC_DATA (R782). -/
def traceView (s : State) : Nat :=
  let i := getF s F.TRC_SEL_INDEX
  if i < s.trc.count then Sparse.at s.trc.buf i 0 else 0

/-- The counter block (R768, R793, R794). -/
def counterView (s : State) (off : Nat) : List (Nat × Nat) :=
  if off = 0x28404 then [(3, s.trc.queue.length)]
  else if off = 0x28408 then [(0, s.trc.head), (12, s.trc.count)]
  else if 0x28420 ≤ off ∧ off < 0x28440 then [(0, bits (traceView s) (8 * (off - 0x28420)) 32)]
  else if 0x28100 ≤ off ∧ off < 0x28300 then
    let c := Sparse.at s.ctr ((off - 0x28100) / 16) 0
    match off / 4 % 4 with
    | 1 => [(0, bits c 0 32)]
    | 2 => [(0, bits c 32 16)]
    | _ => []
  else if 0x28800 ≤ off then
    let c := Sparse.at s.tdSnap ((off - 0x28800) / 8) 0
    [(0, if off % 8 = 0 then bits c 0 32 else bits c 32 16)]
  else []

/-- A log entry read through INT_LOG_DATA (R560). -/
def logView (s : State) : Nat :=
  let i := getF s F.INT_LOG_SEL_INDEX
  if s.integ.logBad.contains i then 0 else Sparse.at s.integ.logEnt i 0

/-- The integrity block (R565 to R569). -/
def integView (s : State) (off : Nat) : List (Nat × Nat) :=
  if off = 0x61004 then
    [(1, b2n (getF s F.INT_LOG_PTR_HEAD != getF s F.INT_LOG_PTR_TAIL)), (4, getF s F.INT_FLIP_CTL_ARM), (5, b2n (s.integ.bleach != []))]
  else if off = 0x6100C then [(0, s.integ.scrubPos)]
  else if off = 0x61014 then [(0, s.integ.mir.length), (13, s.integ.repQ.length)]
  else if off = 0x61034 then
    [(0, fieldsWord ((List.range 16).map (fun p => (p, b2n (s.integ.bleach.any (fun b => b.part == p)))))), (16, s.integ.bleach.length)]
  else if off = 0x61038 then
    match s.integ.bleach with
    | b :: _ => [(0, b.next), (20, b.part)]
    | [] => []
  else if 0x61050 ≤ off ∧ off < 0x61060 then [(0, bits (logView s) (8 * (off - 0x61050)) 32)]
  else if off = 0x61080 then [(0, s.integ.gasp.length)]
  else if 0x61100 ≤ off ∧ off < 0x61180 then [(0, bits (s.integ.gasp.getD ((off - 0x61100) / 16) 0) (32 * (off / 4 % 4)) 32)]
  else []

/-- STATUS of GLB_RC_STAT: what the active marshal wrote, until roll-call writes the own status again (log entry 102). -/
def shownStatus (s : State) : Nat :=
  match s.roll.shown with
  | some (v, r) => if r = rollStatus s then v else rollStatus s
  | none => rollStatus s

/-- The fields of a register that are kept elsewhere, by their lowest bit. -/
def regView (s : State) (off : Nat) : List (Nat × Nat) :=
  if off < 0x1000 then
    (if off = 0x24 then [(2, b2n (s.reqs.any (fun r => r.org == .debug)))]
     else if off = 0x58 then [(0, entriesUsed s)]
     else if off = 0x68 then [(0, s.waiters.length), (12, s.arrivals.length)]
     else if off = 0x200 then [(4, shownStatus s)]
     else [])
  else if off < 0x2000 then
    (if off = 0x1000 then [(0, bits (now s) 0 32)]
     else if off = 0x1004 then [(0, bits (now s) 32 32)]
     else if off = 0x1008 then cadView s
     else if off = 0x1010 then [(16, min 65535 (holdErrBound s))]
     else if off = 0x118C then [(0, pHint s)]
     else [])
  else if off < 0x4000 then
    (if off = 0x2004 then regStatView s
     else if off = 0x2204 then [(0, calDataView s)]
     else if 0x2100 ≤ off ∧ off < 0x216C then (List.range 8).map (fun j => (4 * j, boostOf s ((off - 0x2100) * 2 + j)))
     else [])
  else if off < 0x8000 then []
  else if off < 0xC000 then
    (if off % 1024 = 0x100 then [(0, calAt s.fine (fineOf (now s)) (ctrTrack ((off - 0x8000) / 1024)))] else [])
  else if off < 0x20000 then laneView s ((off - 0x10000) / 1024) (off % 1024)
  else if off < 0x24000 then pacerView s ((off - 0x20000) / 1024) (off % 1024)
  else if off < 0x28000 then relayView s ((off - 0x24000) / 128) (off % 128)
  else if off < 0x30000 then counterView s off
  else if off < 0x40000 then (if off % 16 = 0 then [(0, b2n (bibValid s ((off - 0x30000) / 16)))] else [])
  else if off < 0x60000 then
    (if off % 8 = 4 then [(6, (s.waiters.filter (fun w => w.baton == (off - 0x40000) / 8)).length)] else [])
  else if off < 0x61000 then []
  else if off < 0x62000 then integView s off
  else if off = 0x62008 then [(0, descUsed s), (14, s.dedup.length)]
  else if off = 0x63004 then [(0, (s.moves.filter (fun m => !m.ended)).length)]
  else []

/-- What a register shows (R4, R10, R13, R97). -/
def regLive (s : State) (off : Nat) : Nat :=
  let v := regView s off
  fieldsWord ((fieldsAt off).map (fun f =>
    (f.lo, match v.find? (fun p => p.1 == f.lo) with
      | some p => p.2 % 2 ^ f.w
      | none => if f.acc = .wo then 0 else getF s f)))

-- ## Multi-word quantities (R7, R8)

/-- The low register of a multi-word quantity, and its words; which quantities these are is log entry 81. -/
def wordGroup (off : Nat) : Option (Nat × Nat) :=
  let at8 (lo : Nat) : Option (Nat × Nat) := some (lo + (off - lo) / 8 * 8, 2)
  if 0x400 ≤ off ∧ off < 0xA00 then some (off / 64 * 64, 16)
  else if 0x1000 ≤ off ∧ off < 0x1008 then some (0x1000, 2)
  else if 0x1024 ≤ off ∧ off < 0x103C then at8 0x1024
  else if 0x11C0 ≤ off ∧ off < 0x1208 then at8 0x11C0
  else if 0x2048 ≤ off ∧ off < 0x2050 then some (0x2048, 2)
  else if 0x4000 ≤ off ∧ off < 0x8000 then
    let o := off % 1024
    if o = 0x30 ∨ o = 0x34 then some (off / 1024 * 1024 + 0x30, 2)
    else if o = 0x80 ∨ o = 0x84 then some (off / 1024 * 1024 + 0x80, 2) else none
  else if 0x20000 ≤ off ∧ off < 0x24000 then
    let b := off / 1024 * 1024
    let o := off % 1024
    let t := o % 64
    if o = 0x0C ∨ o = 0x10 then some (b + 0x0C, 2)
    else if o = 0x18 ∨ o = 0x1C then some (b + 0x18, 2)
    else if 0x100 ≤ o ∧ (t = 0x14 ∨ t = 0x18) then some (off / 64 * 64 + 0x14, 2)
    else if 0x100 ≤ o ∧ (t = 0x20 ∨ t = 0x24) then some (off / 64 * 64 + 0x20, 2) else none
  else if 0x28100 ≤ off ∧ off < 0x28300 then
    (if off / 4 % 4 = 1 ∨ off / 4 % 4 = 2 then some (off / 16 * 16 + 4, 2) else none)
  else if 0x28420 ≤ off ∧ off < 0x28440 then some (0x28420, 8)
  else if 0x28800 ≤ off ∧ off < 0x28C00 then at8 0x28800
  else if 0x30000 ≤ off ∧ off < 0x40000 then some (off / 16 * 16, 4)
  else if 0x40000 ≤ off ∧ off < 0x60000 then some (off / 8 * 8, 2)
  else if 0x61024 ≤ off ∧ off < 0x6102C then some (0x61024, 2)
  else if 0x61050 ≤ off ∧ off < 0x61060 then some (0x61050, 4)
  else if 0x61100 ≤ off ∧ off < 0x61180 then some (off / 16 * 16, 4)
  else if 0x62034 ≤ off ∧ off < 0x6203C then some (0x62034, 2)
  else if 0x70100 ≤ off ∧ off < 0x70200 then some (off / 128 * 128, 32)
  else none

/-- The key of a latched word. -/
def latchKey (m : Master) (off : Nat) : Nat := masterIx m * 2 ^ 20 + off

/-- What a read leaves behind: RD_UE of a log read that fails its check (R560). -/
def readMark (off : Nat) (s : State) : State :=
  if 0x61050 ≤ off ∧ off < 0x61060 ∧ s.integ.logBad.contains (getF s F.INT_LOG_SEL_INDEX) then setF s F.INT_STAT_RD_UE 1 else s

/-- A read of an aligned register by a master (R8). A word above the low one that the master has not latched yet reads as it
stands (log entry 81). LDO_LIM is read from outside Doze only, where it is 0. -/
def readReg (m : Master) (off : Nat) (s : State) : Nat × State :=
  match wordGroup off with
  | some (lo, n) =>
    if off = lo then
      let put (t : Sparse Nat) (i : Nat) : Sparse Nat := Sparse.put t (latchKey m (lo + 4 * i)) (regLive s (lo + 4 * i))
      (regLive s off, readMark off { s with latch := ((List.range n).filter (fun i => i != 0)).foldl put s.latch })
    else ((Sparse.find s.latch (latchKey m off)).getD (regLive s off), readMark off s)
  | none => (regLive s off, s)

-- ## The wrapper (R783 to R788)

/-- Load an instruction. -/
def loadWir (n dr : Nat) (s : State) : State := { s with wrap := { s.wrap with wir := n, dr := dr } }

/-- An instruction that is not permitted loads as WS_BYPASS (R783). -/
def refuseWir (s : State) : State := setF (loadWir 0 0 s) F.GLB_DBG_STAT_DBG_REFUSED 1

/-- The boundary instructions: permitted in FAILED. While a reset of the pin COLD_RST_N is due the pin may still be low, which the
model does not see: whether it is, is free. -/
def loadBoundary (n : Nat) (s : State) : State :=
  if getF s F.MSH_BOOT_STAGE = 15 then loadWir n 0 s
  else if s.rst.due = 2 then
    let f := takeFree s 2
    if f.1 = 1 then loadWir n 0 f.2 else refuseWir f.2
  else refuseWir s

/-- WS_BYPASS (R783). -/
def execWsBypass (s : State) : Host.Outcome State Fault Refusal := .next (loadWir 0 0 s)

/-- WS_EXTEST (R783). -/
def execWsExtest (s : State) : Host.Outcome State Fault Refusal := .next (loadBoundary 1 s)

/-- WS_INTEST (R783). -/
def execWsIntest (s : State) : Host.Outcome State Fault Refusal := .next (loadBoundary 2 s)

/-- WIDCODE (R783). -/
def execWidcode (s : State) : Host.Outcome State Fault Refusal :=
  .next (loadWir 3 (fieldsWord [(0, 6), (4, 1), (16, 0x5A2E)]) s)

/-- The STATUS register (R784). -/
def statusWord (s : State) : Nat :=
  let aon := [(8, aonState s), (14, getF s F.INT_STAT_LOG_LOST), (15, getF s F.CPM_AON_STAT_RET_LOST)]
  if aonState s = 1 ∨ aonState s = 3 then fieldsWord aon
  else fieldsWord (aon ++ [(0, getF s F.MSH_BOOT_STAGE), (4, getF s F.MSH_BOOT_CAUSE), (10, getF s F.REG_CTL_OPEN), (11, b2n (fenced s)),
    (12, getF s F.CPM_CLK_STAT_SAFE), (13, getF s F.CPM_THERM_STAT_TRIPPED), (16, b2n (s.integ.bleach != [])),
    (17, selfInst s), (26, selfWafer s), (31, b2n (assigned s)), (32, now s % 2 ^ 32)])

/-- STATUS (R784). -/
def execStatus (s : State) : Host.Outcome State Fault Refusal := .next (loadWir 4 (statusWord s) s)

/-- The block at an offset ignores a debug write for lack of permission (R651, R787). -/
def debugBarred (off : Nat) : Bool := off == 0x20 || (decide (0x70200 ≤ off) && decide (off < 0x70280))

/-- A load of marshal `mi`: its value, or none where a READ fetches it from the bank array. No row of the table is a
marshal's load: what it fetches or reads shows outside the marshal only in its next commands. -/
def marshalLoad (mi a size : Nat) (s : State) : Option Nat × State :=
  let bytes (f : Nat → Nat) : Nat := fieldsWord ((List.range size).map (fun k => (8 * k, f k)))
  match mapped s mi a with
  | .rom i => (some (bytes (fun k => (Config.bootRom (i + k)).toNat)), s)
  | .sram i => (some (bytes (fun k => Sparse.at s.msh.sram (mi * 2 ^ 18 + (i + k) % 2 ^ 18) 0)), s)
  | .lmap => (some (Sparse.at s.msh.remap mi 0), s)
  | .control off =>
    if size != 4 || off % 4 != 0 then (none, emit s (.busReject .marshal 5))
    else let r := readReg .marshal off s; (some r.1, r.2)
  | .data off => (none, dataAccess 0 off size 0 s)
  | .nothing => (some 0, s)

/-- One control-space access of the debug port: CODE and, for a read, its data. -/
def csrAccess (off data : Nat) (write : Bool) (s : State) : (Nat × Nat) × State :=
  if off % 4 != 0 then ((5, 0), s)
  else if write then ((if debugBarred off then 4 else 0, 0), debugMark .debug off data (writeAny .debug off data s))
  else
    let r := readReg .debug off s
    ((0, r.1), r.2)

/-- CSR (R785): the access completes within the command, so BUSY is never seen. -/
def execCsr (d : BitVec 59) (s : State) : Host.Outcome State Fault Refusal :=
  let x := d.toNat
  if aonState s == 1 || aonState s == 3 || !s.clk.powerOk || !flagF s F.GLB_DBG_CTL_CSR_EN then .next (refuseWir s)
  else
    let r := if bitAt x 53 then
        let a := csrAccess (bits x 32 20) (bits x 0 32) (bitAt x 52) s
        { a.2 with wrap := { a.2.wrap with csr := some (a.1.1, if bitAt x 52 then bits x 0 32 else a.1.2) } }
      else s
    let dr := match r.wrap.csr with
      | some (c, v) => fieldsWord [(0, v), (32, bits x 32 21), (54, c), (58, 1)]
      | none => fieldsWord [(0, bits x 0 32), (32, bits x 32 21)]
    .next (loadWir 5 dr r)

/-- A data access of the debug port (R786): its request, or its answer at once. -/
def debugAccess (off data : Nat) (write : Bool) (s : State) : State :=
  if off % 8 != 0 then { s with dbgRes := some (5, 4) }
  else if s.integ.bleach != [] then setF { s with dbgRes := some (4, 2) } F.GLB_DBG_STAT_DBG_BLEACH 1
  else
    let h := unitHdr (if write then 4 else 0) 7 15 7 off
    let beats : List Beat := if write then [BitVec.ofNat 512 (data * 2 ^ (8 * (off % 64)))] else []
    let r := { blankReq s.nextId .debug h beats (now s) with base := off, accs := buildAccs h beats off none }
    let p := min (promisedTime s 7 (now s) 0) (horizonEnd s)
    let c := chargeOf r 0
    match admission s 7 (now s) p c.1 with
    | (.admitted pl, s1) =>
      accept { s1 with reqs := s1.reqs ++ [r], nextId := s1.nextId + 1, dbgRes := none } { r with promise := p, factor := c.2 } pl
    | (.busy v, s1) => { incF (ctrEvent s1 0x04 0xD7 1 (ctxOf r)) F.REG_REFUSE_BUSY_CNT 1 with dbgRes := some (2, v) }
    | (.rate v, s1) => { incF (ctrEvent s1 0x05 0xD7 1 (ctxOf r)) F.REG_REFUSE_RATE_CNT 1 with dbgRes := some (3, v) }

/-- MEM (R786). -/
def execMem (d : BitVec 97) (s : State) : Host.Outcome State Fault Refusal :=
  let x := d.toNat
  if aonState s == 1 || aonState s == 3 || !s.clk.powerOk || !flagF s F.GLB_DBG_CTL_MEM_EN then .next (refuseWir s)
  else
    let busy (t : State) : Bool := t.reqs.any (fun r => r.org == .debug)
    let r := if !bitAt x 91 then s
      else if busy s then setF s F.GLB_DBG_STAT_DBG_OVR 1
      else debugAccess (bits x 64 26) (bits x 0 64) (bitAt x 90) s
    let at_ := fieldsWord [(64, bits x 64 27)]
    let dr := if busy r then fieldsWord [(0, at_), (95, 1)]
      else match r.dbgRes with
        | some (c, v) => fieldsWord [(0, at_ + v % 2 ^ 64), (92, c), (96, 1)]
        | none => at_
    .next (loadWir 6 dr r)

/-- WAKE (R788). -/
def execWake (b : Bool) (s : State) : Host.Outcome State Fault Refusal :=
  .next (loadWir 7 (b2n b) (if b then wakeRequest s 5 0 else s))

end Sys2Proof.Machine
end

