-- ==== Sys2Proof/Machine/Boot.lean ====
section
/-! DEFINITION. The cold boot from BIST to APPLY: the OTP generation, the boot stream, the image and its checks
(R122 to R124, R618 to R640, R676, R683). -/

namespace Sys2Proof.Machine

/-- Boot stands in stage `g` and goes on: the supplies are there. -/
def bootAt (s : State) (g : Nat) : Bool :=
  getF s F.MSH_BOOT_STAGE == g && s.clk.powerOk && s.clk.rails && s.clk.vaon && aonState s == 0

-- ## Stages RESET, BIST and OTP (R122, R123, R618, R640)

/-- What BIST found of a track. -/
def noteBist (r : BistResult) (s : State) (t : Nat) : State :=
  let fails := ((List.range 32).map (fun b => if r.banks.contains (32 * t + b) then 2 ^ b else 0)).sum
  let s1 := setF (setF s (F.TRK_STAT_BIST_DONE t) 1) (F.TRK_STAT_BIST_FAIL t) (b2n (fails != 0))
  setF (setF s1 (F.TRK_STAT_SPARE_FAIL t) (b2n (r.spares.contains t))) (F.TRK_BIST_FAIL_FAIL t) fails

/-- BIST leaves every granule UNWRITTEN over zero rows with odd parity (R122). -/
def runBist (s : State) (r : BistResult) : State :=
  (List.range 16).foldl (noteBist r) { s with mem := [], gst := [], par := [], parFlip := [] }

/-- The generation in force: the highest valid one (R640). -/
def forceGen (s : State) : Option Nat := ([3, 2, 1, 0] : List Nat).find? (fun g => otpValid (otpGen s g))

/-- CONFIRMED is burned where it is 0, and the shadows take the generation in force. -/
def loadOtp (s : State) (g : Nat) : State :=
  let w := otpGen s g
  let c := if bitAt w 1008 then w else w + 2 ^ 1008
  let s1 := noteOtp (if bitAt w 1008 then s else burnGen s g c)
  let s2 := (List.range 32).foldl (fun t i => setF t (F.MSH_OTP_SH_SHADOW i) (bits c (32 * i) 32)) (setF s1 F.MSH_OTP_GEN g)
  let s3 := setF (setF s2 F.MSH_ARB_OTP_ARB (bits c 696 16)) F.CPM_AON_VRET_TRIM (bits c 176 6)
  (List.range 16).foldl (fun t k => setF (setF t (F.TRK_REPAIR_OTP_BANK k) (bits c (6 * k) 5)) (F.TRK_REPAIR_OTP_EN k)
    (bits c (6 * k + 5) 1)) s3

/-- Repair of one track: the OTP entry, else the spare for one failing bank (R123). -/
def repairTrack (s : State) (t : Nat) : State :=
  let fails := getF s (F.TRK_BIST_FAIL_FAIL t)
  let open_ := (List.range 32).filter (fun b => bitAt fails b && spareFor s t != some b)
  let s1 := match open_ with
    | [b] =>
      if flagF s (F.TRK_REPAIR_OTP_EN t) || flagF s (F.TRK_STAT_SPARE_FAIL t) then s
      else setF (setF s (F.TRK_REPAIR_SOFT_BANK t) b) (F.TRK_REPAIR_SOFT_EN t) 1
    | _ => s
  noteRepair t s1


/-- Stages OTP and the repairs: the array clock's step is that of BOOT_STEP. -/
def bootOtp (s : State) : State :=
  let bad := genMask s (fun w => w != 0 && !otpValid w)
  let s1 := setF s F.MSH_BOOT_OTP_BAD (b2n (bad != 0))
  match forceGen s1 with
  | none => bootFail s1 9
  | some g =>
    let s2 := (List.range 16).foldl repairTrack (loadOtp s1 g)
    let s3 := retuneTo (setF s2 F.CPM_STEP_CUR_STEP (bootStep s2)) (bootStep s2)
    if unrepaired s3 then bootFail s3 10 else setF s3 F.MSH_BOOT_STAGE 3

/-- BIST_DONE (R122 to R124, R618, R621, R640): stages RESET to OTP. -/
def execBistDone (r : BistResult) (s : State) : Host.Outcome State Fault Refusal :=
  if !bootAt s 0 || !s.rst.coldRun then .next s
  else
    let s1 := startMarshals s r.marshals
    if s1.activeM.isNone then .next (bootFail s1 12) else .next (bootOtp (runBist s1 r))

-- ## Stages REFCLK and PLL (R676, R683)

/-- REF_READY (R676). -/
def execRefReady (s : State) : Host.Outcome State Fault Refusal :=
  if bootAt s 3 then .next (setF (setF s F.CPM_CLK_STAT_REF_READY 1) F.MSH_BOOT_STAGE 4) else .next s

/-- REFCLK_TIMEOUT (R676). -/
def execRefclkTimeout (s : State) : Host.Outcome State Fault Refusal :=
  if bootAt s 3 then .next (bootFail s 11) else .next s

/-- PLL_LOCK (R676, R683). -/
def execPllLock (s : State) : Host.Outcome State Fault Refusal :=
  if bootAt s 4 then .next (setF (setF (setF s F.CPM_CLK_STAT_LOCK_A 1) F.CPM_CLK_STAT_ON_PLL 1) F.MSH_BOOT_STAGE 5)
  else .next s

-- ## Slot records and the selection (R623, R625)

/-- STATE of a record; one whose CRC fails, or with a reserved bit or STATE, reads as EMPTY. -/
def slotState (w : Nat) : Nat :=
  if crc16 496 (w % 2 ^ 496) != bits w 496 16 || bits w 24 8 != 0 || bits w 96 400 != 0 || decide (4 < bits w 0 4) then 0
  else bits w 0 4

/-- IMG_SEQ of a record. -/
def slotSeq (w : Nat) : Nat := bits w 32 32

/-- IMG_LEN of a record. -/
def slotLen (w : Nat) : Nat := bits w 64 32

/-- elig(s) of R625. -/
def imageOk (s : State) (i : Nat) : Bool :=
  let w := s.boot.dir.getD i 0
  !bitAt (getF s F.MSH_BOOT_BAD) i && decide (getF s F.MSH_ARB_OTP_ARB ≤ bits w 8 16)
  && (slotState w == 4 || (slotState w == 3 && decide (bits w 4 4 < 3)))

/-- The slots of a state that may boot, those with the largest IMG_SEQ. -/
def slotsIn (s : State) (st : Nat) : List Nat :=
  let e := ([0, 1] : List Nat).filter (fun i => imageOk s i && slotState (s.boot.dir.getD i 0) == st)
  e.filter (fun i => e.all (fun j => decide (slotSeq (s.boot.dir.getD j 0) ≤ slotSeq (s.boot.dir.getD i 0))))

/-- Choose the slot; which of two with equal IMG_SEQ is free. -/
def pickImage (s : State) : Option Nat × State := chooseFrom s (if slotsIn s 3 = [] then slotsIn s 4 else slotsIn s 3)

/-- The record of the selected slot. -/
def selRecord (s : State) : Nat := s.boot.dir.getD (getF s F.MSH_BOOT_SLOT) 0

-- ## Blocks (R624, R626)

/-- A block that R624 does not discard, of one KIND. -/
def blockOk (b : Block) (kind : Nat) : Bool :=
  bits b.hdr.toNat 0 4 == kind && bits b.hdr.toNat 5 3 == 0 && bits b.hdr.toNat 40 216 == 0

/-- SLOT of a block. -/
def blockSlot (b : Block) : Nat := bits b.hdr.toNat 4 1

/-- DIRECTORY of a pass. -/
def takeDirectory (s : State) (b : Block) : State :=
  let l := padBytes 1024 b.payload
  let s1 := { s with boot := { s.boot with dir := [leBytes (l.take 64), leBytes ((l.drop 64).take 64)], gap := false } }
  match pickImage s1 with
  | (none, s2) => bootFail s2 1
  | (some i, s2) =>
    let same := s2.boot.sel && getF s2 F.MSH_BOOT_SLOT == i
    let on := blockSlot b == i
    let s3 := if same then s2 else setF { s2 with boot := { s2.boot with sel := true, img := [] } } F.MSH_BOOT_PASSES 0
    setF (setF { s3 with boot := { s3.boot with on := on } } F.MSH_BOOT_SLOT i) F.MSH_BOOT_SLOT_WAIT (b2n (!on))

/-- DIRECTORY (R624 to R626). -/
def execDirectory (b : Block) (s : State) : Host.Outcome State Fault Refusal :=
  if bootAt s 5 && blockOk b 0 then .next (takeDirectory s b) else .next s

-- ## The image (R631 to R634)

/-- `n` bytes of the image from byte `o`, as a number. -/
def imgNat (l : List Byte) (o n : Nat) : Nat := leBytes ((l.drop o).take n)

/-- A section table entry (R633). -/
structure Sect where
  ty : Nat
  role : Nat
  off : Nat
  len : Nat
  load : Nat
deriving DecidableEq, Repr

/-- Entry `i` of the section table. -/
def sectAt (l : List Byte) (i : Nat) : Sect :=
  let o := 0x100 + 32 * i
  ⟨imgNat l o 1, imgNat l (o + 1) 1, imgNat l (o + 4) 4, imgNat l (o + 8) 4, imgNat l (o + 12) 4⟩

/-- NSECT. -/
def nSect (l : List Byte) : Nat := imgNat l 7 1

/-- The section table. -/
def sects (l : List Byte) : List Sect := (List.range (nSect l)).map (sectAt l)

/-- The section applies to a role. -/
def forRole (r : Nat) (x : Sect) : Bool := x.role == 0xFF || x.role == r

/-- The bytes of a section. -/
def sectBytes (l : List Byte) (x : Sect) : List Byte := (l.drop x.off).take x.len

/-- The ROLEMAP entry of instance `i` (R634). -/
def roleEntry (l : List Byte) (i : Nat) : Nat :=
  match (sects l).find? (fun x => x.ty == 2) with
  | some x => imgNat l (x.off + 4 * i) 4
  | none => 0

/-- The role of this instance. -/
def ownRole (l : List Byte) : Nat := bits (roleEntry l siteIndex) 0 8

/-- The header breaks R631, or differs from the slot record. -/
def headerBad (l : List Byte) (record : Nat) : Bool :=
  imgNat l 0 4 != 0xD1A50E64 || imgNat l 4 2 != 1 || imgNat l 6 1 != 6 || nSect l == 0 || decide (32 < nSect l)
  || imgNat l 8 4 % 64 != 0 || decide (2 ^ 25 < imgNat l 8 4) || imgNat l 14 2 != 0 || imgNat l 0x1C 36 != 0
  || imgNat l 8 4 != slotLen record || imgNat l 0x10 4 != slotSeq record

/-- The limits of one section (R633). -/
def sectBad (x : Sect) : Bool :=
  match x.ty with
  | 1 => decide (2 ^ 17 < x.load + x.len)
  | 2 => x.role != 0xFF || x.len != 1920
  | 3 => x.len != 1024
  | 4 => x.len % 8 != 0
  | 5 => decide (15 < x.load) || x.len % 8 != 0 || decide (2048 < x.len)
  | 6 => x.len % 16 != 0 || decide (4096 < x.load + x.len / 16)
  | 7 => decide (0x3F00000 < x.load + x.len)
  | _ => true

/-- A section that goes to the staging rows (R636). -/
def staged (x : Sect) : Bool := decide (2 ≤ x.ty) && decide (x.ty ≤ 6)

/-- Two PARTITIONS sections share a role. -/
def twoPartitions (l : List Sect) : Bool :=
  let p := l.filter (fun x => x.ty == 3)
  p.zipIdx.any (fun a => p.zipIdx.any (fun b => decide (a.2 < b.2) && (a.1.role == 0xFF || b.1.role == 0xFF || a.1.role == b.1.role)))

/-- The section table breaks R633. -/
def tableBad (l : List Byte) : Bool :=
  let t := sects l
  let ends := 0x100 + 32 * nSect l
  t.any sectBad
  || t.zipIdx.any (fun p => imgNat l (0x102 + 32 * p.2) 2 != 0 || imgNat l (0x110 + 32 * p.2) 16 != 0)
  || t.any (fun x => x.off % 64 != 0 || decide (x.off < ends) || decide (imgNat l 8 4 < x.off + x.len))
  || t.zipIdx.any (fun p => match t[p.2 + 1]? with | some y => decide (y.off < p.1.off + p.1.len) | none => false)
  || (t.filter (fun x => x.ty == 2)).length != 1 || twoPartitions t

/-- An entry of the ROLEMAP breaks R634. -/
def roleMapBad (l : List Byte) : Bool :=
  (List.range 480).any (fun i =>
    let e := roleEntry l i
    bits e 28 4 != 0 || bits e 0 8 == 0xFF || decide (479 < bits e 8 9))

/-- What a ROLEMAP that has arrived shows of its own role's sections: the order before DATA, and the staging rows (R633,
R636). -/
def ownBad (l : List Byte) : Bool :=
  let t := (sects l).filter (forRole (ownRole l))
  t.zipIdx.any (fun p => p.1.ty == 7 && (t.drop (p.2 + 1)).any (fun y => y.ty == 2 || y.ty == 3))
  || decide (2 ^ 20 < ((t.filter staged).map (fun x => x.len)).sum)

/-- A REGS section writes where it may not. -/
def regsBad (l : List Byte) (x : Sect) : Bool :=
  (List.range (x.len / 8)).any (fun i =>
    let o := imgNat l (x.off + 8 * i) 4
    (decide (0x70000 ≤ o) && decide (o < 0x80000)) || o == F.REG_CTL_OPEN.off)

/-- Check 1 of R637 on what has arrived of the image. -/
def formatBad (l : List Byte) (record : Nat) : Bool :=
  let n := l.length
  let come (x : Sect) : Bool := decide (x.off + x.len ≤ n)
  if n < 256 then false
  else headerBad l record || (decide (0x100 + 32 * nSect l ≤ n) && (tableBad l
    || (sects l).any (fun x => come x && ((x.ty == 2 && (roleMapBad l || ownBad l)) || (x.ty == 4 && regsBad l x)))))

-- ## Failing a slot (R637)

/-- The first check that fails: the slot is bad, every bank row is UNWRITTEN again, and selection starts anew. -/
def failSlot (s : State) (cause : Nat) : State :=
  let s1 := setF (orF s F.MSH_BOOT_BAD (getF s F.MSH_BOOT_SLOT)) F.MSH_BOOT_CAUSE cause
  let s2 := setF (setF s1 F.MSH_BOOT_PASSES 0) F.MSH_BOOT_STAGE 5
  { s2 with gst := [], boot := { s2.boot with on := false, gap := false, img := [], sel := false } }

-- ## DATA and END_OF_PASS (R626, R636)

/-- A DATA block in order: its bytes up to IMG_LEN. -/
def takeBytes (s : State) (b : Block) : State :=
  let l := (s.boot.img ++ padBytes 1024 b.payload).take (slotLen (selRecord s))
  let s1 := { s with boot := { s.boot with img := l } }
  if formatBad l (selRecord s) then failSlot s1 3 else s1

/-- The block that comes next; the image lies in whole blocks but for its end. -/
def nextBlock (s : State) : Nat := (s.boot.img.length + 1023) / 1024

/-- DATA (R626, R636). -/
def execData (b : Block) (s : State) : Host.Outcome State Fault Refusal :=
  let k := bits b.hdr.toNat 16 24
  if !(bootAt s 5 && blockOk b 1 && s.boot.on) || blockSlot b != getF s F.MSH_BOOT_SLOT || s.boot.gap
     || decide (k < nextBlock s) then .next s
  else if k = nextBlock s then .next (takeBytes s b)
  else .next { s with boot := { s.boot with gap := true } }

/-- Store a byte of the boot stream at an instance offset: an UNWRITTEN granule becomes CLEAN over zero bytes. -/
def putByte (s : State) (a : Nat) (v : Byte) : State :=
  let pg := physG s (a / 64)
  let s1 := if stateOf s pg = .unwritten then setFlip (setPar (setState (writeRow s pg 0 allBytes) pg .clean) pg 0) pg 0 else s
  writeByte s1 (pg * 64 + a % 64) v

/-- Store bytes from an instance offset on. -/
def putBytes (s : State) : Nat → List Byte → State
  | _, [] => s
  | a, v :: l => putBytes (putByte s a v) (a + 1) l

/-- Bytes of a FIRMWARE section go to the working SRAM of both marshals (R619). -/
def putSram (s : State) : Nat → List Byte → State
  | _, [] => s
  | a, v :: l =>
    let m := Sparse.set s.msh.sram a v.toNat 0
    putSram { s with msh := { s.msh with sram := Sparse.set m (2 ^ 18 + a) v.toNat 0 } } (a + 1) l

/-- The first staging row as an instance offset (R636). -/
def stagingBase : Nat := 2016 * 512 * 64

/-- The sections of the role reach their places (R636; log entry 35). -/
def placeSections (s : State) : State :=
  let l := s.boot.img
  let t := (sects l).filter (forRole (ownRole l))
  let s1 := t.foldl (fun u x => if x.ty = 1 then putSram u x.load (sectBytes l x)
    else if x.ty = 7 then putBytes u x.load (sectBytes l x) else u) s
  putBytes s1 stagingBase ((t.filter staged).flatMap (sectBytes l))

/-- CRC of R632: over the image with CRC and SIG zero. -/
def imageCrc (l : List Byte) : Nat :=
  crc32c (l.take 0x18 ++ List.replicate 4 0 ++ (l.drop 0x1C).take 0x84 ++ List.replicate 96 0 ++ l.drop 0x100)

/-- END_OF_PASS of a pass of the selected slot. -/
def endPass (s : State) : State :=
  let n := getF s F.MSH_BOOT_PASSES + 1
  let s1 := setF { s with boot := { s.boot with on := false } } F.MSH_BOOT_PASSES n
  if s1.boot.img.length < slotLen (selRecord s1) then (if 4 ≤ n then failSlot s1 2 else s1)
  else if s1.boot.img.length < 256 then failSlot s1 3
  else
    let s2 := placeSections s1
    if imageCrc s2.boot.img = imgNat s2.boot.img 0x18 4 then setF s2 F.MSH_BOOT_STAGE 6 else failSlot s2 4

/-- END_OF_PASS (R626, R637). -/
def execEndOfPass (b : Block) (s : State) : Host.Outcome State Fault Refusal :=
  if bootAt s 5 && blockOk b 2 && s.boot.on && blockSlot b == getF s F.MSH_BOOT_SLOT then .next (endPass s) else .next s

-- ## AUTH (R632, R637)

/-- The key check of R637. -/
def keyOk (s : State) : Bool :=
  let h := otpBits s 312 384
  h != 0 && (Config.sha384 ((s.boot.img.drop 0x40).take 96)).toNat == h

/-- SIG verifies (R632). -/
def sigOk (l : List Byte) : Bool :=
  Config.ecdsaVerify ((l.drop 0x40).take 96) ((l.drop 0xA0).take 96) (l.take 0xA0 ++ l.drop 0x100)

/-- The lowest-numbered instance whose BUDDY names this one (R634). -/
def partnerOf (l : List Byte) : Option Nat :=
  (List.range 480).find? (fun i => bits (roleEntry l i) 8 9 == siteIndex)

/-- JNL_SHADOW from the role map: shadow traffic is accepted where there is a partner (log entry 36). -/
def setShadow (s : State) : State :=
  let l := s.boot.img
  let r := bits (roleEntry l siteIndex) 17 11
  let s1 := if r ≤ 2032 then setF s F.JNL_SHADOW_ROW r else s
  match partnerOf l with
  | some i => setF (setF s1 F.JNL_SHADOW_PINST i) F.JNL_SHADOW_EN 1
  | none => setF s1 F.JNL_SHADOW_EN 0

/-- The firmware starts at ENTRY in both marshals, and roll-call begins; after a cold start it logs the reset (R619, R767,
R778). -/
def startFirmware (s : State) : State :=
  let e := imgNat s.boot.img 0x14 4
  let s1 := setF { s with msh := { s.msh with entry := e, hb := now s },
                          boot := { s.boot with img := [], on := false } } F.GLB_RC_STAT_STEP 1
  if s1.rst.coldRun then
    let c := getF s1 F.GLB_RST_CAUSE_CAUSE
    let s2 := logEvt s1 0x3D 0 15 0xFF 0 0 0 c
    trcPush s2 (trcRecord s2 4 2 c (now s2) 0)
  else s1

/-- A site that the role map leaves unused (R634). -/
def bootUnused (s : State) : State :=
  let s1 := startFirmware (setF (setShadow s) F.MSH_BOOT_STAGE 11)
  { s1 with boot := { s1.boot with unused := true }, rst := { s1.rst with coldRun := false } }

/-- AUTH_DONE (R634, R637). -/
def execAuthDone (s : State) : Host.Outcome State Fault Refusal :=
  if !bootAt s 6 then .next s
  else if !keyOk s then .next (failSlot s 5)
  else if !sigOk s.boot.img then .next (failSlot s 6)
  else if imgNat s.boot.img 12 2 < getF s F.MSH_ARB_OTP_ARB then .next (failSlot s 7)
  else if ownRole s.boot.img = 0xFE then .next (bootUnused s)
  else .next (setF s F.MSH_BOOT_STAGE 7)

-- ## APPLY (R635, R638)

/-- One step of APPLY after another: the first that fails ends it. -/
def applyThen (x : Bool × State) (f : State → Bool × State) : Bool × State := if x.1 then f x.2 else x

/-- The offset of the register that word `k` of record `n` goes to (R635). -/
def partWordOff (n k : Nat) : Nat :=
  match k with
  | 0 => (F.PART_REGION_BASE_ROW n).off
  | 1 => (F.PART_QOS_SHARE n).off
  | 2 => (F.PART_SR_KEY_LO_KEY_LO n).off
  | 3 => (F.PART_SR_KEY_HI_KEY_HI n).off
  | 4 => (F.PART_SR_STEP_STEP n).off
  | 5 => (F.PART_SYNC_SPIN n).off
  | 12 => (F.PART_TIER_CTL_ORD0 n).off
  | _ => if k % 2 = 0 then (F.PART_TIER_BASE_BASE n ((k - 6) / 2)).off else (F.PART_TIER_CNT_CNT n ((k - 6) / 2)).off

/-- The registers of one record; the shares are judged for the section as a whole (R638). -/
def applyPart (l : List Byte) (o : Nat) (s : State) (n : Nat) : State :=
  (List.range 13).foldl (fun t k =>
    let w := imgNat l (o + 64 * n + 4 * k) 4
    if n = 15 ∧ k = 0 then t
    else if k = 1 then writeFields (partWordOff n 1) w t
    else writeAny .marshal (partWordOff n k) w t) s

/-- A create of APPLY. -/
def applyCreate (l : List Byte) (o : Nat) (x : Bool × State) (n : Nat) : Bool × State :=
  if !x.1 || !bitAt (imgNat l (o + 64 * n + 52) 4) 0 then x
  else match createCause x.2 n with
    | some _ => (false, x.2)
    | none => (true, createPart x.2 n)

/-- Step 1: the registers, then the creates. -/
def applyPartitions (l : List Byte) (t : List Sect) (s : State) : Bool × State :=
  match t.find? (fun x => x.ty == 3) with
  | none => (true, s)
  | some x =>
    let s1 := (List.range 16).foldl (applyPart l x.off) s
    if qosOk s1 then (List.range 15).foldl (applyCreate l x.off) (true, s1) else (false, s1)

/-- Step 2: the ROLEMAP values. -/
def applyRole (l : List Byte) (s : State) : State :=
  setShadow (setF s F.JNL_BUDDY_INST (bits (roleEntry l siteIndex) 8 9))

/-- One entry of a BIBS section, committed under R333. -/
def applyBib (l : List Byte) (o : Nat) (b : Nat) (x : Bool × State) (i : Nat) : Bool × State :=
  if !x.1 then x
  else
    let n := b + i
    let w (k : Nat) : Nat := imgNat l (o + 16 * i + 4 * k) 4
    let s1 := ([1, 2, 3] : List Nat).foldl (fun t k => bibStageWord .marshal n k (w k) t) x.2
    let c := bibCurrent s1 n
    let r := commitBib s1 n c (bibMerge s1 .marshal n (w 0) c)
    (r.1, { r.2 with bibStage := Sparse.keep r.2.bibStage (fun k => k / 4 != stageKey .marshal n 0 / 4) })

/-- Steps 3 to 5 for one section: a BIBS, PACER or REGS section. -/
def applySect (l : List Byte) (x : Bool × State) (y : Sect) : Bool × State :=
  match y.ty with
  | 4 => (x.1, (List.range (y.len / 8)).foldl (fun t i =>
      writeAny .marshal (imgNat l (y.off + 8 * i) 4) (imgNat l (y.off + 8 * i + 4) 4) t) x.2)
  | 5 => (x.1, { x.2 with pm := (List.range (y.len / 8)).foldl (fun m i =>
      Sparse.set m (y.load * 256 + i) (imgNat l (y.off + 8 * i) 8) 0) x.2.pm })
  | 6 => (List.range (y.len / 16)).foldl (applyBib l y.off y.load) x
  | _ => x

/-- The sections of one type, in stream order. -/
def applyType (l : List Byte) (t : List Sect) (ty : Nat) (s : State) : Bool × State :=
  (t.filter (fun x => x.ty == ty)).foldl (fun x y => if x.1 then applySect l x y else x) (true, s)

/-- Step 6: a DATA section lies in the region of one created partition. -/
def dataOk (s : State) (x : Sect) : Bool :=
  (List.range 15).any (fun p => partCreated s p && decide (64 * (regionOf s p).1 ≤ x.load)
    && decide (x.load + x.len ≤ 64 * (regionOf s p).2))

/-- The steps of R638. -/
def applyAll (s : State) : Bool × State :=
  let l := s.boot.img
  let t := (sects l).filter (forRole (ownRole l))
  let a := applyThen (applyThen (applyPartitions l t s) (fun u => (true, applyRole l u))) (applyType l t 6)
  let b := applyThen (applyThen a (applyType l t 5)) (applyType l t 4)
  applyThen b (fun u => ((t.filter (fun x => x.ty == 7)).all (dataOk u), u))

/-- The staging rows are UNWRITTEN again. -/
def clearStaging (s : State) : State :=
  let old (pg : Nat) : Bool := if pg < 2 ^ 20 then decide (2016 * 512 ≤ pg) else decide (2016 ≤ pg % 2048)
  { s with gst := Sparse.keep s.gst (fun pg => !old pg) }

/-- The move to INIT_STEP at the end of APPLY of a cold start (R683). -/
def initStep (s : State) : State :=
  let t := targetStep s (getF s F.CPM_CLK_CTL_INIT_STEP)
  if !s.rst.coldRun || t == curStep s then s else retuneTo (stepDue s t 2 (now s) false) t

/-- APPLY has ended. -/
def endApply (s : State) : State :=
  let s1 := initStep (clearStaging s)
  let s2 := setF (setF s1 F.MSH_IMG_IMG_SEQ (imgNat s.boot.img 0x10 4)) F.MSH_ARB_IMG_ARB (imgNat s.boot.img 12 2)
  startFirmware (setF s2 F.MSH_BOOT_STAGE 8)

/-- APPLY_DONE (R637, R638, R683). -/
def execApplyDone (s : State) : Host.Outcome State Fault Refusal :=
  if !bootAt s 7 then .next s
  else
    let r := applyAll s
    .next (if r.1 then endApply r.2 else failSlot r.2 8)

end Sys2Proof.Machine
end

