-- ==== Sys2Proof/Machine/Tick.lean ====
section
/-! DEFINITION. The passing of time, which a step with no command makes (log entry 1): the cadence ticks, the array cycles in
them, and what counts and moves in each (R34, R49, R64, R195 to R209, R366, R411, R768, R773, R775, R806, R807). -/

namespace Sys2Proof.Machine

/-- The cadence count advances: awake, REF_READY set, and a clock to run on. -/
def ticksRun (s : State) : Bool :=
  aonState s != 1 && aonState s != 3 && s.clk.powerOk && s.clk.vaon && flagF s F.CPM_CLK_STAT_REF_READY && !countHeld s

/-- The track is clock-gated: in Idle, with no charge in the current or the next fine bucket (R690). -/
def trackGated (s : State) (t : Nat) : Bool :=
  let b := fineOf (now s)
  pwrState s == 1 && calAt s.fine b (ctrTrack t) == 0 && calAt s.fine (b + 1) (ctrTrack t) == 0

/-- A granule request for the bank waits behind the head of its track input (R199). -/
def bankBlocked (s : State) (bank : Nat) : Bool :=
  s.inputs.any (fun i => match findReq s i.rid with
    | some r => ((r.accs.filter (fun a => a.burst == i.burst && !a.done)).drop 1).any (fun a => bankOf a.gran == bank)
    | none => false)

/-- The category of a bank's slot without an access (R773): 3 GATED, 4 RETURN, 5 BLOCKED, 6 EMPTY. -/
def idleSlot (s : State) (bank : Nat) : Nat :=
  if trackGated s (bank / 32) then 3 else if retWaits s bank then 4 else if bankBlocked s bank then 5 else 6

/-- One bank's slot of an array cycle: an access has counted itself. -/
def slotOfCycle (s : State) (td : Sparse Nat) (bank : Nat) : Sparse Nat :=
  let used := Sparse.at td (1024 + bank) 0
  let c := bank / 32 * 8 + idleSlot s bank
  if used = 0 then Sparse.set td c (Sparse.at td c 0 + 1) 0 else Sparse.set td (1024 + bank) (used - 1) 0

/-- The slots of every bank in one array cycle. -/
def countSlots (s : State) : State :=
  if flagF s F.CTR_TD_CTL_EN then { s with td := (List.range 512).foldl (slotOfCycle s) s.td }
  else { s with td := Sparse.keep s.td (fun k => decide (k < 1024)) }

/-- The concourse at the end of an array cycle: waits and promotions (R203, R208), the track outputs (R209), the inputs that
are free again (R200), reserved entries that have passed, and the grants of level 1 (R206). -/
def concourseEdge (s : State) : State :=
  let s1 := freeInputs (deliverRets (noteWaits s))
  arbitrate { s1 with conc := { s1.conc with rsv := s1.conc.rsv.filter (fun p => decide (s1.cad.cycles < p.2)) } }

/-- The signals that relay queues made in the array cycle that ends are applied in the next one (R366, R803). -/
def applySigs (s : State) : State :=
  s.conc.sigs.foldl (fun t p => signalAs t p.1 1 p.2) { s with conc := { s.conc with sigs := [] } }

/-- One array cycle ends and the next one begins. -/
def oneCycle (s : State) : State :=
  let s1 := concourseEdge (countSlots (trcDrain (countStalls (ctrEvent s 0x01 0 1 noCtx) 1)))
  leadsDue (applySigs { s1 with cad := { s1.cad with cycles := s1.cad.cycles + 1 } })

/-- The array cycles of the tick that begins, at the step's frequency divided by a trip's divider (R719). -/
def cyclesOfTick (s : State) : State :=
  if !arrayRuns s then { s with cad := { s.cad with left := 0 } }
  else
    let f := s.cad.cycFrac + mhz (curStep s)
    let d := 1000 * max 1 s.clk.div
    { s with cad := { s.cad with cycFrac := f % d, left := f / d } }

/-- The count advances; a slow advance loses the last tick of a reference period (R49). -/
def advanceCount (s : State) : State :=
  let ph := (s.cad.phase + 1) % 16
  let lose := ph == 0 && s.cad.slow != 0
  let s1 := { s with cad := { s.cad with phase := ph, passed := s.cad.passed + 1 } }
  if lose then { s1 with cad := { s1.cad with slow := s.cad.slow - 1 } }
  else
    let s2 := checkSource { s1 with cad := { s1.cad with count := s.cad.count + 1 } }
    if arrayRuns s2 then ctrEvent s2 0x02 0 1 noCtx else s2

/-- The next moment: an array cycle still to come in the present tick, or the next tick (log entry 1). -/
def tick (s : State) : State :=
  if s.cad.left != 0 && arrayRuns s then oneCycle { s with cad := { s.cad with left := s.cad.left - 1 } }
  else if ticksRun s then cyclesOfTick (advanceCount s)
  else s

end Sys2Proof.Machine
end

