-- ==== Sys2Proof/Machine/Dispatch.lean ====
section
/-! DEFINITION. The dispatch of a command to its meaning: one arm per row of spec/opcode_table.json. -/

namespace Sys2Proof.Machine

/-- The effect of a command on everything but the queue. -/
def exec (i : Instr) (s : State) : Host.Outcome State Fault Refusal :=
  match i with
  | .read p => Sys2Proof.Machine.execRead p s
  | .readT p => Sys2Proof.Machine.execReadT p s
  | .readS p => Sys2Proof.Machine.execReadS p s
  | .readX p => Sys2Proof.Machine.execReadX p s
  | .write p => Sys2Proof.Machine.execWrite p s
  | .writeN p => Sys2Proof.Machine.execWriteN p s
  | .accum p => Sys2Proof.Machine.execAccum p s
  | .atomAdd p => Sys2Proof.Machine.execAtomAdd p s
  | .atomMin p => Sys2Proof.Machine.execAtomMin p s
  | .atomMax p => Sys2Proof.Machine.execAtomMax p s
  | .atomSwap p => Sys2Proof.Machine.execAtomSwap p s
  | .atomCas p => Sys2Proof.Machine.execAtomCas p s
  | .batonSignal p => Sys2Proof.Machine.execBatonSignal p s
  | .batonWait p => Sys2Proof.Machine.execBatonWait p s
  | .batonRead p => Sys2Proof.Machine.execBatonRead p s
  | .tapeArrive p => Sys2Proof.Machine.execTapeArrive p s
  | .fence p => Sys2Proof.Machine.execFence p s
  | .hint p => Sys2Proof.Machine.execHint p s
  | .paceLaunch p => Sys2Proof.Machine.execPaceLaunch p s
  | .relayPush p => Sys2Proof.Machine.execRelayPush p s
  | .relayPop p => Sys2Proof.Machine.execRelayPop p s
  | .coreCreditPacket p => Sys2Proof.Machine.execCoreCreditPacket p s
  | .channelUp lane ch => Sys2Proof.Machine.execChannelUp lane ch s
  | .channelDown lane ch => Sys2Proof.Machine.execChannelDown lane ch s
  | .creditReturnTimeout lane ch => Sys2Proof.Machine.execCreditReturnTimeout lane ch s
  | .holdPointPass id => Sys2Proof.Machine.execHoldPointPass id s
  | .issueRelease id => Sys2Proof.Machine.execIssueRelease id s
  | .scoreboardPass p => Sys2Proof.Machine.execScoreboardPass p s
  | .accessCommit bank ph => Sys2Proof.Machine.execAccessCommit bank ph s
  | .attachedSignalApply id up => Sys2Proof.Machine.execAttachedSignalApply id up s
  | .meshRequest m => Sys2Proof.Machine.execMeshRequest m s
  | .remoteAnswer a => Sys2Proof.Machine.execRemoteAnswer a s
  | .gatewayResend seq => Sys2Proof.Machine.execGatewayResend seq s
  | .remoteTimeout seq => Sys2Proof.Machine.execRemoteTimeout seq s
  | .dedupExpiry owafer oinst oreq tag => Sys2Proof.Machine.execDedupExpiry owafer oinst oreq tag s
  | .countFrame link frame => Sys2Proof.Machine.execCountFrame link frame s
  | .announcementFrame link frame => Sys2Proof.Machine.execAnnouncementFrame link frame s
  | .wakePattern link frame => Sys2Proof.Machine.execWakePattern link frame s
  | .sourceLoss => Sys2Proof.Machine.execSourceLoss s
  | .holdoverExpiry => Sys2Proof.Machine.execHoldoverExpiry s
  | .effectiveTick => Sys2Proof.Machine.execEffectiveTick s
  | .stepSwitch => Sys2Proof.Machine.execStepSwitch s
  | .stepSwitchDeferred => Sys2Proof.Machine.execStepSwitchDeferred s
  | .fineBucketBoundary up => Sys2Proof.Machine.execFineBucketBoundary up s
  | .latencyDecay => Sys2Proof.Machine.execLatencyDecay s
  | .nop q st perr => Sys2Proof.Machine.execNop q st perr s
  | .li q st perr => Sys2Proof.Machine.execLi q st perr s
  | .add q st perr => Sys2Proof.Machine.execAdd q st perr s
  | .addi q st perr => Sys2Proof.Machine.execAddi q st perr s
  | .muli q st perr => Sys2Proof.Machine.execMuli q st perr s
  | .shli q st perr => Sys2Proof.Machine.execShli q st perr s
  | .shri q st perr => Sys2Proof.Machine.execShri q st perr s
  | .andi q st perr => Sys2Proof.Machine.execAndi q st perr s
  | .jmp q st perr => Sys2Proof.Machine.execJmp q st perr s
  | .bnz q st perr => Sys2Proof.Machine.execBnz q st perr s
  | .beq q st perr => Sys2Proof.Machine.execBeq q st perr s
  | .loop q st perr => Sys2Proof.Machine.execLoop q st perr s
  | .endl q st perr => Sys2Proof.Machine.execEndl q st perr s
  | .src q st perr => Sys2Proof.Machine.execSrc q st perr s
  | .dst q st perr => Sys2Proof.Machine.execDst q st perr s
  | .mov q st perr => Sys2Proof.Machine.execMov q st perr s
  | .sig q st perr => Sys2Proof.Machine.execSig q st perr s
  | .waitb q st perr => Sys2Proof.Machine.execWaitb q st perr s
  | .rpop q st perr => Sys2Proof.Machine.execRpop q st perr s
  | .rpush q st perr => Sys2Proof.Machine.execRpush q st perr s
  | .sync q st perr => Sys2Proof.Machine.execSync q st perr s
  | .endTask q st perr => Sys2Proof.Machine.execEndTask q st perr s
  | .taskEnd q st => Sys2Proof.Machine.execTaskEnd q st s
  | .taskCutoff q st => Sys2Proof.Machine.execTaskCutoff q st s
  | .pacerRemoteAnswer a => Sys2Proof.Machine.execPacerRemoteAnswer a s
  | .pacerRemoteResend seq => Sys2Proof.Machine.execPacerRemoteResend seq s
  | .hintStart q => Sys2Proof.Machine.execHintStart q s
  | .hintEnd q => Sys2Proof.Machine.execHintEnd q s
  | .tapeArriveMessage m => Sys2Proof.Machine.execTapeArriveMessage m s
  | .tapeReleaseMessage m => Sys2Proof.Machine.execTapeReleaseMessage m s
  | .tapeFaultMessage m => Sys2Proof.Machine.execTapeFaultMessage m s
  | .tapeRefusedMessage m => Sys2Proof.Machine.execTapeRefusedMessage m s
  | .tapeRelease n => Sys2Proof.Machine.execTapeRelease n s
  | .combWindowExpiry lane core slot => Sys2Proof.Machine.execCombWindowExpiry lane core slot s
  | .moveDescriptorRead p => Sys2Proof.Machine.execMoveDescriptorRead p s
  | .spill m => Sys2Proof.Machine.execSpill m s
  | .fill m => Sys2Proof.Machine.execFill m s
  | .tierPageDelivery d => Sys2Proof.Machine.execTierPageDelivery d s
  | .tierAck mv bib page => Sys2Proof.Machine.execTierAck mv bib page s
  | .tierTimeout mv => Sys2Proof.Machine.execTierTimeout mv s
  | .tierPageFailure mv bib => Sys2Proof.Machine.execTierPageFailure mv bib s
  | .shadowWrite link desc data => Sys2Proof.Machine.execShadowWrite link desc data s
  | .shadowResubmit => Sys2Proof.Machine.execShadowResubmit s
  | .shadowAck seq => Sys2Proof.Machine.execShadowAck seq s
  | .shadowTimeout seq => Sys2Proof.Machine.execShadowTimeout seq s
  | .keepaliveSend => Sys2Proof.Machine.execKeepaliveSend s
  | .keepalive fenced => Sys2Proof.Machine.execKeepalive fenced s
  | .partnerLost => Sys2Proof.Machine.execPartnerLost s
  | .heartbeatTimeout => Sys2Proof.Machine.execHeartbeatTimeout s
  | .marshalFailure => Sys2Proof.Machine.execMarshalFailure s
  | .failover m => Sys2Proof.Machine.execFailover m s
  | .marshalTakeover => Sys2Proof.Machine.execMarshalTakeover s
  | .start m w => Sys2Proof.Machine.execStart m w s
  | .checkpointComplete => Sys2Proof.Machine.execCheckpointComplete s
  | .partFault cls idx => Sys2Proof.Machine.execPartFault cls idx s
  | .recoveryWindowClose => Sys2Proof.Machine.execRecoveryWindowClose s
  | .warmReset => Sys2Proof.Machine.execWarmReset s
  | .warmResume => Sys2Proof.Machine.execWarmResume s
  | .coldReset => Sys2Proof.Machine.execColdReset s
  | .bistDone r => Sys2Proof.Machine.execBistDone r s
  | .refReady => Sys2Proof.Machine.execRefReady s
  | .refclkTimeout => Sys2Proof.Machine.execRefclkTimeout s
  | .pllLock => Sys2Proof.Machine.execPllLock s
  | .directory b => Sys2Proof.Machine.execDirectory b s
  | .data b => Sys2Proof.Machine.execData b s
  | .endOfPass b => Sys2Proof.Machine.execEndOfPass b s
  | .authDone => Sys2Proof.Machine.execAuthDone s
  | .applyDone => Sys2Proof.Machine.execApplyDone s
  | .helloSend => Sys2Proof.Machine.execHelloSend s
  | .hello link m => Sys2Proof.Machine.execHello link m s
  | .helloReply link m receipt => Sys2Proof.Machine.execHelloReply link m receipt s
  | .neighbourSilent link => Sys2Proof.Machine.execNeighbourSilent link s
  | .fieldStatus m => Sys2Proof.Machine.execFieldStatus m s
  | .fieldStatusTimeout => Sys2Proof.Machine.execFieldStatusTimeout s
  | .glbSelfWrite m w => Sys2Proof.Machine.execGlbSelfWrite m w s
  | .partCreate c => Sys2Proof.Machine.execPartCreate c s
  | .partKill k => Sys2Proof.Machine.execPartKill k s
  | .bibAlloc c => Sys2Proof.Machine.execBibAlloc c s
  | .bibFree c => Sys2Proof.Machine.execBibFree c s
  | .bibLink c => Sys2Proof.Machine.execBibLink c s
  | .srSet c => Sys2Proof.Machine.execSrSet c s
  | .ctxSave c => Sys2Proof.Machine.execCtxSave c s
  | .ctxRestore c => Sys2Proof.Machine.execCtxRestore c s
  | .otpBurn c => Sys2Proof.Machine.execOtpBurn c s
  | .reform c => Sys2Proof.Machine.execReform c s
  | .reformRestart => Sys2Proof.Machine.execReformRestart s
  | .pwrIdle c => Sys2Proof.Machine.execPwrIdle c s
  | .pwrActive c => Sys2Proof.Machine.execPwrActive c s
  | .pwrDoze c => Sys2Proof.Machine.execPwrDoze c s
  | .dozeEntry => Sys2Proof.Machine.execDozeEntry s
  | .dozeDrainTimeout => Sys2Proof.Machine.execDozeDrainTimeout s
  | .pwrOff c => Sys2Proof.Machine.execPwrOff c s
  | .pwrStepSet c => Sys2Proof.Machine.execPwrStepSet c s
  | .pwrCap c => Sys2Proof.Machine.execPwrCap c s
  | .pwrFixed c => Sys2Proof.Machine.execPwrFixed c s
  | .pwrBoost c => Sys2Proof.Machine.execPwrBoost c s
  | .cpmAonWake m w => Sys2Proof.Machine.execCpmAonWake m w s
  | .wakeRequest source lane => Sys2Proof.Machine.execWakeRequest source lane s
  | .dozeTimerExpiry => Sys2Proof.Machine.execDozeTimerExpiry s
  | .laneTrainingRequest lane => Sys2Proof.Machine.execLaneTrainingRequest lane s
  | .wakeComplete => Sys2Proof.Machine.execWakeComplete s
  | .retentionBrownout => Sys2Proof.Machine.execRetentionBrownout s
  | .clockFault k => Sys2Proof.Machine.execClockFault k s
  | .rcFail => Sys2Proof.Machine.execRcFail s
  | .safeExit => Sys2Proof.Machine.execSafeExit s
  | .safeTimeout => Sys2Proof.Machine.execSafeTimeout s
  | .fmDone count => Sys2Proof.Machine.execFmDone count s
  | .tempSample raw => Sys2Proof.Machine.execTempSample raw s
  | .tripSwitch => Sys2Proof.Machine.execTripSwitch s
  | .supplyBelowWarn rail => Sys2Proof.Machine.execSupplyBelowWarn rail s
  | .supplyPauseEnd => Sys2Proof.Machine.execSupplyPauseEnd s
  | .supplyReset => Sys2Proof.Machine.execSupplyReset s
  | .supplyResetRelease => Sys2Proof.Machine.execSupplyResetRelease s
  | .vmonRefresh mv => Sys2Proof.Machine.execVmonRefresh mv s
  | .pmonRefresh edges => Sys2Proof.Machine.execPmonRefresh edges s
  | .estimatorWindow measured milliamps => Sys2Proof.Machine.execEstimatorWindow measured milliamps s
  | .monitorToken sweep => Sys2Proof.Machine.execMonitorToken sweep s
  | .noToken => Sys2Proof.Machine.execNoToken s
  | .pfailAssert => Sys2Proof.Machine.execPfailAssert s
  | .handoffPoint => Sys2Proof.Machine.execHandoffPoint s
  | .pfailRelease => Sys2Proof.Machine.execPfailRelease s
  | .warmRstN => Sys2Proof.Machine.execWarmRstN s
  | .coldRstN => Sys2Proof.Machine.execColdRstN s
  | .warm m => Sys2Proof.Machine.execWarm m s
  | .cold m => Sys2Proof.Machine.execCold m s
  | .vaonApplied => Sys2Proof.Machine.execVaonApplied s
  | .bibCommit m n w up => Sys2Proof.Machine.execBibCommit m n w up s
  | .bibStageWrite m n k w => Sys2Proof.Machine.execBibStageWrite m n k w s
  | .btnCntWrite m n w up => Sys2Proof.Machine.execBtnCntWrite m n w up s
  | .btnCtlWrite m n w => Sys2Proof.Machine.execBtnCtlWrite m n w s
  | .tapeHeatWrite m n w => Sys2Proof.Machine.execTapeHeatWrite m n w s
  | .force m n => Sys2Proof.Machine.execForce m n s
  | .tapeCfgWrite m n link w => Sys2Proof.Machine.execTapeCfgWrite m n link w s
  | .rlyLoad m n w => Sys2Proof.Machine.execRlyLoad m n w s
  | .flush m n => Sys2Proof.Machine.execFlush m n s
  | .abort m q w => Sys2Proof.Machine.execAbort m q w s
  | .pmDataLoWrite m q w => Sys2Proof.Machine.execPmDataLoWrite m q w s
  | .pmDataHiWrite m q w => Sys2Proof.Machine.execPmDataHiWrite m q w s
  | .partRegionWrite m n k w => Sys2Proof.Machine.execPartRegionWrite m n k w s
  | .partQosWrite m n w => Sys2Proof.Machine.execPartQosWrite m n w s
  | .regSplitWrite m q w => Sys2Proof.Machine.execRegSplitWrite m q w s
  | .regCtlWrite m w => Sys2Proof.Machine.execRegCtlWrite m w s
  | .trkRepairWrite m n w => Sys2Proof.Machine.execTrkRepairWrite m n w s
  | .cadCtlWrite m w => Sys2Proof.Machine.execCadCtlWrite m w s
  | .laneCombWrite m n w => Sys2Proof.Machine.execLaneCombWrite m n w s
  | .splRingCfgWrite m p w => Sys2Proof.Machine.execSplRingCfgWrite m p w s
  | .splTierWrite m t k w => Sys2Proof.Machine.execSplTierWrite m t k w s
  | .jnlBuddyWrite m w => Sys2Proof.Machine.execJnlBuddyWrite m w s
  | .jnlHbWrite m w => Sys2Proof.Machine.execJnlHbWrite m w s
  | .meshCtlWrite m w => Sys2Proof.Machine.execMeshCtlWrite m w s
  | .flipCtlWrite m w => Sys2Proof.Machine.execFlipCtlWrite m w s
  | .retry m => Sys2Proof.Machine.execRetry m s
  | .gaspClr m => Sys2Proof.Machine.execGaspClr m s
  | .trippedClear m => Sys2Proof.Machine.execTrippedClear m s
  | .calReset m => Sys2Proof.Machine.execCalReset m s
  | .ctrSelWrite m x w => Sys2Proof.Machine.execCtrSelWrite m x w s
  | .clear m => Sys2Proof.Machine.execClear m s
  | .snap m andClear => Sys2Proof.Machine.execSnap m andClear s
  | .tdClear m => Sys2Proof.Machine.execTdClear m s
  | .trcClear m => Sys2Proof.Machine.execTrcClear m s
  | .trcMark m w => Sys2Proof.Machine.execTrcMark m w s
  | .mshLmapWrite mi w => Sys2Proof.Machine.execMshLmapWrite mi w s
  | .dbgCtlWrite m w => Sys2Proof.Machine.execDbgCtlWrite m w s
  | .registerWrite b off size w => Sys2Proof.Machine.execRegisterWrite b off size w s
  | .wsBypass => Sys2Proof.Machine.execWsBypass s
  | .wsExtest => Sys2Proof.Machine.execWsExtest s
  | .wsIntest => Sys2Proof.Machine.execWsIntest s
  | .widcode => Sys2Proof.Machine.execWidcode s
  | .status => Sys2Proof.Machine.execStatus s
  | .csr d => Sys2Proof.Machine.execCsr d s
  | .mem d => Sys2Proof.Machine.execMem d s
  | .wake b => Sys2Proof.Machine.execWake b s
  | .meshLinkTrained k => Sys2Proof.Machine.execMeshLinkTrained k s
  | .meshLinkDown k => Sys2Proof.Machine.execMeshLinkDown k s
  | .supplyReturn => Sys2Proof.Machine.execSupplyReturn s
  | .referenceUsable => Sys2Proof.Machine.execReferenceUsable s
  | .logTestDone pass => Sys2Proof.Machine.execLogTestDone pass s
  | .combWriteBackResend id => Sys2Proof.Machine.execCombWriteBackResend id s
  | .vaonRemoved => Sys2Proof.Machine.execVaonRemoved s
  | .railsRemoved => Sys2Proof.Machine.execRailsRemoved s
  | .railsApplied => Sys2Proof.Machine.execRailsApplied s

end Sys2Proof.Machine
end

