-- ==== Sys2Proof/WellFormed.lean ====
section
/-! DEFINITION. Which commands can reach the block at all: every lane, channel, link, bank, pacer, ring, bib, baton, tape
and register number lies in its range (R69, R133, R333, R374, R421, R441), and a packet has at least its header flit. A
command out of these ranges is no command of the spec; `exec` leaves the state as it is for it. -/

namespace Sys2Proof

/-- A lane packet: one of 64 lanes, one of three channels (R133), and at least the header flit (R141). -/
def LanePkt.wf (p : LanePkt) : Bool := decide (p.lane < 64) && decide (p.ch < 3) && decide (1 ≤ p.flits)

/-- A mesh request arrives over one of four links, from an instance of 24 wafers of 480 (R77). -/
def MeshPkt.wf (m : MeshPkt) : Bool := decide (m.link < 4) && decide (m.owafer < 24) && decide (m.oinst < 480)

/-- An answer carries one of the eight response codes (R157). -/
def MeshAns.wf (a : MeshAns) : Bool := decide (a.code < 8)

/-- A command comes from a mailbox or from one of 16 partition rings (R641). -/
def CmdSrc.wf : CmdSrc → Bool
  | .supervisor => true
  | .debug => true
  | .ring p => decide (p < 16)

/-- A tier page brings five record granules and 1,024 data granules (R497). -/
def TierPage.wf (d : TierPage) : Bool := d.record.length == 5 && d.data.length == 1024

/-- A block of the boot stream carries 1,024 payload bytes (R624). -/
def Block.wf (b : Block) : Bool := b.payload.length == 1024

/-- BIST names data banks, tracks and marshals (R122, R123, R618). -/
def BistResult.wf (r : BistResult) : Bool :=
  r.banks.all (fun b => decide (b < 512)) && r.spares.all (fun t => decide (t < 16)) && r.marshals.all (fun m => decide (m < 2))

/-- A flipped bit is one of 512 data bits or 64 parity bits (R99, R100). -/
def Phys.wf (p : Phys) : Bool := p.flips.all (fun f => decide (f < 576))

/-- A part that a PART_FAULT may name (R603). -/
def partRange (cls idx : Nat) : Bool :=
  match cls with
  | 1 => decide (idx < 512)
  | 2 => decide (idx < 64)
  | 3 => decide (idx < 16)
  | 4 => decide (idx < 4)
  | 6 => idx == 0
  | _ => false

/-- The ranges of a command's operands. -/
def Instr.wf : Instr → Bool
  | .read p => p.wf
  | .readT p => p.wf
  | .readS p => p.wf
  | .readX p => p.wf
  | .write p => p.wf
  | .writeN p => p.wf
  | .accum p => p.wf
  | .atomAdd p => p.wf
  | .atomMin p => p.wf
  | .atomMax p => p.wf
  | .atomSwap p => p.wf
  | .atomCas p => p.wf
  | .batonSignal p => p.wf
  | .batonWait p => p.wf
  | .batonRead p => p.wf
  | .tapeArrive p => p.wf
  | .fence p => p.wf
  | .hint p => p.wf
  | .paceLaunch p => p.wf
  | .relayPush p => p.wf
  | .relayPop p => p.wf
  | .coreCreditPacket p => p.wf
  | .channelUp lane ch => decide (lane < 64) && decide (ch < 3)
  | .channelDown lane ch => decide (lane < 64) && decide (ch < 3)
  | .creditReturnTimeout lane ch => decide (lane < 64) && decide (ch < 3)
  | .holdPointPass _ => true
  | .issueRelease _ => true
  | .scoreboardPass p => p.p4.all (fun x => decide (x.1 < 16))
  | .accessCommit bank ph => decide (bank < 512) && ph.wf
  | .attachedSignalApply _ _ => true
  | .meshRequest m => m.wf
  | .remoteAnswer a => a.wf
  | .gatewayResend _ => true
  | .remoteTimeout _ => true
  | .dedupExpiry _ _ _ _ => true
  | .countFrame link _ => decide (link < 4)
  | .announcementFrame link _ => decide (link < 4)
  | .wakePattern link _ => decide (link < 4)
  | .sourceLoss => true
  | .holdoverExpiry => true
  | .effectiveTick => true
  | .stepSwitch => true
  | .stepSwitchDeferred => true
  | .fineBucketBoundary _ => true
  | .latencyDecay => true
  | .nop q st _ => decide (q < 16) && decide (st < 4)
  | .li q st _ => decide (q < 16) && decide (st < 4)
  | .add q st _ => decide (q < 16) && decide (st < 4)
  | .addi q st _ => decide (q < 16) && decide (st < 4)
  | .muli q st _ => decide (q < 16) && decide (st < 4)
  | .shli q st _ => decide (q < 16) && decide (st < 4)
  | .shri q st _ => decide (q < 16) && decide (st < 4)
  | .andi q st _ => decide (q < 16) && decide (st < 4)
  | .jmp q st _ => decide (q < 16) && decide (st < 4)
  | .bnz q st _ => decide (q < 16) && decide (st < 4)
  | .beq q st _ => decide (q < 16) && decide (st < 4)
  | .loop q st _ => decide (q < 16) && decide (st < 4)
  | .endl q st _ => decide (q < 16) && decide (st < 4)
  | .src q st _ => decide (q < 16) && decide (st < 4)
  | .dst q st _ => decide (q < 16) && decide (st < 4)
  | .mov q st _ => decide (q < 16) && decide (st < 4)
  | .sig q st _ => decide (q < 16) && decide (st < 4)
  | .waitb q st _ => decide (q < 16) && decide (st < 4)
  | .rpop q st _ => decide (q < 16) && decide (st < 4)
  | .rpush q st _ => decide (q < 16) && decide (st < 4)
  | .sync q st _ => decide (q < 16) && decide (st < 4)
  | .endTask q st _ => decide (q < 16) && decide (st < 4)
  | .taskEnd q st => decide (q < 16) && decide (st < 4)
  | .taskCutoff q st => decide (q < 16) && decide (st < 4)
  | .pacerRemoteAnswer a => a.wf
  | .pacerRemoteResend _ => true
  | .hintStart q => decide (q < 16)
  | .hintEnd q => decide (q < 16)
  | .tapeArriveMessage _ => true
  | .tapeReleaseMessage _ => true
  | .tapeFaultMessage _ => true
  | .tapeRefusedMessage _ => true
  | .tapeRelease n => decide (n < 256)
  | .combWindowExpiry lane core slot => decide (lane < 64) && decide (core < 8) && decide (slot < 4)
  | .moveDescriptorRead p => decide (p < 16)
  | .spill m => decide (m.p < 16)
  | .fill m => decide (m.p < 16)
  | .tierPageDelivery d => d.wf
  | .tierAck _ _ _ => true
  | .tierTimeout _ => true
  | .tierPageFailure _ _ => true
  | .shadowWrite link desc _ => decide (link < 4) && decide (desc < 8192)
  | .shadowResubmit => true
  | .shadowAck _ => true
  | .shadowTimeout _ => true
  | .keepaliveSend => true
  | .keepalive _ => true
  | .partnerLost => true
  | .heartbeatTimeout => true
  | .marshalFailure => true
  | .failover _ => true
  | .marshalTakeover => true
  | .start _ _ => true
  | .checkpointComplete => true
  | .partFault cls idx => partRange cls idx
  | .recoveryWindowClose => true
  | .warmReset => true
  | .warmResume => true
  | .coldReset => true
  | .bistDone r => r.wf
  | .refReady => true
  | .refclkTimeout => true
  | .pllLock => true
  | .directory b => b.wf
  | .data b => b.wf
  | .endOfPass b => b.wf
  | .authDone => true
  | .applyDone => true
  | .helloSend => true
  | .hello link _ => decide (link < 4)
  | .helloReply link _ receipt => decide (link < 4) && decide (receipt < 2 ^ 32)
  | .neighbourSilent link => decide (link < 4)
  | .fieldStatus _ => true
  | .fieldStatusTimeout => true
  | .glbSelfWrite _ _ => true
  | .partCreate c => c.wf
  | .partKill k => k.src.wf && k.sw.all (fun u => decide (u.1 < 512))
  | .bibAlloc c => c.wf
  | .bibFree c => c.wf
  | .bibLink c => c.wf
  | .srSet c => c.wf
  | .ctxSave c => c.wf
  | .ctxRestore c => c.wf
  | .otpBurn c => c.wf
  | .reform c => c.wf
  | .reformRestart => true
  | .pwrIdle c => c.wf
  | .pwrActive c => c.wf
  | .pwrDoze c => c.wf
  | .dozeEntry => true
  | .dozeDrainTimeout => true
  | .pwrOff c => c.wf
  | .pwrStepSet c => c.wf
  | .pwrCap c => c.wf
  | .pwrFixed c => c.wf
  | .pwrBoost c => c.wf
  | .cpmAonWake _ _ => true
  | .wakeRequest source lane => decide (source < 8) && decide (lane < 64)
  | .dozeTimerExpiry => true
  | .laneTrainingRequest lane => decide (lane < 64)
  | .wakeComplete => true
  | .retentionBrownout => true
  | .clockFault _ => true
  | .rcFail => true
  | .safeExit => true
  | .safeTimeout => true
  | .fmDone _ => true
  | .tempSample raw => raw.length == 8
  | .tripSwitch => true
  | .supplyBelowWarn rail => decide (rail < 2)
  | .supplyPauseEnd => true
  | .supplyReset => true
  | .supplyResetRelease => true
  | .vmonRefresh mv => mv.length == 4
  | .pmonRefresh edges => edges.length == 8
  | .estimatorWindow _ _ => true
  | .monitorToken sweep => decide (sweep < 2 ^ 16)
  | .noToken => true
  | .pfailAssert => true
  | .handoffPoint => true
  | .pfailRelease => true
  | .warmRstN => true
  | .coldRstN => true
  | .warm _ => true
  | .cold _ => true
  | .vaonApplied => true
  | .bibCommit _ n _ _ => decide (n < 4096)
  | .bibStageWrite _ n k _ => decide (n < 4096) && decide (k < 4)
  | .btnCntWrite _ n _ _ => decide (n < 16384)
  | .btnCtlWrite _ n _ => decide (n < 16384)
  | .tapeHeatWrite _ n _ => decide (n < 256)
  | .force _ n => decide (n < 256)
  | .tapeCfgWrite _ n _ _ => decide (n < 256)
  | .rlyLoad _ n _ => decide (n < 128)
  | .flush _ n => decide (n < 128)
  | .abort _ q _ => decide (q < 16)
  | .pmDataLoWrite _ q _ => decide (q < 16)
  | .pmDataHiWrite _ q _ => decide (q < 16)
  | .partRegionWrite _ n k _ => decide (n < 16) && decide (k < 7)
  | .partQosWrite _ n _ => decide (n < 16)
  | .regSplitWrite _ q _ => decide (q < 16)
  | .regCtlWrite _ _ => true
  | .trkRepairWrite _ n _ => decide (n < 16)
  | .cadCtlWrite _ _ => true
  | .laneCombWrite _ n _ => decide (n < 64)
  | .splRingCfgWrite _ p _ => decide (p < 16)
  | .splTierWrite _ t k _ => decide (t < 3) && decide (k < 4)
  | .jnlBuddyWrite _ _ => true
  | .jnlHbWrite _ _ => true
  | .meshCtlWrite _ _ => true
  | .flipCtlWrite _ _ => true
  | .retry _ => true
  | .gaspClr _ => true
  | .trippedClear _ => true
  | .calReset _ => true
  | .ctrSelWrite _ i _ => decide (i < 32)
  | .clear _ => true
  | .snap _ _ => true
  | .tdClear _ => true
  | .trcClear _ => true
  | .trcMark _ _ => true
  | .mshLmapWrite mi _ => decide (mi < 2)
  | .dbgCtlWrite _ _ => true
  | .registerWrite (.port _) off size _ => [1, 2, 4].contains size && decide (off < 2 ^ 20)
  | .registerWrite (.core mi) a size _ =>
    decide (mi < 2) && [1, 2, 4].contains size && a % size == 0 && decide (a < 2 ^ 32)
  | .wsBypass => true
  | .wsExtest => true
  | .wsIntest => true
  | .widcode => true
  | .status => true
  | .csr _ => true
  | .mem _ => true
  | .wake _ => true
  | .meshLinkTrained k => decide (k < 4)
  | .meshLinkDown k => decide (k < 4)
  | .supplyReturn => true
  | .referenceUsable => true
  | .logTestDone _ => true
  | .combWriteBackResend _ => true
  | .vaonRemoved => true
  | .railsRemoved => true
  | .railsApplied => true

end Sys2Proof
end

