-- ==== Sys2Proof/Safety.lean ====
section
/-! DEFINITION. The terms in which claims about the block are stated: the invariant of every step, which commands can change
a byte of the bank arrays, and the premises under which a request, an instruction or a marshal command is carried out. -/

namespace Sys2Proof.Machine

-- ## The invariant

/-- Memory is in canonical form and every waiting command is one of the spec's. -/
def Inv (s : State) : Prop := Memory.wf s.mem = true ∧ s.pending.all Instr.wf = true

/-- The commands that can change a byte of the bank arrays: the access that reaches a bank (R286), BIST (R122), the bank
sections of an image that is complete (R626), and the resets that lose the arrays (R757, R760). -/
def storesMemory : Instr → Bool
  | .accessCommit _ _ => true
  | .bistDone _ => true
  | .endOfPass _ => true
  | .coldReset => true
  | .supplyReset => true
  | .vaonApplied => true
  | .vaonRemoved => true
  | _ => false

-- ## A request packet at a lane

/-- The packet reaches the checks of R173: its lane and channel exist, the channel is up, the array runs, the ports carry
functional traffic, and the packet is of the row `op`. -/
def reachesLane (op : Nat) (p : LanePkt) (s : State) : Bool :=
  decide (p.lane < 64) && decide (p.ch < 3) && decide (1 ≤ p.flits) && ofRow op p && chanUp s p.lane p.ch && arrayRuns s
  && !portsHeld s

/-- The state in which the checks of a packet that is not dropped run: its credits are taken, the header credit returned
(R170, R171), and the flits counted. -/
def enteredLane (p : LanePkt) (s : State) : State :=
  let h := decodeHdr p.hdr
  let id := p.lane * 3 + p.ch
  let s1 := ctrEvent (giveCredits (creditsIn s p) id 1 0) 0x0D id (p.flits - 1) ⟨id, h.tag, h.part, some h.cls, 0⟩
  let s2 := energyEvt s1 3 h.part h.cls (p.flits - 1)
  { s2 with blind := s2.blind.filter (fun k => k != id * 4096 + h.tag) }

/-- The packet is a first sending on a FREE tag, and no check of R142 drops it. -/
def firstSending (p : LanePkt) (s : State) : Bool :=
  let h := decodeHdr p.hdr
  (dropCause s p (beatsIn h)).isNone && !h.retry && tagOf (enteredLane p s) (p.lane * 3 + p.ch) h.tag == .free

/-- The record of the request that a packet brings (R173). -/
def newcomer (p : LanePkt) (s : State) : Request :=
  let h := decodeHdr p.hdr
  { blankReq s.nextId (.lane p.lane p.ch) h (beatsOf p) (now s) with isRemote := !isLocal s h }

/-- The state that lists it, its tag HELD. -/
def listed (p : LanePkt) (s : State) : State :=
  setTag { s with nextId := s.nextId + 1, reqs := s.reqs ++ [newcomer p s] } (p.lane * 3 + p.ch) (decodeHdr p.hdr).tag .held

/-- A launch whose end tick is past its promised time (R151). -/
def lateLaunch (p : LanePkt) (s : State) : Bool :=
  let h := decodeHdr p.hdr
  let blk := ((beatsOf p).headD 0).toNat
  h.op == 0x16 && bits blk 128 32 != 0 && decide (promiseOf s h (now s) < absTick (now s) (bits blk 128 32))

/-- Checks 4 to 10 of R173 pass for a local request and the hold point lets it through (R473): the request with its offsets,
and the state. -/
def presented? (p : LanePkt) (s : State) : Option (Request × State) :=
  let h := decodeHdr p.hdr
  let s1 := listed p s
  let r := newcomer p s
  if (check4 p.hdr h p.ch (beatsOf p) (lateLaunch p s)).isSome || badTarget s1 h || !bound s1 p.lane h.core h.part
     || !partCreated s1 h.part || r.isRemote then none
  else match checks8 s1 r p.up with
    | (.error _, _) => none
    | (.ok r1, s2) =>
      match holdTest (putReq s2 r1) r1 with
      | (.pass, s3) => if r1.isRemote then none else some (r1, s3)
      | _ => none

/-- Check 11 admits a request that is no launch (R247, R343, R438, R575): the request with its promised time and factor, its
place, and the state. -/
def admitted? (r0 : Request) (s : State) : Option (Request × Place × State) :=
  let r := { r0 with promise := promiseOf s r0.h r0.trx }
  if r.h.attEn || r.h.op == 0x16 || (notResident s r).isSome || (pauseOf s r.h.cls).isSome || (rmtFull s r).isSome then none
  else match admission s r.h.cls r.trx r.promise (chargeOf r (declared s r)).1 with
    | (.admitted pl, s2) => some ({ r with factor := (chargeOf r (declared s r)).2 }, pl, s2)
    | _ => none

/-- A first sending of a local request without an attached signal that the block accepts at once: the request, its place and
the state in which it is accepted. -/
def accepts (p : LanePkt) (s : State) : Option (Request × Place × State) :=
  if firstSending p s then (presented? p (enteredLane p s)).bind (fun x => admitted? x.1 x.2) else none

/-- The request as it is accepted (R16, R254, R316). -/
def acceptedAs (s : State) (r : Request) (pl : Place) : Request :=
  { r with place := pl, bucket := (match pl with | .fine b => b | .task b _ => b | _ => fineOf (now s)), adm := now s,
           key := getF s (F.PART_SR_KEY_LO_KEY_LO r.h.part) + 2 ^ 32 * getF s (F.PART_SR_KEY_HI_KEY_HI r.h.part),
           step := getF s (F.PART_SR_STEP_STEP r.h.part) }

/-- The state after the acceptance of a lane request: the event counted, its data credits returned (R171). -/
def acceptedIn (s : State) (r : Request) (lane ch : Nat) : State :=
  giveCredits (ctrEvent s 0x03 (lane * 3 + ch) 1 (ctxOf r)) (lane * 3 + ch) 0 r.beats.length

/-- The rows of the operations that access data, by OP (R151). -/
def dataRow (p : LanePkt) : Nat → Option Instr
  | 0 => some (.read p)
  | 1 => some (.readT p)
  | 2 => some (.readS p)
  | 3 => some (.readX p)
  | 4 => some (.write p)
  | 5 => some (.writeN p)
  | 6 => some (.accum p)
  | 8 => some (.atomAdd p)
  | 9 => some (.atomMin p)
  | 0xA => some (.atomMax p)
  | 0xB => some (.atomSwap p)
  | 0xC => some (.atomCas p)
  | _ => none

/-- The other rows of request packets, by OP (R151). -/
def otherRow (p : LanePkt) : Nat → Option Instr
  | 0x10 => some (.batonSignal p)
  | 0x11 => some (.batonWait p)
  | 0x12 => some (.batonRead p)
  | 0x13 => some (.tapeArrive p)
  | 0x14 => some (.fence p)
  | 0x15 => some (.hint p)
  | 0x17 => some (.relayPush p)
  | 0x18 => some (.relayPop p)
  | _ => none

-- ## A pacer instruction

/-- Stream `st` of pacer `q` runs the task `t` and decodes `ins`, an instruction of operation `op` that R387 and R412 allow,
fetched without a parity mismatch. -/
def executes (op q st ins : Nat) (t : Task) (ups : InsUps) (s : State) : Bool :=
  findTask s q st == some t && decoding s t && fetched s q st == ins && bits ins 0 6 == op && !insBad ins && !ups.perr

/-- The program counter of the stream moves to `pc`. -/
def atPc (s : State) (q st pc : Nat) : State := setF s (F.PACER_S_STAT_PC q st) pc

/-- X[d] of a task becomes `v` (R385). -/
def withX (t : Task) (d v : Nat) : Task := { t with x := t.x.set d (v % 2 ^ 64) }

/-- L[k] of a task becomes `v` (R385). -/
def withL (t : Task) (k v : Nat) : Task := { t with l := t.l.set k v }

/-- The row of each pacer operation (R387, R388, R389, R396 to R399, R404). -/
def pacerRow (q st : Nat) (ups : InsUps) : Nat → Option Instr
  | 0x00 => some (.nop q st ups)
  | 0x01 => some (.li q st ups)
  | 0x02 => some (.add q st ups)
  | 0x03 => some (.addi q st ups)
  | 0x04 => some (.muli q st ups)
  | 0x05 => some (.shli q st ups)
  | 0x06 => some (.shri q st ups)
  | 0x07 => some (.andi q st ups)
  | 0x08 => some (.jmp q st ups)
  | 0x09 => some (.bnz q st ups)
  | 0x0A => some (.beq q st ups)
  | 0x0B => some (.loop q st ups)
  | 0x0C => some (.endl q st ups)
  | 0x10 => some (.src q st ups)
  | 0x11 => some (.dst q st ups)
  | 0x12 => some (.mov q st ups)
  | 0x13 => some (.sig q st ups)
  | 0x14 => some (.waitb q st ups)
  | 0x15 => some (.rpop q st ups)
  | 0x16 => some (.rpush q st ups)
  | 0x17 => some (.sync q st ups)
  | 0x18 => some (.endTask q st ups)
  | _ => none

end Sys2Proof.Machine
end

