-- ==== Sys2Proof/Certificates/Slice0/Obligations.lean ====
section
/-! DEFINITION. The obligations: what the rules of the spec say the block does, command by command. -/

open Sys2Proof Sys2Proof.Machine

-- ## The block as a whole

/-- One step takes the command at the front of the queue and answers what that command does on the rest. -/
def Obligations.FrontCommandRuns : Prop :=
  ∀ (c : Instr) (r : List Instr) (s : State), step { s with pending := c :: r } = exec c { s with pending := r }

/-- With no command waiting, time passes (the model's choice, log entry 1): an array cycle that is still to come in the
present tick; with none to come, the next cadence tick, unless the count is held, and then nothing changes. The count advances
by one, but for the last tick of a reference period while a slow advance is due (R49), which only the loss of LOCKED ends
(R44). The bytes of the bank arrays stay, and the queue stays empty. -/
def Obligations.EmptyQueuePassesOneTick : Prop :=
  ∀ s : State, s.pending = [] → ∃ t, step s = .next t ∧ t.pending = [] ∧ t.mem = s.mem
    ∧ (s.cad.left ≠ 0 → arrayRuns s = true → t = oneCycle { s with cad := { s.cad with left := s.cad.left - 1 } })
    ∧ (s.cad.left = 0 ∨ arrayRuns s = false →
        (ticksRun s = false → t = s)
        ∧ (ticksRun s = true → t.cad.phase = (s.cad.phase + 1) % 16 ∧ t.cad.passed = s.cad.passed + 1
            ∧ (if s.cad.slow ≠ 0 ∧ (s.cad.phase + 1) % 16 = 0
                then t.cad.count = s.cad.count ∧ t.cad.slow = s.cad.slow - 1
                else t.cad.count = s.cad.count + 1 ∧ (s.cad.st ≠ .locked → t.cad.slow = s.cad.slow))))

/-- Every step takes exactly the front command off the queue, first in, first out. -/
def Obligations.QueueLosesOnlyItsFront : Prop :=
  ∀ s t : State, step s = .next t → t.pending = s.pending.tail

/-- Every command of the table has an effect in every state: no command ends in a fault or a refusal. -/
def Obligations.EveryCommandHasANextState : Prop :=
  ∀ (c : Instr) (s : State), ∃ t, exec c s = .next t

/-- The state after reset meets the invariant. -/
def Obligations.ResetMeetsInvariant : Prop := Machine.Inv State.reset

/-- Every step keeps the invariant: memory stays in canonical form, and every waiting command is one of the spec's. -/
def Obligations.EveryStepKeepsInvariant : Prop :=
  ∀ s t : State, Machine.Inv s → step s = .next t → Machine.Inv t

/-- Only a bank access, BIST, the end of an image pass and the resets that lose the arrays change a byte of the bank arrays:
after every other command every byte of memory reads as before. -/
def Obligations.OtherCommandsLeaveMemory : Prop :=
  ∀ (c : Instr) (s t : State), storesMemory c = false → exec c s = .next t → ∀ a, readByte t a = readByte s a

/-- What a cold start leaves (R806, R64, R102, R122): the count at 0 and held, the cadence unit UNLOCKED; every byte of the
arrays 0 and every granule UNWRITTEN; the instance On, admission closed, no interrupt pending, no partition but 15 created,
every baton count 0, every tape unconfigured; every register field at its reset value; no request and no waiting command.
Where the spec gives a field no reset value, that value is the model's own, named in INVENTORY.md. -/
def Obligations.ResetValues : Prop :=
  now State.reset = 0 ∧ State.reset.cad.st = .unlocked ∧ getF State.reset F.CPM_CLK_STAT_REF_READY = 0
    ∧ ticksRun State.reset = false
    ∧ (∀ a, readByte State.reset a = 0) ∧ (∀ g, stateOf State.reset g = .unwritten)
    ∧ aonState State.reset = 0 ∧ getF State.reset F.REG_CTL_OPEN = 0 ∧ getF State.reset F.GLB_IRQ_STAT_PEND = 0
    ∧ (∀ p, p ≠ 15 → getF State.reset (F.PART_STAT_STATE p) = 0) ∧ (∀ n, getF State.reset (F.BTN_CNT_COUNT n) = 0)
    ∧ (∀ n, getF State.reset (F.TAPE_STAT_STATE n) = 0) ∧ (∀ f : Fld, f.rst < 2 ^ f.w → getF State.reset f = f.rst)
    ∧ State.reset.reqs = [] ∧ State.reset.pending = []

/-- The granule hash of R71. -/
def Obligations.GranuleHashIsTheSpecs : Prop :=
  ∀ g : BitVec 20,
    trackOf g.toNat = (g.extractLsb' 5 4 ^^^ g.extractLsb' 9 4 ^^^ g.extractLsb' 13 4 ^^^ (g.extractLsb' 17 3).setWidth 4).toNat
    ∧ binOf g.toNat = (g.extractLsb' 0 5 ^^^ g.extractLsb' 9 5 ^^^ g.extractLsb' 14 5 ^^^ (g.extractLsb' 19 1).setWidth 5).toNat
    ∧ bankOf g.toNat = trackOf g.toNat * 32 + binOf g.toNat
    ∧ rowOf g.toNat = (g.extractLsb' 9 11).toNat

/-- R73: an aligned run of 512 granules lies in one row and touches each bank exactly once; an aligned run of 32 lies in one
track and touches each of its banks exactly once; an aligned run of 16 touches 16 distinct banks of one track. -/
def Obligations.AlignedRunsTouchEachBankOnce : Prop :=
  (∀ k < 2048, (∀ g, 512 * k ≤ g → g < 512 * (k + 1) → rowOf g = k)
      ∧ ∀ b < 512, ∃! g, 512 * k ≤ g ∧ g < 512 * (k + 1) ∧ bankOf g = b)
    ∧ (∀ k < 32768, ∃ t < 16, (∀ g, 32 * k ≤ g → g < 32 * (k + 1) → trackOf g = t)
      ∧ ∀ b < 32, ∃! g, 32 * k ≤ g ∧ g < 32 * (k + 1) ∧ bankOf g = 32 * t + b)
    ∧ (∀ k < 65536, ∃ t < 16, (∀ g, 16 * k ≤ g → g < 16 * (k + 1) → trackOf g = t ∧ bankOf g / 32 = t)
      ∧ ∀ g h, 16 * k ≤ g → g < 16 * (k + 1) → 16 * k ≤ h → h < 16 * (k + 1) → bankOf g = bankOf h → g = h)

/-- The granule that lies at a row of a logical bank is found again by R71, and every granule lies at its bank and row. -/
def Obligations.BankAndRowNameOneGranule : Prop :=
  (∀ g < 2 ^ 20, bankOf g < 512 ∧ rowOf g < 2048 ∧ granAt (bankOf g) (rowOf g) = g)
    ∧ (∀ b < 512, ∀ r < 2048, granAt b r < 2 ^ 20 ∧ bankOf (granAt b r) = b ∧ rowOf (granAt b r) = r)

-- ## The pacers

/-- A stream that decodes LI, ADD, ADDI, MULI, SHLI, SHRI or ANDI writes D with the result of R387, modulo 2^64, and goes on
to the next instruction; NOP only goes on. Nothing else changes.
JMP, BNZ, BEQ, LOOP and ENDL (R387): where the program counter goes and what the loop counter becomes. Nothing else
changes.
SRC and DST set the mode that later MOVs of the stream use, forget the page kept of the former one, and go on (R388). The
bib number is the field, or X[B][11:0] with BREG. -/
def Obligations.PacerArithmeticBranchesAndModes : Prop :=
  (∀ (q st ins : Nat) (t : Task) (ups : InsUps) (s : State), pcOf s q st < 255 →
      let d := bits ins 6 3
      let a := t.x.getD (bits ins 9 3) 0
      let b := t.x.getD (bits ins 12 3) 0
      let done (v : Nat) : State := atPc (putTask s (withX t d v)) q st (pcOf s q st + 1)
      (executes 0x00 q st ins t ups s = true → exec (.nop q st ups) s = .next (atPc s q st (pcOf s q st + 1)))
      ∧ (executes 0x01 q st ins t ups s = true →
          exec (.li q st ups) s = .next (done ((BitVec.ofNat 48 (bits ins 16 48)).signExtend 64).toNat))
      ∧ (executes 0x02 q st ins t ups s = true → exec (.add q st ups) s = .next (done (a + b)))
      ∧ (executes 0x03 q st ins t ups s = true →
          exec (.addi q st ups) s = .next (done (a + ((BitVec.ofNat 32 (bits ins 16 32)).signExtend 64).toNat)))
      ∧ (executes 0x04 q st ins t ups s = true → exec (.muli q st ups) s = .next (done (a * bits ins 16 16)))
      ∧ (executes 0x05 q st ins t ups s = true → exec (.shli q st ups) s = .next (done (a <<< bits ins 16 6)))
      ∧ (executes 0x06 q st ins t ups s = true → exec (.shri q st ups) s = .next (done (a >>> bits ins 16 6)))
      ∧ (executes 0x07 q st ins t ups s = true → exec (.andi q st ups) s = .next (done (a &&& bits ins 16 32))))
  ∧ (∀ (q st ins : Nat) (t : Task) (ups : InsUps) (s : State),
      let a := t.x.getD (bits ins 9 3) 0
      let b := t.x.getD (bits ins 12 3) 0
      let k := bits ins 16 2
      let c := if bits ins 18 1 = 1 then a % 2 ^ 24 else bits ins 19 24
      let l := (t.l.getD k 0 + 2 ^ 24 - 1) % 2 ^ 24
      let next := pcOf s q st + 1
      (executes 0x08 q st ins t ups s = true → exec (.jmp q st ups) s = .next (atPc s q st (bits ins 16 8)))
      ∧ (executes 0x09 q st ins t ups s = true →
          (a ≠ 0 → exec (.bnz q st ups) s = .next (atPc s q st (bits ins 16 8)))
          ∧ (a = 0 → next < 256 → exec (.bnz q st ups) s = .next (atPc s q st next)))
      ∧ (executes 0x0A q st ins t ups s = true →
          (a = b → exec (.beq q st ups) s = .next (atPc s q st (bits ins 16 8)))
          ∧ (a ≠ b → next < 256 → exec (.beq q st ups) s = .next (atPc s q st next)))
      ∧ (executes 0x0B q st ins t ups s = true →
          (c = 0 → exec (.loop q st ups) s = .next (atPc s q st (bits ins 43 8)))
          ∧ (c ≠ 0 → next < 256 → exec (.loop q st ups) s = .next (atPc (putTask s (withL t k c)) q st next)))
      ∧ (executes 0x0C q st ins t ups s = true →
          (l ≠ 0 → exec (.endl q st ups) s = .next (atPc (putTask s (withL t k l)) q st (bits ins 18 8)))
          ∧ (l = 0 → next < 256 → exec (.endl q st ups) s = .next (atPc (putTask s (withL t k l)) q st next))))
  ∧ (∀ (q st ins : Nat) (t : Task) (ups : InsUps) (s : State), pcOf s q st < 255 →
      let b := t.x.getD (bits ins 12 3) 0 % 2 ^ 12
      (executes 0x10 q st ins t ups s = true → exec (.src q st ups) s = .next (atPc (putTask s { t with
          src := some { mode := bits ins 16 2, bib := if bits ins 18 1 = 1 then b else bits ins 19 12, xf := bits ins 31 3,
                        sfmt := bits ins 34 4 },
          srcPage := none }) q st (pcOf s q st + 1)))
      ∧ (executes 0x11 q st ins t ups s = true → exec (.dst q st ups) s = .next (atPc (putTask s { t with
          dst := some { mode := bits ins 16 3, bib := if bits ins 19 1 = 1 then b else bits ins 20 12, xf := 0, sfmt := 0 },
          dstPage := none }) q st (pcOf s q st + 1))))

/-- The faults of R412 that the fetched instruction itself brings, for every pacer operation: a parity mismatch aborts the
task with PM_PARITY and sets PM_PERR; an undefined operation, mode or nonzero unused field aborts it with INSTR, the lower of
the two causes (R414), and an undefined operation is row NOP's; the program counter aborts it with INSTR when it passes 255. A
stream that is not decoding does nothing. -/
def Obligations.BadInstructionsAbortTheTask : Prop :=
  ∀ (op q st ins : Nat) (t : Task) (ups : InsUps) (c : Instr) (s : State), pacerRow q st ups op = some c →
    findTask s q st = some t → fetched s q st = ins → bits ins 0 6 = op ∨ (op = 0 ∧ insTop (bits ins 0 6) = none) →
    (decoding s t = false → exec c s = .next s)
    ∧ (decoding s t = true → ups.perr = true → exec c s =
        .next (abortTask (setF s (F.PACER_STAT_PM_PERR q) 1) q st (if insBad ins then 0x01 else 0x0E)))
    ∧ (decoding s t = true → ups.perr = false → insBad ins = true → exec c s = .next (abortTask s q st 0x01))
    ∧ (decoding s t = true → ups.perr = false → insBad ins = false → op = 0 → pcOf s q st = 255 →
        exec c s = .next (abortTask s q st 0x01))

/-- A MOV that can issue (R389 to R395, R401, R403, R408) goes on to the next instruction; its read of the source granules
stands at the scoreboard, and so does its write of the sink granules, which waits for that read; a push takes its granules off
the credit count and its sequence numbers on. A MOV that R388 to R393 forbid aborts the task with the cause; one that stalls
(R411) changes nothing, but that one whose charge is used up issues the part that the charge allows (log entry 112). The bib
entries that it reads are sound (R336). -/
def Obligations.MovIssuesAbortsOrStalls : Prop :=
  ∀ (q st ins : Nat) (t : Task) (ups : InsUps) (s : State), q < 16 → st < 4 → executes 0x12 q st ins t ups s = true →
    ups.bibs = [] →
    (∀ c, movPlan s t ins = .abort c → exec (.mov q st ups) s = .next (abortTask s q st c))
    ∧ (∀ c, movPlan s t ins = .stall c → exec (.mov q st ups) s = .next s)
    ∧ (∀ x, movPlan s t ins = .part x → exec (.mov q st ups) s = .next (issuePart s t x))
    ∧ (∀ g, movPlan s t ins = .go g → pcOf s q st < 255 → ∃ u, exec (.mov q st ups) s = .next u
        ∧ pcOf u q st = pcOf s q st + 1
        ∧ (∃ r ∈ u.reqs, r.id = s.nextId ∧ r.org = .pacer q st ∧ r.stage = .stage3 ∧ r.accs = g.src.accs ∧ r.h = g.src.h)
        ∧ (∀ d, g.dst = some d → u.nextId = s.nextId + 2 ∧ ∃ r ∈ u.reqs, r.id = s.nextId + 1 ∧ r.org = .pacer q st
            ∧ r.stage = .stage3 ∧ r.accs = d.accs ∧ r.needs = some s.nextId)
        ∧ (∀ m, g.dst = none → t.dst = some m → m.mode = 0 →
            getF u (F.PACER_S_CRED_AVAIL q st) = (getF s (F.PACER_S_CRED_AVAIL q st) - g.rg) % 2 ^ 13
            ∧ getF u (F.PACER_S_PUSHSEQ_SEQ q st) = (getF s (F.PACER_S_PUSHSEQ_SEQ q st) + g.rg) % 2 ^ 32)
        ∧ u.mem = s.mem ∧ u.waiters = s.waiters ∧ u.relays = s.relays ∧ u.gst = s.gst)

/-- SIG (R396, R430): it waits until the writes, pushes and remote writes before it are done; then it signals its baton, here or,
with RMT, at the instance of X[A], and goes on; an instance that the system table does not report good aborts the task with
REMOTE.
WAITB (R397, R425, R430): with the count at least the target of X[A][31:0] the stream goes on and the wake is counted;
otherwise, on a baton that the task may use, a wait record is kept and the stream stays. -/
def Obligations.SigAndWaitbUseBatons : Prop :=
  (∀ (q st ins : Nat) (t : Task) (ups : InsUps) (s : State), executes 0x13 q st ins t ups s = true → ups.store = .none →
      let b := if bits ins 30 1 = 1 then t.x.getD (bits ins 12 3) 0 % 2 ^ 14 else bits ins 16 14
      let dest := bits (t.x.getD (bits ins 9 3) 0) 26 14 * 2 ^ 26
      (sigReady s t = false → exec (.sig q st ups) s = .next s)
      ∧ (sigReady s t = true → bits ins 47 1 = 0 ∨ namesSelf s dest = true →
          exec (.sig q st ups) s = .next (advance (signalAs s b (bits ins 31 16) t.h.part) t))
      ∧ (sigReady s t = true → bits ins 47 1 = 1 → namesSelf s dest = false →
          (badInstance s dest = true → exec (.sig q st ups) s = .next (abortTask s q st 0x09))
          ∧ (badInstance s dest = false → exec (.sig q st ups) s =
              .next (advance (sendRemote s t 0x10 0 dest (b + bits ins 31 16 * 2 ^ 16) 0 []) t))))
  ∧ (∀ (q st ins : Nat) (t : Task) (ups : InsUps) (s : State), executes 0x14 q st ins t ups s = true → ups.store = .none →
      t.pwait = false →
      let b := if bits ins 30 1 = 1 then t.x.getD (bits ins 12 3) 0 % 2 ^ 14 else bits ins 16 14
      let target := t.x.getD (bits ins 9 3) 0 % 2 ^ 32
      let atLeast := (getF s (F.BTN_CNT_COUNT b) + 2 ^ 32 - target) % 2 ^ 32 < 2 ^ 31
      batonAllows s b t.h.part = true → batonShut s b = false →
      (atLeast → exec (.waitb q st ups) s = .next (advance (ctrEvent s 0x1B (b / 256) 1 noCtx) t))
      ∧ (¬ atLeast → exec (.waitb q st ups) s =
          .next (putTask { s with waiters := s.waiters ++ [⟨b, target, none, some (q, st)⟩] } { t with pwait := true })))

/-- RPOP (R366, R398): an empty queue makes the stream wait; from a queue without waiting pushes or pop signal it takes the head
handle, writes it to X[D] and goes on; a queue that the task may not use aborts it with PROT.
RPUSH (R363, R399): with the stream's writes and remote writes done, and room in a local queue without waiting pushes, the
handle of X[A][11:0] enters at the tail and the stream goes on; with none it waits in the pool, or, the pool full, aborts with
RELAY_OVF. -/
def Obligations.RpopAndRpushUseRelayQueues : Prop :=
  (∀ (q st ins : Nat) (t : Task) (ups : InsUps) (s : State), q < 16 → st < 4 → executes 0x15 q st ins t ups s = true →
      let n := bits ins 16 7
      (relayAllows s n t.h.part = false → exec (.rpop q st ups) s = .next (abortTask s q st 0x03))
      ∧ (relayAllows s n t.h.part = true → relayQ s n = [] → exec (.rpop q st ups) s = .next s)
      ∧ (∀ h l, relayAllows s n t.h.part = true → relayQ s n = h :: l → h.aborted = false → pcOf s q st < 255 →
          (∀ w ∈ s.relayWait, w.queue ≠ n) → ∃ u, exec (.rpop q st ups) s = .next u
            ∧ relayQ u n = l ∧ pcOf u q st = pcOf s q st + 1
            ∧ u.conc.sigs.length = s.conc.sigs.length + (if flagF s (F.RLY_NOTIFY_POP_SIG_EN n) then 1 else 0)
            ∧ findTask u q st = some (withX { t with handles := t.handles ++ [(n, h)] } (bits ins 6 3) h.bib)))
  ∧ (∀ (q st ins : Nat) (t : Task) (ups : InsUps) (s : State), q < 16 → st < 4 → executes 0x16 q st ins t ups s = true →
      t.pwait = false →
      rpushReady s t = true → bits ins 23 1 = 0 →
      let n := bits ins 16 7
      let h : Handle := ⟨t.x.getD (bits ins 9 3) 0 % 2 ^ 12, false, some t.rid⟩
      let waits := s.relayWait.any (fun w => w.queue == n)
      (relayAllows s n t.h.part = false → exec (.rpush q st ups) s = .next (abortTask s q st 0x03))
      ∧ (relayAllows s n t.h.part = true → (relayQ s n).length < 64 → waits = false → pcOf s q st < 255 →
          getF s (F.RLY_CTL_WAKE_EN n) = 0 → ∃ u, exec (.rpush q st ups) s = .next u
            ∧ relayQ u n = relayQ s n ++ [h] ∧ pcOf u q st = pcOf s q st + 1)
      ∧ (relayAllows s n t.h.part = true → 64 ≤ (relayQ s n).length ∨ waits = true → s.relayWait.length < 256 →
          exec (.rpush q st ups) s =
            .next (putTask { s with relayWait := s.relayWait ++ [⟨n, h, none, some (q, st)⟩] } { t with pwait := true }))
      ∧ (relayAllows s n t.h.part = true → 64 ≤ (relayQ s n).length ∨ waits = true → 256 ≤ s.relayWait.length →
          exec (.rpush q st ups) s = .next (abortTask (incF s (F.RLY_CNT_FULL_CNT n) 1) q st 0x0C)))

/-- SYNC goes on once everything that the stream has issued is done, and waits until then (R387). END makes the stream ENDING
(R384) and advances the program counter (R387; at 255 it becomes 0, log entry 119); PUSH_LAST follows once the last push has
left, when the task has a consumer (R404). -/
def Obligations.SyncWaitsAndEndEnds : Prop :=
  ∀ (q st ins : Nat) (t : Task) (ups : InsUps) (s : State),
    (executes 0x17 q st ins t ups s = true →
      (streamQuiet s q st = true → pcOf s q st < 255 → exec (.sync q st ups) s = .next (atPc s q st (pcOf s q st + 1)))
      ∧ (streamQuiet s q st = false → exec (.sync q st ups) s = .next s))
    ∧ (executes 0x18 q st ins t ups s = true →
      let u := setF (atPc s q st ((pcOf s q st + 1) % 256)) (F.PACER_S_STAT_STATE q st) 2
      exec (.endTask q st ups) s = .next (sendLast u q st)
      ∧ (blkConsEn t.blk = false → exec (.endTask q st ups) s = .next u))

/-- The end of a task (R384, R409, R416): an ENDING stream with nothing outstanding ends, and one that has not executed END by
its cutoff aborts with WINDOW; a hint shows HINT_ACT from its start until its end. -/
def Obligations.TasksAndHintsEnd : Prop :=
  ∀ (q st : Nat) (s : State),
    (∀ t, findTask s q st = some t → arrayRuns s = true →
      (streamState s q st = 2 → streamQuiet s q st = true → blkConsEn t.blk = false ∨ t.lastSent = true →
        exec (.taskEnd q st) s = .next (endTask s t))
      ∧ (streamState s q st = 1 → 64 * (t.bLast + 1) ≤ now s → exec (.taskCutoff q st) s = .next (abortTask s q st 0x0D)))
    ∧ (∀ a b, Sparse.find s.hints q = some (a, b) →
      (a ≤ now s → now s < b → exec (.hintStart q) s = .next (setF s (F.PACER_STAT_HINT_ACT q) 1))
      ∧ (b ≤ now s → exec (.hintEnd q) s =
          .next (setF { s with hints := Sparse.del s.hints q } (F.PACER_STAT_HINT_ACT q) 0)))

/-- The answer of a pacer's remote request (R406, R422, R431, R399): OK and STAINED end it, a write counts its granules as
moved, and a push's handle is the task's no more (R369); REFUSED_BUSY and REFUSED_RATE with a VALUE tick before the remote
deadline hold it for that tick, at which it leaves again as a new request; any other answer aborts the task with REMOTE, or a
push answered ABANDONED with RELAY_OVF. -/
def Obligations.PacerRemoteAnswers : Prop :=
  ∀ (a : MeshAns) (e : GwEntry) (t : Task) (q st : Nat) (s : State), arrayRuns s = true → findGw s a.seq = some e →
    e.rid = none → e.stream = some (q, st) → findTask s q st = some t →
    (e.retryAt = 0 →
      let op := bits e.hdr 4 5
      let gone := dropGw s a.seq
      (a.code ≤ 1 → op = 4 → exec (.pacerRemoteAnswer a) s = .next (setF gone (F.PACER_S_MOVED_MOVED q st)
          (getF s (F.PACER_S_MOVED_MOVED q st) + e.beats.length)))
      ∧ (a.code ≤ 1 → op = 0x17 → exec (.pacerRemoteAnswer a) s =
          .next (putTask gone { t with handles := dropHandle (bits e.hdr 152 12) t.handles }))
      ∧ (a.code ≤ 1 → op ≠ 4 → op ≠ 0x17 → exec (.pacerRemoteAnswer a) s = .next gone)
      ∧ (a.code = 2 ∨ a.code = 3 → a.value < 64 * (t.bLast + 1) - 3700 →
          exec (.pacerRemoteAnswer a) s = .next (putGw s { e with retryAt := max 1 a.value }))
      ∧ (a.code = 2 ∨ a.code = 3 → 64 * (t.bLast + 1) - 3700 ≤ a.value →
          exec (.pacerRemoteAnswer a) s = .next (abortTask gone q st 0x09))
      ∧ (4 ≤ a.code → exec (.pacerRemoteAnswer a) s =
          .next (abortTask gone q st (if op = 0x17 ∧ a.code = 6 then 0x0C else 0x09))))
    ∧ (e.retryAt ≠ 0 → now s < e.retryAt → exec (.pacerRemoteResend a.seq) s = .next s)
    ∧ (e.retryAt ≠ 0 → e.retryAt ≤ now s →
        let e1 := { e with hdr := hdrWord { decodeHdr (BitVec.ofNat 256 e.hdr) with tag := s.nextId % 4096, retry := false },
                           link := Config.route (bits e.hdr 99 5) (bits e.hdr 90 9), resends := 0, retryAt := 0 }
        exec (.pacerRemoteResend a.seq) s = .next (gwTransmit (putGw { s with nextId := s.nextId + 1 } e1) e1 false))

-- ## Requests at a lane

/-- A request on data that passes the checks of R173 at once (first sending, local, no attached signal, nothing to wait for at
the hold point, room in the calendars) is accepted: its tag is HELD, it has its charge, promised time and place, its credits
have returned (R171), it has taken the partition's key and step (R316), and it waits for its release (R257). -/
def Obligations.DataRequestIsAccepted : Prop :=
  ∀ (p : LanePkt) (s u : State) (r : Request) (pl : Place), accepts p s = some (r, pl, u) →
    let t := putReq (acceptedIn u r p.lane p.ch) { acceptedAs u r pl with stage := .admitted }
    (reachesLane 0x00 p s = true → exec (.read p) s = .next t)
    ∧ (reachesLane 0x01 p s = true → exec (.readT p) s = .next t)
    ∧ (reachesLane 0x02 p s = true → exec (.readS p) s = .next t)
    ∧ (reachesLane 0x03 p s = true → exec (.readX p) s = .next t)
    ∧ (reachesLane 0x04 p s = true → exec (.write p) s = .next t)
    ∧ (reachesLane 0x05 p s = true → exec (.writeN p) s = .next t)
    ∧ (reachesLane 0x06 p s = true → exec (.accum p) s = .next t)
    ∧ (reachesLane 0x08 p s = true → exec (.atomAdd p) s = .next t)
    ∧ (reachesLane 0x09 p s = true → exec (.atomMin p) s = .next t)
    ∧ (reachesLane 0x0A p s = true → exec (.atomMax p) s = .next t)
    ∧ (reachesLane 0x0B p s = true → exec (.atomSwap p) s = .next t)
    ∧ (reachesLane 0x0C p s = true → exec (.atomCas p) s = .next t)

/-- The other requests that pass the checks at once act when they are accepted: a signal adds its increment and answers OK; a
wait whose target the count has reached answers OK with the count, and otherwise keeps a wait record; a read of a baton answers
its count; on a PARKED or BROKEN baton all three are refused (R429, R432). A wait of an engine with two waits outstanding is
answered ABANDONED, whatever its baton. -/
def Obligations.BatonRequestsAct : Prop :=
  ∀ (p : LanePkt) (s u : State) (r : Request) (pl : Place), accepts p s = some (r, pl, u) →
    let a := acceptedAs u r pl
    let v := putReq (acceptedIn u r p.lane p.ch) a
    let b := bits r.h.arg 0 14
    let atLeast := (getF v (F.BTN_CNT_COUNT b) + 2 ^ 32 - bits r.h.arg 32 32) % 2 ^ 32 < 2 ^ 31
    let mine := v.waiters.filter (fun w => match w.rid.bind (findReq v) with
      | some q => q.org == a.org && q.h.core == a.h.core && q.h.engine == a.h.engine
      | none => false)
    (2 ≤ mine.length → reachesLane 0x11 p s = true → exec (.batonWait p) s =
      .next (answer (setF (setF v F.GLB_SYNC_STAT_WAIT_OVF 1) F.GLB_SYNC_STAT_LAST_BATON b) a 6 0x04))
    ∧ (batonShut v b = true →
      (reachesLane 0x10 p s = true → exec (.batonSignal p) s =
        .next (answer (noteNotApplied v b) a (batonRefusal v b).1 (batonRefusal v b).2))
      ∧ (reachesLane 0x11 p s = true → mine.length < 2 →
          exec (.batonWait p) s = .next (answer v a (batonRefusal v b).1 (batonRefusal v b).2))
      ∧ (reachesLane 0x12 p s = true → exec (.batonRead p) s = .next (answer v a (batonRefusal v b).1 (batonRefusal v b).2)))
    ∧ (batonShut v b = false →
      (reachesLane 0x10 p s = true → exec (.batonSignal p) s = .next (answer (signalBaton v b (bits r.h.arg 16 16)) a 0 0))
      ∧ (reachesLane 0x11 p s = true → mine.length < 2 →
          (atLeast → exec (.batonWait p) s =
            .next (answer (ctrEvent v 0x1B (b / 256) 1 noCtx) a 0 (getF v (F.BTN_CNT_COUNT b))))
          ∧ (¬ atLeast → exec (.batonWait p) s =
            .next (putReq { v with waiters := v.waiters ++ [⟨b, bits r.h.arg 32 32, some a.id, none⟩] } { a with stage := .waiting })))
      ∧ (reachesLane 0x12 p s = true → exec (.batonRead p) s = .next (answer v a 0 (getF v (F.BTN_CNT_COUNT b)))))

/-- A FENCE that passes the hold point is answered OK; a HINT gives its descriptor to the pacers that it names and is answered
OK (R416); a RELAY_PUSH enters a queue with room, waits in the pool, or is answered ABANDONED; a RELAY_POP takes the head, or
answers EMPTY (R362 to R364); a TAPE_ARRIVE is recorded for the current or the next heat, or its tape refuses it or faults
(R443 to R446, R450). -/
def Obligations.OtherRequestsAct : Prop :=
  ∀ (p : LanePkt) (s u : State) (r : Request) (pl : Place), accepts p s = some (r, pl, u) →
    let a := acceptedAs u r pl
    let v := putReq (acceptedIn u r p.lane p.ch) a
    let q := bits r.h.arg 0 7
    let hd : Handle := ⟨bits r.h.arg 16 12, false, none⟩
    let waits := v.relayWait.any (fun w => w.queue == q)
    let n := bits r.h.arg 0 8
    let who := Participant.engine p.lane r.h.core r.h.engine
    (reachesLane 0x14 p s = true → exec (.fence p) s = .next (answer v a 0 0))
    ∧ (reachesLane 0x15 p s = true → exec (.hint p) s = .next (answer (doHint v r.h.arg r.trx) a 0 0))
    ∧ (reachesLane 0x17 p s = true →
        ((relayQ v q).length < 64 → waits = false → exec (.relayPush p) s = .next (answer (enterRelay v q hd) a 0 0))
        ∧ (64 ≤ (relayQ v q).length ∨ waits = true → v.relayWait.length < 256 → exec (.relayPush p) s =
            .next (putReq { v with relayWait := v.relayWait ++ [⟨q, hd, some a.id, none⟩] } { a with stage := .waiting }))
        ∧ (64 ≤ (relayQ v q).length ∨ waits = true → 256 ≤ v.relayWait.length →
            exec (.relayPush p) s = .next (answer (incF v (F.RLY_CNT_FULL_CNT q) 1) a 6 0x03)))
    ∧ (reachesLane 0x18 p s = true →
        (relayQ v q = [] → exec (.relayPop p) s = .next (answer v a 0 (2 ^ 12)))
        ∧ (∀ h l, relayQ v q = h :: l → exec (.relayPop p) s =
            .next (answer (popRelay v q).2 a (if h.aborted then 1 else 0) h.bib)))
    ∧ (reachesLane 0x13 p s = true →
        (arriveKind v n who (bits r.h.arg 16 1) = .refused → exec (.tapeArrive p) s = .next (answer v a 6 0x06))
        ∧ (∀ c, arriveKind v n who (bits r.h.arg 16 1) = .fault c →
            exec (.tapeArrive p) s = .next (answer (tapeFault v n c 0x06 none) a 6 0x06))
        ∧ (∀ early : Bool, arriveKind v n who (bits r.h.arg 16 1) = (if early then .early else .current) →
            (4096 ≤ v.arrivals.length → exec (.tapeArrive p) s =
              .next (answer (setF (setF v F.GLB_SYNC_STAT_ARR_OVF 1) F.GLB_SYNC_STAT_LAST_TAPE n) a 6 0x05))
            ∧ (v.arrivals.length < 4096 → bits r.h.mod 1 1 = 0 → exec (.tapeArrive p) s =
              .next (tapeRun 6 (putReq (takeArrival v n early
                ⟨n, who, 0, false, false, bits r.h.mod 0 1 == 1, some a.id, a.org, a.h, a.trx⟩) { a with stage := .waiting }) n))
            ∧ (v.arrivals.length < 4096 → bits r.h.mod 1 1 = 1 → exec (.tapeArrive p) s =
              .next (tapeRun 6 (answer (takeArrival v n early
                ⟨n, who, 0, false, true, bits r.h.mod 0 1 == 1, none, a.org, a.h, a.trx⟩) a 0 0) n))))

/-- A PACE_LAUNCH that passes check 11 (R265, R380, R381, R575): its stream is loaded with the task, the window charged, and the
launch waits for its release, its answer coming at the end of the task. -/
def Obligations.PaceLaunchIsAccepted : Prop :=
  ∀ (p : LanePkt) (s u w : State) (r0 : Request) (bf n : Nat), reachesLane 0x16 p s = true → firstSending p s = true →
    presented? p (enteredLane p s) = some (r0, u) →
    let r := { r0 with promise := promiseOf u r0.h r0.trx }
    let b := (r.beats.headD 0).toNat
    let q := bits r.h.arg 0 4
    r.h.attEn = false → pauseOf u r.h.cls = none → findTask u q (bits r.h.arg 4 2) = none → getF u (F.PACER_CTL_EN q) = 1 →
    jnlRoom u 4 = true → decideTask u b q r.h.part r.trx (launchEnd b r.trx r.promise) = (.admitted (.task bf n), w) →
    exec (.paceLaunch p) s = .next (accept (loadTask w r b bf n) r (.task bf n))

/-- A packet that fails check 1 or 2 of R142 is dropped: the drop is counted, its credits return, and an ERROR packet says why;
one that exceeds its credits takes none. A packet of another row, on a channel that is down or while the array stands, does
nothing. This holds for every row of a request packet. -/
def Obligations.BadPacketsAreDropped : Prop :=
  ∀ (op : Nat) (p : LanePkt) (c : Instr) (s : State),
    (dataRow p op = some c ∨ otherRow p op = some c ∨ (op = 0x16 ∧ c = .paceLaunch p)) →
    let id := p.lane * 3 + p.ch
    (reachesLane op p s = false → exec c s = .next s)
    ∧ (reachesLane op p s = true →
        (∀ k, dropCause s p (beatsIn (decodeHdr p.hdr)) = some k → k ≠ 3 → exec c s = .next (dropPacket (creditsIn s p) p k))
        ∧ (dropCause s p (beatsIn (decodeHdr p.hdr)) = some 3 → exec c s = .next (setChan (dropPacket s p 3) id
            { chanOf (dropPacket s p 3) id with hAvail := (chanOf s id).hAvail, dAvail := (chanOf s id).dAvail })))

-- ## Lane channels

/-- CHANNEL_UP and CHANNEL_DOWN (R167, R169, R183): a channel that trains while its CH_EN is 1 gets its credits anew in a CREDIT
packet with INIT, and the responses held for it leave behind it; one that is lost takes its credits back, and what waited there
for its WAKE_LEAD is held (R163). A channel already in that state, or a part in Doze or Off, changes nothing.
CREDIT_RETURN_TIMEOUT (R172): credits returned that no header has carried for 64 array cycles leave in a CREDIT packet of their
own, and not before. A CREDIT packet of a core (R401, R402) gives granules to the stream that it names, on the D channel only;
anywhere else it counts as a credit error. -/
def Obligations.ChannelsAndTheirCredits : Prop :=
  (∀ (lane ch : Nat) (s : State), lane < 64 → ch < 3 →
      let id := lane * 3 + ch
      let c := chanOf s id
      (c.linkUp = true → exec (.channelUp lane ch) s = .next s
          ∧ ∃ t, exec (.channelDown lane ch) s = .next t ∧ (∀ k, k ≠ id → chanOf t k = chanOf s k) ∧ t.regs = s.regs
            ∧ chanOf t id = { c with linkUp := false, hAvail := 0, dAvail := 0, owed := 0,
                                     heldOut := c.heldOut ++ c.lead.map (fun x => x.2), lead := [] })
      ∧ (c.linkUp = false → exec (.channelDown lane ch) s = .next s)
      ∧ (c.linkUp = false → aonState s = 1 ∨ aonState s = 3 → exec (.channelUp lane ch) s = .next s)
      ∧ (c.linkUp = false → aonState s ≠ 1 → aonState s ≠ 3 → (∀ d ∈ s.dedup, d.lane = false) →
          (bits (getF s (F.LANE_CTL_CH_EN lane)) ch 1 = 0 →
              exec (.channelUp lane ch) s = .next (setChan s id { c with linkUp := true }))
          ∧ (bits (getF s (F.LANE_CTL_CH_EN lane)) ch 1 = 1 → exec (.channelUp lane ch) s =
              .next (channelInit (setChan s id { c with linkUp := true }) lane ch))))
  ∧ ((∀ (lane ch : Nat) (s : State), arrayRuns s = true → lane < 64 → ch < 3 → chanUp s lane ch = true →
        let since := (chanOf s (lane * 3 + ch)).owed
        (since ≠ 0 → since + 63 ≤ s.cad.cycles →
          exec (.creditReturnTimeout lane ch) s = .next (launchLane s ⟨lane, ch, 5, []⟩))
        ∧ (since = 0 ∨ s.cad.cycles < since + 63 → exec (.creditReturnTimeout lane ch) s = .next s))
    ∧ (∀ (p : LanePkt) (s : State), arrayRuns s = true → p.lane < 64 → p.ch < 3 → 1 ≤ p.flits → portsHeld s = false →
        chanUp s p.lane p.ch = true →
          bits p.hdr.toNat 0 4 = 5 → dropCause s p 0 = none →
          let q := bits p.hdr.toNat 4 4
          let u := giveCredits (creditsIn s p) (p.lane * 3 + p.ch) 1 0
          (p.ch = 2 → exec (.coreCreditPacket p) s =
              .next (takeCredit u p.lane q (bits p.hdr.toNat 8 2) (bits p.hdr.toNat 10 16)))
          ∧ (p.ch ≠ 2 → exec (.coreCreditPacket p) s = .next (incF u (F.PACER_CRD_ERR_CRD_ERR_CNT q) 1))))

-- ## The stages of a request

/-- HOLD_POINT_PASS (R473, R475, R486): a held request of a lane passes when nothing that it must follow is left, and is then
checked for admission; else it stays held. Another request changes nothing.
ISSUE_RELEASE (R257, R258): an admitted request of a fine bucket is released at the bucket's first tick, one without a bucket at
once, and, without EARLY_REL, not before; the first one of a coarse bucket at the first tick of the bucket's last fine bucket;
it then stands at the scoreboard, next in the order of arrival there. A launch starts its stream instead (R383). Release is
stopped while work is parked (R599), and of a read of a SPILL while an earlier write of its bib is not committed (R518).
SCOREBOARD_PASS (R354 to R357): a request without a free entry sets SB_FULL; one behind an overlapping access, or held,
waits; any other takes its entries and its accesses go to the concourse. -/
def Obligations.RequestsPassTheirStages : Prop :=
  (∀ (id lane ch : Nat) (r : Request) (s u : State), arrayRuns s = true → findReq s id = some r → r.org = .lane lane ch →
      (r.stage = .held →
        (holdTest s r = (.pass, u) → exec (.holdPointPass id) s = .next (passHold u r))
        ∧ (∀ e, holdTest s r = (.comb e, u) → exec (.holdPointPass id) s = .next (combine u r e))
        ∧ (holdTest s r = (.hold, u) → exec (.holdPointPass id) s = .next u))
      ∧ (r.stage ≠ .held → exec (.holdPointPass id) s = .next s))
  ∧ (∀ (id : Nat) (r : Request) (s : State), arrayRuns s = true → findReq s id = some r → r.stage = .admitted →
      (s.parked = true → isWriteBack r = false → exec (.issueRelease id) s = .next s)
      ∧ (moveWaits s r = true → exec (.issueRelease id) s = .next s)
      ∧ (s.parked = false → moveWaits s r = false →
          (∀ b, (r.place = .fine b ∧ 64 * b ≤ now s) ∨ r.place = .free
              ∨ (r.place = .coarse b ∧ coarseFirst s r b = true ∧ 65536 * b + 65472 ≤ now s) → r.h.op ≠ 0x16 →
            ∃ u, exec (.issueRelease id) s = .next u
              ∧ u.orderNo = s.orderNo + 1 ∧ u.mem = s.mem
              ∧ ∃ q, findReq u id = some q ∧ q.stage = .stage3 ∧ q.order = s.orderNo ∧ q.h = r.h ∧ q.accs = r.accs)
          ∧ (∀ b, r.place = .fine b → now s < 64 * b → earlyRel s = false → exec (.issueRelease id) s = .next s)
          ∧ (∀ b n, r.place = .task b n → 64 * b ≤ now s → r.h.op = 0x16 → exec (.issueRelease id) s = .next (startTask s r))))
  ∧ (∀ (id : Nat) (p4 : List (Nat × BitVec 64)) (r : Request) (s : State), arrayRuns s = true → findReq s id = some r →
      r.stage = .stage3 →
      (sbHeld s r = true → exec (.scoreboardPass ⟨id, p4⟩) s = .next s)
      ∧ (sbHeld s r = false → sbNoEntry s r = true → exec (.scoreboardPass ⟨id, p4⟩) s = .next (setF s F.GLB_SB_STAT_SB_FULL 1))
      ∧ (sbHeld s r = false → sbNoEntry s r = false → sbBehind s r = true → exec (.scoreboardPass ⟨id, p4⟩) s = .next s)
      ∧ (sbHeld s r = false → sbNoEntry s r = false → sbBehind s r = false → ∃ u, exec (.scoreboardPass ⟨id, p4⟩) s = .next u
          ∧ (findReq u id).map (fun q => q.stage) = some .access ∧ u.mem = s.mem ∧ u.gst = s.gst))

/-- ACCESS_COMMIT of a WRITE (R101, R102, R110, R117), on a sound bank without a flip mask armed: the granule's enabled bytes
become those of the data; its other bytes become 0 where it was UNWRITTEN or LOST and stay otherwise; every byte of every other
row stays. -/
def Obligations.WriteAccessStoresItsBytes : Prop :=
  ∀ (bank : Nat) (ph : Phys) (i : TInput) (r : Request) (a : GAcc) (s : State), arrayRuns s = true → level2 s bank = some i →
    inputHead s i = some (r, a) → r.h.op = 4 → r.org ≠ .scrub → a.fset = none → s.failedBanks.contains (bankOf a.gran) = false →
    getF s F.INT_FLIP_CTL_ARM = 0 → ph.sw = .none → ph.flips = [] →
    ∃ t, exec (.accessCommit bank ph) s = .next t ∧ ∀ x, readByte t x =
      if x / 64 = physG s a.gran then
        if a.be / 2 ^ (x % 64) % 2 = 1 then beatByte a.data (x % 64)
        else if stateOf s (physG s a.gran) = .unwritten ∨ stateOf s (physG s a.gran) = .lost then 0 else readByte s x
      else readByte s x

/-- ACCESS_COMMIT touches one row: whatever the operation and whatever damage it meets, every byte outside the physical row of
the granule that it accesses reads as before. A read that finds its row undamaged changes no byte at all. -/
def Obligations.AccessTouchesOneRow : Prop :=
  ∀ (bank : Nat) (ph : Phys) (i : TInput) (r : Request) (a : GAcc) (s : State), arrayRuns s = true → level2 s bank = some i →
    inputHead s i = some (r, a) → ∃ t, exec (.accessCommit bank ph) s = .next t
      ∧ (∀ x, x / 64 ≠ physG s a.gran → readByte t x = readByte s x)
      ∧ (accReads r a = true → ph.flips = [] → ∀ x, readByte t x = readByte s x)

/-- ATTACHED_SIGNAL_APPLY (R430, R436, R437, R439): a committed write whose earlier writes of the engine have committed signals
its attached baton, if that is then its partition's or 15's, and is answered; it waits for them otherwise; one that failed is
answered without its signal. -/
def Obligations.AttachedSignalIsApplied : Prop :=
  ∀ (id : Nat) (r : Request) (s : State), arrayRuns s = true → findReq s id = some r → r.stage = .signal → r.h.attEn = true →
    let b := r.h.attBaton
    let owner := getF s (F.BTN_CTL_PART b)
    (r.verdict = (0, 0) → earlierWrite s r = false →
      (owner = r.h.part ∨ owner = 15 →
        exec (.attachedSignalApply id .none) s = .next (signalled (signalBaton s b r.h.attAdd) r))
      ∧ (owner ≠ r.h.part → owner ≠ 15 →
        exec (.attachedSignalApply id .none) s = .next (signalled (noteNotApplied s b) r)))
    ∧ (r.verdict = (0, 0) → earlierWrite s r = true → ∀ up, exec (.attachedSignalApply id up) s = .next s)
    ∧ (r.verdict ≠ (0, 0) → ∀ up, exec (.attachedSignalApply id up) s = .next (answerDone s r))

/-- COMB_WINDOW_EXPIRY and COMB_WRITE_BACK_RESEND (R482, R483): an entry idle for WIN × 16 cycles closes, dropped when clean and
written back when dirty; before that it stays. A refused write-back is submitted again at its tick. -/
def Obligations.CombiningEntriesClose : Prop :=
  (∀ (lane core slot : Nat) (e : CombEntry) (s : State), arrayRuns s = true → s.comb.find? (combIs lane core slot) = some e →
    (e.closing = false → e.dirty = false → e.age + 16 * getF s (F.LANE_COMB_WIN lane) ≤ s.cad.cycles →
      exec (.combWindowExpiry lane core slot) s = .next
          { s with comb := s.comb.filter (fun x => !combIs e.lane e.core e.slot x) })
    ∧ (e.closing = false → e.dirty = true → e.age + 16 * getF s (F.LANE_COMB_WIN lane) ≤ s.cad.cycles →
      exec (.combWindowExpiry lane core slot) s = .next (closeComb s e))
    ∧ (s.cad.cycles < e.age + 16 * getF s (F.LANE_COMB_WIN lane) → exec (.combWindowExpiry lane core slot) s = .next s))
  ∧ (∀ (id lane core slot : Nat) (r : Request) (s : State), arrayRuns s = true → findReq s id = some r →
    r.org = .combine lane core slot → r.stage = .held →
    (r.adm ≤ now s → exec (.combWriteBackResend id) s = .next (submitWriteBack s r))
    ∧ (now s < r.adm → exec (.combWriteBackResend id) s = .next s))

-- ## The mesh

/-- MESH_REQUEST (R589, R804): a first sending for this instance that passes the checks and is admitted is accepted, with
its journal entry where R573 asks for one; a request for another good instance goes on to it unchanged; on a link that is not
up, or whose data is off, nothing arrives. -/
def Obligations.MeshRequestIsTaken : Prop :=
  ∀ (m : MeshPkt) (s : State), arrayRuns s = true → portsHeld s = false → m.link < 4 →
    let h := decodeHdr m.hdr
    let org := Origin.mesh m.link m.owafer m.oinst m.oreq
    let up := bits (getF s F.MESH_STAT_UP) m.link 1 = 1 ∧ bits (getF s F.MESH_STAT_DATA_OFF) m.link 1 = 0
    (¬ up → exec (.meshRequest m) s = .next s)
    ∧ (up → isSelf s h.addr = false → isAlias h.addr = false → addrWafer h.addr ≤ 23 →
        siteGood s (addrWafer h.addr) (addrInst h.addr) = true → exec (.meshRequest m) s =
          .next (emit s (.mesh (.request (addrWafer h.addr) (addrInst h.addr) m.owafer m.oinst m.oreq m.hdr.toNat
            (m.beats.map (fun b => b.toNat))))))
    ∧ (∀ r r1 pl u v w, up → isSelf s h.addr = true → isAlias h.addr = false → h.retry = false → h.bib = false →
        isZeroAddr h.op = false → h.op ≠ 0x11 → h.op ≠ 0x13 → pastTop h = false → meshCheck4 m.hdr.toNat h m.beats = none →
        w = dropDedup (energyEvt (ctrEvent s 0x12 m.link m.beats.length ⟨0xD0 + m.link, h.tag, h.part, some h.cls, 0⟩)
          4 h.part h.cls m.beats.length) m.owafer m.oinst m.oreq h.tag →
        partCreated w h.part = true →
        checks8 { w with nextId := w.nextId + 1, reqs := w.reqs ++ [blankReq w.nextId org h m.beats (now w)] }
          (blankReq w.nextId org h m.beats (now w)) m.up = (.ok r, u) →
        admitted? r (putReq u r) = some (r1, pl, v) → exec (.meshRequest m) s = .next (accept v r1 pl))

/-- REMOTE_ANSWER, GATEWAY_RESEND, REMOTE_TIMEOUT and DEDUP_EXPIRY (R587, R588): the answer of a request sent over the mesh ends
its buffer entry; without one it is sent again, marked RETRY, 4,000 and 8,000 ticks after its promise, and 4,000 ticks later it
is answered FAULT REMOTE_TIMEOUT, or aborts its stream; a filter entry ends at its expiry. -/
def Obligations.GatewayKeepsItsRequests : Prop :=
  (∀ (a : MeshAns) (e : GwEntry) (s : State), findGw s a.seq = some e → e.retryAt = 0 →
    (∀ r, arrayRuns s = true → e.stream = none →
      e.rid.bind (findReq (dropGw (noteInbound s e.link a.data.length (gwCtx s e)) a.seq)) = some r →
      exec (.remoteAnswer a) s = .next (takeRemote (dropGw (noteInbound s e.link a.data.length (gwCtx s e)) a.seq) r a))
    ∧ (arrayRuns s = true → e.resends < 2 → e.promised + 4000 * (e.resends + 1) ≤ now s → exec (.gatewayResend a.seq) s =
        .next (gwTransmit (putGw s { e with resends := e.resends + 1 }) { e with resends := e.resends + 1 } true))
    ∧ (e.resends = 2 ∨ now s < e.promised + 4000 * (e.resends + 1) → exec (.gatewayResend a.seq) s = .next s)
    ∧ (now s < e.promised + 12000 → exec (.remoteTimeout a.seq) s = .next s)
    ∧ (∀ r, e.promised + 12000 ≤ now s → e.rid.bind (findReq (dropGw s a.seq)) = some r →
        exec (.remoteTimeout a.seq) s = .next (answer (dropGw s a.seq) r 7 9))
    ∧ (∀ q st, e.promised + 12000 ≤ now s → e.rid = none → e.stream = some (q, st) →
        exec (.remoteTimeout a.seq) s = .next (abortTask (dropGw s a.seq) q st 9)))
  ∧ (∀ (w n q tag : Nat) (d : Dedup) (s : State), findDedup s w n q tag = some d → d.filled = true →
    (d.expiry ≤ now s → exec (.dedupExpiry w n q tag) s = .next (dropDedup s w n q tag))
    ∧ (now s < d.expiry → exec (.dedupExpiry w n q tag) s = .next s))

-- ## The cadence

/-- R38: a timing-lane frame on an enabled link that has a wrong SYNC, a wrong CRC, a reserved TYPE, a nonzero reserved field, or,
as a count frame, a count whose bits [15:0] are not 0, is discarded and counted, whichever of the three rows it arrives as;
nothing else changes. A frame of the row's type without such a fault is not counted: FRAME_ERR_CNT stays. -/
def Obligations.BadFramesAreDiscardedAndCounted : Prop :=
  ∀ (link : Nat) (f : BitVec 128) (s : State), linkEn s link = true → aonState s ≠ 3 →
    let x := f.toNat
    let ty := bits x 8 4
    let bad := bits x 0 8 ≠ 0x5A ∨ crc16 112 (x % 2 ^ 112) ≠ bits x 112 16 ∨ 2 < ty ∨ bits x 18 6 ≠ 0 ∨ bits x 96 16 ≠ 0
      ∨ (ty = 0 ∧ bits x 32 16 ≠ 0) ∨ (ty = 1 ∧ (bits x 36 4 ≠ 0 ∨ bits x 48 16 ≠ 0))
      ∨ (ty = 2 ∧ (bits x 47 1 ≠ 0 ∨ bits x 52 44 ≠ 0 ∨ 7 < bits x 48 4))
    let counted := incF (setF s F.CPM_CAD_STAT_FRAME_ERR 1) F.CPM_CAD_ERR_FRAME_ERR_CNT 1
    (bad → exec (.countFrame link f) s = .next counted ∧ exec (.announcementFrame link f) s = .next counted
        ∧ exec (.wakePattern link f) s = .next counted)
    ∧ (¬ bad →
        (ty ≠ 0 → exec (.countFrame link f) s = .next s) ∧ (ty ≠ 1 → exec (.announcementFrame link f) s = .next s)
        ∧ (ty ≠ 2 → exec (.wakePattern link f) s = .next s)
        ∧ (ty = 0 → ∃ t, exec (.countFrame link f) s = .next t
            ∧ getF t F.CPM_CAD_ERR_FRAME_ERR_CNT = getF s F.CPM_CAD_ERR_FRAME_ERR_CNT)
        ∧ (ty = 1 → ∃ t, exec (.announcementFrame link f) s = .next t
            ∧ getF t F.CPM_CAD_ERR_FRAME_ERR_CNT = getF s F.CPM_CAD_ERR_FRAME_ERR_CNT)
        ∧ (ty = 2 → ∃ t, exec (.wakePattern link f) s = .next t
            ∧ getF t F.CPM_CAD_ERR_FRAME_ERR_CNT = getF s F.CPM_CAD_ERR_FRAME_ERR_CNT))

/-- A count frame of the source while LOCKED (R807): with C the count received and L the local count at the mark edge, the
instance stays LOCKED; it steps forward to C, or owes L − C ticks that the slow advance takes away; C − L is in CPM_JUMP_TICKS,
and JUMP is set when L − C exceeds 2. A differing frame of a link that is neither source nor forced changes neither. -/
def Obligations.LockedCountFollowsItsSource : Prop :=
  ∀ (link : Nat) (f : BitVec 128) (fr : Frame) (s : State), takeFrame s link 0 f = (some fr, s) → aonState s = 0 →
    getF s F.CPM_CLK_STAT_REF_READY = 1 → s.cad.st = .locked → flagF s F.CPM_CAD_CTL_FORCE_SRC = false →
    let l := now s - linkDelay s link
    fr.pay ≠ l →
    (link = s.cad.src → ∃ t, exec (.countFrame link f) s = .next t ∧ t.cad.st = .locked ∧ t.cad.src = link
        ∧ getF t F.CPM_JUMP_TICKS_VAL = jumpWord fr.pay l
        ∧ (l < fr.pay → t.cad.count = s.cad.count + (fr.pay - l) ∧ t.cad.slow = 0
            ∧ getF t F.CPM_CAD_STAT_JUMP = getF s F.CPM_CAD_STAT_JUMP)
        ∧ (fr.pay < l → t.cad.count = s.cad.count ∧ t.cad.slow = l - fr.pay
            ∧ getF t F.CPM_CAD_STAT_JUMP = if 2 < l - fr.pay then 1 else getF s F.CPM_CAD_STAT_JUMP))
    ∧ (link ≠ s.cad.src → ∃ t, exec (.countFrame link f) s = .next t ∧ t.cad.st = .locked ∧ t.cad.src = s.cad.src
        ∧ t.cad.count = s.cad.count ∧ t.cad.slow = s.cad.slow)

/-- ACQUIRING and LOCKED (R42, R49): the first count frame of the selected link loads the count; the next one, 65,536 ticks
later and equal to the local count, with the reference good, makes the instance LOCKED to that link; one that differs becomes
the first of a new attempt. (In boot stage CADENCE the lock also opens the instance, R668.) -/
def Obligations.SecondEqualFrameLocks : Prop :=
  ∀ (link : Nat) (f : BitVec 128) (fr : Frame) (s : State), takeFrame s link 0 f = (some fr, s) → aonState s = 0 →
    getF s F.CPM_CLK_STAT_REF_READY = 1 → s.cad.st = .acquiring → getF s F.MSH_BOOT_STAGE ≠ 9 →
    let u := noteLink s link fr.hop fr.pay (linkDelay s link)
    let l := now s - linkDelay s link
    selectedLink u link = true →
    (s.cad.loaded = some (fr.pay - 65536) → 65536 ≤ fr.pay → fr.pay = l → (takeSource u link fr.hop).cad.refOk = true →
      s.cad.slow = 0 →
      ∃ t, exec (.countFrame link f) s = .next t ∧ t.cad.st = .locked ∧ t.cad.src = link ∧ t.cad.hop = fr.hop
        ∧ t.cad.count = s.cad.count ∧ t.cad.holdEntry = 0)
    ∧ (s.cad.loaded = none ∨ fr.pay ≠ l → ∃ t, exec (.countFrame link f) s = .next t ∧ t.cad.st = .acquiring
        ∧ t.cad.loaded = some fr.pay ∧ t.cad.src = link ∧ getF t F.CPM_JUMP_TICKS_VAL = jumpWord fr.pay l)

/-- SOURCE_LOSS and HOLDOVER_EXPIRY (R44, R47, R48): a LOCKED instance enters HOLDOVER with the interrupt, or UNLOCKED when
HOLD_LIMIT is 0; it does so by itself at the tick at which its source has missed two count frames (log entry 39). After
HOLD_LIMIT × 65,536 ticks HOLDOVER ends UNLOCKED with HOLD_EXPIRED set and the interrupt, and not before. -/
def Obligations.LossOfLockHoldsOver : Prop :=
  ∀ s : State,
    let c := { s.cad with loaded := none, slow := 0, links := Sparse.del s.cad.links s.cad.src, refOk := false }
    let u := irqIf s F.CPM_CAD_CTL_IRQ_EN 0
    let limit := getF s F.CPM_CAD_CTL_HOLD_LIMIT
    (s.cad.st ≠ .locked → exec .sourceLoss s = .next s)
    ∧ (s.cad.st = .locked → aonState s = 0 → limit = 0 → exec .sourceLoss s = .next { u with cad := { c with st := .unlocked } })
    ∧ (s.cad.st = .locked → aonState s = 0 → limit ≠ 0 →
        exec .sourceLoss s = .next { u with cad := { c with st := .holdover, holdEntry := now s } })
    ∧ (s.cad.st = .holdover → now s < s.cad.holdEntry + 65536 * limit → exec .holdoverExpiry s = .next s)
    ∧ (s.cad.st = .holdover → s.cad.holdEntry + 65536 * limit ≤ now s → exec .holdoverExpiry s =
        .next (setF { u with cad := { s.cad with st := .unlocked, loaded := none, slow := 0, holdEntry := 0 } }
          F.CPM_CAD_STAT_HOLD_EXPIRED 1))
    ∧ (∀ r, s.pending = [] → s.cad.left = 0 → ticksRun s = true → s.cad.st = .locked → s.cad.slow = 0 →
        Sparse.find s.cad.links s.cad.src = some r → ∃ t, step s = .next t
          ∧ (now s < r.mark + 131136 → t.cad.st = .locked)
          ∧ (r.mark + 131136 ≤ now s → t.cad.st = if limit = 0 then .unlocked else .holdover))

/-- ANNOUNCEMENT_FRAME (R57, R58): a repeat of the pending announcement changes nothing; a valid one with none pending becomes
pending, as does one for the same tick with a lower step; anything else is rejected, sets ANN_REJ and keeps what is pending. -/
def Obligations.AnnouncementsAreTakenOrRejected : Prop :=
  ∀ (link : Nat) (f : BitVec 128) (fr : Frame) (s : State), takeFrame s link 1 f = (some fr, s) → aonState s = 0 →
    let mark := now s - linkDelay s link
    let a : Ann := ⟨bits fr.pay 0 4, bits fr.pay 8 8, absTick mark (bits fr.pay 32 32)⟩
    let valid := a.step ≤ 7 ∧ a.tick % 65536 = 0 ∧ mark + 65536 ≤ a.tick ∧ a.tick ≤ mark + 67108864 ∧ s.cad.st = .locked
    ∃ t, exec (.announcementFrame link f) s = .next t ∧ t.cad.count = s.cad.count
      ∧ (s.cad.ann = some a → t.cad.ann = some a ∧ getF t F.CPM_CAD_STAT_ANN_REJ = getF s F.CPM_CAD_STAT_ANN_REJ)
      ∧ (valid → s.cad.ann = none ∨ (∃ p, s.cad.ann = some p ∧ a.tick = p.tick ∧ a.step < p.step) → t.cad.ann = some a
          ∧ getF t F.CPM_ANN_TICK_LO_VAL = a.tick % 2 ^ 32 ∧ getF t F.CPM_ANN_TICK_HI_VAL = a.tick / 2 ^ 32 % 2 ^ 32)
      ∧ (s.cad.ann ≠ some a → ¬ valid ∨ (∃ p, s.cad.ann = some p ∧ (a.tick ≠ p.tick ∨ p.step ≤ a.step)) →
          t.cad.ann = s.cad.ann ∧ getF t F.CPM_CAD_STAT_ANN_REJ = 1)

/-- EFFECTIVE_TICK (R60): at the effective tick the announcement stops being pending and the step change begins, down at once and
up as a change that is due; the count is unaffected. Before it nothing happens. -/
def Obligations.EffectiveTickBeginsTheChange : Prop :=
  ∀ (a : Ann) (s : State), s.cad.ann = some a → a.step ≤ 7 → s.clk.sw = none →
    let st := targetStep s a.step
    (now s < a.tick → exec .effectiveTick s = .next s)
    ∧ (a.tick ≤ now s → ∃ t, exec .effectiveTick s = .next t ∧ t.cad.ann = none ∧ t.cad.count = s.cad.count
        ∧ (st = curStep s → t = { s with cad := { s.cad with ann := none } })
        ∧ (st < curStep s → curStep t = st ∧ getF t F.CPM_STEP_PEND_STEP = curStep s % 16)
        ∧ (curStep s < st → curStep t = curStep s ∧ t.clk.sw = some ⟨st, 0, a.tick, true, false⟩))

/-- STEP_SWITCH, STEP_SWITCH_DEFERRED and TRIP_SWITCH (R684, R686, R719): a change that is due switches the clock to its step,
but one up waits, with STEP_LATE set, until both rails show its table voltage; the switch exchanges the PLLs and ends the
divider of a trip. -/
def Obligations.StepChangesSwitchTheClock : Prop :=
  ∀ (w : StepReq) (s : State), arrayRuns s = true → s.clk.sw = some w → w.step ≤ 8 →
    let low := curStep s < w.step ∧ railsAt s (tableMv s w.step) = false
    let switched (t : State) : Prop := curStep t = w.step ∧ t.clk.sw = none
      ∧ t.clk.div = 1 ∧ getF t F.CPM_CLK_STAT_ACT_PLL = (1 - getF s F.CPM_CLK_STAT_ACT_PLL) % 2 ∧ t.cad = s.cad
    (w.cause ≠ 1 → w.late = false → w.tick ≤ now s →
      (¬ low → ∃ t, exec .stepSwitch s = .next t ∧ switched t)
      ∧ (low → ∃ t, exec .stepSwitch s = .next t ∧ curStep t = curStep s ∧ t.clk.sw = some { w with late := true }
          ∧ getF t F.CPM_CLK_STAT_STEP_LATE = 1))
    ∧ (w.cause ≠ 1 → w.late = false → now s < w.tick → exec .stepSwitch s = .next s)
    ∧ (w.late = true → railsAt s (tableMv s w.step) = true → ∃ t, exec .stepSwitchDeferred s = .next t ∧ switched t)
    ∧ (w.late = true → railsAt s (tableMv s w.step) = false → exec .stepSwitchDeferred s = .next s)
    ∧ (w.cause = 1 → ∃ t, exec .tripSwitch s = .next t ∧ switched t)

/-- WAKE_PATTERN (R697 to R701): an instance in Doze that the pattern names wakes at its step: the record of the wake is written,
and, retention kept, the instance is Waking; retention lost, a cold reset is due. An instance that is not named stays asleep. -/
def Obligations.WakePatternWakesTheNamed : Prop :=
  ∀ (link : Nat) (f : BitVec 128) (fr : Frame) (s : State), takeFrame s link 2 f = (some fr, s) → aonState s = 1 →
    s.rst.coldRun = false → s.rst.due = 0 →
    let named := bits fr.pay 9 5 = selfWafer s ∧ (bits fr.pay 14 1 = 1 ∨ bits fr.pay 0 9 = selfInst s)
    ∃ t, exec (.wakePattern link f) s = .next t
      ∧ (¬ named → aonState t = 1 ∧ t.clk.wake = s.clk.wake)
      ∧ (named → getF t F.CPM_AON_LAST_SOURCE = 0 ∧ getF t F.CPM_AON_LAST_LINK = link % 4
          ∧ getF t F.CPM_AON_LAST_RET_LOST = getF s F.CPM_AON_STAT_RET_LOST % 2
          ∧ (getF s F.CPM_AON_STAT_RET_LOST = 0 → aonState t = 2 ∧ t.clk.wake = some ⟨0, 0, link, bits fr.pay 16 4⟩
              ∧ (s.clk.rails = true → curStep t = bits fr.pay 16 4 ∧ t.cad.st = .acquiring))
          ∧ (getF s F.CPM_AON_STAT_RET_LOST = 1 → aonState t = 1 ∧ t.rst.due = 6))

/-- FINE_BUCKET_BOUNDARY and LATENCY_DECAY (R229, R262, R271): the per-bucket work is done once for a bucket, in order:
overruns counted, past buckets forgotten, coarse work at its last fine bucket released (R258), held work and rings served,
Boost decided, bleach, then the scrubber when it is enabled. At a coarse boundary every latency without a completion in the
interval is halved, and the completions are counted anew. -/
def Obligations.BucketBoundariesDoTheirWork : Prop :=
  ∀ (up : StoreUpsets) (s : State),
    let f := now s / 64
    let k := now s / 65536
    let w := pruneCalendars (noteOverruns { s with fineSeen := f } f) f
    let u := boostBoundary (pollRings (resubmitHeld (releaseCoarse w.reqs.length w)))
    let b := bleachBursts (getF u F.INT_BLEACH_CTL_RATE) u
    (f ≤ s.fineSeen ∨ arrayRuns s = false → exec (.fineBucketBoundary up) s = .next s)
    ∧ (s.fineSeen < f → arrayRuns s = true →
        (getF b F.INT_CTL_SCRUB_EN = 0 → exec (.fineBucketBoundary up) s = .next (scrubStores b up))
        ∧ (getF b F.INT_CTL_SCRUB_EN = 1 → exec (.fineBucketBoundary up) s =
            .next (scrubStores (scrubReads (getF b F.INT_SCRUB_CTL_RATE) (startRepair b)) up)))
    ∧ (k ≤ s.coarseSeen → exec .latencyDecay s = .next s)
    ∧ (s.coarseSeen < k → ∃ t, exec .latencyDecay s = .next t ∧ t.coarseSeen = k ∧ t.mcnt = []
        ∧ t.mlat = (s.mlat.map (fun p => if Sparse.at s.mcnt p.1 0 = 0 then (p.1, p.2 / 2) else p)).filter (fun p => p.2 ≠ 0))

-- ## Tapes

/-- Tape messages (R443, R444, R446, R447, R450, R454, R811). A message the tape refuses raises NA_CNT and sets NOT_APPLIED; an
ARRIVE or a RELEASE is answered REFUSED, with the refusing tape's heat (R453). A FAULTED tape ignores every RELEASE, FAULT and
REFUSED, and answers an ARRIVE with FAULT. A child's ARRIVE for the current heat is recorded and raises CHILD_ARR by one, HEAT and
STATE as they were until the heat completes; one for the next heat is recorded; one too many faults the tape. In UP, the RELEASE
for the heat enters RELEASING, its tick with it; one without a tick is released at once; any other RELEASE faults the tape. FAULT
and REFUSED messages fault a tape. TAPE_RELEASE: a tape in RELEASING whose tick is reached starts its next heat, FILLING; before
it, nothing changes. -/
def Obligations.TapeMessagesAct : Prop :=
  ∀ (m : BitVec 128) (s : State), arrayRuns s = true →
    let x := m.toNat
    let n := bits x 2 8
    let al := bits x 96 1 == 1
    let tick := if al then absTick (now s) (bits x 64 32) else now s
    let w := Participant.child (bits x 27 5) (bits x 18 9) (bits x 10 8)
    let kind := arriveKind s n w (bits x 32 1)
    let reply := fun (k heat part : Nat) => OutPkt.mesh (.tape (bits x 27 5) (bits x 18 9) (tapeMsg s k (bits x 10 8) n heat none part))
    let refused := fun (t : State) => getF t F.GLB_SYNC_CNT_NA_CNT = getF (incF s F.GLB_SYNC_CNT_NA_CNT 1) F.GLB_SYNC_CNT_NA_CNT
        ∧ getF t F.GLB_SYNC_STAT_NOT_APPLIED = 1 ∧ t.arrivals = s.arrivals
        ∧ getF t (F.TAPE_STAT_STATE n) = tapeState s n ∧ heatOf t n = heatOf s n
    let answered := fun (t : State) => t.out = s.out ++ [reply 3 (heatOf s n) (bits x 97 4)]
    (bits x 0 2 = 0 → tapeRefuses s x true = true → ∃ t, exec (.tapeArriveMessage m) s = .next t ∧ refused t ∧ answered t)
    ∧ (bits x 0 2 = 1 → tapeRefuses s x true = true → tapeState s n ≠ 3 →
        ∃ t, exec (.tapeReleaseMessage m) s = .next t ∧ refused t ∧ answered t)
    ∧ (bits x 0 2 = 2 → tapeRefuses s x true = true → tapeState s n ≠ 3 →
        ∃ t, exec (.tapeFaultMessage m) s = .next t ∧ refused t ∧ t.out = s.out)
    ∧ (bits x 0 2 = 3 → tapeRefuses s x false = true → tapeState s n ≠ 3 →
        ∃ t, exec (.tapeRefusedMessage m) s = .next t ∧ refused t ∧ t.out = s.out)
    ∧ (tapeState s n = 3 → exec (.tapeReleaseMessage m) s = .next s ∧ exec (.tapeFaultMessage m) s = .next s
        ∧ exec (.tapeRefusedMessage m) s = .next s)
    ∧ (bits x 0 2 = 0 → tapeRefuses s x true = false →
        (kind = .current → s.arrivals.length < 4096 →
          ∃ u a, exec (.tapeArriveMessage m) s = .next (tapeRun 6 u n) ∧ u.arrivals = s.arrivals ++ [a] ∧ a.who = w ∧ a.tape = n
            ∧ a.heat = heatOf s n ∧ getF u (F.TAPE_STAT_CHILD_ARR n) = (getF s (F.TAPE_STAT_CHILD_ARR n) + 1) % 256
            ∧ heatOf u n = heatOf s n ∧ tapeState u n = 0
            ∧ (heatComplete u n = false → exec (.tapeArriveMessage m) s = .next u))
        ∧ (kind = .early → s.arrivals.length < 4096 → ∃ u a, exec (.tapeArriveMessage m) s = .next u
            ∧ u.arrivals = s.arrivals ++ [a] ∧ a.who = w ∧ a.tape = n ∧ a.heat = (heatOf s n + 1) % 2 ^ 32 ∧ u.regs = s.regs)
        ∧ (kind = .early → 4096 ≤ s.arrivals.length → exec (.tapeArriveMessage m) s = .next (tapeFault s n 4 0x06 none))
        ∧ (kind = .current → 4096 ≤ s.arrivals.length → exec (.tapeArriveMessage m) s = .next (tapeFault s n 4 0x06 (some w)))
        ∧ (∀ c, kind = .fault c → exec (.tapeArriveMessage m) s =
            .next (tapeFault s n c 0x06 (if bits x 32 1 = heatOf s n % 2 then some w else none)))
        ∧ (kind = .refused → ∃ t, exec (.tapeArriveMessage m) s = .next t ∧ t.regs = s.regs ∧ t.arrivals = s.arrivals
            ∧ t.out = s.out ++ [reply 2 (heatOf s n) (getF s (F.TAPE_CFG_PART n))]))
    ∧ (bits x 0 2 = 1 → tapeRefuses s x true = false →
        (tapeState s n = 1 → bits x 32 32 = heatOf s n →
          (now s < tick → ∃ t, exec (.tapeReleaseMessage m) s = .next t ∧ tapeState t n = 2 ∧ heatOf t n = heatOf s n
              ∧ t.arrivals = s.arrivals ∧ Sparse.find t.tapeRel n = some (tick, al))
          ∧ (tick ≤ now s → ∃ u, exec (.tapeReleaseMessage m) s = .next (tapeRun 5 (releaseHeat u n) n) ∧ tapeState u n = 2
              ∧ heatOf u n = heatOf s n ∧ u.arrivals = s.arrivals
              ∧ getF u F.GLB_SYNC_STAT_ALIGN_LATE = if tick < now s then 1 else getF s F.GLB_SYNC_STAT_ALIGN_LATE))
        ∧ (tapeState s n ≠ 3 → tapeState s n ≠ 1 ∨ bits x 32 32 ≠ heatOf s n →
            exec (.tapeReleaseMessage m) s = .next (tapeFault s n 5 0x06 none)))
    ∧ (bits x 0 2 = 2 → tapeRefuses s x true = false → tapeState s n ≠ 3 →
        exec (.tapeFaultMessage m) s = .next (tapeFault s n 6 0x06 none))
    ∧ (bits x 0 2 = 3 → tapeRefuses s x false = false → tapeState s n ≠ 3 →
        exec (.tapeRefusedMessage m) s = .next (tapeFault s n 5 0x06 none))
    ∧ (∀ b, (tapeState s b ≠ 2 → exec (.tapeRelease b) s = .next s)
        ∧ (tapeState s b = 2 →
          (now s < (Sparse.at s.tapeRel b (0, false)).1 → exec (.tapeRelease b) s = .next s)
          ∧ ((Sparse.at s.tapeRel b (0, false)).1 ≤ now s → exec (.tapeRelease b) s = .next (tapeRun 5 (releaseHeat s b) b))))
    ∧ (∀ b, b < 256 → heatOf (releaseHeat s b) b = (heatOf s b + 1) % 2 ^ 32 ∧ tapeState (releaseHeat s b) b = 0)

-- ## Moves between the array and the tiers

/-- Spills and fills (R505, R507, R511, R514, R518, R519). MOVE_DESCRIPTOR_READ: when the doorbell baton's count has reached one
more than TAKEN, the descriptor's read is submitted and TAKEN rises by one; before that nothing changes. SPILL and FILL take
the oldest held descriptor: one that fails a check gets a completion record with the refusal's CODE and CAUSE; one that passes
becomes a move, and each of its bibs has PLACE 5 (SPILL) or 4 (FILL). TIER_PAGE_DELIVERY records the page and issues the WRITE
of each of its bursts. TIER_ACK removes the page from those outstanding. TIER_TIMEOUT and TIER_PAGE_FAILURE fail a bib that the
tier still owes a page of; a
timeout does so from the promised completion plus 1,024 × TMO on. A completed bib has PLACE tier + 1 after a SPILL, its first
page in LOC, and PLACE 0 after a FILL. -/
def Obligations.MovesBetweenArrayAndTiers : Prop :=
  (∀ (p : Nat) (s : State), arrayRuns s = true → p < 16 → flagF s F.SPL_CTL_EN = true → ringUsable s p = true → s.parked = false →
      let taken := Sparse.at s.ringTaken p 0
      let rung := reached (getF s (F.BTN_CNT_COUNT (getF s (F.SPL_RING_BATON_DOORBELL p)))) ((taken + 1) % 2 ^ 32)
      let i := taken % ringLen s p
      let a := ringAddr s p i 0
      let r := { blankReq s.nextId (.spill p) (unitHdr 0 7 15 63 a) [] (now s) with
                 base := a, accs := [readAcc (a / 64) 0 0 0], aux := [1, i] }
      (rung = false → exec (.moveDescriptorRead p) s = .next s)
      ∧ (∀ u, rung = true → submitUnit { s with reqs := s.reqs ++ [r], nextId := s.nextId + 1 } r = some u →
          ∃ t, exec (.moveDescriptorRead p) s = .next t ∧ t.reqs = u.reqs
            ∧ Sparse.at t.ringTaken p 0 = (taken + 1) % 2 ^ 32 ∧ getF t (F.SPL_RING_POS_TAKEN p) = (taken + 1) % 2 ^ 16))
  ∧ (∀ (p : Nat) (d : MvDesc) (s : State), arrayRuns s = true → s.parked = false → headDesc s p = some d →
      let isFill := bits d.word 0 4 = 2
      let s0 := { s with descs := s.descs.erase d }
      let moved := fun (m : MovePlan) (x n prom place : Nat) (t : State) => ∃ mv, t.moves = s.moves ++ [mv] ∧ mv.id = s.nextId
        ∧ mv.p = d.p ∧ mv.kind = bits d.word 0 4 ∧ mv.start = x ∧ mv.n = n ∧ mv.promised = prom ∧ mv.bibs = m.bibs
        ∧ ∀ b ∈ m.bibs, getF t (F.BIB_CTL_PLACE b) = place
      (isFill → exec (.spill ⟨p, []⟩) s = .next s)
      ∧ (¬ isFill → exec (.fill ⟨p, []⟩) s = .next s)
      ∧ (∀ e, checkMove s0 d = .error e →
          let last := e.1.2.2
          let t := writeRecord (noteMoveRefused s0 e) d.p d.idx d.word e.1.1 e.1.2.1 0 (if e.1.1 = 7 then 0 else last) 0
            (if e.1.1 = 7 then last else 0)
          (¬ isFill → exec (.spill ⟨p, []⟩) s = .next t) ∧ (isFill → exec (.fill ⟨p, []⟩) s = .next t))
      ∧ (∀ m x n ch prom, checkMove s0 d = .ok (m, x, n, ch, prom) → (∀ b ∈ m.bibs, b < 4096) →
          (¬ isFill → ∃ t, exec (.spill ⟨p, []⟩) s = .next t ∧ moved m x n prom (if bits d.word 0 4 = 1 then 5 else 4) t)
          ∧ (isFill → ∃ t, exec (.fill ⟨p, []⟩) s = .next t ∧ moved m x n prom 4 t)))
  ∧ (∀ (d : TierPage) (m : Move) (s : State), arrayRuns s = true → findMove s d.mv = some m → m.kind = 2 →
      (d.bib, d.page) ∈ m.pend → (d.bib, d.page) ∉ m.got →
      let ps := pageStates s m d.bib d.page d
      let bad := (ps.1.filter (fun x => x == .stained || x == .lost)).length
      ∃ t l, exec (.tierPageDelivery d) s = .next t ∧ t.reqs = s.reqs ++ l
        ∧ l.length = (pageBursts s m d.bib d.page 5).length
        ∧ (∀ r ∈ l, r.h.op = 4 ∧ r.stage = .admitted ∧ r.aux = [4, m.id, d.bib, d.page])
        ∧ findMove t d.mv = some { m with got := m.got ++ [(d.bib, d.page)], stain := m.stain + bad }
        ∧ (ps.2 ≠ none → getF t F.SPL_STAT_PAGE_STAIN = 1))
  ∧ (∀ (mv bib page : Nat) (m : Move) (s : State), findMove s mv = some m →
      (arrayRuns s = true → m.kind = 1 → (bib, page) ∈ m.got → (bib, page) ∈ m.pend →
          exec (.tierAck mv bib page) s = .next (settleMove (putMove s { m with pend := m.pend.erase (bib, page) }) mv))
      ∧ (m.ended = false → m.pend.any (fun x => x.1 == bib && owedByTier m x) = true →
          exec (.tierPageFailure mv bib) s = .next (failMove s m bib 2))
      ∧ (∀ x l, m.ended = false → m.pend.filter (owedByTier m) = x :: l →
          let limit := m.promised + 1024 * getF s (F.SPL_TIER_CFG_TMO (m.tl.getD x.1 0))
          (now s < limit → exec (.tierTimeout mv) s = .next s)
          ∧ (limit ≤ now s → exec (.tierTimeout mv) s = .next (failMove s m x.1 1))))
  ∧ (∀ (m : Move) (j : Nat) (s : State), m.tl.getD j 0 < 4 →
      let b := m.bibs.getD j 0
      (m.kind = 1 → getF (completeBib s m j) (F.BIB_CTL_PLACE b) = m.tl.getD j 0 + 1
          ∧ getF (completeBib s m j) (F.BIB_LOC_LOC b) = m.pg.getD j 0 % 2 ^ 32)
      ∧ (m.kind = 2 → getF (completeBib s m j) (F.BIB_CTL_PLACE b) = 0))

-- ## The journal shadow and the partner

/-- The journal shadow and the partner (R579, R583 to R586). SHADOW_WRITE: with nothing held, the write is submitted to
admission and, refused, is held at the refusal's tick; behind a held write it waits, up to 64; a full hold discards it.
SHADOW_RESUBMIT: the oldest held write is discarded 16,000 ticks after its arrival, waits until its tick, and is then submitted.
SHADOW_ACK takes the oldest unacknowledged state of an entry, and what waited for it goes on. SHADOW_TIMEOUT: 20,000 ticks after
a state was sent without its acknowledgement the shadow is lost, and not before. KEEPALIVE_SEND leaves once in each 65,536
ticks; KEEPALIVE notes its tick; PARTNER_LOST needs four such intervals of silence or a cold start of the partner. -/
def Obligations.ShadowWritesAndKeepalives : Prop :=
  (∀ (link desc : Nat) (data : Beat) (s : State), arrayRuns s = true → link < 4 → desc < 8192 → linkUsable s link = true →
      flagF s F.JNL_SHADOW_EN = true →
      let u := noteInbound s link 1 ⟨0xD0 + link, 0, 15, some 7, 0⟩
      (∀ t, s.shHold = [] → submitShadow u link desc data = (none, t) → exec (.shadowWrite link desc data) s = .next t)
      ∧ (∀ v t, s.shHold = [] → submitShadow u link desc data = (some v, t) → t.shHold = [] →
          exec (.shadowWrite link desc data) s = .next { t with shHold := [⟨link, desc, data, now s, v⟩] })
      ∧ (s.shHold ≠ [] → s.shHold.length < 64 →
          exec (.shadowWrite link desc data) s = .next { u with shHold := s.shHold ++ [⟨link, desc, data, now s, 0⟩] })
      ∧ (64 ≤ s.shHold.length → exec (.shadowWrite link desc data) s = .next u))
  ∧ (∀ (w : ShadowHold) (l : List ShadowHold) (s : State), arrayRuns s = true → s.shHold = w :: l →
      (w.arrived + 16000 ≤ now s → exec .shadowResubmit s = .next { s with shHold := l })
      ∧ (now s < w.arrived + 16000 → now s < w.at_ → exec .shadowResubmit s = .next s)
      ∧ (now s < w.arrived + 16000 → w.at_ ≤ now s →
          (∀ t, submitShadow s w.link w.desc w.data = (none, t) → exec .shadowResubmit s = .next { t with shHold := l })
          ∧ (∀ v t, submitShadow s w.link w.desc w.data = (some v, t) →
              exec .shadowResubmit s = .next { t with shHold := { w with at_ := v } :: l })))
  ∧ (∀ (seq : Nat) (e : JEntry) (st tick : Nat) (l : List (Nat × Nat)) (s : State), findEntry s seq = some e →
      e.states = (st, tick) :: l →
      let e1 := { e with states := l }
      (arrayRuns s = true → exec (.shadowAck seq) s = .next (settleUnits (ackState (putEntry s e1) e1 st)))
      ∧ (now s < tick + 20000 → exec (.shadowTimeout seq) s = .next s)
      ∧ (tick + 20000 ≤ now s → exec (.shadowTimeout seq) s = .next (loseShadow s)))
  ∧ (∀ s : State, flagF s F.JNL_BUDDY_SET = true → flagF s F.JNL_CTL_SHADOW_EN = true → getF s F.MESH_STAT_UP ≠ 0 →
      let k := now s / 65536
      (k ≤ s.buddy.kaSent → exec .keepaliveSend s = .next s)
      ∧ (s.buddy.kaSent < k → exec .keepaliveSend s = .next (emit { s with buddy := { s.buddy with kaSent := k } }
          (.mesh (.keepalive (getF s F.JNL_BUDDY_WAFER) (getF s F.JNL_BUDDY_INST) (fenced s))))))
  ∧ (∀ s : State, flagF s F.JNL_SHADOW_EN = true →
      (∀ b, exec (.keepalive b) s = .next { s with buddy := { s.buddy with kaLast := some (now s) } })
      ∧ (∀ k, s.buddy.kaLast = some k → s.buddy.cold = false → now s < k + 262144 → exec .partnerLost s = .next s)
      ∧ ((∃ k, s.buddy.kaLast = some k ∧ k + 262144 ≤ now s) ∨ s.buddy.cold = true →
          ∃ t, exec .partnerLost s = .next t ∧ getF t F.JNL_STAT_PARTNER_LOST = 1 ∧ t.buddy.kaLast = none ∧ t.buddy.cold = false))

-- ## The marshals and recovery

/-- The marshal pair, parts and the recovery window (R598, R599, R601, R602, R605). HEARTBEAT_TIMEOUT: with the firmware
running, 1,024 × HB_TMO ticks after the last heartbeat fail the active marshal over, and not before; MARSHAL_FAILURE and the
FAILOVER bit do so at once. MARSHAL_TAKEOVER: the marshal that takes over is the active one, MSH_STAT.ACTIVE names it, REPLAYED
counts the commands and entries after its slot, and OPEN is set. CHECKPOINT_COMPLETE writes the slot with the next generation.
PART_FAULT declares the part; RECOVERY_WINDOW_CLOSE closes a window whose wait is over. -/
def Obligations.MarshalsAndPartsFail : Prop :=
  (∀ s : State, s.activeM.isSome = true → firmwareRuns s = true → aonState s = 0 →
      let limit := s.msh.hb + 1024 * getF s F.JNL_HB_HB_TMO
      (now s < limit → exec .heartbeatTimeout s = .next s) ∧ (limit ≤ now s → exec .heartbeatTimeout s = .next (failover s)))
  ∧ (∀ s : State, aonState s = 0 → exec .marshalFailure s = .next (failover s))
  ∧ (∀ (a : Nat) (s : State), s.activeM = some a → flagF s F.MSH_STAT_STBY_OK = true → openPart s = none →
      (failover s).activeM = none ∧ (failover s).msh.taking = some (1 - a) ∧ flagF (failover s) (failBit a) = true)
  ∧ (∀ (m : Nat) (sl : Slot) (s : State), s.msh.taking = some m → m < 2 → shdn s = false →
      let u := setF { s with activeM := some m, msh := { s.msh with taking := none, hb := now s } } F.MSH_STAT_ACTIVE m
      pickSlot u m = some sl →
      let n := (s.msh.done.filter (fun q => decide (sl.jseq < q))).length + (s.jnl.filter (fun e => e.kind == 4)).length
      ∃ t, exec .marshalTakeover s = .next t ∧ t.activeM = some m ∧ t.msh.taking = none ∧ t.msh.hb = now s
        ∧ getF t F.MSH_STAT_ACTIVE = m ∧ getF t F.JNL_CNT_REPLAYED = getF (incF s F.JNL_CNT_REPLAYED n) F.JNL_CNT_REPLAYED
        ∧ getF t F.REG_CTL_OPEN = 1 ∧ t.rst.pause = false ∧ t.reqs = s.reqs ∧ t.jnl = s.jnl)
  ∧ (∀ (c : CkptCopy) (a : Nat) (s : State), s.msh.copy = some c → s.activeM = some a →
      let g := (getF s F.JNL_CKPT_GEN + 1) % 2 ^ 32
      ∃ t sl, exec .checkpointComplete s = .next t ∧ getF t F.JNL_CKPT_GEN = g % 2 ^ F.JNL_CKPT_GEN.w
        ∧ getF t F.JNL_STAT_CKPT_SLOT = c.slot % 2 ^ F.JNL_STAT_CKPT_SLOT.w ∧ getF t F.JNL_CKPT_CMD_BUSY = 0
        ∧ t.msh.copy = none ∧ Sparse.find t.msh.slots (2 * (1 - a) + c.slot) = some sl ∧ sl.gen = g ∧ sl.jseq = c.jseq
        ∧ sl.len = c.len ∧ t.mem = s.mem ∧ t.reqs = s.reqs)
  ∧ (∀ (cls idx : Nat) (s : State), partOk cls idx = true → aonState s = 0 →
      exec (.partFault cls idx) s = .next (settleUnits (declarePart s cls idx)))
  ∧ (∀ s : State, (windowOver s = true → exec .recoveryWindowClose s = .next (settleUnits (closeWindow s)))
      ∧ (windowOver s = false → exec .recoveryWindowClose s = .next s))

-- ## Resets, pins and supplies

/-- Resets and the supplies (R599, R716, R753 to R757, R759, R760, R766). A trigger makes its reset due (the pins, the two
GLB_RST_CMD bits by a master other than a marshal, the supply return after Off) or, while a reset it cannot take over is due
or runs, raises IGNORED. COLD_RESET performs a due cold reset: CAUSE, PREV and COUNT take it, the arrays and the accepted work
are gone, OPEN is clear, the burned OTP and the always-on record of the last wake stay. WARM_RESET performs a due warm reset:
it parks the work, and the drain's end (WARM_RESUME) ends it. SUPPLY_RESET holds the instance in reset until
SUPPLY_RESET_RELEASE. -/
def Obligations.ResetsAreTakenWhenDue : Prop :=
  ∀ s : State,
    let busyCold := s.rst.coldRun = true ∨ (s.rst.due ≠ 0 ∧ s.rst.due ≤ 7)
    let ignored := incF s F.GLB_RST_CAUSE_IGNORED 1
    let coldDue : Nat → State := fun k => { s with rst := { s.rst with due := k, warm := 0 } }
    let warmFree := s.rst.coldRun = false ∧ s.rst.due = 0 ∧ s.rst.warm = 0 ∧ shdn s = false ∧ s.clk.stopped = false
    let afterCold : Nat → State → Prop := fun k t =>
      getF t F.GLB_RST_CAUSE_CAUSE = k ∧ getF t F.GLB_RST_CAUSE_PREV = getF s F.GLB_RST_CAUSE_CAUSE ∧ aonState t = 0
      ∧ getF t F.GLB_RST_CAUSE_COUNT = getF (incF s F.GLB_RST_CAUSE_COUNT 1) F.GLB_RST_CAUSE_COUNT
      ∧ getF t F.CPM_AON_LAST_SOURCE = getF s F.CPM_AON_LAST_SOURCE ∧ getF t F.REG_CTL_OPEN = 0
      ∧ t.mem = [] ∧ t.reqs = [] ∧ t.jnl = [] ∧ t.tasks = [] ∧ t.msh.otp = s.msh.otp ∧ t.rst.coldRun = true ∧ t.rst.due = 0
      ∧ t.cad.st = .unlocked
    (s.clk.vaon = true → busyCold → exec .coldRstN s = .next ignored)
    ∧ (s.clk.vaon = true → ¬ busyCold → exec .coldRstN s = .next (coldDue 2))
    ∧ (s.clk.vaon = true → warmFree → exec .warmRstN s = .next { s with rst := { s.rst with due := 8 } })
    ∧ (s.clk.vaon = true → (s.rst.coldRun = true ∨ s.rst.due ≠ 0 ∨ s.rst.warm ≠ 0 ∨ shdn s = true) →
        exec .warmRstN s = .next ignored)
    ∧ (∀ m, reaches m 0x14 s = true → m ≠ .debug → m ≠ .marshal →
        (warmFree → exec (.warm m) s = .next { s with rst := { s.rst with due := 9 } })
        ∧ (¬ busyCold → exec (.cold m) s = .next (coldDue 3)))
    ∧ (1 ≤ s.rst.due → s.rst.due ≤ 7 → s.clk.vaon = true → ∃ t, exec .coldReset s = .next t ∧ afterCold s.rst.due t
        ∧ t.clk.powerOk = s.clk.powerOk)
    ∧ (s.rst.due = 0 → exec .coldReset s = .next s ∧ exec .warmReset s = .next s)
    ∧ (8 ≤ s.rst.due → s.rst.due ≤ 10 → aonState s = 0 → ∃ t, exec .warmReset s = .next t ∧ t.rst.warm = s.rst.due
        ∧ t.rst.due = 0 ∧ t.parked = true ∧ getF t F.GLB_RST_CAUSE_CAUSE = s.rst.due
        ∧ getF t F.GLB_RST_CAUSE_PREV = getF s F.GLB_RST_CAUSE_CAUSE ∧ ∀ k ∈ t.tasks, k.parked = true)
    ∧ (s.rst.warm ≠ 0 → drained s = true → s.rst.shutDue = false → ∃ t, exec .warmResume s = .next t ∧ t.rst.warm = 0
        ∧ t.parked = false)
    ∧ (s.rst.warm ≠ 0 → drained s = false → exec .warmResume s = .next s)
    ∧ (aonState s = 0 ∨ aonState s = 2 → s.clk.powerOk = true → ¬ busyCold →
        ∃ t, exec .supplyReset s = .next t ∧ afterCold 4 t ∧ t.clk.powerOk = false)
    ∧ exec .supplyResetRelease s = .next { s with clk := { s.clk with powerOk := true } }
    ∧ (aonState s = 1 ∨ aonState s = 3 → exec .railsRemoved s = .next
        { s with clk := { s.clk with rails := false, railsOff := true } })
    ∧ (aonState s = 3 → s.clk.rails = false → s.clk.vaon = true → ¬ busyCold →
        exec .railsApplied s = .next { coldDue 7 with clk := { s.clk with rails := true } })
    ∧ (∃ t, exec .vaonApplied s = .next t ∧ t.regs = [] ∧ t.msh.otp = s.msh.otp ∧ t.pending = s.pending ∧ t.rst.coldRun = true
        ∧ t.mem = [])
    ∧ (aonState s = 1 ∨ aonState s = 3 → ∃ t, exec .vaonRemoved s = .next t ∧ aonState t = 3 ∧ t.clk.vaon = false
        ∧ t.msh.otp = s.msh.otp ∧ t.mem = [] ∧ getF t F.CPM_AON_LAST_SOURCE = 0)

/-- The shutdown (R761 to R763). PFAIL_ASSERT begins one with source 1: OPEN is clear, SHDN_ACT is set. PFAIL_RELEASE before the
hand-off ends it: SHDN_ACT is clear, ABORTED and OPEN are set. HANDOFF_POINT, once the mark is acknowledged, sets HANDED_OFF and
enters Off; with the rails up and PFAIL_N released a cold reset with cause SHUTDOWN is due. -/
def Obligations.ShutdownsHandOff : Prop :=
  ∀ s : State, aonState s = 0 →
    (s.rst.pfail = false → shdn s = false → s.clk.powerOk = true → s.rst.warm = 0 →
        exec .pfailAssert s = .next (startShutdown { s with rst := { s.rst with pfail := true } } 1))
    ∧ (s.rst.pfail = false → shdn s = false → s.clk.powerOk = true → s.rst.warm ≠ 0 →
        exec .pfailAssert s = .next { s with rst := { s.rst with pfail := true, shutDue := true } })
    ∧ (s.rst.pfail = true → shdn s = true → flagF s F.GLB_SHDN_STAT_SOURCE = true → flagF s F.GLB_SHDN_STAT_HANDED_OFF = false →
        ∃ t, exec .pfailRelease s = .next t ∧ shdn t = false ∧ flagF t F.GLB_SHDN_STAT_ABORTED = true
          ∧ flagF t F.REG_CTL_OPEN = true ∧ t.rst.pfail = false)
    ∧ (s.rst.pfail = false → exec .pfailRelease s = .next s)
    ∧ (shdn s = true → markAcked s = true → s.rst.coldRun = false → s.rst.due = 0 → ∃ t, exec .handoffPoint s = .next t
        ∧ aonState t = 3 ∧ (s.rst.pfail = true → t.rst.due = 0)
        ∧ (s.rst.pfail = false → s.clk.rails = true → t.rst.due = 5))
    ∧ (markAcked s = false → exec .handoffPoint s = .next s)

-- ## Boot and roll-call

/-- The boot stages (R122, R618, R619, R622, R625, R626, R636, R637, R676, R683). With the supplies present: BIST_DONE leaves
every row UNWRITTEN and every TRK_STAT.BIST_DONE set, and boot reaches REFCLK or FAILED; REF_READY goes on to PLL, PLL_LOCK to
IMAGE, and REFCLK_TIMEOUT fails boot with cause 11. DIRECTORY selects an eligible slot, or fails boot with cause 1. DATA in
order adds its bytes up to IMG_LEN; a gap ends the pass; END_OF_PASS counts the pass, and a complete image with its CRC right
goes on to AUTH. AUTH_DONE fails the slot with cause 5, 6 or 7, or goes on to APPLY; APPLY_DONE goes on to ROLLCALL, or fails
the slot with 8. In another stage none of them changes anything. -/
def Obligations.BootStagesAdvance : Prop :=
  ∀ s : State, s.clk.powerOk = true → s.clk.rails = true → s.clk.vaon = true → aonState s = 0 →
    let stage := getF s F.MSH_BOOT_STAGE
    (∀ r, stage = 0 → s.rst.coldRun = true → r.marshals = [] → flagF s F.MSH_STAT_M0_FAIL = false →
        ∃ t, exec (.bistDone r) s = .next t ∧ t.gst = [] ∧ t.mem = [] ∧ t.activeM = some 0
          ∧ (∀ k, k < 16 → getF t (F.TRK_STAT_BIST_DONE k) = 1)
          ∧ (getF t F.MSH_BOOT_STAGE = 3 ∨ (getF t F.MSH_BOOT_STAGE = 15 ∧ getF t F.MSH_BOOT_CAUSE ∈ [9, 10])))
    ∧ (stage = 3 → exec .refReady s = .next (setF (setF s F.CPM_CLK_STAT_REF_READY 1) F.MSH_BOOT_STAGE 4)
        ∧ exec .refclkTimeout s = .next (bootFail s 11))
    ∧ (stage = 4 → exec .pllLock s =
        .next (setF (setF (setF s F.CPM_CLK_STAT_LOCK_A 1) F.CPM_CLK_STAT_ON_PLL 1) F.MSH_BOOT_STAGE 5))
    ∧ (∀ b, stage = 5 → blockOk b 0 = true → ∃ t, exec (.directory b) s = .next t
        ∧ (let u := { s with boot := t.boot }
           ((∀ i, i < 2 → imageOk u i = false) → getF t F.MSH_BOOT_STAGE = 15 ∧ getF t F.MSH_BOOT_CAUSE = 1)
           ∧ ((∃ i, i < 2 ∧ imageOk u i = true) → getF t F.MSH_BOOT_STAGE = 5 ∧ imageOk u (getF t F.MSH_BOOT_SLOT) = true
              ∧ t.boot.on = (blockSlot b == getF t F.MSH_BOOT_SLOT))))
    ∧ (∀ b, stage = 5 → blockOk b 1 = true → s.boot.on = true → blockSlot b = getF s F.MSH_BOOT_SLOT → s.boot.gap = false →
        let k := bits b.hdr.toNat 16 24
        let l := (s.boot.img ++ padBytes 1024 b.payload).take (slotLen (selRecord s))
        (k = nextBlock s → formatBad l (selRecord s) = false → exec (.data b) s = .next
            { s with boot := { s.boot with img := l } })
        ∧ (k = nextBlock s → formatBad l (selRecord s) = true →
            exec (.data b) s = .next (failSlot { s with boot := { s.boot with img := l } } 3))
        ∧ (nextBlock s < k → exec (.data b) s = .next { s with boot := { s.boot with gap := true } })
        ∧ (k < nextBlock s → exec (.data b) s = .next s))
    ∧ (∀ b, stage = 5 → blockOk b 2 = true → s.boot.on = true → blockSlot b = getF s F.MSH_BOOT_SLOT →
        let n := getF s F.MSH_BOOT_PASSES + 1
        let short := s.boot.img.length < slotLen (selRecord s)
        (short → n < 4 → exec (.endOfPass b) s = .next (setF { s with boot := { s.boot with on := false } } F.MSH_BOOT_PASSES n))
        ∧ (short → 4 ≤ n → ∃ t, exec (.endOfPass b) s = .next t ∧ getF t F.MSH_BOOT_CAUSE = 2
            ∧ bitAt (getF t F.MSH_BOOT_BAD) (getF s F.MSH_BOOT_SLOT) = true ∧ getF t F.MSH_BOOT_STAGE = 5)
        ∧ (¬ short → 256 ≤ s.boot.img.length → imageCrc s.boot.img = imgNat s.boot.img 0x18 4 →
            ∃ t, exec (.endOfPass b) s = .next t ∧ getF t F.MSH_BOOT_STAGE = 6)
        ∧ (¬ short → 256 ≤ s.boot.img.length → imageCrc s.boot.img ≠ imgNat s.boot.img 0x18 4 →
            ∃ t, exec (.endOfPass b) s = .next t ∧ getF t F.MSH_BOOT_STAGE = 5 ∧ getF t F.MSH_BOOT_CAUSE = 4))
    ∧ (stage = 6 →
        (keyOk s = false → exec .authDone s = .next (failSlot s 5))
        ∧ (keyOk s = true → sigOk s.boot.img = false → exec .authDone s = .next (failSlot s 6))
        ∧ (keyOk s = true → sigOk s.boot.img = true →
            (imgNat s.boot.img 12 2 < getF s F.MSH_ARB_OTP_ARB → exec .authDone s = .next (failSlot s 7))
            ∧ (getF s F.MSH_ARB_OTP_ARB ≤ imgNat s.boot.img 12 2 → ownRole s.boot.img ≠ 0xFE →
                exec .authDone s = .next (setF s F.MSH_BOOT_STAGE 7))))
    ∧ (stage = 7 →
        ((applyAll s).1 = true → ∃ t, exec .applyDone s = .next t ∧ getF t F.MSH_BOOT_STAGE = 8 ∧ getF t F.GLB_RC_STAT_STEP = 1
            ∧ getF t F.MSH_IMG_IMG_SEQ = imgNat (applyAll s).2.boot.img 0x10 4)
        ∧ ((applyAll s).1 = false → exec .applyDone s = .next (failSlot (applyAll s).2 8)))
    ∧ (8 ≤ stage → ∀ b r, exec (.bistDone r) s = .next s ∧ exec .refReady s = .next s ∧ exec .refclkTimeout s = .next s
        ∧ exec .pllLock s = .next s ∧ exec (.directory b) s = .next s ∧ exec (.data b) s = .next s
        ∧ exec (.endOfPass b) s = .next s ∧ exec .authDone s = .next s ∧ exec .applyDone s = .next s)

/-- Roll-call (R660 to R663). HELLO_SEND sends HELLO on each trained link, at most once in 100,000 ticks; an untrained link is
silent. HELLO is answered on its link. In step 1, HELLO_REPLY writes half the round trip, in quarter ticks less HOLD, to the
link's delay in units of half ticks as R662 rounds it; a reply of a site that has booted gives the link its status, and one
that is still booting does not, until NEIGHBOUR_SILENT after 1,000,000,000 ticks. With the fourth status step 2 begins.
FIELD_STATUS of the own field is noted, and the last one ends step 2, as FIELD_STATUS_TIMEOUT does 5,000,000 ticks after it
began. The marshal's GLB_SELF write in stage ROLLCALL gives the instance its address and starts stage CADENCE. -/
def Obligations.RollCallExchangesStatus : Prop :=
  (∀ s : State, rollStep s = 1 → s.roll.sent = now s / 100000 + 1 → exec .helloSend s = .next s)
  ∧ (∀ s : State, rollStep s = 1 → s.roll.sent ≠ now s / 100000 + 1 → (∀ k, k < 4 → rollLinkUp s k = true) →
      ∃ t, exec .helloSend s = .next t ∧ t.roll.sent = now s / 100000 + 1 ∧ t.regs = s.regs
        ∧ t.out = s.out ++ (List.range 4).map (fun k => OutPkt.rollLink k (rollBits s 0 (quarters s) 0)))
  ∧ (∀ (link : Nat) (m : BitVec 128) (r : RollMsg) (s : State), rollLinkUp s link = true → parseRoll m.toNat = some r →
      (r.kind = 0 → ∃ t h, exec (.hello link m) s = .next t ∧ t.regs = s.regs
          ∧ t.out = s.out ++ [.rollLink link (rollBits s 1 (quarters s + 2 ^ 32 * (r.body % 2 ^ 32)) h)])
      ∧ (∀ receipt, r.kind = 1 → rollStep s = 1 →
          let d := (receipt % 2 ^ 32 + 2 ^ 33 - bits r.body 32 32 - r.hold) % 2 ^ 32
          ∃ t, exec (.helloReply link m receipt) s = .next t
            ∧ getF t (F.CPM_LINK_DLY_DELAY link) = (d + 1) / 2 % 2 ^ (F.CPM_LINK_DLY_DELAY link).w
            ∧ (r.status ≠ 0 → nbrDone s link = false → nbrDone t link = true
                ∧ getF t (F.GLB_RC_NBR_NBR link) = r.status % 2 ^ (F.GLB_RC_NBR_NBR link).w)
            ∧ (r.status = 0 → getF t F.GLB_RC_NBR_DONE = getF s F.GLB_RC_NBR_DONE)))
  ∧ (∀ (link since : Nat) (s : State), link < 4 → rollStep s = 1 → Sparse.find s.roll.booting link = some (since + 1) →
      (now s < since + 1000000000 → exec (.neighbourSilent link) s = .next s)
      ∧ (since + 1000000000 ≤ now s → nbrDone s link = false → ∃ t, exec (.neighbourSilent link) s = .next t
          ∧ nbrDone t link = true ∧ getF t (F.GLB_RC_NBR_NBR link) = 0
          ∧ (getF s F.GLB_RC_NBR_DONE + 2 ^ link = 15 → getF t F.GLB_RC_STAT_STEP = 2)))
  ∧ (∀ (m : BitVec 128) (r : RollMsg) (s : State), aonState s = 0 → parseRoll m.toNat = some r → r.kind = 2 →
      r.inst / 12 = Config.siteField → s.roll.closed = false →
      let u := { notePartner s r with
        roll := { (notePartner s r).roll with heard := Sparse.put (notePartner s r).roll.heard (r.inst % 12) r.status } }
      let known := ∀ i, i < 12 → (siteStatus u i).isSome = true
      (rollStep s = 2 → known → exec (.fieldStatus m) s = .next (closeField u))
      ∧ (rollStep s ≠ 2 ∨ ¬ known → exec (.fieldStatus m) s = .next u))
  ∧ (∀ s : State, rollStep s = 2 → s.roll.step1 ≠ 0 →
      (now s + 1 < s.roll.step1 + 5000000 → exec .fieldStatusTimeout s = .next s)
      ∧ (s.roll.step1 + 5000000 ≤ now s + 1 → exec .fieldStatusTimeout s = .next (closeField s)))
  ∧ (∀ (w : Nat) (s : State), s.activeM.isSome = true → reaches .marshal 8 s = true → w < 2 ^ 32 → bits w 31 1 = 1 →
      getF s F.MSH_BOOT_STAGE = 8 → ∃ t, exec (.glbSelfWrite .marshal w) s = .next t
        ∧ getF t F.GLB_SELF_INSTANCE = (if bits w 0 9 ≤ F.GLB_SELF_INSTANCE.mx then bits w 0 9 else getF s F.GLB_SELF_INSTANCE)
        ∧ getF t F.GLB_SELF_WAFER = (if bits w 16 5 ≤ F.GLB_SELF_WAFER.mx then bits w 16 5 else getF s F.GLB_SELF_WAFER)
        ∧ getF t F.GLB_SELF_ASSIGNED = 1 ∧ getF t F.GLB_RC_STAT_STEP = 5
        ∧ (s.boot.unused = false → getF t F.JNL_BUDDY_WAFER = getF t F.GLB_SELF_WAFER ∧ getF t F.JNL_BUDDY_SET = 1)
        ∧ (s.cad.st = .unlocked → getF t F.MSH_BOOT_STAGE = 9 ∧ t.cad.st = .acquiring))

-- ## Commands of the marshal's mailboxes and rings

/-- The commands on partitions, bibs, rounding, contexts, OTP and the re-form (R331, R348, R350, R551, R640 to R646). A
command that is taken (`takeCmd`) acts or is refused with a cause of R642. PART_CREATE makes the partition CREATED, or keeps
its cause in PARTn_STAT; a ring may not issue it, and an undefined code is refused with cause 2. PART_KILL answers and removes
the partition's work. BIB_ALLOC gives a free bib its entry, BIB_FREE drops a bib, BIB_LINK chains two. SR_SET writes KEY and
STEP. CTX_SAVE parks the batons and writes the records, which CTX_RESTORE reads. OTP_BURN burns the first blank generation,
and is refused while OPEN. REFORM clears OPEN, and its restart (REFORM_RESTART) follows once the work has ended. A result
clears BUSY, sets DONE and gives CODE, CAUSE, USER and VALUE. -/
def Obligations.MarshalCommandsAct : Prop :=
  ∀ (c : CmdSrc) (r : CmdRun) (s u : State),
    let w := r.words
    let a := cmdArg w 0
    let is : Nat → Prop := fun k => takeCmd s c (fun x => x == k) = some (r, u)
    let mb := fromMailbox r = true
    (takeCmd s c (fun k => k == 1 || !knownCode k) = some (r, u) →
        (knownCode (cmdCode w) = false → exec (.partCreate c) s = .next (refuseCmd u r 2))
        ∧ (knownCode (cmdCode w) = true → ¬ mb → exec (.partCreate c) s = .next (refusePart u r a 1))
        ∧ (knownCode (cmdCode w) = true → mb → createCause u a = none →
            exec (.partCreate c) s = .next (finishCmd (setF u (F.PART_STAT_STATE a) 1) r 0 0 0))
        ∧ (∀ k, knownCode (cmdCode w) = true → mb → createCause u a = some k →
            exec (.partCreate c) s = .next (refusePart u r a k)))
    ∧ (is 2 → mb → ∀ sw,
        (partCreated u a = true → a < 15 → exec (.partKill ⟨c, sw⟩) s =
            .next (settleKill (keepRun (killStart u a) { r with sw := sw } [a])))
        ∧ (15 < a → exec (.partKill ⟨c, sw⟩) s = .next (refusePart u { r with sw := sw } a 2))
        ∧ (a ≤ 15 → (a = 15 ∨ partCreated u a = false) →
            exec (.partKill ⟨c, sw⟩) s = .next (refusePart u { r with sw := sw } a 3)))
    ∧ (is 3 → mayActOn r a = true → allocBad w (allocEntry w) = false → partCreated u a = true → ∀ n e u1 u2,
        chooseFrom u ((List.range 4096).filter (fun k => !flagF u (F.BIB_CTL_VALID k))) = (some n, u1) →
        placeBib u1 a (allocEntry w) = some (e, u2) → bibNoLines u2 n (bibE u2 n) e = false →
        exec (.bibAlloc c) s = .next (finishCmd (setBib u2 n (bibE u2 n) e) r 0 0 n))
    ∧ (is 4 → a ≤ 4095 → flagF u (F.BIB_CTL_VALID a) = true → mayActOn r (getF u (F.BIB_CTL_PART a)) = true →
        (bibHeld u a = false → exec (.bibFree c) s = .next (finishCmd (dropBib u a) r 0 0 0))
        ∧ (bibHeld u a = true → exec (.bibFree c) s = .next (refuseCmd u r 3)))
    ∧ (is 5 → ∀ n, cmdArg w 1 = n → a ≤ 4095 → n ≤ 4095 → flagF u (F.BIB_CTL_VALID a) = true →
        flagF u (F.BIB_CTL_VALID n) = true →
        getF u (F.BIB_CTL_PART a) = getF u (F.BIB_CTL_PART n) → mayActOn r (getF u (F.BIB_CTL_PART a)) = true →
        flagF u (F.BIB_CTL_CHAINED a) = false →
        (chainReaches u a 4096 n = false →
            exec (.bibLink c) s = .next (finishCmd (setF (setF u (F.BIB_CTL_CHAINED a) 1) (F.BIB_CTL_NEXT a) n) r 0 0 0))
        ∧ (chainReaches u a 4096 n = true → exec (.bibLink c) s = .next (refuseCmd u r 7)))
    ∧ (is 6 → mayActOn r a = true → a ≤ 15 → exec (.srSet c) s = .next (finishCmd
        (setF (setF (setF u (F.PART_SR_KEY_LO_KEY_LO a) (cmdArg w 1)) (F.PART_SR_KEY_HI_KEY_HI a) (cmdArg w 2))
          (F.PART_SR_STEP_STEP a) (cmdArg w 3)) r 0 0 0))
    ∧ (is 7 → mb →
        (ctxCause u w false = none →
            let v := (ctxTapes w).foldl (fun t n => setF t (F.TAPE_CFG_EN n) 0)
              ((ctxBatons w).foldl (fun t n => setF t (F.BTN_CTL_PARKED n) 1) u)
            let data := leBytes ((ctxBatons w).flatMap (fun n => toBytes 8 (batonRecord v n))
              ++ (ctxTapes w).flatMap (fun n => toBytes 16 (tapeRecord v n)))
            (∀ n ∈ ctxBatons w, getF v (F.BTN_CTL_PARKED n) = 1)
            ∧ (0 < ctxBytes w → exec (.ctxSave c) s =
                .next (ctxAccesses 4 22 (cmdArg w 5) (ctxBytes w) data (keepRun v r [ctxBytes w]))))
        ∧ (∀ k, ctxCause u w false = some k → exec (.ctxSave c) s = .next (refusePart u r a k)))
    ∧ (is 8 → mb →
        (ctxCause u w true = none → 0 < ctxBytes w → exec (.ctxRestore c) s =
            .next (ctxAccesses 0 23 (cmdArg w 5) (ctxBytes w) 0 (keepRun u r [0, 0])))
        ∧ (∀ k, ctxCause u w true = some k → exec (.ctxRestore c) s = .next (refusePart u r a k)))
    ∧ (is 9 → mb →
        (flagF u F.REG_CTL_OPEN = true → exec (.otpBurn c) s = .next (refuseCmd u r 3))
        ∧ (flagF u F.REG_CTL_OPEN = false → ∀ g, (List.range 4).find? (fun g => otpGen u g == 0) = some g →
            ∃ t v, exec (.otpBurn c) s = .next t ∧ Sparse.find t.msh.otp g = some v
              ∧ (∀ k, k ≠ g → Sparse.find t.msh.otp k = Sparse.find u.msh.otp k)
              ∧ ((takeFree u 2).1 = 0 → v = stagedGen u % 2 ^ 976 + 2 ^ 976 * otpCrc (stagedGen u % 2 ^ 976) + 2 ^ 1016 * 0xC3)))
    ∧ (is 10 → mb → exec (.reform c) s = .next (keepRun (setF u F.REG_CTL_OPEN 0) r []))
    ∧ (s.msh.run = some r → cmdCode w = 10 → aonState s = 0 →
        (reformDrained s = true → exec .reformRestart s = .next (reformState ((List.range 15).foldl reformKill s)))
        ∧ (reformDrained s = false → exec .reformRestart s = .next s))
    ∧ (∀ code cause value m e, m < 2 → r.src = (if m = 0 then .supervisor else .debug) → shadowOn s = false →
        findEntry s r.seq = some e → e.csrc = some r.src → e.words = [w] → code < 8 → cause < 256 → value < 2 ^ 64 →
        let t := finishCmd s r code cause value
        getF t (F.MSH_MB_CTL_BUSY m) = 0 ∧ getF t (F.MSH_MB_CTL_DONE m) = 1 ∧ t.msh.run = none
        ∧ getF t (F.MSH_MB_R_WORD m 0) = code + 2 ^ 8 * cause + 2 ^ 16 * cmdUser w
        ∧ getF t (F.MSH_MB_R_WORD m 1) = value % 2 ^ 32 ∧ getF t (F.MSH_MB_R_WORD m 2) = value / 2 ^ 32)

-- ## Power commands, Doze and wakes

/-- The power commands and wakes (R689 to R691, R695 to R703, R737, R740, R741). Only the supervisor's mailbox may issue them,
and a shutdown refuses them with cause 3. PWR_IDLE and PWR_ACTIVE change the power state, PWR_CAP, PWR_FIXED and PWR_BOOST the
power mode, PWR_STEP_SET the step; each refuses as R703 and R744 say. PWR_DOZE closes OPEN and drains; when the drain has
ended the result leaves and DOZE_ENTRY enters Doze with the sleep entry tick; past the limit DOZE_DRAIN_TIMEOUT refuses and
opens again. PWR_OFF begins a shutdown with source 0. In Doze, an enabled wake source sets PWR_REQ; the supervisor's WAKE
starts the wake, which WAKE_COMPLETE ends; a brown-out sets RET_LOST and the next wake is a cold start. -/
def Obligations.PowerCommandsAct : Prop :=
  (∀ (c : CmdSrc) (r : CmdRun) (s u : State),
    let w := r.words
    let a := cmdArg w 0
    let is : Nat → Prop := fun k => takeCmd s c (fun x => x == k) = some (r, u)
    let row : Nat → Option Instr := fun k => if k = 0x20 then some (.pwrIdle c) else if k = 0x21 then some (.pwrActive c)
      else if k = 0x22 then some (.pwrDoze c) else if k = 0x23 then some (.pwrOff c) else if k = 0x24 then some (.pwrStepSet c)
      else if k = 0x28 then some (.pwrCap c) else if k = 0x29 then some (.pwrFixed c)
          else if k = 0x2A then some (.pwrBoost c) else none
    let sup := r.src = .supervisor ∧ shdn u = false
    (∀ k i, is k → row k = some i → (r.src ≠ .supervisor → exec i s = .next (refuseCmd u r 1))
        ∧ (r.src = .supervisor → shdn u = true → exec i s = .next (refuseCmd u r 3)))
    ∧ (is 0x20 → sup → exec (.pwrIdle c) s =
        .next (if pwrState u = 0 then finishCmd (setF u F.CPM_PWR_STAT_STATE 1) r 0 0 0 else refuseCmd u r 3))
    ∧ (is 0x21 → sup → exec (.pwrActive c) s =
        .next (if pwrState u = 1 then finishCmd (setF u F.CPM_PWR_STAT_STATE 0) r 0 0 0 else refuseCmd u r 3))
    ∧ (is 0x28 → sup → let cap := a % 512
        let shares := ((List.range 16).map (fun p => getF u (F.PART_QOS_SHARE p))).sum
        (cap = 0 ∨ 256 < cap → exec (.pwrCap c) s = .next (refuseCmd u r 2))
        ∧ (1 ≤ cap → cap ≤ 256 → cap < shares → exec (.pwrCap c) s = .next (refuseCmd u r 5))
        ∧ (1 ≤ cap → cap ≤ 256 → shares ≤ cap → exec (.pwrCap c) s = .next (finishCmd (setF u F.CPM_PWR_MODE_CAP cap) r 0 0 0)))
    ∧ (is 0x29 → sup → exec (.pwrFixed c) s = .next (finishCmd (setF u F.CPM_PWR_MODE_FIXED a) r 0 0 0))
    ∧ (is 0x2A → sup → exec (.pwrBoost c) s = .next (if flagF u F.CPM_PWR_MODE_FIXED && bitAt a 0 then refuseCmd u r 3
        else finishCmd (setF u F.CPM_PWR_MODE_BOOST_EN a) r 0 0 0))
    ∧ (is 0x24 → sup → flagF u F.REG_CTL_OPEN = false → u.cad.ann = none → u.clk.sw = none →
        (7 < a → exec (.pwrStepSet c) s = .next (refuseCmd u r 2))
        ∧ (a ≤ 7 → let t := targetStep u a
            exec (.pwrStepSet c) s = .next (finishCmd
                (if t = curStep u then u else retuneTo (stepDue u t 2 (now u) false) t) r 0 0 0)))
    ∧ (is 0x24 → sup → a ≤ 7 → (flagF u F.REG_CTL_OPEN = true ∨ u.cad.ann.isSome = true) →
        exec (.pwrStepSet c) s = .next (refuseCmd u r 3))
    ∧ (is 0x22 → sup → dozeReason u = none → u.comb = [] → ∃ t, exec (.pwrDoze c) s = .next t ∧ pwrState t = 2
        ∧ getF t F.REG_CTL_OPEN = 0 ∧ t.msh.run.isSome = true ∧ t.clk.dozePrior = pwrState u
        ∧ t.clk.dozeBy = now u + 65536 * getF u F.CPM_PWR_CTL_DOZE_TMO ∧ getF t F.CPM_AON_WAKE_EN_TMR_EN = bits a 0 1
        ∧ getF t F.CPM_AON_WAKE_EN_LANE_EN = bits a 1 1 ∧ getF t F.CPM_AON_WAKE_EN_THERM_EN = bits a 2 1
        ∧ getF t F.CPM_AON_WAKE_EN_DEBUG_EN = bits a 3 1 ∧ getF t F.CPM_AON_TMR_PERIODS = cmdArg w 1)
    ∧ (∀ k, is 0x22 → sup → dozeReason u = some k →
        exec (.pwrDoze c) s = .next (refuseCmd (setF u F.CPM_PWR_STAT_DOZE_REJ k) r 3))
    ∧ (is 0x23 → sup → pwrState u ≠ 2 → exec (.pwrOff c) s =
        .next (startShutdown { u with msh := { u.msh with run := none }, rst := { u.rst with offRun := some r } } 0)))
  ∧ (∀ s : State, pwrState s = 2 → aonState s = 0 →
      (shdn s = false → s.rst.warm = 0 → s.msh.run = none → s.jnl = [] → ∃ t, exec .dozeEntry s = .next t ∧ aonState t = 1
          ∧ pwrState t = 0 ∧ t.cad.st = .unlocked ∧ getF t F.MESH_STAT_UP = 0 ∧ getF t F.CPM_CLK_STAT_ON_PLL = 0
          ∧ getF t F.CPM_SLEEP_ENTRY_LO_VAL = now s % 2 ^ 32)
      ∧ (shdn s = true → exec .dozeEntry s = .next s)
      ∧ (∀ r, s.msh.run = some r → cmdCode r.words = 0x22 → dozeDrained s r.seq = false →
          (s.clk.dozeBy < now s → exec .dozeDrainTimeout s = .next (dozeBack s r))
          ∧ (now s ≤ s.clk.dozeBy → exec .dozeDrainTimeout s = .next s)))
  ∧ (∀ s : State, aonState s = 1 →
      (∀ source lane, wakeEnabled s source = true → let l := if source = 3 then lane % 64 else 0
          exec (.wakeRequest source lane) s =
          .next (emit { setF s F.CPM_AON_STAT_PWR_REQ 1 with clk := { s.clk with wake := some ⟨source, l, 0, 0⟩ } } (.wakeLine source l)))
      ∧ (∀ source lane, wakeEnabled s source = false → exec (.wakeRequest source lane) s = .next s)
      ∧ (exec .dozeTimerExpiry s = .next (if wakeEnabled s 2 then
          emit { setF s F.CPM_AON_STAT_PWR_REQ 1 with clk := { s.clk with wake := some ⟨2, 0, 0, 0⟩ } } (.wakeLine 2 0) else s))
      ∧ (∀ lane, exec (.laneTrainingRequest lane) s = .next (if wakeEnabled s 3 then
          emit { setF s F.CPM_AON_STAT_PWR_REQ 1 with clk := { s.clk with wake := some ⟨3, lane % 64, 0, 0⟩ } }
            (.wakeLine 3 (lane % 64)) else s))
      ∧ exec .retentionBrownout s = .next (incF (setF s F.CPM_AON_STAT_RET_LOST 1) F.CPM_AON_CNT_BROWNOUTS 1)
      ∧ (∀ w, reaches .supervisor 0x1080 s = true → bits w.toNat 0 1 = 1 → bits w.toNat 1 4 ≤ 7 → s.clk.wake = none →
          ∃ t, exec (.cpmAonWake .supervisor w) s = .next t ∧ getF t F.CPM_AON_LAST_SOURCE = 1
            ∧ getF t F.CPM_AON_CNT_WAKES = getF (incF s F.CPM_AON_CNT_WAKES 1) F.CPM_AON_CNT_WAKES
            ∧ (flagF s F.CPM_AON_STAT_RET_LOST = false → aonState t = 2 ∧ t.clk.wake = some ⟨1, 0, 0, bits w.toNat 1 4⟩
                ∧ (s.clk.rails = true → t.cad.st = .acquiring ∧ getF t F.CPM_STEP_CUR_STEP = bits w.toNat 1 4))
            ∧ (flagF s F.CPM_AON_STAT_RET_LOST = true → s.rst.coldRun = false → s.rst.due = 0 → t.rst.due = 6)))
  ∧ (∀ (s : State) (w : WakeReq), s.clk.wake = some w → aonState s = 2 →
      (s.clk.rails = true → s.cad.st = .locked → ∃ t, exec .wakeComplete s = .next t ∧ aonState t = 0 ∧ t.clk.wake = none
          ∧ getF t F.REG_CTL_OPEN = 1 ∧ getF t F.CPM_CLK_STAT_ON_PLL = 1 ∧ getF t F.CPM_CLK_STAT_LOCK_A = 1)
      ∧ (s.clk.rails = false ∨ s.cad.st ≠ .locked → exec .wakeComplete s = .next s))

-- ## Clock faults, temperature, supply and monitors

/-- Clock faults and SAFE (R677 to R681). While the monitors run, CLOCK_FAULT sets the fault's flag; outside SAFE it enters
SAFE: ON_PLL is clear, UNCLEAN set only after PLL_OVER. RC_FAIL sets its flag. REFERENCE_USABLE and then SAFE_EXIT leave SAFE:
ON_PLL is set, and after an unclean stop a warm reset with cause CLOCK is due. SAFE_TIMEOUT, 10,000,000 ticks after SAFE was
entered without a usable reference, ends the clock for good. FM_DONE gives the count of a running measurement and sets DONE. -/
def Obligations.ClockFaultsEnterSafe : Prop :=
  ∀ s : State, monitorsRun s = true →
    (∀ k, flagF s F.CPM_CLK_STAT_SAFE = false → s.clk.safeExit = 0 → ∃ t, exec (.clockFault k) s = .next t
        ∧ flagF t F.CPM_CLK_STAT_SAFE = true ∧ flagF t (clockFlag k) = true ∧ getF t F.CPM_CLK_STAT_ON_PLL = 0
        ∧ flagF t F.CPM_CLK_STAT_UNCLEAN = (k == .pllOver) ∧ t.clk.safeAt = now s
        ∧ t.clk.refUsable = (if k = .refFail then altUsable s else flagF s F.CPM_CLK_STAT_REF_READY))
    ∧ (∀ k, flagF s F.CPM_CLK_STAT_SAFE = true → ∃ t, exec (.clockFault k) s = .next t ∧ flagF t (clockFlag k) = true
        ∧ t.clk.safeAt = s.clk.safeAt ∧ getF t F.CPM_CLK_STAT_UNCLEAN = getF s F.CPM_CLK_STAT_UNCLEAN)
    ∧ (∃ t, exec .rcFail s = .next t ∧ getF t F.CPM_CLK_STAT_RC_FAIL = 1
        ∧ getF t F.CPM_CLK_STAT_SAFE = getF s F.CPM_CLK_STAT_SAFE)
    ∧ (flagF s F.CPM_CLK_STAT_SAFE = true → s.clk.safeDead = false →
        let alt := flagF s F.CPM_CLK_STAT_REF_FAIL && altUsable s
        exec .referenceUsable s = .next { setF s F.CPM_CLK_STAT_ALT_REF (b2n alt) with clk := { s.clk with refUsable := true } })
    ∧ (flagF s F.CPM_CLK_STAT_SAFE = true → s.clk.safeDead = false → s.clk.refUsable = true → ∃ t, exec .safeExit s = .next t
        ∧ getF t F.CPM_CLK_STAT_SAFE = 0 ∧ getF t F.CPM_CLK_STAT_ON_PLL = 1 ∧ t.clk.safeExit = now s + 1
        ∧ (flagF s F.CPM_CLK_STAT_UNCLEAN = false → t.rst = s.rst)
        ∧ (flagF s F.CPM_CLK_STAT_UNCLEAN = true → s.rst.coldRun = false → s.rst.due = 0 → s.rst.warm = 0 → shdn s = false →
            s.clk.stopped = false → t.rst.due = 10))
    ∧ (flagF s F.CPM_CLK_STAT_SAFE = true → s.clk.refUsable = false → s.clk.safeDead = false →
        (s.clk.safeAt + 10000000 ≤ now s → ∃ t, exec .safeTimeout s = .next t ∧ t.clk.safeDead = true)
        ∧ (countHeld s = false → now s < s.clk.safeAt + 10000000 → exec .safeTimeout s = .next s))
    ∧ (∀ n, (s.clk.fmRun = true → exec (.fmDone n) s =
          .next (setF (setF { s with clk := { s.clk with fmRun := false } } F.CPM_FM_CNT_COUNT n) F.CPM_FM_CTL_DONE 1))
        ∧ (s.clk.fmRun = false → exec (.fmDone n) s = .next s))

/-- Temperature, supply and the monitor registers (R710 to R716, R718 to R723). TEMP_SAMPLE with valid readings: each sensor's
TEMP is its raw value with its trim, TJ_MAX is the largest, TWARN is set from 328 on, THROT_REQ is set from 338 on and cleared
below 332, TRIPPED is set from 358 on. SUPPLY_BELOW_WARN sets BELOW_WARN, DIP and P_DIP with its rail and log entry;
SUPPLY_RETURN clears BELOW_WARN, and 2,000 ticks later SUPPLY_PAUSE_END clears P_DIP and counts the dip. VMON, PMON and
ESTIMATOR_WINDOW show the values measured; MONITOR_TOKEN answers with the chain record; NO_TOKEN follows 1,000,000 ticks
without one. -/
def Obligations.MonitorsShowTheirValues : Prop :=
  (∀ (raw : List Int) (s : State), monitorsRun s = true → (∀ i, i < 8 → tempOk (trimmed s i (raw.getD i 0)) = true) →
      let m := ((List.range 8).map (fun i => (trimmed s i (raw.getD i 0)).toNat)).foldl max 0
      m < 368 → ∃ t, exec (.tempSample raw) s = .next t
        ∧ (∀ i, i < 8 → (getF t (F.CPM_TEMP_TEMP i) : Int) = trimmed s i (raw.getD i 0) ∧ getF t (F.CPM_TEMP_VALID i) = 1)
        ∧ getF t F.CPM_THERM_STAT_TJ_MAX = m
        ∧ getF t F.CPM_THERM_STAT_TWARN = (if 328 ≤ m then 1 else getF s F.CPM_THERM_STAT_TWARN)
        ∧ getF t F.CPM_THERM_STAT_THROT_REQ = (if 338 ≤ m then 1 else if m < 332 then 0 else getF s F.CPM_THERM_STAT_THROT_REQ)
        ∧ getF t F.CPM_THERM_STAT_TRIPPED = (if 358 ≤ m then 1 else getF s F.CPM_THERM_STAT_TRIPPED))
  ∧ (∀ (rail : Nat) (s : State), aonState s = 0 → s.clk.powerOk = true → flagF s F.CPM_SUP_BELOW_WARN = false →
      ∃ t, exec (.supplyBelowWarn rail) s = .next t ∧ getF t F.CPM_SUP_BELOW_WARN = 1 ∧ getF t F.CPM_SUP_DIP = 1
        ∧ getF t F.REG_STAT_P_DIP = 1 ∧ getF t F.CPM_SUP_RAIL = b2n (rail != 0) ∧ t.clk.supReturn = none ∧ t.reqs = s.reqs)
  ∧ (∀ s : State, (flagF s F.CPM_SUP_BELOW_WARN = true →
        exec .supplyReturn s = .next { setF s F.CPM_SUP_BELOW_WARN 0 with clk := { s.clk with supReturn := some (now s) } })
      ∧ (flagF s F.CPM_SUP_BELOW_WARN = false → exec .supplyReturn s = .next s))
  ∧ (∀ (back : Nat) (s : State), s.clk.supReturn = some back → flagF s F.REG_STAT_P_DIP = true → aonState s = 0 →
      (now s < back + 2000 → exec .supplyPauseEnd s = .next s)
      ∧ (back + 2000 ≤ now s → ∃ t, exec .supplyPauseEnd s = .next t ∧ getF t F.REG_STAT_P_DIP = 0 ∧ t.clk.supReturn = none
          ∧ getF t F.JNL_DIP_DIP_CNT = getF (incF s F.JNL_DIP_DIP_CNT 1) F.JNL_DIP_DIP_CNT))
  ∧ (∀ (l : List Nat) (s : State), monitorsRun s = true →
      (∃ t, exec (.vmonRefresh l) s = .next t
          ∧ ∀ i, i < 4 → getF t (F.CPM_VMON_MV i) = l.getD i 0 % 2 ^ (F.CPM_VMON_MV i).w)
      ∧ (∃ t, exec (.pmonRefresh l) s = .next t
          ∧ ∀ i, i < 8 → getF t (F.CPM_PMON_COUNT i) = l.getD i 0 % 2 ^ (F.CPM_PMON_COUNT i).w))
  ∧ (∀ (e ma : Nat) (s : State), aonState s = 0 → flagF s F.CPM_CLK_STAT_SAFE = false →
      (s.est.win < now s / 1000 → ∃ t, exec (.estimatorWindow e ma) s = .next t ∧ t.est.win = now s / 1000 ∧ t.energy = []
          ∧ t.est.cyc0 = s.cad.cycles ∧ getF t F.CPM_ISENSE_IA = min 65535 ma ∧ t.reqs = s.reqs)
      ∧ (now s / 1000 ≤ s.est.win → exec (.estimatorWindow e ma) s = .next s))
  ∧ (∀ (sweep : Nat) (s : State), aonState s = 0 →
      let u := setF { s with clk := { s.clk with tokenAt := now s } } F.CPM_MON_STAT_LAST_SWEEP sweep
      exec (.monitorToken sweep) s = .next (emit u (.token (chainRecord (chainBody u sweep))))
      ∧ (now s < s.clk.tokenAt + 1000000 → exec .noToken s = .next s)
      ∧ (s.clk.tokenAt + 1000000 ≤ now s → ∃ t, exec .noToken s = .next t ∧ getF t F.CPM_MON_STAT_NO_TOKEN = 1
          ∧ t.clk.tokenAt = now s))

-- ## Writes to the control space

/-- Writes to bibs, batons, tapes, relay queues and pacers (R333, R334, R373, R414, R419, R429, R451, R452, R462), by a master
that reaches the control space (R95). A staged word waits for the commit, which gives the entry the CTL word and the staged
words, or is ignored with WR_IGN. BTNn_CNT sets COUNT and clears BROKEN; BTNn_CTL sets PARKED, and PART while nothing waits.
TAPEn_HEAT starts a heat, FILLING; FORCE completes a FILLING heat; CFG and LINK of an enabled tape are ignored but for EN.
RLYn_LOAD enters a handle, or counts a full queue; FLUSH empties the queue before what waits enters; ABORT aborts the streams
named that have not executed END (one already ABORTING can only take a lower cause, log entry 113); PM_DATA_HI writes the
program word of an idle pacer. Without reach, a write changes nothing; in Doze the supervisor's is answered BAD_REQUEST
(R704). -/
def Obligations.SyncAndPacerWritesTakeEffect : Prop :=
  ∀ (m : Master) (n : Nat) (w : Word) (s : State),
    let v := w.toNat
    (reaches m (0x30000 + 16 * n) s = true → n < 4096 →
        (∀ k, (k = 1 ∨ (k = 2 ∧ 1 ≤ bits v 0 23 ∧ bits v 0 23 ≤ 4194304)) →
          exec (.bibStageWrite m n k w) s =
              .next (debugMark m (0x30000 + 16 * n + 4 * k) v
                { s with bibStage := Sparse.put s.bibStage (stageKey m n k) (if k = 1 then v else bits v 0 23) }))
        ∧ (s.bibBad.contains n = false →
          let e := bibMerge s m n v (bibE s n)
          (bibIgnored s n (bibE s n) e = true → ∃ u, exec (.bibCommit m n w .none) s =
              .next (debugMark m (0x30000 + 16 * n) v u)
              ∧ getF u F.GLB_BIB_STAT_WR_IGN = 1 ∧ getF u F.GLB_BIB_STAT_LAST_BIB = n ∧ bibE u n = bibE s n
                  ∧ u.bibStage = s.bibStage)
          ∧ (bibIgnored s n (bibE s n) e = false → ∃ u, exec (.bibCommit m n w .none) s =
              .next (debugMark m (0x30000 + 16 * n) v u)
              ∧ getF u (F.BIB_CTL_VALID n) = bits v 0 1 ∧ getF u (F.BIB_CTL_PART n) = bits v 4 4
              ∧ getF u (F.BIB_CTL_NEXT n) = bits v 20 12
              ∧ getF u (F.BIB_LEN_LEN n) = Sparse.at s.bibStage (stageKey m n 2) (getF s (F.BIB_LEN_LEN n)) % 2 ^ 23
              ∧ getF u (F.BIB_LOC_LOC n) = Sparse.at s.bibStage (stageKey m n 1) (getF s (F.BIB_LOC_LOC n)) % 2 ^ 32)))
    ∧ (reaches m (0x40000 + 8 * n) s = true → n < 16384 →
        exec (.btnCntWrite m n w .none) s =
            .next (debugMark m (0x40000 + 8 * n) v (testWaiters (setF (setF s (F.BTN_CNT_COUNT n) v) (F.BTN_CTL_BROKEN n) 0) n)))
    ∧ (reaches m (0x40004 + 8 * n) s = true → n < 16384 →
        ∃ u, exec (.btnCtlWrite m n w) s = .next (debugMark m (0x40004 + 8 * n) v u) ∧ getF u (F.BTN_CTL_PARKED n) = bits v 4 1
          ∧ getF u (F.BTN_CNT_COUNT n) = getF s (F.BTN_CNT_COUNT n)
          ∧ getF u (F.BTN_CTL_PART n) = (if s.waiters.any (fun x => x.baton == n) then getF s (F.BTN_CTL_PART n) else bits v 0 4)
          ∧ (s.waiters.any (fun x => x.baton == n) = true → bits v 0 4 ≠ getF s (F.BTN_CTL_PART n) →
              getF u F.GLB_SYNC_STAT_WR_IGN = 1))
    ∧ (reaches m (0x6000C + 16 * n) s = true → n < 256 → ∃ u, exec (.tapeHeatWrite m n w) s =
        .next (debugMark m (0x6000C + 16 * n) v u) ∧ heatOf u n = v
        ∧ tapeState u n = 0 ∧ getF u (F.TAPE_STAT_ARRIVED n) = 0 ∧ getF u (F.TAPE_STAT_CHILD_ARR n) = 0
        ∧ getF u (F.TAPE_STAT_FAULT_CAUSE n) = 0)
    ∧ (reaches m (0x60008 + 16 * n) s = true → n < 256 → exec (.force m n) s =
        .next (debugMark m (0x60008 + 16 * n) (2 ^ 26) (if tapeState s n = 0 then tapeRun 6 (completeHeat s n) n else s)))
    ∧ (reaches m (0x60000 + 16 * n) s = true → n < 256 →
        (flagF s (F.TAPE_CFG_EN n) = false → exec (.tapeCfgWrite m n false w) s =
            .next (debugMark m (0x60000 + 16 * n) v (writeFields (0x60000 + 16 * n) v s)))
        ∧ (flagF s (F.TAPE_CFG_EN n) = true → ∃ u, exec (.tapeCfgWrite m n false w) s =
            .next (debugMark m (0x60000 + 16 * n) v u)
            ∧ getF u (F.TAPE_CFG_EN n) = bits v 0 1 ∧ getF u (F.TAPE_CFG_EXPECT n) = getF s (F.TAPE_CFG_EXPECT n)
            ∧ getF u (F.TAPE_CFG_PART n) = getF s (F.TAPE_CFG_PART n)
            ∧ (bits v 1 4 ≠ getF s (F.TAPE_CFG_PART n) → getF u F.GLB_SYNC_STAT_WR_IGN = 1)))
    ∧ (reaches m (0x60004 + 16 * n) s = true → n < 256 → exec (.tapeCfgWrite m n true w) s =
        .next (debugMark m (0x60004 + 16 * n) v
            (if flagF s (F.TAPE_CFG_EN n) then setF s F.GLB_SYNC_STAT_WR_IGN 1 else writeFields (0x60004 + 16 * n) v s)))
    ∧ (reaches m (0x24014 + 128 * n) s = true → n < 128 →
        ((relayQ s n).length < 64 → exec (.rlyLoad m n w) s =
            .next (debugMark m (0x24014 + 128 * n) v (enterRelay s n ⟨v % 4096, false, none⟩)))
        ∧ (64 ≤ (relayQ s n).length → exec (.rlyLoad m n w) s =
            .next (debugMark m (0x24014 + 128 * n) v (incF s (F.RLY_CNT_FULL_CNT n) 1))))
    ∧ (reaches m (0x2401C + 128 * n) s = true → n < 128 →
        exec (.flush m n) s = .next (debugMark m (0x2401C + 128 * n) 1 (drainRelay 64 (setRelay s n []) n)))
    ∧ (reaches m (0x20014 + 1024 * n) s = true → n < 16 → exec (.abort m n w) s =
        .next (debugMark m (0x20014 + 1024 * n) v (settleUnits ((List.range 4).foldl (fun t k =>
          if bitAt v k && (streamState t n k == 1 || streamState t n k == 3) then abortTask t n k 0x0F else t) s))))
    ∧ (reaches m (0x2000C + 1024 * n) s = true → n < 16 →
        exec (.pmDataLoWrite m n w) s = .next (debugMark m (0x2000C + 1024 * n) v { s with pmLo := Sparse.set s.pmLo n v 0 }))
    ∧ (reaches m (0x20010 + 1024 * n) s = true → n < 16 →
        let a := getF s (F.PACER_PM_ADDR_ADDR n)
        (pacerIdle s n = false → exec (.pmDataHiWrite m n w) s =
            .next (debugMark m (0x20010 + 1024 * n) v (setF s (F.PACER_STAT_PM_IGN n) 1)))
        ∧ (pacerIdle s n = true → ∃ u, exec (.pmDataHiWrite m n w) s = .next (debugMark m (0x20010 + 1024 * n) v u)
            ∧ Sparse.at u.pm (n * 256 + a) 0 = Sparse.at s.pmLo n 0 + 2 ^ 32 * v
            ∧ getF u (F.PACER_PM_ADDR_ADDR n) = (if flagF s (F.PACER_PM_ADDR_AUTOINC n) then (a + 1) % 256 else a)))
    ∧ (∀ k l x up i, (∀ off, reaches m off s = false) →
        i ∈ [Instr.bibCommit m n w up, .bibStageWrite m n k w, .btnCntWrite m n w up, .btnCtlWrite m n w, .tapeHeatWrite m n w,
          .force m n, .tapeCfgWrite m n l w, .rlyLoad m n w, .flush m n, .abort m n w, .pmDataLoWrite m n w, .pmDataHiWrite m n w,
          .registerWrite (.port m) k x w] → exec i s = .next s)
    ∧ (∀ k l up i, m = .supervisor → aonState s = 1 → s.clk.powerOk = true → s.clk.vaon = true →
        i ∈ [Instr.bibCommit m n w up, .bibStageWrite m n k w, .btnCntWrite m n w up, .btnCtlWrite m n w, .tapeHeatWrite m n w,
          .force m n, .tapeCfgWrite m n l w, .rlyLoad m n w, .flush m n, .abort m n w, .pmDataLoWrite m n w, .pmDataHiWrite m n w] →
        exec i s = .next (emit s (.busReject m 5)))

/-- Writes to the regulator, partitions, tracks, lanes, rings, the journal and the mesh (R43, R86, R128, R245, R272, R276,
R482, R504, R524, R584, R591, R592, R615, R801). A write of PARTn_QOS or REG_SPLITq that breaks its rule sets QOS_REJ and
changes nothing; a region or tier range of a created partition is ignored with WR_IGN; TRKn_REPAIR is ignored while OPEN; a
ring's EN with a bib that does not suit it becomes 0 with RING_ERR; a tier that a move uses is not written. JNL_HB takes the
heartbeat of the marshal, START begins a checkpoint copy, FAILOVER fails the active marshal over. The other fields of each
register follow their access codes (R4). -/
def Obligations.UnitWritesTakeEffect : Prop :=
  ∀ (m : Master) (n : Nat) (w : Word) (s : State),
    let v := w.toNat
    (∀ k, reaches m (partRangeOff n k) s = true → n < 16 → k < 7 → exec (.partRegionWrite m n k w) s =
        .next (debugMark m (partRangeOff n k) v
            (if getF s (F.PART_STAT_STATE n) = 0 then writeFields (partRangeOff n k) v s else setF s (F.PART_STAT_WR_IGN n) 1)))
    ∧ (reaches m (0x4020 + 1024 * n) s = true → n < 16 →
        let u := writeFields (0x4020 + 1024 * n) v s
        (qosOk u = true → exec (.partQosWrite m n w) s =
            .next (debugMark m (0x4020 + 1024 * n) v u) ∧ getF u (F.PART_QOS_SHARE n) = bits v 0 8
            ∧ getF u (F.PART_QOS_DL_RES n) = bits v 8 8)
        ∧ (qosOk u = false → exec (.partQosWrite m n w) s =
            .next (debugMark m (0x4020 + 1024 * n) v (setF s F.REG_STAT_QOS_REJ 1))))
    ∧ (reaches m (0x2080 + 4 * n) s = true → n < 16 →
        (16 < bits v 0 4 + bits v 4 4 + bits v 8 4 → exec (.regSplitWrite m n w) s =
            .next (debugMark m (0x2080 + 4 * n) v (setF s F.REG_STAT_QOS_REJ 1)))
        ∧ (bits v 0 4 + bits v 4 4 + bits v 8 4 ≤ 16 → ∃ u, exec (.regSplitWrite m n w) s =
            .next (debugMark m (0x2080 + 4 * n) v u)
            ∧ getF u (F.REG_SPLIT_RD n) = bits v 0 4 ∧ getF u (F.REG_SPLIT_WR n) = bits v 4 4
                ∧ getF u (F.REG_SPLIT_RM n) = bits v 8 4))
    ∧ (reaches m 0x2000 s = true → ∃ u, exec (.regCtlWrite m w) s =
        .next (debugMark m 0x2000 v u) ∧ getF u F.REG_CTL_OPEN = bits v 0 1)
    ∧ (reaches m (0x8008 + 1024 * n) s = true → n < 16 → exec (.trkRepairWrite m n w) s =
        .next (debugMark m (0x8008 + 1024 * n) v
            (if flagF s F.REG_CTL_OPEN then s else noteRepair n (writeFields (0x8008 + 1024 * n) v s))))
    ∧ (reaches m 0x100C s = true → exec (.cadCtlWrite m w) s = .next (debugMark m 0x100C v (writeFields 0x100C v s)))
    ∧ (reaches m (0x10080 + 1024 * n) s = true → n < 64 →
        let u := writeFields (0x10080 + 1024 * n) v s
        exec (.laneCombWrite m n w) s =
            .next (debugMark m (0x10080 + 1024 * n) v
                (if bits v 0 1 = 1 then u else (s.comb.filter (fun e => e.lane == n)).foldl closeComb u)))
    ∧ (reaches m (0x63100 + 16 * n) s = true → n < 16 →
        let b := bits v 1 12
        let en := F.SPL_RING_CFG_EN n
        ∃ u, exec (.splRingCfgWrite m n w) s = .next (debugMark m (0x63100 + 16 * n) v u) ∧ getF u (F.SPL_RING_CFG_BIB n) = b
          ∧ (bits v 0 1 = 0 → getF u en = 0 ∧ getF u F.SPL_STAT_RING_ERR = getF s F.SPL_STAT_RING_ERR)
          ∧ (bits v 0 1 = 1 → ringBibOk s n b = false → getF u en = 0 ∧ getF u F.SPL_STAT_RING_ERR = 1)
          ∧ (bits v 0 1 = 1 → ringBibOk s n b = true → getF u en = 1 ∧ getF u F.SPL_STAT_RING_ERR = getF s F.SPL_STAT_RING_ERR
              ∧ (flagF s en = false → getF u (F.SPL_RING_POS_TAKEN n) = 0 ∧ Sparse.at u.ringTaken n 0 = 0)))
    ∧ (∀ k, reaches m (0x63020 + 16 * n + 4 * k) s = true → n < 3 → k < 2 → exec (.splTierWrite m n k w) s =
        .next (debugMark m (0x63020 + 16 * n + 4 * k) v
            (if s.moves.any (fun x => !x.ended && x.tl.contains n) then s else writeFields (0x63020 + 16 * n + 4 * k) v s)))
    ∧ (reaches m 0x6200C s = true → flagF s F.JNL_STAT_SHADOW_LOST = false → exec (.jnlBuddyWrite m w) s =
        .next (debugMark m 0x6200C v (writeFields 0x6200C v s)))
    ∧ (reaches m 0x6200C s = true → flagF s F.JNL_STAT_SHADOW_LOST = true →
        flagF (writeFields 0x6200C v s) F.JNL_BUDDY_SET = true →
        ∃ u, exec (.jnlBuddyWrite m w) s = .next (debugMark m 0x6200C v u) ∧ getF u F.JNL_STAT_SHADOW_LOST = 0 ∧ u.jnl = s.jnl)
    ∧ (reaches m 0x62014 s = true → ∃ u, exec (.jnlHbWrite m w) s =
        .next (debugMark m 0x62014 v u) ∧ u.msh.hb = (if m = .marshal then now s else s.msh.hb))
    ∧ (reaches m 0x62000 s = true → exec (.failover m) s = .next (debugMark m 0x62000 (keptBits s 0x62000 + 4) (failover s)))
    ∧ (∀ a, reaches m 0x6201C s = true → s.activeM = some a → s.msh.copy = none → flagF s F.MSH_STAT_STBY_OK = true →
        bits v 0 1 = 1 →
        let u := writeFields 0x6201C v s
        let src := getF u F.JNL_CKPT_CMD_SRC_KB
        let len := getF u F.JNL_CKPT_CMD_LEN_KB
        (src + len ≤ 128 → len ≠ 0 → ∃ t c, exec (.start m w) s =
            .next (debugMark m 0x6201C v t) ∧ t.msh.copy = some c ∧ c.src = src ∧ c.len = len
            ∧ getF t F.JNL_CKPT_CMD_BUSY = 1 ∧ (s.msh.run = none → c.jseq = s.msh.lastSeq))
        ∧ (128 < src + len ∨ len = 0 → exec (.start m w) s = .next (debugMark m 0x6201C v u)))
    ∧ (reaches m 0x64000 s = true → exec (.meshCtlWrite m w) s =
        .next (debugMark m 0x64000 v (if flagF s F.MESH_CTL_WILGUS_EN
        ∧ bits v 1 4 ≠ getF s F.MESH_CTL_W_LINKS then s else writeFields 0x64000 v s)))
    ∧ (n < 2 → aonState s = 0 → flagF s (failBit n) = false →
        ∃ t, exec (.mshLmapWrite n w) s = .next t ∧ Sparse.at t.msh.remap n 0 = bits v 0 1 ∧ t.regs = s.regs)

/-- Writes to the integrity, clock, counter, trace and debug registers, and any register (R4, R534, R561, R563, R720, R732,
R771, R774, R782, R787). Arming FLIP_CTL loads its count, and while armed it takes no arming write. RETRY starts the log test;
GASP_CLR empties the last records and clears LOG_LOST. TRIPPED is cleared only below TJ_MAX 328. CAL_RESET returns each K and
WINDOWS to its reset value and clears CAL. A write of CTRi_SEL, and CLEAR, zero counters; SNAP copies the live slot counters,
and CLEAR zeroes them; TRC_CLEAR empties the trace; TRC_MARK writes a firmware mark. A debug write, or one while LOCK is set,
leaves GLB_DBG_CTL alone. A REGISTER_WRITE that is no aligned 4-byte access is answered BAD_REQUEST and has no effect, as is
any in Doze that does not reach its register (R6, R704); one of a plain register follows R4. -/
def Obligations.DebugAndRegisterWritesTakeEffect : Prop :=
  ∀ (m : Master) (n : Nat) (w : Word) (s : State),
    let v := w.toNat
    let live : Sparse Nat → Sparse Nat := fun d => Sparse.keep d (fun k => decide (k < 1024))
    let base : Sparse Nat → Sparse Nat := fun d => Sparse.keep d (fun k => decide (1024 ≤ k))
    (reaches m 0x61020 s = true →
        (flagF s F.INT_FLIP_CTL_ARM = true → bits v 0 1 = 1 → exec (.flipCtlWrite m w) s = .next (debugMark m 0x61020 v s))
        ∧ (bits v 0 1 = 0 → exec (.flipCtlWrite m w) s = .next (debugMark m 0x61020 v (writeFields 0x61020 v s)))
        ∧ (flagF s F.INT_FLIP_CTL_ARM = false → bits v 0 1 = 1 → ∃ u, exec (.flipCtlWrite m w) s =
            .next (debugMark m 0x61020 v u)
            ∧ (let c := getF (writeFields 0x61020 v s) F.INT_FLIP_CTL_COUNT
               if c = 0 then getF u F.INT_FLIP_CTL_ARM = 0 else getF u F.INT_FLIP_CTL_ARM = 1 ∧ u.integ.flipLeft = c)))
    ∧ (reaches m 0x61040 s = true →
        exec (.retry m) s = .next (debugMark m 0x61040 1 { s with integ := { s.integ with logTest := true } })
        ∧ (s.integ.logFailed = true → exec (.gaspClr m) s = .next (debugMark m 0x61040 2 s))
        ∧ (s.integ.logFailed = false → ∃ u, exec (.gaspClr m) s =
            .next (debugMark m 0x61040 2 u) ∧ u.integ.gasp = [] ∧ getF u F.INT_STAT_LOG_LOST = 0
            ∧ getF u F.INT_LOG_CNT_LOST_CNT = 0))
    ∧ (s.integ.logTest = true → (∃ t, exec (.logTestDone true) s = .next t ∧ t.integ.logTest = false ∧ t.integ.logFailed = false
          ∧ t.integ.logEnt = [] ∧ getF t F.INT_LOG_PTR_HEAD = 0 ∧ getF t F.INT_LOG_PTR_TAIL = 0)
        ∧ (∃ t, exec (.logTestDone false) s = .next t ∧ t.integ.logTest = false ∧ t.integ.logFailed = true))
    ∧ (s.integ.logTest = false → ∀ b, exec (.logTestDone b) s = .next s)
    ∧ (reaches m 0x1120 s = true → flagF s F.CPM_THERM_STAT_TRIPPED = true →
        (getF s F.CPM_THERM_STAT_TJ_MAX < 328 → ∃ u, exec (.trippedClear m) s =
            .next (debugMark m 0x1120 (2 ^ 15) u) ∧ getF u F.CPM_THERM_STAT_TRIPPED = 0)
        ∧ (328 ≤ getF s F.CPM_THERM_STAT_TJ_MAX → exec (.trippedClear m) s = .next (debugMark m 0x1120 (2 ^ 15) s)))
    ∧ (reaches m 0x1170 s = true → ∃ u, exec (.calReset m) s =
        .next (debugMark m 0x1170 (keptBits s 0x1170 + 2 ^ 9) u) ∧ getF u F.CPM_EST_STAT_CAL = 0
        ∧ ∀ b, b < 4 → getF u (F.CPM_EST_K_K b) = (F.CPM_EST_K_K b).rst ∧ getF u (F.CPM_EST_K_WINDOWS b) = 0)
    ∧ (reaches m (0x28100 + 16 * n) s = true → n < 32 → ∃ u, exec (.ctrSelWrite m n w) s =
        .next (debugMark m (0x28100 + 16 * n) v u)
        ∧ Sparse.find u.ctr n = none ∧ ∀ k, k ≠ n → Sparse.find u.ctr k = Sparse.find s.ctr k)
    ∧ (reaches m 0x28000 s = true → exec (.clear m) s =
        .next (debugMark m 0x28000 (keptBits s 0x28000 + 4) { s with ctr := [] }))
    ∧ (reaches m 0x28008 s = true →
        exec (.snap m false) s = .next (debugMark m 0x28008 (keptBits s 0x28008 + 2) { s with tdSnap := live s.td })
        ∧ exec (.snap m true) s =
            .next (debugMark m 0x28008 (keptBits s 0x28008 + 6) { s with tdSnap := live s.td, td := base s.td })
        ∧ exec (.tdClear m) s = .next (debugMark m 0x28008 (keptBits s 0x28008 + 4) { s with td := base s.td }))
    ∧ (reaches m 0x28400 s = true → ∃ u, exec (.trcClear m) s =
        .next (debugMark m 0x28400 (keptBits s 0x28400 + 2 ^ 7) u) ∧ u.trc.count = 0
        ∧ getF u F.TRC_STAT_FULL = 0)
    ∧ (reaches m 0x28414 s = true → exec (.trcMark m w) s =
        .next (debugMark m 0x28414 v (trcPush s (trcRecord s 4 0 v (now s) 0))))
    ∧ (reaches m 0x20 s = true →
        (m = .debug ∨ flagF s F.GLB_DBG_CTL_LOCK = true → exec (.dbgCtlWrite m w) s = .next (debugMark m 0x20 v s))
        ∧ (m ≠ .debug → flagF s F.GLB_DBG_CTL_LOCK = false → exec (.dbgCtlWrite m w) s =
            .next (debugMark m 0x20 v (writeFields 0x20 v s))))
    ∧ (∀ off size, 2 ^ 20 ≤ off → exec (.registerWrite (.port m) off size w) s = .next s)
    ∧ (∀ off size, off < 2 ^ 20 → (size ≠ 4 ∨ off % 4 ≠ 0) →
        (reaches m off s = true → exec (.registerWrite (.port m) off size w) s = .next (emit s (.busReject m 5))))
    ∧ (∀ off size, off < 2 ^ 20 → reaches m off s = false → m = .supervisor → aonState s = 1 → s.clk.powerOk = true →
        s.clk.vaon = true → exec (.registerWrite (.port m) off size w) s = .next (emit s (.busReject m 5)))
    ∧ (∀ off, off % 4 = 0 → off < 2 ^ 20 → reaches m off s = true → exec (.registerWrite (.port m) off 4 w) s =
        .next (debugMark m off v (writeAny m off v s)))

/-- The access codes (R4): a write reaches a field of a register as its code says, and no other field. RW and RWS take a
defined value, RO and OTP ignore it, each W1C bit written 1 clears, and a count that clears whole does so on any 1. -/
def Obligations.AccessCodesGovernWrites : Prop :=
  ∀ (w : Nat) (f g : Fld) (s : State),
    let v := bits w f.lo f.w
    let u := writeF w s f
    (f.acc = .rw ∨ f.acc = .rws → f.mn ≤ v → v ≤ f.mx → getF u f = v)
    ∧ (f.acc = .rw ∨ f.acc = .rws → (v < f.mn ∨ f.mx < v) → u = s)
    ∧ (f.acc = .ro ∨ f.acc = .otp → u = s)
    ∧ (f.acc = .w1c → ∀ i, i < f.w → bitAt (getF u f) i = (bitAt (getF s f) i && !bitAt w (f.lo + i)))
    ∧ (f.acc = .w1cf → getF u f = if v = 0 then getF s f else 0)
    ∧ (g.key ≠ f.key → getF u g = getF s g)

-- ## The wrapper and the mesh links

/-- The instructions of the test wrapper, and the mesh links (R783 to R788, R801). WS_BYPASS, WIDCODE and STATUS load always.
The boundary instructions load in FAILED, and are otherwise refused (a due COLD_PIN reset apart). CSR without its enable, in
Doze or in Off is refused, as MEM is; with it, a started access acts as the debug master and CODE is shown with DONE. WAKE
with its bit requests a wake as source 5. A link that trains is in UP; one that goes down is not, and its requests take
another route. -/
def Obligations.WrapperInstructionsLoad : Prop :=
  (∀ s : State,
    (let t := { s with wrap := { s.wrap with wir := 0, dr := 0 } }
     exec .wsBypass s = .next t)
    ∧ (∃ t, exec .widcode s = .next t ∧ t.wrap.wir = 3 ∧ t.regs = s.regs ∧ t.reqs = s.reqs)
    ∧ (∃ t, exec .status s = .next t ∧ t.wrap.wir = 4 ∧ t.regs = s.regs ∧ bits t.wrap.dr 8 2 = aonState s
        ∧ (aonState s = 0 ∨ aonState s = 2 → bits t.wrap.dr 0 4 = getF s F.MSH_BOOT_STAGE
            ∧ bits t.wrap.dr 10 1 = getF s F.REG_CTL_OPEN
            ∧ bits t.wrap.dr 32 32 = now s % 2 ^ 32))
    ∧ (getF s F.MSH_BOOT_STAGE = 15 → (∃ t, exec .wsExtest s = .next t ∧ t.wrap.wir = 1 ∧ t.regs = s.regs)
        ∧ (∃ t, exec .wsIntest s = .next t ∧ t.wrap.wir = 2 ∧ t.regs = s.regs))
    ∧ (getF s F.MSH_BOOT_STAGE ≠ 15 → s.rst.due ≠ 2 → exec .wsExtest s = .next (refuseWir s)
        ∧ exec .wsIntest s = .next (refuseWir s))
    ∧ (∀ b, ∃ t, exec (.wake b) s = .next t ∧ t.wrap.wir = 7 ∧ t.wrap.dr = b2n b ∧ t.regs =
        (if b then wakeRequest s 5 0 else s).regs))
  ∧ (∀ (d : BitVec 59) (s : State),
      let x := d.toNat
      let allowed := aonState s ≠ 1 ∧ aonState s ≠ 3 ∧ s.clk.powerOk = true ∧ flagF s F.GLB_DBG_CTL_CSR_EN = true
      (¬ allowed → exec (.csr d) s = .next (refuseWir s))
      ∧ (allowed → bits x 53 1 = 1 → bits x 52 1 = 1 → bits x 32 20 % 4 = 0 →
          ∃ t, exec (.csr d) s = .next t ∧ t.wrap.wir = 5 ∧ bits t.wrap.dr 58 1 = 1
            ∧ bits t.wrap.dr 54 3 = (if debugBarred (bits x 32 20) then 4 else 0)
            ∧ t.regs = (debugMark .debug (bits x 32 20) (bits x 0 32) (writeAny .debug (bits x 32 20) (bits x 0 32) s)).regs)
      ∧ (allowed → bits x 53 1 = 1 → bits x 52 1 = 0 → bits x 32 20 % 4 = 0 → (readReg .debug (bits x 32 20) s).1 < 2 ^ 32 →
          ∃ t, exec (.csr d) s = .next t ∧ t.wrap.wir = 5 ∧ bits t.wrap.dr 58 1 = 1 ∧ bits t.wrap.dr 54 3 = 0
            ∧ bits t.wrap.dr 0 32 = (readReg .debug (bits x 32 20) s).1))
  ∧ (∀ (d : BitVec 97) (s : State),
      let x := d.toNat
      let allowed := aonState s ≠ 1 ∧ aonState s ≠ 3 ∧ s.clk.powerOk = true ∧ flagF s F.GLB_DBG_CTL_MEM_EN = true
      let waiting := s.reqs.any (fun r => r.org == .debug)
      (¬ allowed → exec (.mem d) s = .next (refuseWir s))
      ∧ (allowed → bits x 91 1 = 1 → waiting = true → ∃ t, exec (.mem d) s = .next t ∧ t.wrap.wir = 6 ∧ bits t.wrap.dr 95 1 = 1
            ∧ getF t F.GLB_DBG_STAT_DBG_OVR = 1)
      ∧ (allowed → bits x 91 1 = 1 → waiting = false → ∃ t, exec (.mem d) s = .next t ∧ t.wrap.wir = 6
            ∧ t.reqs = (debugAccess (bits x 64 26) (bits x 0 64) (bitAt x 90) s).reqs
            ∧ t.regs = (debugAccess (bits x 64 26) (bits x 0 64) (bitAt x 90) s).regs)
      ∧ (allowed → bits x 91 1 = 0 → ∃ t, exec (.mem d) s = .next t ∧ t.wrap.wir = 6 ∧ t.regs = s.regs ∧ t.reqs = s.reqs))
  ∧ (∀ (k : Nat) (s : State), k < 4 → aonState s = 0 ∨ aonState s = 2 →
      (∃ t, exec (.meshLinkTrained k) s = .next t ∧ bitAt (getF t F.MESH_STAT_UP) k = true
        ∧ ∀ j, j < 4 → j ≠ k → bitAt (getF t F.MESH_STAT_UP) j = bitAt (getF s F.MESH_STAT_UP) j)
      ∧ (bitAt (getF s F.MESH_STAT_UP) k = true → exec (.meshLinkDown k) s =
          .next (reroute (setF s F.MESH_STAT_UP (getF s F.MESH_STAT_UP - 2 ^ k)) k)))

-- ## The concourse

/-- The concourse (R198, R207, R208, R209). Level 2 grants a bank at most the head of one track input in an array cycle: one
that has come to its head, whose input has passed nothing in the cycle, whose port has granted nothing in it and has no
reserved entry, and, when it reads, with an entry of the track's return buffer of 64 granules free; no other such head comes
before it. A bank with none commits nothing. Of the granules of one requester in the track outputs, level 1 delivers at most
its issue width, and none that is left comes before one that goes. -/
def Obligations.ConcourseGrantsAndDeliversInOrder : Prop :=
  (∀ (bank : Nat) (ph : Phys) (s : State), arrayRuns s = true →
    (level2 s bank = none → exec (.accessCommit bank ph) s = .next s)
    ∧ (∀ i, level2 s bank = some i → i ∈ s.inputs ∧ i.since ≤ s.cad.cycles ∧ i.passed ≠ s.cad.cycles + 1
        ∧ (∃ r a, inputHead s i = some (r, a) ∧ bankOf a.gran = bank
          ∧ Sparse.at s.conc.ports (portKey s a.gran) 0 ≠ s.cad.cycles + 1 ∧ (portKey s a.gran, s.cad.cycles) ∉ s.conc.rsv
          ∧ (needsRet r a = true → (s.conc.ret.filter (fun e => e.track == i.track)).length < 64))
        ∧ ∀ j ∈ s.inputs, headsFor s bank j = true → mayReturn s j = true → inputBefore s j i = false))
  ∧ (∀ (n : Nat) (l : List RetEnt), (delPick n l).length = min n l.length
      ∧ (∀ e ∈ delPick n l, e ∈ l ∧ ∀ f ∈ l, f ∉ delPick n l → delBefore f e = false))

-- ## A marshal's own address space

/-- A store of a marshal at an address of its own space (R218 to R222). A store to the boot ROM, and at an address that the
layout does not list, changes nothing; one to the working SRAM, by its own range or under REMAP 1 from address zero, changes its
bytes and nothing else; one to MSH_LMAP sets REMAP; for the active marshal the control-space window leads to the control space,
and a store to the data window is a WRITE of partition 15 and class 7 as requester 0xD5 (R212), which waits while eight are
outstanding (R213); for the standby both windows ignore it. -/
def Obligations.MarshalStoresFollowTheAddressMap : Prop :=
  ∀ (mi a size : Nat) (w : Word) (s : State), marshalRuns mi s = true →
    let remap := Sparse.at s.msh.remap mi 0
    let sramAt (i : Nat) : Prop := ∃ t, exec (.registerWrite (.core mi) a size w) s = .next t ∧ t.regs = s.regs
      ∧ t.reqs = s.reqs ∧ t.mem = s.mem
      ∧ (∀ k, k < size → Sparse.at t.msh.sram (mi * 2 ^ 18 + i + k) 0 = bits w.toNat (8 * k) 8)
      ∧ (∀ x, (x < mi * 2 ^ 18 + i ∨ mi * 2 ^ 18 + i + size ≤ x) → Sparse.at t.msh.sram x 0 = Sparse.at s.msh.sram x 0)
    (0x100000 ≤ a → a < 0x110000 → exec (.registerWrite (.core mi) a size w) s = .next s)
    ∧ (a < 0x40000 → remap ≠ 1 → exec (.registerWrite (.core mi) a size w) s = .next s)
    ∧ (a + size ≤ 0x40000 → a < 0x40000 → remap = 1 → sramAt a)
    ∧ (0x200000 ≤ a → a + size ≤ 0x240000 → a < 0x240000 → sramAt (a - 0x200000))
    ∧ (a = 0x300000 → ∃ t, exec (.registerWrite (.core mi) a size w) s = .next t ∧ Sparse.at t.msh.remap mi 0 = bits w.toNat 0 1
        ∧ t.regs = s.regs ∧ t.msh.sram = s.msh.sram)
    ∧ (s.activeM ≠ some mi → 0x40000000 ≤ a → exec (.registerWrite (.core mi) a size w) s = .next s)
    ∧ (s.activeM = some mi → 0x40000000 ≤ a → a < 0x40100000 → exec (.registerWrite (.core mi) a size w) s =
        exec (.registerWrite (.port .marshal) (a - 0x40000000) size w) s)
    ∧ (s.activeM = some mi → 0x80000000 ≤ a → a < 0x84000000 → 1 ≤ size → a % 64 + size ≤ 64 →
        ∃ t, exec (.registerWrite (.core mi) a size w) s = .next t ∧ t.msh.sram = s.msh.sram
          ∧ (∃ r ∈ t.reqs, r.id = s.nextId ∧ r.org = .marshal ∧ r.h.op = 4 ∧ r.h.cls = 7 ∧ r.h.part = 15
              ∧ r.base = a - 0x80000000)
          ∧ (bridgeRoom s .marshal = false → t.nextId = s.nextId + 1 ∧ t.reqs.length = s.reqs.length + 1 ∧ t.regs = s.regs))
    ∧ (0x110000 ≤ a → a < 0x200000 → exec (.registerWrite (.core mi) a size w) s = .next s)
    ∧ (0x240000 ≤ a → a < 0x300000 → exec (.registerWrite (.core mi) a size w) s = .next s)
    ∧ (0x300004 ≤ a → a < 0x40000000 → exec (.registerWrite (.core mi) a size w) s = .next s)
end

