-- ==== Sys2Proof/Laws/State.lean ====
section
/-! SUPPORT. What the shared updates of State leave alone, one lemma per update and view; and `held`, the part of the
state that only a few operations change: the command queue and the bytes of the bank arrays. -/

namespace Sys2Proof.Machine

/-- The command queue and the bytes of the bank arrays. -/
def held (s : State) : List Instr × List Host.Cell := (s.pending, s.mem)

theorem held_mem {s t : State} (h : held t = held s) : t.mem = s.mem := congrArg Prod.snd h

theorem held_pending {s t : State} (h : held t = held s) : t.pending = s.pending := congrArg Prod.fst h

theorem held_eq {s t : State} (h : t.pending = s.pending) (g : t.mem = s.mem) : held t = held s := by
  simp [held, h, g]

/-- Whatever next state an outcome gives, its held part is that of `s`. -/
def keepsHeld (s : State) (o : Host.Outcome State Fault Refusal) : Prop := ∀ u, o = .next u → held u = held s

@[simp] theorem keepsHeld_next (s u : State) : keepsHeld s (.next u) ↔ held u = held s := by
  simp [keepsHeld]

/-- Whatever state an optional result gives, its held part is that of `s`. -/
def keepsOpt (s : State) (o : Option State) : Prop := ∀ u, o = some u → held u = held s

@[simp] theorem keepsOpt_some (s u : State) : keepsOpt s (some u) ↔ held u = held s := by
  simp [keepsOpt]

@[simp] theorem keepsOpt_none (s : State) : keepsOpt s none := by
  simp [keepsOpt]

/-- The same of an optional pair. -/
def keepsOptP {α : Type} (s : State) (o : Option (α × State)) : Prop := ∀ v u, o = some (v, u) → held u = held s

@[simp] theorem keepsOptP_some {α : Type} (s u : State) (v : α) : keepsOptP s (some (v, u)) ↔ held u = held s := by
  constructor
  · intro h
    exact h v u rfl
  · intro h w x e
    cases e
    exact h

@[simp] theorem keepsOptP_none {α : Type} (s : State) : keepsOptP s (none : Option (α × State)) := by
  intro v u h
  cases h

theorem keepsOpt_getD {s d : State} {o : Option State} (h : keepsOpt s o) (g : held d = held s) :
    held (o.getD d) = held s := by
  cases o with
  | none => exact g
  | some u => exact h u rfl

/-- An update of other fields leaves the held part alone. -/
@[simp] theorem held_mk (x : State)
    (a1 : Nat) (a2 : Sparse Nat) (a3 : Sparse Nat) (a4 : Sparse GState) (a5 : Sparse Nat) (a6 : Sparse Nat) (a7 :
    List Nat) (a8 : List TInput) (a9 : Conc) (a10 : Cadence) (a11 : Clocks) (a12 : Sparse Nat) (a13 : Sparse Nat)
    (a14 : Sparse Nat) (a15 : Sparse Nat) (a16 : Sparse Nat) (a17 : Sparse Nat) (a18 : Sparse Nat) (a19 : Sparse
    Nat) (a20 : List Request) (a21 : Nat) (a22 : Nat) (a23 : Sparse Nat) (a24 : Sparse Tag) (a25 : Sparse Chan) (a26
    : List CombEntry) (a27 : Sparse Nat) (a28 : List Nat) (a29 : Sparse (List Handle)) (a30 : List RelayWait) (a31 :
    Integ) (a32 : Sparse Nat) (a33 : Sparse Nat) (a34 : Sparse Nat) (a35 : Trace) (a36 : Sparse Nat) (a37 : List
    (Nat × Nat × Nat)) (a38 : List Nat) (a39 : Nat) (a40 : Nat) (a41 : Nat) (a42 : Nat) (a43 : List Nat) (a44 : List
    Waiter) (a45 : List Arrival) (a46 : Sparse (Nat × Bool)) (a47 : Sparse Nat) (a48 : List JEntry) (a49 : List
    Dedup) (a50 : List ShadowHold) (a51 : List GwEntry) (a52 : Option Nat) (a53 : MarshalS) (a54 : Buddy) (a55 :
    Sparse Nat) (a56 : Sparse Nat) (a57 : List Task) (a58 : Sparse (Nat × Nat)) (a59 : Sparse Nat) (a60 : List Nat)
    (a61 : Sparse Nat) (a62 : List MvDesc) (a63 : List Move) (a64 : List PageOut) (a65 : Sparse Nat) (a66 : Option
    (Nat × Nat)) (a67 : Bool) (a68 : List (Nat × Nat)) (a69 : Est) (a70 : Roll) (a71 : BootS) (a72 : Rst) (a73 :
    Wrap) (a74 : List OutPkt) :
    held (State.mk
    x.pending a1 a2 a3 x.mem a4 a5 a6 a7 a8 a9 a10 a11 a12 a13 a14 a15 a16 a17 a18 a19 a20 a21 a22 a23 a24 a25 a26
    a27 a28 a29 a30 a31 a32 a33 a34 a35 a36 a37 a38 a39 a40 a41 a42 a43 a44 a45 a46 a47 a48 a49 a50 a51 a52 a53 a54
    a55 a56 a57 a58 a59 a60 a61 a62 a63 a64 a65 a66 a67 a68 a69 a70 a71 a72 a73 a74) = held x := by simp only [held]

/-- A list of steps that each leave the held part alone leaves it alone. -/
theorem held_foldl {α : Type} {g : State → α → State} (h : ∀ t x, held (g t x) = held t) (l : List α) (s : State) :
    held (l.foldl g s) = held s := by
  induction l generalizing s with
  | nil => rfl
  | cons x l ih => rw [List.foldl_cons, ih, h]

/-- The same of steps that also carry a value. -/
theorem held_foldl_snd {α β : Type} {g : β × State → α → β × State} (h : ∀ p x, held (g p x).2 = held p.2) (l : List α)
    (p : β × State) : held (l.foldl g p).2 = held p.2 := by
  induction l generalizing p with
  | nil => rfl
  | cons x l ih => rw [List.foldl_cons, ih, h]

theorem held_snd {α : Type} {p : α × State} {a : α} {u : State} {v : List Instr × List Host.Cell} (h : p = (a, u))
    (g : held p.2 = v) : held u = v := by subst h; exact g

theorem held_thd {α β : Type} {p : α × β × State} {a : α} {b : β} {u : State} {v : List Instr × List Host.Cell}
    (h : p = (a, b, u)) (g : held p.2.2 = v) : held u = v := by subst h; exact g

theorem held_fst {α : Type} {p : State × α} {a : α} {u : State} {v : List Instr × List Host.Cell} (h : p = (u, a))
    (g : held p.1 = v) : held u = v := by subst h; exact g

end Sys2Proof.Machine
end

