-- ==== Sys2Proof/Laws/Ops.lean ====
section
/-! SUPPORT. What the operations of Machine/Ops.lean leave alone: the command queue and the bytes of the bank arrays. -/

namespace Sys2Proof.Machine

@[simp] theorem setF_held (s : State) (f : Fld) (v : Nat) : held (setF s f v) = held s := by simp only [setF, held_mk]

@[simp] theorem incF_held (s : State) (f : Fld) (n : Nat) : held (incF s f n) = held s := by
  simp only [incF, held_mk, setF_held]

@[simp] theorem orF_held (s : State) (f : Fld) (bit : Nat) : held (orF s f bit) = held s := by
  simp only [orF, held_mk, setF_held]

@[simp] theorem rstF_held (s : State) (f : Fld) : held (rstF s f) = held s := by simp only [rstF, held_mk]

@[simp] theorem takeFree_held (s : State) (n : Nat) : held (takeFree s n).2 = held s := by
  simp only [takeFree, held_mk]

@[simp] theorem emit_held (s : State) (p : OutPkt) : held (emit s p) = held s := by simp only [emit, held_mk]

@[simp] theorem raiseIrq_held (s : State) (n : Nat) : held (raiseIrq s n) = held s := by
  simp only [raiseIrq, held_mk, orF_held, emit_held, apply_ite held, ite_self]

@[simp] theorem irqIf_held (s : State) (en : Fld) (n : Nat) : held (irqIf s en n) = held s := by
  simp only [irqIf, held_mk, raiseIrq_held, apply_ite held, ite_self]

@[simp] theorem resolveUpset_held (s : State) (u : Upset) : held (resolveUpset s u).2 = held s := by
  unfold resolveUpset
  split <;> simp only [held_mk, takeFree_held]

@[simp] theorem trcDrain_held (s : State) : held (trcDrain s) = held s := by
  unfold trcDrain
  repeat' first
    | (simp only [held_mk, incF_held, setF_held, irqIf_held]; done)
    | (simp; done)
    | split
    | (refine (held_foldl (fun _ _ => ?_) _ _).trans ?_)
    | (refine held_snd (by assumption) ?_)
    | (refine held_fst (by assumption) ?_)
    | (refine held_thd (by assumption) ?_)
    | (simp +zetaDelta; done)
    | simp

@[simp] theorem trcDiscard_held (s : State) : held (trcDiscard s) = held s := by
  simp only [trcDiscard, held_mk, incF_held, setF_held]

@[simp] theorem trcPush_held (s : State) (r : Nat) : held (trcPush s r) = held s := by
  simp only [trcPush, held_mk, incF_held, trcDiscard_held, apply_ite held, ite_self]

@[simp] theorem ctrAdd_held (s : State) (i n : Nat) (c : EvCtx) : held (ctrAdd s i n c) = held s := by
  simp only [ctrAdd, held_mk, irqIf_held, orF_held, trcPush_held, apply_ite held, ite_self]

@[simp] theorem ctrEvent_held (s : State) (ev u n : Nat) (c : EvCtx) : held (ctrEvent s ev u n c) = held s := by
  unfold ctrEvent
  repeat' first
    | (simp only [held_mk, ctrAdd_held]; done)
    | (simp; done)
    | split
    | (refine (held_foldl (fun _ _ => ?_) _ _).trans ?_)
    | (refine held_snd (by assumption) ?_)
    | (refine held_fst (by assumption) ?_)
    | (refine held_thd (by assumption) ?_)
    | (simp +zetaDelta; done)
    | simp

@[simp] theorem energyEvt_held (s : State) (term part cls n : Nat) : held (energyEvt s term part cls n) = held s := by
  simp only [energyEvt, held_mk]

@[simp] theorem gaspAdd_held (s : State) (e : Nat) : held (gaspAdd s e) = held s := by
  simp only [gaspAdd, held_mk, incF_held, apply_ite held, ite_self]

@[simp] theorem logFail_held (s : State) (i : Nat) : held (logFail s i) = held s := by
  simp only [logFail, held_mk, setF_held, irqIf_held, gaspAdd_held]

@[simp] theorem logEvt_held (s : State) (src sev part req gran bank track info : Nat) : held (logEvt s src sev part
    req gran bank track info) = held s := by
  simp only [logEvt, held_mk, incF_held, gaspAdd_held, setF_held, irqIf_held, trcPush_held, apply_ite held, ite_self]

@[simp] theorem setState_held (s : State) (pg : Nat) (g : GState) : held (setState s pg g) = held s := by
  simp only [setState, held_mk]

@[simp] theorem setPar_held (s : State) (pg m : Nat) : held (setPar s pg m) = held s := by simp only [setPar, held_mk]

@[simp] theorem setFlip_held (s : State) (pg m : Nat) : held (setFlip s pg m) = held s := by
  simp only [setFlip, held_mk]

@[simp] theorem countMade_held (s : State) (g : Nat) (old new : GState) : held (countMade s g old new) = held s := by
  simp only [countMade, held_mk, incF_held, apply_ite held, ite_self]

end Sys2Proof.Machine
end

