-- ==== Sys2Proof/Laws/Regulator.lean ====
section
/-! SUPPORT. What the operations of Machine/Regulator.lean leave alone: the command queue and the bytes of the bank arrays. -/

namespace Sys2Proof.Machine

@[simp] theorem bookCoarse_held (s : State) (step k : Nat) (c : Charge) : held (bookCoarse s step k c) = held s := by
  simp only [bookCoarse, held_mk]

@[simp] theorem notePeak_held (s : State) (b : Nat) (c : Charge) : held (notePeak s b c) = held s := by
  unfold notePeak
  repeat' first
    | (simp only [held_mk, setF_held]; done)
    | (simp; done)
    | split
    | (refine (held_foldl (fun _ _ => ?_) _ _).trans ?_)
    | (refine held_snd (by assumption) ?_)
    | (refine held_fst (by assumption) ?_)
    | (refine held_thd (by assumption) ?_)
    | (simp +zetaDelta; done)
    | simp

@[simp] theorem notePart_held (s : State) (b : Nat) (c : Charge) : held (notePart s b c) = held s := by
  simp only [notePart, held_mk]

@[simp] theorem bookFine_held (s : State) (step b : Nat) (c : Charge) : held (bookFine s step b c) = held s := by
  simp only [bookFine, held_mk, notePart_held, notePeak_held, bookCoarse_held]

@[simp] theorem faultBegin_held (s : State) (kind : Nat) : held (faultBegin s kind) = held s := by
  unfold faultBegin
  repeat' first
    | (simp only [held_mk]; done)
    | (simp; done)
    | split
    | (refine (held_foldl (fun _ _ => ?_) _ _).trans ?_)
    | (refine held_snd (by assumption) ?_)
    | (refine held_fst (by assumption) ?_)
    | (refine held_thd (by assumption) ?_)
    | (simp +zetaDelta; done)
    | simp

@[simp] theorem faultEnd_held (s : State) (kind : Nat) : held (faultEnd s kind) = held s := by
  unfold faultEnd
  repeat' first
    | (simp only [held_mk]; done)
    | (simp; done)
    | split
    | (refine (held_foldl (fun _ _ => ?_) _ _).trans ?_)
    | (refine held_snd (by assumption) ?_)
    | (refine held_fst (by assumption) ?_)
    | (refine held_thd (by assumption) ?_)
    | (simp +zetaDelta; done)
    | simp

@[simp] theorem countRef_held (s : State) (bf be : Nat) (c : Charge) : held (countRef s bf be c) = held s := by
  unfold countRef
  repeat' first
    | (simp only [held_mk, incF_held]; done)
    | (simp; done)
    | split
    | (refine (held_foldl (fun _ _ => ?_) _ _).trans ?_)
    | (refine held_snd (by assumption) ?_)
    | (refine held_fst (by assumption) ?_)
    | (refine held_thd (by assumption) ?_)
    | (simp +zetaDelta; done)
    | simp

@[simp] theorem decideAdm_held (s : State) (trx promise : Nat) (c : Charge) : held (decideAdm s trx promise c).2 =
    held s := by
  unfold decideAdm
  repeat' first
    | (simp only [held_mk, bookFine_held, bookCoarse_held, countRef_held]; done)
    | (simp; done)
    | split
    | (refine (held_foldl (fun _ _ => ?_) _ _).trans ?_)
    | (refine held_snd (by assumption) ?_)
    | (refine held_fst (by assumption) ?_)
    | (refine held_thd (by assumption) ?_)
    | (simp +zetaDelta; done)
    | simp

@[simp] theorem admission_held (s : State) (cls trx promise : Nat) (c : Charge) : held (admission s cls trx promise
    c).2 = held s := by
  unfold admission
  (repeat' split) <;> simp only [held_mk, decideAdm_held]

@[simp] theorem useSpare_held (s : State) (c : Charge) : held (useSpare s c) = held s := by
  simp only [useSpare, held_mk]

@[simp] theorem noteLatency_held (s : State) (q c l : Nat) : held (noteLatency s q c l) = held s := by
  simp only [noteLatency, held_mk, apply_ite held, ite_self]

end Sys2Proof.Machine
end

