-- ==== Sys2Proof/Laws/Lanes.lean ====
section
/-! SUPPORT. What the operations of Machine/Lanes.lean leave alone: the command queue and the bytes of the bank arrays. -/

namespace Sys2Proof.Machine

@[simp] theorem setChan_held (s : State) (id : Nat) (c : Chan) : held (setChan s id c) = held s := by
  simp only [setChan, held_mk]

@[simp] theorem launchLane_held (s : State) (p : LaneOut) : held (launchLane s p) = held s := by
  simp only [launchLane, held_mk, emit_held, setChan_held]

@[simp] theorem sendLane_held (s : State) (p : LaneOut) : held (sendLane s p) = held s := by
  simp only [sendLane, held_mk, launchLane_held, apply_ite held, ite_self]

@[simp] theorem takeCredits_held (s : State) (id h d : Nat) : held (takeCredits s id h d) = held s := by
  simp only [takeCredits, held_mk, setChan_held]

@[simp] theorem giveCredits_held (s : State) (id h d : Nat) : held (giveCredits s id h d) = held s := by
  simp only [giveCredits, held_mk, setChan_held, apply_ite held, ite_self]

@[simp] theorem sendError_held (s : State) (lane ch cause : Nat) (t : Option (Nat × Nat × Nat)) : held (sendError s
    lane ch cause t) = held s := by
  simp only [sendError, held_mk, sendLane_held, setF_held, irqIf_held, orF_held, apply_ite held, ite_self]

@[simp] theorem sendWake_held (s : State) (lane ch mask reason : Nat) : held (sendWake s lane ch mask reason) = held s
    := by simp only [sendWake, held_mk, ctrEvent_held, sendLane_held]

@[simp] theorem setTag_held (s : State) (id tag : Nat) (t : Tag) : held (setTag s id tag t) = held s := by
  simp only [setTag, held_mk]

@[simp] theorem countGate_held (s : State) (part trx : Nat) : held (countGate s part trx) = held s := by
  simp only [countGate, held_mk, incF_held, apply_ite held, ite_self]

@[simp] theorem traceResponse_held (s : State) (a : Ans) (miss : Bool) : held (traceResponse s a miss) = held s := by
  simp only [traceResponse, held_mk, trcPush_held, apply_ite held, ite_self]

@[simp] theorem countCode_held (s : State) (a : Ans) : held (countCode s a) = held s := by
  unfold countCode
  split <;> simp only [held_mk, incF_held, ctrEvent_held]

@[simp] theorem dropReq_held (s : State) (id : Nat) : held (dropReq s id) = held s := by simp only [dropReq, held_mk]

@[simp] theorem putReq_held (s : State) (r : Request) : held (putReq s r) = held s := by simp only [putReq, held_mk]

@[simp] theorem noteMiss_held (s : State) (o : Origin) (h : Hdr) (pl : Place) (m : Lag) : held (noteMiss s o h pl m) =
    held s := by
  simp only [noteMiss, held_mk, incF_held, setF_held, irqIf_held, ctrEvent_held, apply_ite held, ite_self]

@[simp] theorem leaveAns_held (s : State) (a : Ans) : held (leaveAns s a) = held s := by
  unfold leaveAns
  repeat' first
    | (simp only [held_mk, noteMiss_held, noteLatency_held, traceResponse_held, countCode_held, energyEvt_held,
        ctrEvent_held]; done)
    | (simp; done)
    | split
    | (refine (held_foldl (fun _ _ => ?_) _ _).trans ?_)
    | (refine held_snd (by assumption) ?_)
    | (refine held_fst (by assumption) ?_)
    | (refine held_thd (by assumption) ?_)
    | (simp +zetaDelta; done)
    | simp

@[simp] theorem launchOut_held (s : State) (x : Leaving) : held (launchOut s x) = held s := by
  unfold launchOut
  repeat' first
    | (simp only [held_mk, leaveAns_held, countGate_held, launchLane_held]; done)
    | (simp; done)
    | split
    | (refine (held_foldl (fun _ _ => ?_) _ _).trans ?_)
    | (refine held_snd (by assumption) ?_)
    | (refine held_fst (by assumption) ?_)
    | (refine held_thd (by assumption) ?_)
    | (simp +zetaDelta; done)
    | simp

@[simp] theorem startOut_held (s : State) (x : Leaving) : held (startOut s x) = held s := by
  unfold startOut
  repeat' first
    | (simp only [held_mk, launchOut_held, sendWake_held, setChan_held]; done)
    | (simp; done)
    | split
    | (refine (held_foldl (fun _ _ => ?_) _ _).trans ?_)
    | (refine held_snd (by assumption) ?_)
    | (refine held_fst (by assumption) ?_)
    | (refine held_thd (by assumption) ?_)
    | (simp +zetaDelta; done)
    | simp

@[simp] theorem sendOrHold_held (s : State) (x : Leaving) : held (sendOrHold s x) = held s := by
  unfold sendOrHold
  repeat' first
    | (simp only [held_mk, startOut_held, setChan_held]; done)
    | (simp; done)
    | split
    | (refine (held_foldl (fun _ _ => ?_) _ _).trans ?_)
    | (refine held_snd (by assumption) ?_)
    | (refine held_fst (by assumption) ?_)
    | (refine held_thd (by assumption) ?_)
    | (simp +zetaDelta; done)
    | simp

@[simp] theorem channelInit_held (s : State) (lane ch : Nat) : held (channelInit s lane ch) = held s := by
  unfold channelInit
  repeat' first
    | (simp only [held_mk, startOut_held, launchLane_held, setChan_held]; done)
    | (simp; done)
    | split
    | (refine (held_foldl (fun _ _ => ?_) _ _).trans ?_)
    | (refine held_snd (by assumption) ?_)
    | (refine held_fst (by assumption) ?_)
    | (refine held_thd (by assumption) ?_)
    | (simp +zetaDelta; done)
    | simp

@[simp] theorem channelOff_held (s : State) (lane ch : Nat) : held (channelOff s lane ch) = held s := by
  unfold channelOff
  repeat' first
    | (simp only [held_mk, setChan_held]; done)
    | (simp; done)
    | split
    | (refine (held_foldl (fun _ _ => ?_) _ _).trans ?_)
    | (refine held_snd (by assumption) ?_)
    | (refine held_fst (by assumption) ?_)
    | (refine held_thd (by assumption) ?_)
    | (simp +zetaDelta; done)
    | simp

@[simp] theorem leadDue_held (s : State) (id : Nat) : held (leadDue s id) = held s := by
  unfold leadDue
  repeat' first
    | (simp only [held_mk, launchOut_held, setChan_held]; done)
    | (simp; done)
    | split
    | (refine (held_foldl (fun _ _ => ?_) _ _).trans ?_)
    | (refine held_snd (by assumption) ?_)
    | (refine held_fst (by assumption) ?_)
    | (refine held_thd (by assumption) ?_)
    | (simp +zetaDelta; done)
    | simp

@[simp] theorem leadsDue_held (s : State) : held (leadsDue s) = held s := by
  unfold leadsDue
  repeat' first
    | (simp only [held_mk, leadDue_held]; done)
    | (simp; done)
    | split
    | (refine (held_foldl (fun _ _ => ?_) _ _).trans ?_)
    | (refine held_snd (by assumption) ?_)
    | (refine held_fst (by assumption) ?_)
    | (refine held_thd (by assumption) ?_)
    | (simp +zetaDelta; done)
    | simp

@[simp] theorem deliver_held (s : State) (a : Ans) : held (deliver s a) = held s := by
  unfold deliver
  repeat' first
    | (simp only [held_mk, replay_held, setTag_held, sendOrHold_held, emit_held, leaveAns_held, answer_held]; done)
    | (simp; done)
    | split
    | (refine (held_foldl (fun _ _ => ?_) _ _).trans ?_)
    | (refine held_snd (by assumption) ?_)
    | (refine held_fst (by assumption) ?_)
    | (refine held_thd (by assumption) ?_)
    | (simp +zetaDelta; done)
    | simp

end Sys2Proof.Machine
end

