-- ==== Sys2Proof/Laws/Journal.lean ====
section
/-! SUPPORT. What the operations of Machine/Journal.lean leave alone: the command queue and the bytes of the bank arrays. -/

namespace Sys2Proof.Machine

@[simp] theorem putEntry_held (s : State) (e : JEntry) : held (putEntry s e) = held s := by
  simp only [putEntry, held_mk]

@[simp] theorem dropEntry_held (s : State) (seq : Nat) : held (dropEntry s seq) = held s := by
  simp only [dropEntry, held_mk]

@[simp] theorem jnlWrite_held (s : State) (e : JEntry) (st : Nat) : held (jnlWrite s e st) = held s := by
  simp only [jnlWrite, held_mk, putEntry_held, emit_held, apply_ite held, ite_self]

@[simp] theorem jnlOpen_held (s : State) (e : JEntry) : held (jnlOpen s e) = held s := by
  simp only [jnlOpen, held_mk, setF_held, ctrEvent_held, jnlWrite_held]

@[simp] theorem jnlClose_held (s : State) (e : JEntry) : held (jnlClose s e) = held s := by
  unfold jnlClose
  split <;> simp only [held_mk, dropEntry_held, deliver_held]

@[simp] theorem jnlFinish_held (s : State) (e : JEntry) (code cause value sm : Nat) (a : Option Ans) : held (jnlFinish
    s e code cause value sm a) = held s := by
  unfold jnlFinish
  repeat' first
    | (simp only [held_mk, incF_held, jnlWrite_held, jnlClose_held]; done)
    | (simp; done)
    | split
    | (refine (held_foldl (fun _ _ => ?_) _ _).trans ?_)
    | (refine held_snd (by assumption) ?_)
    | (refine held_fst (by assumption) ?_)
    | (refine held_thd (by assumption) ?_)
    | (simp +zetaDelta; done)
    | simp

@[simp] theorem dropDedup_held (s : State) (ow oi rq tag : Nat) : held (dropDedup s ow oi rq tag) = held s := by
  simp only [dropDedup, held_mk]

@[simp] theorem fillDedup_held (s : State) (ow oi rq : Nat) (r : Request) (code value sm : Nat) : held (fillDedup s ow
    oi rq r code value sm) = held s := by simp only [fillDedup, held_mk]

@[simp] theorem deliverLane_held (s : State) (a : Ans) : held (deliverLane s a) = held s := by
  unfold deliverLane
  (repeat' split) <;> simp only [held_mk, dropDedup_held, deliver_held]

@[simp] theorem spreadVerdict_held (s : State) (r : Request) (code value : Nat) : held (spreadVerdict s r code value)
    = held s := by
  unfold spreadVerdict
  (repeat' split) <;> simp only [held_mk]

@[simp] theorem noteCode_held (s0 : State) (r : Request) (code value : Nat) : held (noteCode s0 r code value) = held
    s0 := by
  unfold noteCode
  repeat' first
    | (simp only [held_mk, spreadVerdict_held, incF_held]; done)
    | (simp; done)
    | split
    | (refine (held_foldl (fun _ _ => ?_) _ _).trans ?_)
    | (refine held_snd (by assumption) ?_)
    | (refine held_fst (by assumption) ?_)
    | (refine held_thd (by assumption) ?_)
    | (simp +zetaDelta; done)
    | simp

@[simp] theorem respond_held (s : State) (r : Request) (code value sm : Nat) (beats : List Nat) : held (respond s r
    code value sm beats) = held s := by
  unfold respond
  repeat' first
    | (simp only [held_mk, noteCode_held, noteMiss_held, noteLatency_held, dropReq_held, fillDedup_held,
        jnlFinish_held, deliverLane_held]; done)
    | (simp; done)
    | split
    | (refine (held_foldl (fun _ _ => ?_) _ _).trans ?_)
    | (refine held_snd (by assumption) ?_)
    | (refine held_fst (by assumption) ?_)
    | (refine held_thd (by assumption) ?_)
    | (simp +zetaDelta; done)
    | simp

@[simp] theorem answer_held (s : State) (r : Request) (code value : Nat) : held (answer s r code value) = held s := by
  simp only [answer, held_mk, respond_held]

end Sys2Proof.Machine
end

