-- ==== Sys2Proof/Laws/Sync.lean ====
section
/-! SUPPORT. What the operations of Machine/Sync.lean leave alone: the command queue and the bytes of the bank arrays. -/

namespace Sys2Proof.Machine

@[simp] theorem releaseWaiter_held (s : State) (w : Waiter) : held (releaseWaiter s w) = held s := by
  unfold releaseWaiter
  repeat' first
    | (simp only [held_mk, ctrEvent_held, countGate_held, answer_held]; done)
    | (simp; done)
    | split
    | (refine (held_foldl (fun _ _ => ?_) _ _).trans ?_)
    | (refine held_snd (by assumption) ?_)
    | (refine held_fst (by assumption) ?_)
    | (refine held_thd (by assumption) ?_)
    | (simp +zetaDelta; done)
    | simp

@[simp] theorem testWaiters_held (s : State) (b : Nat) : held (testWaiters s b) = held s := by
  unfold testWaiters
  exact held_foldl (fun _ _ => by simp only [held_mk, releaseWaiter_held]) _ _

@[simp] theorem noteNotApplied_held (s : State) (b : Nat) : held (noteNotApplied s b) = held s := by
  simp only [noteNotApplied, held_mk, setF_held, incF_held]

@[simp] theorem signalBaton_held (s : State) (b i : Nat) : held (signalBaton s b i) = held s := by
  simp only [signalBaton, held_mk, noteNotApplied_held, setF_held, testWaiters_held, ctrEvent_held, apply_ite held,
    ite_self]

@[simp] theorem signalAs_held (s : State) (b i p : Nat) : held (signalAs s b i p) = held s := by
  simp only [signalAs, held_mk, signalBaton_held, noteNotApplied_held, apply_ite held, ite_self]

@[simp] theorem attachedAs_held (s : State) (b i p : Nat) : held (attachedAs s b i p) = held s := by
  unfold attachedAs
  repeat' first
    | (simp only [held_mk, signalBaton_held, noteNotApplied_held]; done)
    | (simp; done)
    | split
    | (refine (held_foldl (fun _ _ => ?_) _ _).trans ?_)
    | (refine held_snd (by assumption) ?_)
    | (refine held_fst (by assumption) ?_)
    | (refine held_thd (by assumption) ?_)
    | (simp +zetaDelta; done)
    | simp

@[simp] theorem readBatonWord_held (s : State) (b : Nat) (u : Upset) : held (readBatonWord s b u) = held s := by
  unfold readBatonWord
  repeat' first
    | (simp only [held_mk, resolveUpset_held, logEvt_held, incF_held, setF_held, irqIf_held, answer_held]; done)
    | (simp; done)
    | split
    | (refine (held_foldl (fun _ _ => ?_) _ _).trans ?_)
    | (refine held_snd (by assumption) ?_)
    | (refine held_fst (by assumption) ?_)
    | (refine held_thd (by assumption) ?_)
    | (simp +zetaDelta; done)
    | simp

@[simp] theorem setRelay_held (s : State) (q : Nat) (l : List Handle) : held (setRelay s q l) = held s := by
  simp only [setRelay, held_mk]

@[simp] theorem makeSig_held (s : State) (b p : Nat) : held (makeSig s b p) = held s := by
  unfold makeSig
  repeat' first
    | (simp only [held_mk]; done)
    | (simp; done)
    | split
    | (refine (held_foldl (fun _ _ => ?_) _ _).trans ?_)
    | (refine held_snd (by assumption) ?_)
    | (refine held_fst (by assumption) ?_)
    | (refine held_thd (by assumption) ?_)
    | (simp +zetaDelta; done)
    | simp

@[simp] theorem enterRelay_held (s : State) (q : Nat) (h : Handle) : held (enterRelay s q h) = held s := by
  unfold enterRelay
  repeat' first
    | (simp only [held_mk, ctrEvent_held, setRelay_held, makeSig_held, sendWake_held]; done)
    | (simp; done)
    | split
    | (refine (held_foldl (fun _ _ => ?_) _ _).trans ?_)
    | (refine held_snd (by assumption) ?_)
    | (refine held_fst (by assumption) ?_)
    | (refine held_thd (by assumption) ?_)
    | (simp +zetaDelta; done)
    | simp

@[simp] theorem pushedOnward_held (s : State) (stream : Option (Nat × Nat)) (b : Nat) : held (pushedOnward s stream b)
    = held s := by
  unfold pushedOnward
  repeat' first
    | (simp only [held_mk]; done)
    | (simp; done)
    | split
    | (refine (held_foldl (fun _ _ => ?_) _ _).trans ?_)
    | (refine held_snd (by assumption) ?_)
    | (refine held_fst (by assumption) ?_)
    | (refine held_thd (by assumption) ?_)
    | (simp +zetaDelta; done)
    | simp

@[simp] theorem drainRelay_held (a0 : Nat) (a1 : State) (a2 : Nat) : held (drainRelay a0 a1 a2) = held a1 := by
  induction a0 generalizing a1 with
  | zero => simp [drainRelay]
  | succ k ih =>
    unfold drainRelay
    repeat' first
      | (simp; done)
      | (simp [ih]; done)
      | split
      | (refine (held_foldl (fun _ _ => ?_) _ _).trans ?_)
      | (refine (ih _ _).trans ?_)
      | (refine (ih _).trans ?_)
      | (refine held_snd (by assumption) ?_)
      | simp

@[simp] theorem popRelay_held (s : State) (q : Nat) : held (popRelay s q).2 = held s := by
  unfold popRelay
  repeat' first
    | (simp only [held_mk, ctrEvent_held, setRelay_held, makeSig_held, drainRelay_held]; done)
    | (simp; done)
    | split
    | (refine (held_foldl (fun _ _ => ?_) _ _).trans ?_)
    | (refine held_snd (by assumption) ?_)
    | (refine held_fst (by assumption) ?_)
    | (refine held_thd (by assumption) ?_)
    | (simp +zetaDelta; done)
    | simp

@[simp] theorem flushRelay_held (s : State) (q : Nat) : held (flushRelay s q) = held s := by
  simp only [flushRelay, held_mk, drainRelay_held, setRelay_held]

@[simp] theorem sendTape_held (s : State) (wafer inst m : Nat) : held (sendTape s wafer inst m) = held s := by
  simp only [sendTape, held_mk, emit_held]

@[simp] theorem tapeSignal_held (s : State) (a : Arrival) (sense : Nat) : held (tapeSignal s a sense) = held s := by
  unfold tapeSignal
  repeat' first
    | (simp only [held_mk, sendOrHold_held]; done)
    | (simp; done)
    | split
    | (refine (held_foldl (fun _ _ => ?_) _ _).trans ?_)
    | (refine held_snd (by assumption) ?_)
    | (refine held_fst (by assumption) ?_)
    | (refine held_thd (by assumption) ?_)
    | (simp +zetaDelta; done)
    | simp

@[simp] theorem releaseArrival_held (s : State) (a : Arrival) : held (releaseArrival s a) = held s := by
  unfold releaseArrival
  repeat' first
    | (simp only [held_mk, tapeSignal_held, countGate_held, answer_held]; done)
    | (simp; done)
    | split
    | (refine (held_foldl (fun _ _ => ?_) _ _).trans ?_)
    | (refine held_snd (by assumption) ?_)
    | (refine held_fst (by assumption) ?_)
    | (refine held_thd (by assumption) ?_)
    | (simp +zetaDelta; done)
    | simp

@[simp] theorem abandonArrival_held (reason : Nat) (s : State) (a : Arrival) : held (abandonArrival reason s a) = held
    s := by
  unfold abandonArrival
  repeat' first
    | (simp only [held_mk, tapeSignal_held, answer_held]; done)
    | (simp; done)
    | split
    | (refine (held_foldl (fun _ _ => ?_) _ _).trans ?_)
    | (refine held_snd (by assumption) ?_)
    | (refine held_fst (by assumption) ?_)
    | (refine held_thd (by assumption) ?_)
    | (simp +zetaDelta; done)
    | simp

@[simp] theorem tapeFault_held (s : State) (n cause reason : Nat) (also : Option Participant) : held (tapeFault s n
    cause reason also) = held s := by
  unfold tapeFault
  repeat' first
    | (simp only [held_mk, setF_held, abandonArrival_held, sendTape_held, irqIf_held]; done)
    | (simp; done)
    | split
    | (refine (held_foldl (fun _ _ => ?_) _ _).trans ?_)
    | (refine held_snd (by assumption) ?_)
    | (refine held_fst (by assumption) ?_)
    | (refine held_thd (by assumption) ?_)
    | (simp +zetaDelta; done)
    | simp

@[simp] theorem completeHeat_held (s : State) (n : Nat) : held (completeHeat s n) = held s := by
  simp only [completeHeat, held_mk, sendTape_held, setF_held, apply_ite held, ite_self]

@[simp] theorem releaseHeat_held (s : State) (n : Nat) : held (releaseHeat s n) = held s := by
  unfold releaseHeat
  repeat' first
    | (simp only [held_mk, sendTape_held, releaseArrival_held, setF_held, ctrEvent_held]; done)
    | (simp; done)
    | split
    | (refine (held_foldl (fun _ _ => ?_) _ _).trans ?_)
    | (refine held_snd (by assumption) ?_)
    | (refine held_fst (by assumption) ?_)
    | (refine held_thd (by assumption) ?_)
    | (simp +zetaDelta; done)
    | simp

@[simp] theorem tapeRun_held (a0 : Nat) (a1 : State) (a2 : Nat) : held (tapeRun a0 a1 a2) = held a1 := by
  induction a0 generalizing a1 with
  | zero => simp [tapeRun]
  | succ k ih =>
    unfold tapeRun
    repeat' first
      | (simp; done)
      | (simp [ih]; done)
      | split
      | (refine (held_foldl (fun _ _ => ?_) _ _).trans ?_)
      | (refine (ih _ _).trans ?_)
      | (refine (ih _).trans ?_)
      | (refine held_snd (by assumption) ?_)
      | simp

@[simp] theorem takeArrival_held (s : State) (n : Nat) (early : Bool) (a : Arrival) : held (takeArrival s n early a) =
    held s := by
  unfold takeArrival
  (repeat' split) <;> simp only [held_mk, setF_held]

@[simp] theorem enterReleasing_held (s : State) (n t : Nat) (al : Bool) : held (enterReleasing s n t al) = held s := by
  unfold enterReleasing
  split <;> simp only [held_mk, incF_held, setF_held]

@[simp] theorem refuseTape_held (s : State) (m : Nat) (reply : Bool) : held (refuseTape s m reply) = held s := by
  simp only [refuseTape, held_mk, setF_held, incF_held, sendTape_held, apply_ite held, ite_self]

@[simp] theorem execTapeArriveMessage_held (mw : BitVec 128) (s : State) : keepsHeld s (execTapeArriveMessage mw s) := by
  unfold execTapeArriveMessage
  repeat' first
    | (simp only [held_mk, refuseTape_held, sendTape_held, tapeFault_held, takeArrival_held, tapeRun_held,
        keepsHeld_next]; done)
    | (simp; done)
    | split
    | (refine (held_foldl (fun _ _ => ?_) _ _).trans ?_)
    | (refine held_snd (by assumption) ?_)
    | (refine held_fst (by assumption) ?_)
    | (refine held_thd (by assumption) ?_)
    | (simp +zetaDelta; done)
    | simp

@[simp] theorem execTapeReleaseMessage_held (mw : BitVec 128) (s : State) : keepsHeld s (execTapeReleaseMessage mw s)
    := by
  unfold execTapeReleaseMessage
  repeat' first
    | (simp only [held_mk, refuseTape_held, tapeFault_held, enterReleasing_held, setF_held, tapeRun_held,
        keepsHeld_next]; done)
    | (simp; done)
    | split
    | (refine (held_foldl (fun _ _ => ?_) _ _).trans ?_)
    | (refine held_snd (by assumption) ?_)
    | (refine held_fst (by assumption) ?_)
    | (refine held_thd (by assumption) ?_)
    | (simp +zetaDelta; done)
    | simp

@[simp] theorem execTapeFaultMessage_held (mw : BitVec 128) (s : State) : keepsHeld s (execTapeFaultMessage mw s) := by
  unfold execTapeFaultMessage
  repeat' first
    | (simp only [held_mk, refuseTape_held, tapeFault_held, keepsHeld_next]; done)
    | (simp; done)
    | split
    | (refine (held_foldl (fun _ _ => ?_) _ _).trans ?_)
    | (refine held_snd (by assumption) ?_)
    | (refine held_fst (by assumption) ?_)
    | (refine held_thd (by assumption) ?_)
    | (simp +zetaDelta; done)
    | simp

@[simp] theorem execTapeRefusedMessage_held (mw : BitVec 128) (s : State) : keepsHeld s (execTapeRefusedMessage mw s)
    := by
  unfold execTapeRefusedMessage
  repeat' first
    | (simp only [held_mk, refuseTape_held, tapeFault_held, keepsHeld_next]; done)
    | (simp; done)
    | split
    | (refine (held_foldl (fun _ _ => ?_) _ _).trans ?_)
    | (refine held_snd (by assumption) ?_)
    | (refine held_fst (by assumption) ?_)
    | (refine held_thd (by assumption) ?_)
    | (simp +zetaDelta; done)
    | simp

@[simp] theorem execTapeRelease_held (n : Nat) (s : State) : keepsHeld s (execTapeRelease n s) := by
  unfold execTapeRelease
  (repeat' split) <;> simp only [held_mk, tapeRun_held, keepsHeld_next]

@[simp] theorem restartTape_held (s : State) (n heat : Nat) : held (restartTape s n heat) = held s := by
  unfold restartTape
  exact held_foldl (fun _ _ => by simp only [held_mk, abandonArrival_held, setF_held]) _ _

end Sys2Proof.Machine
end

