-- ==== Sys2Proof/Laws/Tasks.lean ====
section
/-! SUPPORT. What the operations of Machine/Tasks.lean leave alone: the command queue and the bytes of the bank arrays. -/

namespace Sys2Proof.Machine

@[simp] theorem putTask_held (s : State) (t : Task) : held (putTask s t) = held s := by simp only [putTask, held_mk]

@[simp] theorem dropTask_held (s : State) (q st : Nat) : held (dropTask s q st) = held s := by
  simp only [dropTask, held_mk]

@[simp] theorem bookWindow_held (step : Nat) (c : Charge) (a2 : Nat) (a3 : State) (a4 : Nat) : keepsOpt a3 (bookWindow
    step c a2 a3 a4) := by
  induction a2 generalizing a3 a4 with
  | zero => simp [bookWindow]
  | succ k ih =>
    unfold bookWindow
    split
    · intro u h
      rw [ih _ _ u h, bookFine_held]
    · simp

@[simp] theorem decideTask_held (s : State) (b q p trx d : Nat) : held (decideTask s b q p trx d).2 = held s := by
  unfold decideTask
  repeat' first
    | (simp; done)
    | (exact bookWindow_held _ _ _ _ _ _ (by assumption))
    | split
    | (refine (held_foldl (fun _ _ => ?_) _ _).trans ?_)
    | (refine held_snd (by assumption) ?_)
    | (refine held_fst (by assumption) ?_)
    | (refine held_thd (by assumption) ?_)
    | (simp +zetaDelta; done)
    | simp

@[simp] theorem loadTask_held (s : State) (r : Request) (b bf n : Nat) : held (loadTask s r b bf n) = held s := by
  simp only [loadTask, held_mk, setF_held]

@[simp] theorem gwTransmit_held (s : State) (e : GwEntry) (retry : Bool) : held (gwTransmit s e retry) = held s := by
  simp only [gwTransmit, held_mk, incF_held, ctrEvent_held, energyEvt_held, emit_held, apply_ite held, ite_self]

@[simp] theorem gwOpen_held (s : State) (rid : Option Nat) (stream : Option (Nat × Nat)) (h : Hdr) (beats : List Nat)
    (promised : Nat) : held (gwOpen s rid stream h beats promised) = held s := by
  simp only [gwOpen, held_mk, gwTransmit_held]

@[simp] theorem putGw_held (s : State) (e : GwEntry) : held (putGw s e) = held s := by simp only [putGw, held_mk]

@[simp] theorem dropGw_held (s : State) (seq : Nat) : held (dropGw s seq) = held s := by simp only [dropGw, held_mk]

@[simp] theorem noteMoved_held (s : State) (q st n : Nat) : held (noteMoved s q st n) = held s := by
  unfold noteMoved
  repeat' first
    | (simp only [held_mk, setF_held]; done)
    | (simp; done)
    | split
    | (refine (held_foldl (fun _ _ => ?_) _ _).trans ?_)
    | (refine held_snd (by assumption) ?_)
    | (refine held_fst (by assumption) ?_)
    | (refine held_thd (by assumption) ?_)
    | (simp +zetaDelta; done)
    | simp

@[simp] theorem streamSignal_held (s : State) (t : Task) (core kind value size sm : Nat) (beats : List Nat) : held
    (streamSignal s t core kind value size sm beats) = held s := by simp only [streamSignal, held_mk, sendOrHold_held]

@[simp] theorem sendPush_held (s : State) (t : Task) (sq : Nat) (beats : List Nat) (sm : Nat) : held (sendPush s t sq
    beats sm) = held s := by
  unfold sendPush
  repeat' first
    | (simp only [held_mk, energyEvt_held, ctrEvent_held, incF_held, streamSignal_held, noteMoved_held]; done)
    | (simp; done)
    | split
    | (refine (held_foldl (fun _ _ => ?_) _ _).trans ?_)
    | (refine held_snd (by assumption) ?_)
    | (refine held_fst (by assumption) ?_)
    | (refine held_thd (by assumption) ?_)
    | (simp +zetaDelta; done)
    | simp

@[simp] theorem sendPushes_held (s : State) (t : Task) (p : Push) (beats : List Nat) (sm : Nat) : held (sendPushes s t
    p beats sm) = held s := by simp only [sendPushes, held_mk, sendPush_held]

@[simp] theorem flushPushes_held (a0 : Nat) (a1 : State) (a2 a3 : Nat) : held (flushPushes a0 a1 a2 a3) = held a1 := by
  induction a0 generalizing a1 with
  | zero => simp [flushPushes]
  | succ k ih =>
    unfold flushPushes
    repeat' first
      | (simp; done)
      | (simp [ih]; done)
      | split
      | (refine (held_foldl (fun _ _ => ?_) _ _).trans ?_)
      | (refine (ih _).trans ?_)
      | (refine (ih _).trans ?_)
      | (refine held_snd (by assumption) ?_)
      | simp

@[simp] theorem freeStream_held (s : State) (q st : Nat) : held (freeStream s q st) = held s := by
  simp only [freeStream, held_mk, setF_held, dropTask_held]

@[simp] theorem endTask_held (s : State) (t : Task) : held (endTask s t) = held s := by
  unfold endTask
  repeat' first
    | (simp only [held_mk, signalAs_held, freeStream_held, respond_held]; done)
    | (simp; done)
    | split
    | (refine (held_foldl (fun _ _ => ?_) _ _).trans ?_)
    | (refine held_snd (by assumption) ?_)
    | (refine held_fst (by assumption) ?_)
    | (refine held_thd (by assumption) ?_)
    | (simp +zetaDelta; done)
    | simp

@[simp] theorem settleAbort_held (s : State) (q st : Nat) : held (settleAbort s q st) = held s := by
  unfold settleAbort
  repeat' first
    | (simp only [held_mk, orF_held, freeStream_held, irqIf_held, answer_held]; done)
    | (simp; done)
    | split
    | (refine (held_foldl (fun _ _ => ?_) _ _).trans ?_)
    | (refine held_snd (by assumption) ?_)
    | (refine held_fst (by assumption) ?_)
    | (refine held_thd (by assumption) ?_)
    | (simp +zetaDelta; done)
    | simp

@[simp] theorem markHandles_held (s : State) (rid : Nat) : held (markHandles s rid) = held s := by
  simp only [markHandles, held_mk]

@[simp] theorem recoverHandle_held (s : State) (x : Nat × Handle) : held (recoverHandle s x) = held s := by
  simp only [recoverHandle, held_mk, enterRelay_held, incF_held, apply_ite held, ite_self]

@[simp] theorem recoverHandles_held (s : State) (l : List (Nat × Handle)) : held (recoverHandles s l) = held s := by
  unfold recoverHandles
  repeat' first
    | (simp only [held_mk, incF_held, recoverHandle_held]; done)
    | (simp; done)
    | split
    | (refine (held_foldl (fun _ _ => ?_) _ _).trans ?_)
    | (refine held_snd (by assumption) ?_)
    | (refine held_fst (by assumption) ?_)
    | (refine held_thd (by assumption) ?_)
    | (simp +zetaDelta; done)
    | simp

@[simp] theorem abortSignals_held (s : State) (t : Task) (cause : Nat) : held (abortSignals s t cause) = held s := by
  simp only [abortSignals, held_mk, streamSignal_held, emit_held, apply_ite held, ite_self]

@[simp] theorem abortTask_held (s : State) (q st cause : Nat) : held (abortTask s q st cause) = held s := by
  unfold abortTask
  repeat' first
    | (simp only [held_mk, setF_held, putTask_held, abortSignals_held, recoverHandle_held, markHandles_held,
        settleAbort_held]; done)
    | (simp; done)
    | split
    | (refine (held_foldl (fun _ _ => ?_) _ _).trans ?_)
    | (refine held_snd (by assumption) ?_)
    | (refine held_fst (by assumption) ?_)
    | (refine held_thd (by assumption) ?_)
    | (simp +zetaDelta; done)
    | simp

@[simp] theorem takeCredit_held (s : State) (lane q st count : Nat) : held (takeCredit s lane q st count) = held s := by
  unfold takeCredit
  repeat' first
    | (simp only [held_mk, setF_held, incF_held]; done)
    | (simp; done)
    | split
    | (refine (held_foldl (fun _ _ => ?_) _ _).trans ?_)
    | (refine held_snd (by assumption) ?_)
    | (refine held_fst (by assumption) ?_)
    | (refine held_thd (by assumption) ?_)
    | (simp +zetaDelta; done)
    | simp

end Sys2Proof.Machine
end

