-- ==== Sys2Proof/Laws/Requests.lean ====
section
/-! SUPPORT. What the operations of Machine/Requests.lean leave alone: the command queue and the bytes of the bank arrays. -/

namespace Sys2Proof.Machine

@[simp] theorem readBibEntry_held (s : State) (n : Nat) (u : Upset) : held (readBibEntry s n u).2 = held s := by
  unfold readBibEntry
  repeat' first
    | (simp only [held_mk, resolveUpset_held, logEvt_held, setF_held]; done)
    | (simp; done)
    | split
    | (refine (held_foldl (fun _ _ => ?_) _ _).trans ?_)
    | (refine held_snd (by assumption) ?_)
    | (refine held_fst (by assumption) ?_)
    | (refine held_thd (by assumption) ?_)
    | (simp +zetaDelta; done)
    | simp

@[simp] theorem resolveData_held (s : State) (h : Hdr) (up : Upset) : held (resolveData s h up).2 = held s := by
  unfold resolveData
  repeat' first
    | (simp only [held_mk, readBibEntry_held]; done)
    | (simp; done)
    | split
    | (refine (held_foldl (fun _ _ => ?_) _ _).trans ?_)
    | (refine held_snd (by assumption) ?_)
    | (refine held_fst (by assumption) ?_)
    | (refine held_thd (by assumption) ?_)
    | (simp +zetaDelta; done)
    | simp

@[simp] theorem identOk_held (s : State) (h : Hdr) (beats : List Beat) (up : Upset) : held (identOk s h beats up).2 =
    held s := by
  unfold identOk
  (repeat' split) <;> simp only [held_mk, readBatonWord_held]

@[simp] theorem checks8_held (s : State) (r : Request) (up : Upset) : held (checks8 s r up).2 = held s := by
  unfold checks8
  repeat' first
    | (simp only [held_mk, resolveData_held, identOk_held]; done)
    | (simp; done)
    | split
    | (refine (held_foldl (fun _ _ => ?_) _ _).trans ?_)
    | (refine held_snd (by assumption) ?_)
    | (refine held_fst (by assumption) ?_)
    | (refine held_thd (by assumption) ?_)
    | (simp +zetaDelta; done)
    | simp

@[simp] theorem reject_held (s : State) (r : Request) (code value : Nat) : held (reject s r code value) = held s := by
  unfold reject
  split <;> simp only [held_mk, giveCredits_held, answer_held]

@[simp] theorem doBaton_held (s : State) (r : Request) : held (doBaton s r) = held s := by
  simp only [doBaton, held_mk, noteNotApplied_held, answer_held, signalBaton_held, ctrEvent_held, countGate_held,
    setF_held, putReq_held, apply_ite held, ite_self]

@[simp] theorem doArrive_held (s : State) (r : Request) : held (doArrive s r) = held s := by
  unfold doArrive
  repeat' first
    | (simp only [held_mk, answer_held, setF_held, takeArrival_held, putReq_held, tapeRun_held, tapeFault_held]; done)
    | (simp; done)
    | split
    | (refine (held_foldl (fun _ _ => ?_) _ _).trans ?_)
    | (refine held_snd (by assumption) ?_)
    | (refine held_fst (by assumption) ?_)
    | (refine held_thd (by assumption) ?_)
    | (simp +zetaDelta; done)
    | simp

@[simp] theorem doHint_held (s : State) (arg trx : Nat) : held (doHint s arg trx) = held s := by
  unfold doHint
  exact held_foldl (fun _ _ => by split <;> simp only [held_mk, setF_held]) _ _

@[simp] theorem doPush_held (s : State) (r : Request) : held (doPush s r) = held s := by
  simp only [doPush, held_mk, answer_held, enterRelay_held, putReq_held, incF_held, apply_ite held, ite_self]

@[simp] theorem doPop_held (s : State) (r : Request) : held (doPop s r) = held s := by
  unfold doPop
  repeat' first
    | (simp only [held_mk, answer_held]; done)
    | (simp; done)
    | split
    | (refine (held_foldl (fun _ _ => ?_) _ _).trans ?_)
    | (refine held_snd (by assumption) ?_)
    | (refine held_fst (by assumption) ?_)
    | (refine held_thd (by assumption) ?_)
    | (simp +zetaDelta; done)
    | simp

@[simp] theorem actNow_held (s : State) (r : Request) : held (actNow s r) = held s := by
  unfold actNow
  split <;> simp only [held_mk, doBaton_held, doArrive_held, answer_held, doHint_held, doPush_held, doPop_held]

@[simp] theorem proceed_held (s : State) (r : Request) : held (proceed s r) = held s := by
  simp only [proceed, held_mk, putReq_held, actNow_held, apply_ite held, ite_self]

@[simp] theorem accept_held (s : State) (r : Request) (pl : Place) : held (accept s r pl) = held s := by
  unfold accept
  extract_lets b r1 s1 s2 go
  have h2 : held s2 = held s := by
    simp only [s2]
    split <;> simp [s1]
  have hg : ∀ t, held (go t) = held t := by
    intro t
    simp only [go]
    split <;> simp
  clear_value b r1 s1 s2 go
  split
  · split <;> simp [hg, h2]
  · split <;> simp [hg, h2]

@[simp] theorem rmtFull_held (s : State) (r : Request) : keepsOptP s (rmtFull s r) := by
  unfold rmtFull
  (repeat' split) <;> simp

@[simp] theorem launchCheck_held (s : State) (r : Request) : held (launchCheck s r) = held s := by
  unfold launchCheck
  repeat' first
    | (simp only [held_mk, reject_held, setF_held, decideTask_held, accept_held, loadTask_held]; done)
    | (simp; done)
    | split
    | (refine (held_foldl (fun _ _ => ?_) _ _).trans ?_)
    | (refine held_snd (by assumption) ?_)
    | (refine held_fst (by assumption) ?_)
    | (refine held_thd (by assumption) ?_)
    | (simp +zetaDelta; done)
    | simp

@[simp] theorem check11_held (s : State) (r0 : Request) : held (check11 s r0) = held s := by
  unfold check11
  extract_lets r blocked s1
  have h1 : held s1 = held s := by
    simp only [s1]
    split <;> simp
  clear_value s1 blocked r
  repeat' first
    | (simp [h1]; done)
    | split
    | (refine (reject_held _ _ _ _).trans ?_)
    | (refine (accept_held _ _ _).trans ?_)
    | (refine (rmtFull_held _ _ _ _ (by assumption)).trans ?_)
    | (refine held_snd (by assumption) ?_)
    | (simp +zetaDelta [h1]; done)

@[simp] theorem dropComb_held (s : State) (l c k : Nat) : held (dropComb s l c k) = held s := by
  simp only [dropComb, held_mk]

@[simp] theorem submitWriteBack_held (s : State) (r : Request) : held (submitWriteBack s r) = held s := by
  unfold submitWriteBack
  extract_lets p c l again
  have hg : ∀ t v, held (again t v) = held t := by
    intro t v
    simp only [again]
    split <;> simp
  clear_value again
  have ha := admission_held s 7 (now s) p c.1
  split <;> rename_i he <;> rw [he] at ha <;> simpa [hg] using ha

@[simp] theorem closeComb_held (s : State) (e : CombEntry) : held (closeComb s e) = held s := by
  simp only [closeComb, held_mk, dropComb_held, incF_held, submitWriteBack_held, apply_ite held, ite_self]

@[simp] theorem combine_held (s : State) (r : Request) (e : CombEntry) : held (combine s r e) = held s := by
  simp only [combine, held_mk, incF_held, reject_held, ctrEvent_held]

@[simp] theorem openComb_held (s : State) (r : Request) (old : Nat) : held (openComb s r old) = held s := by
  unfold openComb
  repeat' first
    | (simp only [held_mk, closeComb_held]; done)
    | (simp; done)
    | split
    | (refine (held_foldl (fun _ _ => ?_) _ _).trans ?_)
    | (refine held_snd (by assumption) ?_)
    | (refine held_fst (by assumption) ?_)
    | (refine held_thd (by assumption) ?_)
    | (simp +zetaDelta; done)
    | simp

@[simp] theorem combPlace_held (s : State) (l : Nat) (r : Request) : held (combPlace s l r) = held s := by
  unfold combPlace
  repeat' first
    | (simp only [held_mk, closeComb_held]; done)
    | (simp; done)
    | split
    | (refine (held_foldl (fun _ _ => ?_) _ _).trans ?_)
    | (refine held_snd (by assumption) ?_)
    | (refine held_fst (by assumption) ?_)
    | (refine held_thd (by assumption) ?_)
    | (simp +zetaDelta; done)
    | simp

@[simp] theorem holdTest_held (s : State) (r : Request) : held (holdTest s r).2 = held s := by
  unfold holdTest
  split
  · extract_lets own sf c rs s0 s1 stuck ovl full s2 s3
    have hf : held sf = held s := held_foldl (fun _ _ => closeComb_held _ _) _ _
    have h0 : held s0 = held s := by
      simp only [s0]
      split
      · rfl
      · exact held_foldl (fun _ _ => closeComb_held _ _) _ _
    have h1 : held s1 = held s := by
      simp only [s1]
      split <;> simp only [combPlace_held, h0]
    have h2 : held s2 = held s := by
      simp only [s2]
      split <;> simp only [incF_held, putReq_held, h1]
    have h3 : held s3 = held s := by
      simp only [s3]
      split <;> simp only [orF_held, h2]
    clear_value s3 stuck c sf own
    repeat' split
    all_goals first | rfl | exact hf | exact h3
  · rfl

@[simp] theorem passHold_held (s : State) (r : Request) : held (passHold s r) = held s := by
  unfold passHold
  (repeat' split) <;> simp only [held_mk, giveCredits_held, gwOpen_held, putReq_held, check11_held]

@[simp] theorem present_held (s : State) (r : Request) : held (present s r) = held s := by
  unfold present
  repeat' first
    | (simp only [held_mk, holdTest_held, combine_held, passHold_held]; done)
    | (simp; done)
    | split
    | (refine (held_foldl (fun _ _ => ?_) _ _).trans ?_)
    | (refine held_snd (by assumption) ?_)
    | (refine held_fst (by assumption) ?_)
    | (refine held_thd (by assumption) ?_)
    | (simp +zetaDelta; done)
    | simp

@[simp] theorem presentNew_held (s : State) (r : Request) (lane : Nat) : held (presentNew s r lane) = held s := by
  unfold presentNew
  repeat' first
    | (simp only [held_mk, holdTest_held, ctrEvent_held, combine_held, passHold_held]; done)
    | (simp; done)
    | split
    | (refine (held_foldl (fun _ _ => ?_) _ _).trans ?_)
    | (refine held_snd (by assumption) ?_)
    | (refine held_fst (by assumption) ?_)
    | (refine held_thd (by assumption) ?_)
    | (simp +zetaDelta; done)
    | simp

@[simp] theorem execHoldPointPass_held (id : Nat) (s : State) : keepsHeld s (execHoldPointPass id s) := by
  unfold execHoldPointPass
  (repeat' split) <;> simp only [held_mk, present_held, keepsHeld_next]

@[simp] theorem dropPacket_held (s : State) (p : LanePkt) (cause : Nat) : held (dropPacket s p cause) = held s := by
  simp only [dropPacket, held_mk, incF_held, ctrEvent_held, sendError_held, giveCredits_held, apply_ite held,
    ite_self]

@[simp] theorem creditsIn_held (s : State) (p : LanePkt) : held (creditsIn s p) = held s := by
  simp only [creditsIn, held_mk, takeCredits_held]

@[simp] theorem replay_held (s : State) (org : Origin) (h : Hdr) (code value sm : Nat) : held (replay s org h code
    value sm) = held s := by simp only [replay, held_mk, deliver_held]

@[simp] theorem newRequest_held (s : State) (p : LanePkt) (h : Hdr) : held (newRequest s p h) = held s := by
  unfold newRequest
  repeat' first
    | (simp only [held_mk, setTag_held, reject_held, putReq_held, presentNew_held, checks8_held]; done)
    | (simp; done)
    | split
    | (refine (held_foldl (fun _ _ => ?_) _ _).trans ?_)
    | (refine held_snd (by assumption) ?_)
    | (refine held_fst (by assumption) ?_)
    | (refine held_thd (by assumption) ?_)
    | (simp +zetaDelta; done)
    | simp

@[simp] theorem countDup_held (s : State) (p : LanePkt) : held (countDup s p) = held s := by
  simp only [countDup, held_mk, ctrEvent_held, incF_held]

@[simp] theorem checkTag_held (s : State) (p : LanePkt) (h : Hdr) : held (checkTag s p h) = held s := by
  unfold checkTag
  repeat' first
    | (simp only [held_mk, giveCredits_held, deliver_held, newRequest_held, replay_held, ctrEvent_held, incF_held,
        sendError_held, countDup_held]; done)
    | (simp; done)
    | split
    | (refine (held_foldl (fun _ _ => ?_) _ _).trans ?_)
    | (refine held_snd (by assumption) ?_)
    | (refine held_fst (by assumption) ?_)
    | (refine held_thd (by assumption) ?_)
    | (simp +zetaDelta; done)
    | simp

@[simp] theorem lanePacket_held (op : Nat) (p : LanePkt) (s : State) : held (lanePacket op p s) = held s := by
  unfold lanePacket
  repeat' first
    | (simp only [held_mk, dropPacket_held, setChan_held, creditsIn_held, giveCredits_held, ctrEvent_held,
        checkTag_held, energyEvt_held]; done)
    | (simp; done)
    | split
    | (refine (held_foldl (fun _ _ => ?_) _ _).trans ?_)
    | (refine held_snd (by assumption) ?_)
    | (refine held_fst (by assumption) ?_)
    | (refine held_thd (by assumption) ?_)
    | (simp +zetaDelta; done)
    | simp

@[simp] theorem execRead_held (p : LanePkt) (s : State) : keepsHeld s (execRead p s) := by
  simp only [execRead, held_mk, lanePacket_held, keepsHeld_next]

@[simp] theorem execReadT_held (p : LanePkt) (s : State) : keepsHeld s (execReadT p s) := by
  simp only [execReadT, held_mk, lanePacket_held, keepsHeld_next]

@[simp] theorem execReadS_held (p : LanePkt) (s : State) : keepsHeld s (execReadS p s) := by
  simp only [execReadS, held_mk, lanePacket_held, keepsHeld_next]

@[simp] theorem execReadX_held (p : LanePkt) (s : State) : keepsHeld s (execReadX p s) := by
  simp only [execReadX, held_mk, lanePacket_held, keepsHeld_next]

@[simp] theorem execWrite_held (p : LanePkt) (s : State) : keepsHeld s (execWrite p s) := by
  simp only [execWrite, held_mk, lanePacket_held, keepsHeld_next]

@[simp] theorem execWriteN_held (p : LanePkt) (s : State) : keepsHeld s (execWriteN p s) := by
  simp only [execWriteN, held_mk, lanePacket_held, keepsHeld_next]

@[simp] theorem execAccum_held (p : LanePkt) (s : State) : keepsHeld s (execAccum p s) := by
  simp only [execAccum, held_mk, lanePacket_held, keepsHeld_next]

@[simp] theorem execAtomAdd_held (p : LanePkt) (s : State) : keepsHeld s (execAtomAdd p s) := by
  simp only [execAtomAdd, held_mk, lanePacket_held, keepsHeld_next]

@[simp] theorem execAtomMin_held (p : LanePkt) (s : State) : keepsHeld s (execAtomMin p s) := by
  simp only [execAtomMin, held_mk, lanePacket_held, keepsHeld_next]

@[simp] theorem execAtomMax_held (p : LanePkt) (s : State) : keepsHeld s (execAtomMax p s) := by
  simp only [execAtomMax, held_mk, lanePacket_held, keepsHeld_next]

@[simp] theorem execAtomSwap_held (p : LanePkt) (s : State) : keepsHeld s (execAtomSwap p s) := by
  simp only [execAtomSwap, held_mk, lanePacket_held, keepsHeld_next]

@[simp] theorem execAtomCas_held (p : LanePkt) (s : State) : keepsHeld s (execAtomCas p s) := by
  simp only [execAtomCas, held_mk, lanePacket_held, keepsHeld_next]

@[simp] theorem execBatonSignal_held (p : LanePkt) (s : State) : keepsHeld s (execBatonSignal p s) := by
  simp only [execBatonSignal, held_mk, lanePacket_held, keepsHeld_next]

@[simp] theorem execBatonWait_held (p : LanePkt) (s : State) : keepsHeld s (execBatonWait p s) := by
  simp only [execBatonWait, held_mk, lanePacket_held, keepsHeld_next]

@[simp] theorem execBatonRead_held (p : LanePkt) (s : State) : keepsHeld s (execBatonRead p s) := by
  simp only [execBatonRead, held_mk, lanePacket_held, keepsHeld_next]

@[simp] theorem execTapeArrive_held (p : LanePkt) (s : State) : keepsHeld s (execTapeArrive p s) := by
  simp only [execTapeArrive, held_mk, lanePacket_held, keepsHeld_next]

@[simp] theorem execFence_held (p : LanePkt) (s : State) : keepsHeld s (execFence p s) := by
  simp only [execFence, held_mk, lanePacket_held, keepsHeld_next]

@[simp] theorem execHint_held (p : LanePkt) (s : State) : keepsHeld s (execHint p s) := by
  simp only [execHint, held_mk, lanePacket_held, keepsHeld_next]

@[simp] theorem execPaceLaunch_held (p : LanePkt) (s : State) : keepsHeld s (execPaceLaunch p s) := by
  simp only [execPaceLaunch, held_mk, lanePacket_held, keepsHeld_next]

@[simp] theorem execRelayPush_held (p : LanePkt) (s : State) : keepsHeld s (execRelayPush p s) := by
  simp only [execRelayPush, held_mk, lanePacket_held, keepsHeld_next]

@[simp] theorem execRelayPop_held (p : LanePkt) (s : State) : keepsHeld s (execRelayPop p s) := by
  simp only [execRelayPop, held_mk, lanePacket_held, keepsHeld_next]

@[simp] theorem execCoreCreditPacket_held (p : LanePkt) (s : State) : keepsHeld s (execCoreCreditPacket p s) := by
  unfold execCoreCreditPacket
  repeat' first
    | (simp only [held_mk, dropPacket_held, setChan_held, creditsIn_held, giveCredits_held, incF_held,
        takeCredit_held, keepsHeld_next]; done)
    | (simp; done)
    | split
    | (refine (held_foldl (fun _ _ => ?_) _ _).trans ?_)
    | (refine held_snd (by assumption) ?_)
    | (refine held_fst (by assumption) ?_)
    | (refine held_thd (by assumption) ?_)
    | (simp +zetaDelta; done)
    | simp

@[simp] theorem execChannelUp_held (lane ch : Nat) (s : State) : keepsHeld s (execChannelUp lane ch s) := by
  unfold execChannelUp
  repeat' first
    | (simp only [held_mk, setChan_held, channelInit_held, keepsHeld_next]; done)
    | (simp; done)
    | split
    | (refine (held_foldl (fun _ _ => ?_) _ _).trans ?_)
    | (refine held_snd (by assumption) ?_)
    | (refine held_fst (by assumption) ?_)
    | (refine held_thd (by assumption) ?_)
    | (simp +zetaDelta; done)
    | simp

@[simp] theorem channelDown_held (s : State) (lane ch : Nat) : held (channelDown s lane ch) = held s := by
  unfold channelDown
  repeat' first
    | (simp only [held_mk, channelOff_held, setChan_held]; done)
    | (simp; done)
    | split
    | (refine (held_foldl (fun _ _ => ?_) _ _).trans ?_)
    | (refine held_snd (by assumption) ?_)
    | (refine held_fst (by assumption) ?_)
    | (refine held_thd (by assumption) ?_)
    | (simp +zetaDelta; done)
    | simp

@[simp] theorem execChannelDown_held (lane ch : Nat) (s : State) : keepsHeld s (execChannelDown lane ch s) := by
  unfold execChannelDown
  split <;> simp only [held_mk, channelDown_held, keepsHeld_next]

@[simp] theorem execCreditReturnTimeout_held (lane ch : Nat) (s : State) : keepsHeld s (execCreditReturnTimeout lane
    ch s) := by
  unfold execCreditReturnTimeout
  repeat' first
    | (simp only [held_mk, launchLane_held]; done)
    | (simp; done)
    | split
    | (refine (held_foldl (fun _ _ => ?_) _ _).trans ?_)
    | (refine held_snd (by assumption) ?_)
    | (refine held_fst (by assumption) ?_)
    | (refine held_thd (by assumption) ?_)
    | (simp +zetaDelta; done)
    | simp

@[simp] theorem execCombWindowExpiry_held (lane core slot : Nat) (s : State) : keepsHeld s (execCombWindowExpiry lane
    core slot s) := by
  unfold execCombWindowExpiry
  (repeat' split) <;> simp only [held_mk, closeComb_held, keepsHeld_next]

@[simp] theorem execCombWriteBackResend_held (id : Nat) (s : State) : keepsHeld s (execCombWriteBackResend id s) := by
  unfold execCombWriteBackResend
  (repeat' split) <;> simp only [held_mk, submitWriteBack_held, keepsHeld_next]

@[simp] theorem meshNew_held (s : State) (m : MeshPkt) (h : Hdr) : held (meshNew s m h) = held s := by
  unfold meshNew
  repeat' first
    | (simp only [held_mk, reject_held, checks8_held, check11_held, putReq_held]; done)
    | (simp; done)
    | split
    | (refine (held_foldl (fun _ _ => ?_) _ _).trans ?_)
    | (refine held_snd (by assumption) ?_)
    | (refine held_fst (by assumption) ?_)
    | (refine held_thd (by assumption) ?_)
    | (simp +zetaDelta; done)
    | simp

@[simp] theorem meshDup_held (s : State) (m : MeshPkt) (h : Hdr) : held (meshDup s m h) = held s := by
  unfold meshDup
  repeat' first
    | (simp only [held_mk, replay_held, meshNew_held, dropDedup_held]; done)
    | (simp; done)
    | split
    | (refine (held_foldl (fun _ _ => ?_) _ _).trans ?_)
    | (refine held_snd (by assumption) ?_)
    | (refine held_fst (by assumption) ?_)
    | (refine held_thd (by assumption) ?_)
    | (simp +zetaDelta; done)
    | simp

@[simp] theorem execMeshRequest_held (m : MeshPkt) (s : State) : keepsHeld s (execMeshRequest m s) := by
  unfold execMeshRequest
  repeat' first
    | (simp only [held_mk, ctrEvent_held, meshDup_held, energyEvt_held, emit_held, keepsHeld_next]; done)
    | (simp; done)
    | split
    | (refine (held_foldl (fun _ _ => ?_) _ _).trans ?_)
    | (refine held_snd (by assumption) ?_)
    | (refine held_fst (by assumption) ?_)
    | (refine held_thd (by assumption) ?_)
    | (simp +zetaDelta; done)
    | simp

end Sys2Proof.Machine
end

