-- ==== Sys2Proof/Laws/Banks.lean ====
section
/-! SUPPORT. What the operations of Machine/Banks.lean leave alone: the command queue and the bytes of the bank arrays. -/

namespace Sys2Proof.Machine

@[simp] theorem logGran_held (s : State) (r : Request) (src sev g info : Nat) : held (logGran s r src sev g info) =
    held s := by simp only [logGran, held_mk, logEvt_held]

@[simp] theorem flipAt_held (s : State) (r : Request) (point : Nat) : held (flipAt s r point).2 = held s := by
  unfold flipAt
  repeat' first
    | (simp only [held_mk, setF_held]; done)
    | (simp; done)
    | split
    | (refine (held_foldl (fun _ _ => ?_) _ _).trans ?_)
    | (refine held_snd (by assumption) ?_)
    | (refine held_fst (by assumption) ?_)
    | (refine held_thd (by assumption) ?_)
    | (simp +zetaDelta; done)
    | simp

@[simp] theorem makeState_held (s : State) (g : Nat) (n : GState) : held (makeState s g n) = held s := by
  simp only [makeState, held_mk, countMade_held, setState_held]

@[simp] theorem readStateWord_held (s : State) (r : Request) (g : Nat) (u : Upset) : held (readStateWord s r g u) =
    held s := by
  unfold readStateWord
  repeat' first
    | (simp only [held_mk, resolveUpset_held, logGran_held, setF_held, incF_held, makeState_held, irqIf_held]; done)
    | (simp; done)
    | split
    | (refine (held_foldl (fun _ _ => ?_) _ _).trans ?_)
    | (refine held_snd (by assumption) ?_)
    | (refine held_fst (by assumption) ?_)
    | (refine held_thd (by assumption) ?_)
    | (simp +zetaDelta; done)
    | simp

@[simp] theorem noteParity_held (s : State) (r : Request) (write : Bool) (g m : Nat) (flip log : Bool) : held
    (noteParity s r write g m flip log) = held s := by
  simp only [noteParity, held_mk, incF_held, setF_held, ctrEvent_held, irqIf_held, logGran_held, apply_ite held,
    ite_self]

@[simp] theorem noteP4_held (s : State) (r : Request) (t : Nat) (src : Bool) (g m : Nat) (flip : Bool) : held (noteP4
    s r t src g m flip) = held s := by
  simp only [noteP4, held_mk, setF_held, incF_held, ctrEvent_held, irqIf_held, logEvt_held]

@[simp] theorem noteXf_held (s : State) (t sat nan : Nat) : held (noteXf s t sat nan) = held s := by
  simp only [noteXf, held_mk, setF_held, incF_held, apply_ite held, ite_self]

@[simp] theorem noteSlot_held (s : State) (r : Request) (g : Nat) (write : Bool) : held (noteSlot s r g write) = held
    s := by simp only [noteSlot, held_mk, ctrEvent_held, energyEvt_held, apply_ite held, ite_self]

@[simp] theorem operandP2_held (s : State) (r : Request) (g be : Nat) (ph : Phys) : held (operandP2 s r g be ph).2 =
    held s := by simp only [operandP2, held_mk, flipAt_held, noteParity_held, apply_ite held, ite_self]

@[simp] theorem noteAdder_held (s : State) (r : Request) (g : Nat) : held (noteAdder s r g) = held s := by
  simp only [noteAdder, held_mk, energyEvt_held, ctrEvent_held]

@[simp] theorem readP4_held (s : State) (r : Request) (g p3 : Nat) (ph : Phys) : held (readP4 s r g p3 ph).2 = held s
    := by
  unfold readP4
  repeat' first
    | (simp only [held_mk, flipAt_held, noteP4_held]; done)
    | (simp; done)
    | split
    | (refine (held_foldl (fun _ _ => ?_) _ _).trans ?_)
    | (refine held_snd (by assumption) ?_)
    | (refine held_fst (by assumption) ?_)
    | (refine held_thd (by assumption) ?_)
    | (simp +zetaDelta; done)
    | simp

end Sys2Proof.Machine
end

