-- ==== Sys2Proof/Laws/Stage.lean ====
section
/-! SUPPORT. What the operations of Machine/Stage.lean leave alone: the command queue and the bytes of the bank arrays. -/

namespace Sys2Proof.Machine

@[simp] theorem moveCharged_held (s : State) (r : Request) : held (moveCharged s r) = held s := by
  unfold moveCharged
  repeat' first
    | (simp only [held_mk, notePart_held]; done)
    | (simp; done)
    | split
    | (refine (held_foldl (fun _ _ => ?_) _ _).trans ?_)
    | (refine held_snd (by assumption) ?_)
    | (refine held_fst (by assumption) ?_)
    | (refine held_thd (by assumption) ?_)
    | (simp +zetaDelta; done)
    | simp

@[simp] theorem enterStage3_held (s : State) (r : Request) : held (enterStage3 s r) = held s := by
  unfold enterStage3
  repeat' first
    | (simp only [held_mk, moveCharged_held, putReq_held, ctrEvent_held, incF_held, setF_held]; done)
    | (simp; done)
    | split
    | (refine (held_foldl (fun _ _ => ?_) _ _).trans ?_)
    | (refine held_snd (by assumption) ?_)
    | (refine held_fst (by assumption) ?_)
    | (refine held_thd (by assumption) ?_)
    | (simp +zetaDelta; done)
    | simp

@[simp] theorem issueNew_held (s : State) (r : Request) : held (issueNew s r) = held s := by
  simp only [issueNew, held_mk, enterStage3_held]

@[simp] theorem releaseTest_held (s : State) (r : Request) : keepsOpt s (releaseTest s r) := by
  unfold releaseTest
  extract_lets c take fine
  have ht : keepsOpt s take := by
    simp only [take]
    split <;> simp
  have hf : ∀ b, keepsOpt s (fine b) := by
    intro b
    simp only [fine]
    split
    · simp
    · split <;> simp [ht]
  clear_value take fine c
  split
  · simp
  · exact hf _
  · exact hf _
  · split
    · simp
    · split <;> simp [ht]

@[simp] theorem jnlRunning_held (s : State) (rid : Nat) : held (jnlRunning s rid) = held s := by
  unfold jnlRunning
  (repeat' split) <;> simp only [held_mk, jnlWrite_held]

@[simp] theorem releaseCoarse_held (n : Nat) (s : State) : held (releaseCoarse n s) = held s := by
  induction n generalizing s with
  | zero => rfl
  | succ k ih =>
    unfold releaseCoarse
    split
    · rw [ih, enterStage3_held]
    · rfl

@[simp] theorem startTask_held (s : State) (r : Request) : held (startTask s r) = held s := by
  unfold startTask
  split <;> simp only [held_mk, jnlRunning_held, putTask_held, putReq_held]

@[simp] theorem execIssueRelease_held (id : Nat) (s : State) : keepsHeld s (execIssueRelease id s) := by
  unfold execIssueRelease
  repeat' first
    | (simp; done)
    | (refine (releaseTest_held _ _ _ (by assumption)).trans ?_)
    | (rw [releaseTest_held _ _ _ (by assumption)])
    | split
    | (refine (held_foldl (fun _ _ => ?_) _ _).trans ?_)
    | (refine held_snd (by assumption) ?_)
    | (refine held_fst (by assumption) ?_)
    | (refine held_thd (by assumption) ?_)
    | (simp +zetaDelta; done)
    | simp

@[simp] theorem markPresented_held (s : State) : held (markPresented s) = held s := by
  simp only [markPresented, held_mk, apply_ite held, ite_self]

@[simp] theorem noteAged_held (s : State) (rid g wait : Nat) : held (noteAged s rid g wait) = held s := by
  unfold noteAged
  repeat' first
    | (simp only [held_mk, setF_held, ctrEvent_held]; done)
    | (simp; done)
    | split
    | (refine (held_foldl (fun _ _ => ?_) _ _).trans ?_)
    | (refine held_snd (by assumption) ?_)
    | (refine held_fst (by assumption) ?_)
    | (refine held_thd (by assumption) ?_)
    | (simp +zetaDelta; done)
    | simp

@[simp] theorem grantInput_held (s : State) (t i : Nat) (c : Cand) : held (grantInput s t i c) = held s := by
  unfold grantInput
  repeat' first
    | (simp only [held_mk]; done)
    | (simp; done)
    | split
    | (refine (held_foldl (fun _ _ => ?_) _ _).trans ?_)
    | (refine held_snd (by assumption) ?_)
    | (refine held_fst (by assumption) ?_)
    | (refine held_thd (by assumption) ?_)
    | (simp +zetaDelta; done)
    | simp

@[simp] theorem level1_held (t n : Nat) (cand : List Cand) (s : State) : held (level1 t n cand s) = held s := by
  induction n generalizing cand s with
  | zero => rfl
  | succ k ih =>
    unfold level1
    split
    · rw [ih, grantInput_held]
    · rfl

@[simp] theorem arbitrate_held (s : State) : held (arbitrate s) = held s := by
  unfold arbitrate
  repeat' first
    | (simp only [held_mk, markPresented_held, level1_held]; done)
    | (simp; done)
    | split
    | (refine (held_foldl (fun _ _ => ?_) _ _).trans ?_)
    | (refine held_snd (by assumption) ?_)
    | (refine held_fst (by assumption) ?_)
    | (refine held_thd (by assumption) ?_)
    | (simp +zetaDelta; done)
    | simp

@[simp] theorem passInput_held (s : State) (i : TInput) : held (passInput s i) = held s := by
  simp only [passInput, held_mk, apply_ite held, ite_self]

@[simp] theorem notePort_held (s : State) (r : Request) (g : Nat) : held (notePort s r g) = held s := by
  unfold notePort
  repeat' first
    | (simp only [held_mk]; done)
    | (simp; done)
    | split
    | (refine (held_foldl (fun _ _ => ?_) _ _).trans ?_)
    | (refine held_snd (by assumption) ?_)
    | (refine held_fst (by assumption) ?_)
    | (refine held_thd (by assumption) ?_)
    | (simp +zetaDelta; done)
    | simp

@[simp] theorem freeInputs_held (s : State) : held (freeInputs s) = held s := by
  unfold freeInputs
  repeat' first
    | (simp only [held_mk]; done)
    | (simp; done)
    | split
    | (refine (held_foldl (fun _ _ => ?_) _ _).trans ?_)
    | (refine held_snd (by assumption) ?_)
    | (refine held_fst (by assumption) ?_)
    | (refine held_thd (by assumption) ?_)
    | (simp +zetaDelta; done)
    | simp

@[simp] theorem countReturnWaits_held (s : State) (w : List TInput) : held (countReturnWaits s w) = held s := by
  unfold countReturnWaits
  repeat' first
    | (simp only [held_mk, ctrEvent_held]; done)
    | (simp; done)
    | split
    | (refine (held_foldl (fun _ _ => ?_) _ _).trans ?_)
    | (refine held_snd (by assumption) ?_)
    | (refine held_fst (by assumption) ?_)
    | (refine held_thd (by assumption) ?_)
    | (simp +zetaDelta; done)
    | simp

@[simp] theorem noteWaits_held (s : State) : held (noteWaits s) = held s := by
  unfold noteWaits
  repeat' first
    | (simp only [held_mk, noteAged_held, countReturnWaits_held, setF_held]; done)
    | (simp; done)
    | split
    | (refine (held_foldl (fun _ _ => ?_) _ _).trans ?_)
    | (refine held_snd (by assumption) ?_)
    | (refine held_fst (by assumption) ?_)
    | (refine held_thd (by assumption) ?_)
    | (simp +zetaDelta; done)
    | simp

@[simp] theorem narrowP4_held (s : State) (r : Request) (p4 : List (Nat × BitVec 64)) : held (narrowP4 s r p4).2 =
    held s := by
  unfold narrowP4
  refine (held_foldl_snd (fun p x => ?_) _ _).trans rfl
  (try dsimp only)
  repeat' first
    | rfl
    | (simp; done)
    | split
    | (simp +zetaDelta; done)

@[simp] theorem convertWrite_held (s : State) (r : Request) (pd : List (Nat × BitVec 64)) : held (convertWrite s r
    pd).2 = held s := by
  unfold convertWrite
  split <;> simp only [held_mk, narrowP4_held, noteXf_held, energyEvt_held, ctrEvent_held]

@[simp] theorem passStage3_held (s : State) (r : Request) (p4 : List (Nat × BitVec 64)) : held (passStage3 s r p4) =
    held s := by
  simp only [passStage3, held_mk, convertWrite_held, jnlRunning_held, putReq_held, setF_held, arbitrate_held,
    apply_ite held, ite_self]

@[simp] theorem execScoreboardPass_held (p : Passing) (s : State) : keepsHeld s (execScoreboardPass p s) := by
  unfold execScoreboardPass
  (repeat' split) <;> simp only [held_mk, setF_held, passStage3_held, keepsHeld_next]

end Sys2Proof.Machine
end

