-- ==== Sys2Proof/Laws/Pacers.lean ====
section
/-! SUPPORT. What the operations of Machine/Pacers.lean leave alone: the command queue and the bytes of the bank arrays. -/

namespace Sys2Proof.Machine

@[simp] theorem setPc_held (s : State) (t : Task) (pc : Nat) : held (setPc s t pc) = held s := by
  simp only [setPc, held_mk, setF_held]

@[simp] theorem advance_held (s : State) (t : Task) : held (advance s t) = held s := by
  simp only [advance, held_mk, abortTask_held, setPc_held, apply_ite held, ite_self]

@[simp] theorem runIns_held (op q st : Nat) (ups : InsUps) (f : State → Task → Nat → State) (s : State) (hf : ∀ x0 x1
    x2, held (f x0 x1 x2) = held x0) : held (runIns op q st ups f s) = held s := by
  unfold runIns
  repeat' first
    | (simp; done)
    | (refine (hf _ _ _).trans ?_)
    | split
    | (refine (held_foldl (fun _ _ => ?_) _ _).trans ?_)
    | (refine held_snd (by assumption) ?_)
    | (refine held_fst (by assumption) ?_)
    | (refine held_thd (by assumption) ?_)
    | (simp +zetaDelta; done)
    | simp

@[simp] theorem writeReg_held (v : Task → Nat → Nat) (s : State) (t : Task) (ins : Nat) : held (writeReg v s t ins) =
    held s := by simp only [writeReg, held_mk, advance_held, putTask_held]

@[simp] theorem useCharge_held (s : State) (t : Task) (need : List Nat) : held (useCharge s t need).1 = held s := by
  simp only [useCharge, held_mk]

@[simp] theorem issuePart_held (s : State) (t : Task) (x : List Nat) : held (issuePart s t x) = held s := by
  unfold issuePart
  repeat' first
    | (simp only [held_mk, useCharge_held, putTask_held]; done)
    | (simp; done)
    | split
    | (refine (held_foldl (fun _ _ => ?_) _ _).trans ?_)
    | (refine held_snd (by assumption) ?_)
    | (refine held_fst (by assumption) ?_)
    | (refine held_thd (by assumption) ?_)
    | (simp +zetaDelta; done)
    | simp

@[simp] theorem issueMov_held (s : State) (t : Task) (ins : Nat) (g : MovGo) : held (issueMov s t ins g) = held s := by
  unfold issueMov
  repeat' first
    | (simp only [held_mk, useCharge_held, putTask_held, issueNew_held, setF_held, advance_held, ctrEvent_held]; done)
    | (simp; done)
    | split
    | (refine (held_foldl (fun _ _ => ?_) _ _).trans ?_)
    | (refine held_snd (by assumption) ?_)
    | (refine held_fst (by assumption) ?_)
    | (refine held_thd (by assumption) ?_)
    | (simp +zetaDelta; done)
    | simp

@[simp] theorem doMov_held (s : State) (t : Task) (ins : Nat) : held (doMov s t ins) = held s := by
  unfold doMov
  repeat' first
    | (simp only [held_mk, abortTask_held, issuePart_held, issueMov_held]; done)
    | (simp; done)
    | split
    | (refine (held_foldl (fun _ _ => ?_) _ _).trans ?_)
    | (refine held_snd (by assumption) ?_)
    | (refine held_fst (by assumption) ?_)
    | (refine held_thd (by assumption) ?_)
    | (simp +zetaDelta; done)
    | simp

@[simp] theorem readBibs_held (l : List (Nat × Upset)) (bs : List Nat) (s : State) : held (readBibs l bs s) = held s := by
  induction bs generalizing s with
  | nil => rfl
  | cons b rest ih =>
    unfold readBibs
    extract_lets r
    have h : held r.2 = held s := readBibEntry_held _ _ _
    split
    · exact h
    · rw [ih, h]

@[simp] theorem doMovChecked_held (l : List (Nat × Upset)) (s : State) (t : Task) (ins : Nat) : held (doMovChecked l s
    t ins) = held s := by
  unfold doMovChecked
  repeat' first
    | (simp only [held_mk, doMov_held]; done)
    | (simp; done)
    | split
    | (refine (held_foldl (fun _ _ => ?_) _ _).trans ?_)
    | (refine held_snd (by assumption) ?_)
    | (refine held_fst (by assumption) ?_)
    | (refine held_thd (by assumption) ?_)
    | (simp +zetaDelta; done)
    | simp

@[simp] theorem sendRemote_held (s : State) (t : Task) (op size addr arg sm : Nat) (beats : List Nat) : held
    (sendRemote s t op size addr arg sm beats) = held s := by simp only [sendRemote, held_mk, gwOpen_held]

@[simp] theorem doSig_held (s : State) (t : Task) (ins : Nat) : held (doSig s t ins) = held s := by
  simp only [doSig, held_mk, advance_held, signalAs_held, abortTask_held, sendRemote_held, apply_ite held, ite_self]

@[simp] theorem doWaitb_held (s : State) (t : Task) (ins : Nat) : held (doWaitb s t ins) = held s := by
  simp only [doWaitb, held_mk, advance_held, putTask_held, ctrEvent_held, apply_ite held, ite_self]

@[simp] theorem batonChecked_held (u : Upset) (f : State → Task → Nat → State) (s : State) (t : Task) (ins : Nat) (hf
    : ∀ x0 x1 x2, held (f x0 x1 x2) = held x0) : held (batonChecked u f s t ins) = held s := by
  unfold batonChecked
  repeat' first
    | (simp; done)
    | (refine (hf _ _ _).trans ?_)
    | split
    | (refine (held_foldl (fun _ _ => ?_) _ _).trans ?_)
    | (refine held_snd (by assumption) ?_)
    | (refine held_fst (by assumption) ?_)
    | (refine held_thd (by assumption) ?_)
    | (simp +zetaDelta; done)
    | simp

@[simp] theorem sigChecked_held (u : Upset) (s : State) (t : Task) (ins : Nat) : held (sigChecked u s t ins) = held s
    := by
  unfold sigChecked
  split <;> simp

@[simp] theorem doRpop_held (s : State) (t : Task) (ins : Nat) : held (doRpop s t ins) = held s := by
  unfold doRpop
  repeat' first
    | (simp only [held_mk, abortTask_held, putTask_held, advance_held]; done)
    | (simp; done)
    | split
    | (refine (held_foldl (fun _ _ => ?_) _ _).trans ?_)
    | (refine held_snd (by assumption) ?_)
    | (refine held_fst (by assumption) ?_)
    | (refine held_thd (by assumption) ?_)
    | (simp +zetaDelta; done)
    | simp

@[simp] theorem doRpush_held (s : State) (t : Task) (ins : Nat) : held (doRpush s t ins) = held s := by
  simp only [doRpush, held_mk, advance_held, putTask_held, abortTask_held, sendRemote_held, enterRelay_held,
    incF_held, apply_ite held, ite_self]

@[simp] theorem doSync_held (s : State) (t : Task) (a2 : Nat) : held (doSync s t a2) = held s := by
  simp only [doSync, held_mk, advance_held, apply_ite held, ite_self]

@[simp] theorem sendLast_held (s : State) (q st : Nat) : held (sendLast s q st) = held s := by
  unfold sendLast
  (repeat' split) <;> simp only [held_mk, streamSignal_held, putTask_held]

@[simp] theorem doEnd_held (s : State) (t : Task) (n : Nat) : held (doEnd s t n) = held s := by
  simp only [doEnd, sendLast_held, setF_held, setPc_held]

@[simp] theorem execNop_held (q st : Nat) (ups : InsUps) (s : State) : keepsHeld s (execNop q st ups s) := by
  simp [execNop]

@[simp] theorem execLi_held (q st : Nat) (ups : InsUps) (s : State) : keepsHeld s (execLi q st ups s) := by
  simp [execLi]

@[simp] theorem execAdd_held (q st : Nat) (ups : InsUps) (s : State) : keepsHeld s (execAdd q st ups s) := by
  simp [execAdd]

@[simp] theorem execAddi_held (q st : Nat) (ups : InsUps) (s : State) : keepsHeld s (execAddi q st ups s) := by
  simp [execAddi]

@[simp] theorem execMuli_held (q st : Nat) (ups : InsUps) (s : State) : keepsHeld s (execMuli q st ups s) := by
  simp [execMuli]

@[simp] theorem execShli_held (q st : Nat) (ups : InsUps) (s : State) : keepsHeld s (execShli q st ups s) := by
  simp [execShli]

@[simp] theorem execShri_held (q st : Nat) (ups : InsUps) (s : State) : keepsHeld s (execShri q st ups s) := by
  simp [execShri]

@[simp] theorem execAndi_held (q st : Nat) (ups : InsUps) (s : State) : keepsHeld s (execAndi q st ups s) := by
  simp [execAndi]

@[simp] theorem execJmp_held (q st : Nat) (ups : InsUps) (s : State) : keepsHeld s (execJmp q st ups s) := by
  simp [execJmp]

@[simp] theorem execBnz_held (q st : Nat) (ups : InsUps) (s : State) : keepsHeld s (execBnz q st ups s) := by
  unfold execBnz
  rw [keepsHeld_next]
  apply runIns_held
  intro x y z
  (try dsimp only)
  split <;> simp

@[simp] theorem execBeq_held (q st : Nat) (ups : InsUps) (s : State) : keepsHeld s (execBeq q st ups s) := by
  unfold execBeq
  rw [keepsHeld_next]
  apply runIns_held
  intro x y z
  (try dsimp only)
  split <;> simp

@[simp] theorem execLoop_held (q st : Nat) (ups : InsUps) (s : State) : keepsHeld s (execLoop q st ups s) := by
  unfold execLoop
  rw [keepsHeld_next]
  apply runIns_held
  intro x y z
  extract_lets c
  clear_value c
  split <;> simp only [setPc_held, advance_held, putTask_held]

@[simp] theorem execEndl_held (q st : Nat) (ups : InsUps) (s : State) : keepsHeld s (execEndl q st ups s) := by
  unfold execEndl
  rw [keepsHeld_next]
  apply runIns_held
  intro x y z
  extract_lets c s1
  have h1 : held s1 = held x := putTask_held _ _
  clear_value s1 c
  split <;> simp only [setPc_held, advance_held, h1]

@[simp] theorem execSrc_held (q st : Nat) (ups : InsUps) (s : State) : keepsHeld s (execSrc q st ups s) := by
  simp [execSrc]

@[simp] theorem execDst_held (q st : Nat) (ups : InsUps) (s : State) : keepsHeld s (execDst q st ups s) := by
  simp [execDst]

@[simp] theorem execMov_held (q st : Nat) (ups : InsUps) (s : State) : keepsHeld s (execMov q st ups s) := by
  simp [execMov]

@[simp] theorem execSig_held (q st : Nat) (ups : InsUps) (s : State) : keepsHeld s (execSig q st ups s) := by
  simp [execSig]

@[simp] theorem execWaitb_held (q st : Nat) (ups : InsUps) (s : State) : keepsHeld s (execWaitb q st ups s) := by
  simp [execWaitb]

@[simp] theorem execRpop_held (q st : Nat) (ups : InsUps) (s : State) : keepsHeld s (execRpop q st ups s) := by
  simp [execRpop]

@[simp] theorem execRpush_held (q st : Nat) (ups : InsUps) (s : State) : keepsHeld s (execRpush q st ups s) := by
  simp [execRpush]

@[simp] theorem execSync_held (q st : Nat) (ups : InsUps) (s : State) : keepsHeld s (execSync q st ups s) := by
  simp [execSync]

@[simp] theorem execEndTask_held (q st : Nat) (ups : InsUps) (s : State) : keepsHeld s (execEndTask q st ups s) := by
  simp [execEndTask]

@[simp] theorem execTaskEnd_held (q st : Nat) (s : State) : keepsHeld s (execTaskEnd q st s) := by
  unfold execTaskEnd
  (repeat' split) <;> simp only [held_mk, endTask_held, keepsHeld_next]

@[simp] theorem execTaskCutoff_held (q st : Nat) (s : State) : keepsHeld s (execTaskCutoff q st s) := by
  unfold execTaskCutoff
  (repeat' split) <;> simp only [held_mk, abortTask_held, keepsHeld_next]

@[simp] theorem execPacerRemoteAnswer_held (a : MeshAns) (s : State) : keepsHeld s (execPacerRemoteAnswer a s) := by
  unfold execPacerRemoteAnswer
  repeat' first
    | (simp only [held_mk, dropGw_held, noteMoved_held, putGw_held, abortTask_held, keepsHeld_next]; done)
    | (simp; done)
    | split
    | (refine (held_foldl (fun _ _ => ?_) _ _).trans ?_)
    | (refine held_snd (by assumption) ?_)
    | (refine held_fst (by assumption) ?_)
    | (refine held_thd (by assumption) ?_)
    | (simp +zetaDelta; done)
    | simp

@[simp] theorem gwAgain_held (s : State) (e : GwEntry) : held (gwAgain s e) = held s := by
  unfold gwAgain
  repeat' first
    | (simp only [held_mk, gwTransmit_held, putGw_held]; done)
    | (simp; done)
    | split
    | (refine (held_foldl (fun _ _ => ?_) _ _).trans ?_)
    | (refine held_snd (by assumption) ?_)
    | (refine held_fst (by assumption) ?_)
    | (refine held_thd (by assumption) ?_)
    | (simp +zetaDelta; done)
    | simp

@[simp] theorem execPacerRemoteResend_held (seq : Nat) (s : State) : keepsHeld s (execPacerRemoteResend seq s) := by
  unfold execPacerRemoteResend
  repeat' first
    | (simp only [held_mk, gwAgain_held]; done)
    | (simp; done)
    | split
    | (refine (held_foldl (fun _ _ => ?_) _ _).trans ?_)
    | (refine held_snd (by assumption) ?_)
    | (refine held_fst (by assumption) ?_)
    | (refine held_thd (by assumption) ?_)
    | (simp +zetaDelta; done)
    | simp

@[simp] theorem execHintStart_held (q : Nat) (s : State) : keepsHeld s (execHintStart q s) := by
  unfold execHintStart
  (repeat' split) <;> simp only [held_mk, setF_held, keepsHeld_next]

@[simp] theorem execHintEnd_held (q : Nat) (s : State) : keepsHeld s (execHintEnd q s) := by
  unfold execHintEnd
  (repeat' split) <;> simp only [held_mk, setF_held, keepsHeld_next]

@[simp] theorem countStalls_held (s : State) (n : Nat) : held (countStalls s n) = held s := by
  unfold countStalls
  exact held_foldl (fun _ _ => by split <;> simp only [held_mk, ctrEvent_held, incF_held]) _ _

end Sys2Proof.Machine
end

