-- ==== Sys2Proof/Laws/Spill.lean ====
section
/-! SUPPORT. What the operations of Machine/Spill.lean leave alone: the command queue and the bytes of the bank arrays. -/

namespace Sys2Proof.Machine

@[simp] theorem submitUnit_held (s : State) (r : Request) : keepsOpt s (submitUnit s r) := by
  unfold submitUnit
  extract_lets p c
  have h := admission_held s r.h.cls (now s) p c.1
  split
  · rename_i he
    rw [he] at h
    simpa using h
  · simp

@[simp] theorem submitOrHold_held (s : State) (r : Request) : held (submitOrHold s r) = held s := by
  unfold submitOrHold
  extract_lets s1
  rw [keepsOpt_getD (submitUnit_held s1 r) rfl]
  simp [s1]

@[simp] theorem execMoveDescriptorRead_held (p : Nat) (s : State) : keepsHeld s (execMoveDescriptorRead p s) := by
  unfold execMoveDescriptorRead
  repeat' first
    | (simp; done)
    | (rw [keepsHeld_next, setF_held, held_mk, submitUnit_held _ _ _ (by assumption)])
    | split
    | (refine (held_foldl (fun _ _ => ?_) _ _).trans ?_)
    | (refine held_snd (by assumption) ?_)
    | (refine held_fst (by assumption) ?_)
    | (refine held_thd (by assumption) ?_)
    | (simp +zetaDelta; done)
    | simp

@[simp] theorem holdDesc_held (s : State) (p i word : Nat) : held (holdDesc s p i word) = held s := by
  simp only [holdDesc, held_mk]

@[simp] theorem writeRecord_held (s : State) (p idx word code cause doneBibs value stain last : Nat) : held
    (writeRecord s p idx word code cause doneBibs value stain last) = held s := by
  simp only [writeRecord, held_mk, submitOrHold_held, apply_ite held, ite_self]

@[simp] theorem recordDone_held (s : State) (p code : Nat) : held (recordDone s p code) = held s := by
  simp only [recordDone, held_mk, incF_held, ctrEvent_held, signalBaton_held, setF_held, apply_ite held, ite_self]

@[simp] theorem recordsOn_held (n : Nat) (s : State) (p : Nat) : held (recordsOn n s p) = held s := by
  induction n generalizing s with
  | zero => rfl
  | succ k ih =>
    unfold recordsOn
    split
    · split
      · rw [ih, recordDone_held, dropReq_held]
      · rfl
    · rfl

@[simp] theorem recordEnd_held (s : State) (r : Request) (p : Nat) : held (recordEnd s r p) = held s := by
  simp only [recordEnd, recordsOn_held, putReq_held]

@[simp] theorem addReq_held (s : State) (r : Request) : held (addReq s r) = held s := by simp only [addReq, held_mk]

@[simp] theorem readPage_held (s : State) (m : Move) (j k : Nat) : held (readPage s m j k) = held s := by
  unfold readPage
  exact held_foldl (fun _ _ => by simp only [held_mk, addReq_held]) _ _

@[simp] theorem startPages_held (s : State) (m : Move) : held (startPages s m) = held s := by
  unfold startPages
  exact held_foldl (fun _ _ => by split <;> simp only [held_mk, readPage_held, emit_held]) _ _

@[simp] theorem putMove_held (s : State) (m : Move) : held (putMove s m) = held s := by simp only [putMove, held_mk]

@[simp] theorem startMove_held (s : State) (id : Nat) : held (startMove s id) = held s := by
  unfold startMove
  split <;> simp only [held_mk, startPages_held, jnlRunning_held]

@[simp] theorem claimBib_held (s : State) (kind b g : Nat) : held (claimBib s kind b g) = held s := by
  simp only [claimBib, held_mk, setF_held, apply_ite held, ite_self]

@[simp] theorem admitMove_held (s : State) (d : MvDesc) (m : MovePlan) (x n : Nat) (ch : Charge) (prom : Nat) : held
    (admitMove s d m x n ch prom) = held s := by
  unfold admitMove
  extract_lets kind id js s1 mv s2 src e s3
  have h1 : held s1 = held s := keepsOpt_getD (bookWindow_held _ _ _ _ _) rfl
  have h2 : held s2 = held s := by
    simp only [s2]
    rw [held_foldl (fun _ _ => by simp), h1]
  have h3 : held s3 = held s := by simp [s3, h2]
  clear_value s3
  split <;> simp [h3]

@[simp] theorem noteMoveRefused_held (s : State) (e : MoveStop) : held (noteMoveRefused s e) = held s := by
  unfold noteMoveRefused
  repeat' first
    | (simp only [held_mk, incF_held, setF_held, countRef_held]; done)
    | (simp; done)
    | split
    | (refine (held_foldl (fun _ _ => ?_) _ _).trans ?_)
    | (refine held_snd (by assumption) ?_)
    | (refine held_fst (by assumption) ?_)
    | (refine held_thd (by assumption) ?_)
    | (simp +zetaDelta; done)
    | simp

@[simp] theorem takeDesc_held (s : State) (d : MvDesc) (ups : List (Nat × Upset)) : held (takeDesc s d ups) = held s
    := by
  unfold takeDesc
  repeat' first
    | (simp only [held_mk, incF_held, setF_held, writeRecord_held, admitMove_held]; done)
    | (simp; done)
    | split
    | (refine (held_foldl (fun _ _ => ?_) _ _).trans ?_)
    | (refine held_snd (by assumption) ?_)
    | (refine held_fst (by assumption) ?_)
    | (refine held_thd (by assumption) ?_)
    | (simp +zetaDelta; done)
    | simp

@[simp] theorem execSpill_held (m : MoveStart) (s : State) : keepsHeld s (execSpill m s) := by
  unfold execSpill
  repeat' first
    | (simp only [held_mk, takeDesc_held]; done)
    | (simp; done)
    | split
    | (refine (held_foldl (fun _ _ => ?_) _ _).trans ?_)
    | (refine held_snd (by assumption) ?_)
    | (refine held_fst (by assumption) ?_)
    | (refine held_thd (by assumption) ?_)
    | (simp +zetaDelta; done)
    | simp

@[simp] theorem execFill_held (m : MoveStart) (s : State) : keepsHeld s (execFill m s) := by
  unfold execFill
  repeat' first
    | (simp only [held_mk, takeDesc_held]; done)
    | (simp; done)
    | split
    | (refine (held_foldl (fun _ _ => ?_) _ _).trans ?_)
    | (refine held_snd (by assumption) ?_)
    | (refine held_fst (by assumption) ?_)
    | (refine held_thd (by assumption) ?_)
    | (simp +zetaDelta; done)
    | simp

@[simp] theorem closeMove_held (s : State) (id : Nat) : held (closeMove s id) = held s := by
  unfold closeMove
  (repeat' split) <;> simp only [held_mk, writeRecord_held]

@[simp] theorem endMove_held (s : State) (m : Move) : held (endMove s m) = held s := by
  unfold endMove
  repeat' first
    | (simp only [held_mk, putMove_held, incF_held, jnlFinish_held, closeMove_held]; done)
    | (simp; done)
    | split
    | (refine (held_foldl (fun _ _ => ?_) _ _).trans ?_)
    | (refine held_snd (by assumption) ?_)
    | (refine held_fst (by assumption) ?_)
    | (refine held_thd (by assumption) ?_)
    | (simp +zetaDelta; done)
    | simp

@[simp] theorem completeBib_held (s : State) (m : Move) (j : Nat) : held (completeBib s m j) = held s := by
  simp only [completeBib, held_mk, setF_held, putMove_held, apply_ite held, ite_self]

@[simp] theorem settleMove_held (s : State) (id : Nat) : held (settleMove s id) = held s := by
  unfold settleMove
  repeat' first
    | (simp only [held_mk, completeBib_held, endMove_held]; done)
    | (simp; done)
    | split
    | (refine (held_foldl (fun _ _ => ?_) _ _).trans ?_)
    | (refine held_snd (by assumption) ?_)
    | (refine held_fst (by assumption) ?_)
    | (refine held_thd (by assumption) ?_)
    | (simp +zetaDelta; done)
    | simp

@[simp] theorem settleMoves_held (s : State) : held (settleMoves s) = held s := by
  unfold settleMoves
  exact held_foldl (fun _ _ => by simp only [held_mk, settleMove_held]) _ _

@[simp] theorem noteTier_held (s : State) (m : Move) (t n : Nat) : held (noteTier s m t n) = held s := by
  simp only [noteTier, held_mk, energyEvt_held, ctrEvent_held]

@[simp] theorem spillGran_held (s : State) (m : Move) (j k : Nat) (x : GRes) : held (spillGran s m j k x) = held s := by
  unfold spillGran
  repeat' first
    | (simp only [held_mk, putMove_held]; done)
    | (simp; done)
    | split
    | (refine (held_foldl (fun _ _ => ?_) _ _).trans ?_)
    | (refine held_snd (by assumption) ?_)
    | (refine held_fst (by assumption) ?_)
    | (refine held_thd (by assumption) ?_)
    | (simp +zetaDelta; done)
    | simp

@[simp] theorem spillRead_held (s : State) (r : Request) : held (spillRead s r) = held s := by
  unfold spillRead
  repeat' first
    | (simp only [held_mk, spillGran_held, putMove_held, emit_held, noteTier_held]; done)
    | (simp; done)
    | split
    | (refine (held_foldl (fun _ _ => ?_) _ _).trans ?_)
    | (refine held_snd (by assumption) ?_)
    | (refine held_fst (by assumption) ?_)
    | (refine held_thd (by assumption) ?_)
    | (simp +zetaDelta; done)
    | simp

@[simp] theorem fillWrite_held (s : State) (r : Request) : held (fillWrite s r) = held s := by
  unfold fillWrite
  repeat' first
    | (simp only [held_mk, putMove_held]; done)
    | (simp; done)
    | split
    | (refine (held_foldl (fun _ _ => ?_) _ _).trans ?_)
    | (refine held_snd (by assumption) ?_)
    | (refine held_fst (by assumption) ?_)
    | (refine held_thd (by assumption) ?_)
    | (simp +zetaDelta; done)
    | simp

@[simp] theorem execTierAck_held (mv bib page : Nat) (s : State) : keepsHeld s (execTierAck mv bib page s) := by
  unfold execTierAck
  (repeat' split) <;> simp only [held_mk, settleMove_held, putMove_held, keepsHeld_next]

@[simp] theorem tierErr_held (s : State) (m : Move) (kind j page : Nat) : held (tierErr s m kind j page) = held s := by
  simp only [tierErr, held_mk, setF_held, irqIf_held]

@[simp] theorem execTierPageDelivery_held (d : TierPage) (s : State) : keepsHeld s (execTierPageDelivery d s) := by
  unfold execTierPageDelivery
  repeat' first
    | (simp only [held_mk, putMove_held, noteTier_held, incF_held, setF_held, logEvt_held, tierErr_held, addReq_held,
        keepsHeld_next]; done)
    | (simp; done)
    | split
    | (refine (held_foldl (fun _ _ => ?_) _ _).trans ?_)
    | (refine held_snd (by assumption) ?_)
    | (refine held_fst (by assumption) ?_)
    | (refine held_thd (by assumption) ?_)
    | (simp +zetaDelta; done)
    | simp

@[simp] theorem faultMiss_held (s : State) (part cls req promise track : Nat) : held (faultMiss s part cls req promise
    track) = held s := by simp only [faultMiss, held_mk, incF_held, setF_held, ctrEvent_held, irqIf_held]

@[simp] theorem withdrawMove_held (s : State) (id j : Nat) : held (withdrawMove s id j) = held s := by
  simp only [withdrawMove, held_mk]

@[simp] theorem releaseBib_held (s : State) (m : Move) (j : Nat) : held (releaseBib s m j) = held s := by
  simp only [releaseBib, held_mk, setF_held, apply_ite held, ite_self]

@[simp] theorem failMove_held (s : State) (m : Move) (j cause : Nat) : held (failMove s m j cause) = held s := by
  unfold failMove
  repeat' first
    | (simp only [held_mk, releaseBib_held, withdrawMove_held, incF_held, putMove_held, setF_held, faultMiss_held,
        tierErr_held, settleMove_held]; done)
    | (simp; done)
    | split
    | (refine (held_foldl (fun _ _ => ?_) _ _).trans ?_)
    | (refine held_snd (by assumption) ?_)
    | (refine held_fst (by assumption) ?_)
    | (refine held_thd (by assumption) ?_)
    | (simp +zetaDelta; done)
    | simp

@[simp] theorem execTierTimeout_held (mv : Nat) (s : State) : keepsHeld s (execTierTimeout mv s) := by
  unfold execTierTimeout
  (repeat' split) <;> simp only [held_mk, failMove_held, keepsHeld_next]

@[simp] theorem execTierPageFailure_held (mv bib : Nat) (s : State) : keepsHeld s (execTierPageFailure mv bib s) := by
  unfold execTierPageFailure
  (repeat' split) <;> simp only [held_mk, failMove_held, keepsHeld_next]

@[simp] theorem killMoves_held (s : State) (p : Nat) : held (killMoves s p) = held s := by
  unfold killMoves
  repeat' first
    | (simp only [held_mk, withdrawMove_held, jnlFinish_held]; done)
    | (simp; done)
    | split
    | (refine (held_foldl (fun _ _ => ?_) _ _).trans ?_)
    | (refine held_snd (by assumption) ?_)
    | (refine held_fst (by assumption) ?_)
    | (refine held_thd (by assumption) ?_)
    | (simp +zetaDelta; done)
    | simp

@[simp] theorem restartMove_held (s : State) (m : Move) : held (restartMove s m) = held s := by
  simp only [restartMove, held_mk, startPages_held, putMove_held, withdrawMove_held]

end Sys2Proof.Machine
end

