-- ==== Sys2Proof/Laws/Bibs.lean ====
section
/-! SUPPORT. What the operations of Machine/Bibs.lean leave alone: the command queue and the bytes of the bank arrays. -/

namespace Sys2Proof.Machine

@[simp] theorem setBib_held (s : State) (n : Nat) (old e : BibE) : held (setBib s n old e) = held s := by
  simp only [setBib, held_mk, setF_held, apply_ite held, ite_self]

@[simp] theorem commitBib_held (s : State) (n : Nat) (old new : BibE) : held (commitBib s n old new).2 = held s := by
  unfold commitBib
  split <;> simp only [held_mk, setF_held, incF_held, setBib_held]

@[simp] theorem dropBib_held (s : State) (n : Nat) : held (dropBib s n) = held s := by
  simp only [dropBib, held_mk, setBib_held]

@[simp] theorem chooseFrom_held (s : State) (l : List Nat) : held (chooseFrom s l).2 = held s := by
  unfold chooseFrom
  split <;> simp only [held_mk, takeFree_held]

@[simp] theorem placeTier_held (s : State) (p : Nat) (e : BibE) (a3 : List Nat) : keepsOptP s (placeTier s p e a3) := by
  induction a3 with
  | nil => simp [placeTier]
  | cons t l ih =>
    unfold placeTier
    have h := chooseFrom_held s (freePages s p t (ceilDiv e.len 1024))
    split
    · rename_i he
      rw [he] at h
      simpa using h
    · exact ih

@[simp] theorem placeBib_held (s : State) (p : Nat) (e : BibE) : keepsOptP s (placeBib s p e) := by
  unfold placeBib
  extract_lets used
  have h := chooseFrom_held s (freeBlocks s p e.len used)
  split
  · rename_i b s1 he
    rw [he] at h
    split
    · have h2 := chooseFrom_held s1 (freeBlocks s1 p e.len ((32 * b, 32 * b + 32 * ceilDiv e.len 32) :: used))
      split
      · rename_i hf
        rw [hf] at h2
        simpa [h] using h2
      · simp
    · simpa using h
  · split <;> simp

end Sys2Proof.Machine
end

