-- ==== Sys2Proof/Laws/Command.lean ====
section
/-! SUPPORT. What the operations of Machine/Command.lean leave alone: the command queue and the bytes of the bank arrays. -/

namespace Sys2Proof.Machine

@[simp] theorem submitBridge_held (s : State) (r : Request) : held (submitBridge s r) = held s := by
  unfold submitBridge
  extract_lets s1
  have h : held s1 = held s := held_mk _ ..
  split
  · rw [keepsOpt_getD (submitUnit_held s1 r) rfl, h]
  · exact h

@[simp] theorem bridgeNext_held (s : State) (o : Origin) : held (bridgeNext s o) = held s := by
  unfold bridgeNext
  split
  · split
    · exact keepsOpt_getD (submitUnit_held _ _) rfl
    · rfl
  · rfl

@[simp] theorem pollRing_held (s : State) (p : Nat) : held (pollRing s p) = held s := by
  unfold pollRing
  repeat' first
    | (simp only [held_mk, submitBridge_held, setF_held]; done)
    | (simp; done)
    | split
    | (refine (held_foldl (fun _ _ => ?_) _ _).trans ?_)
    | (refine held_snd (by assumption) ?_)
    | (refine held_fst (by assumption) ?_)
    | (refine held_thd (by assumption) ?_)
    | (simp +zetaDelta; done)
    | simp

@[simp] theorem pollRings_held (s : State) : held (pollRings s) = held s := by
  unfold pollRings
  repeat' first
    | (simp only [held_mk, pollRing_held]; done)
    | (simp; done)
    | split
    | (refine (held_foldl (fun _ _ => ?_) _ _).trans ?_)
    | (refine held_snd (by assumption) ?_)
    | (refine held_fst (by assumption) ?_)
    | (refine held_thd (by assumption) ?_)
    | (simp +zetaDelta; done)
    | simp

@[simp] theorem cmdArrive_held (s : State) (src : CmdSrc) (words idx : Nat) : held (cmdArrive s src words idx) = held
    s := by simp only [cmdArrive, held_mk]

@[simp] theorem takeCmd_held (s : State) (c : CmdSrc) (row : Nat → Bool) : keepsOptP s (takeCmd s c row) := by
  unfold takeCmd
  (repeat' split) <;> simp

@[simp] theorem cmdResult_held (s : State) (src : CmdSrc) (words idx code cause value : Nat) : held (cmdResult s src
    words idx code cause value) = held s := by
  unfold cmdResult
  repeat' first
    | (simp only [held_mk, setF_held, irqIf_held, submitOrHold_held]; done)
    | (simp; done)
    | split
    | (refine (held_foldl (fun _ _ => ?_) _ _).trans ?_)
    | (refine held_snd (by assumption) ?_)
    | (refine held_fst (by assumption) ?_)
    | (refine held_thd (by assumption) ?_)
    | (simp +zetaDelta; done)
    | simp

@[simp] theorem closeCmd_held (s : State) (e : JEntry) : held (closeCmd s e) = held s := by
  unfold closeCmd
  split <;> simp only [held_mk, dropEntry_held, cmdResult_held]

@[simp] theorem finishCmd_held (s : State) (r : CmdRun) (code cause value : Nat) : held (finishCmd s r code cause
    value) = held s := by
  unfold finishCmd
  repeat' first
    | (simp only [held_mk, jnlFinish_held, closeCmd_held]; done)
    | (simp; done)
    | split
    | (refine (held_foldl (fun _ _ => ?_) _ _).trans ?_)
    | (refine held_snd (by assumption) ?_)
    | (refine held_fst (by assumption) ?_)
    | (refine held_thd (by assumption) ?_)
    | (simp +zetaDelta; done)
    | simp

@[simp] theorem refuseCmd_held (s : State) (r : CmdRun) (cause : Nat) : held (refuseCmd s r cause) = held s := by
  simp only [refuseCmd, held_mk, finishCmd_held]

@[simp] theorem refusePart_held (s : State) (r : CmdRun) (p cause : Nat) : held (refusePart s r p cause) = held s := by
  simp only [refusePart, held_mk, setF_held, refuseCmd_held, apply_ite held, ite_self]

@[simp] theorem keepRun_held (s : State) (r : CmdRun) (d : List Nat) : held (keepRun s r d) = held s := by
  simp only [keepRun, held_mk]

@[simp] theorem runCmd_held (c : CmdSrc) (row : Nat → Bool) (f : State → CmdRun → State) (s : State) (hf : ∀ x0 x1,
    held (f x0 x1) = held x0) : held (runCmd c row f s) = held s := by
  unfold runCmd
  repeat' first
    | (simp; done)
    | (refine (hf _ _).trans (takeCmd_held _ _ _ _ _ (by assumption)))
    | split
    | (refine (held_foldl (fun _ _ => ?_) _ _).trans ?_)
    | (refine held_snd (by assumption) ?_)
    | (refine held_fst (by assumption) ?_)
    | (refine held_thd (by assumption) ?_)
    | (simp +zetaDelta; done)
    | simp

@[simp] theorem dropWait_held (s : State) (id : Nat) : held (dropWait s id) = held s := by
  simp only [dropWait, held_mk]

@[simp] theorem cutRmt_held (s : State) (r : Request) (reason : Nat) : held (cutRmt s r reason) = held s := by
  simp only [cutRmt, held_mk, answer_held]

@[simp] theorem endSignal_held (s : State) (r : Request) : held (endSignal s r) = held s := by
  simp only [endSignal, held_mk, respond_held, answer_held, apply_ite held, ite_self]

@[simp] theorem killReq_held (s : State) (id : Nat) : held (killReq s id) = held s := by
  unfold killReq
  (repeat' split) <;> simp only [held_mk, reject_held, answer_held, dropWait_held, endSignal_held, cutRmt_held,
      putReq_held]

@[simp] theorem killRelay_held (s : State) (q : Nat) : held (killRelay s q) = held s := by
  unfold killRelay
  repeat' first
    | (simp only [held_mk, setF_held, setRelay_held, answer_held]; done)
    | (simp; done)
    | split
    | (refine (held_foldl (fun _ _ => ?_) _ _).trans ?_)
    | (refine held_snd (by assumption) ?_)
    | (refine held_fst (by assumption) ?_)
    | (refine held_thd (by assumption) ?_)
    | (simp +zetaDelta; done)
    | simp

@[simp] theorem killBaton_held (s : State) (b : Nat) : held (killBaton s b) = held s := by
  unfold killBaton
  repeat' first
    | (simp only [held_mk, answer_held, setF_held]; done)
    | (simp; done)
    | split
    | (refine (held_foldl (fun _ _ => ?_) _ _).trans ?_)
    | (refine held_snd (by assumption) ?_)
    | (refine held_fst (by assumption) ?_)
    | (refine held_thd (by assumption) ?_)
    | (simp +zetaDelta; done)
    | simp

@[simp] theorem killTape_held (s : State) (n : Nat) : held (killTape s n) = held s := by
  simp only [killTape, held_mk, tapeFault_held, setF_held, apply_ite held, ite_self]

@[simp] theorem killComb_held (s : State) (p : Nat) : held (killComb s p) = held s := by simp only [killComb, held_mk]

@[simp] theorem killStart_held (s : State) (p : Nat) : held (killStart s p) = held s := by
  unfold killStart
  extract_lets s0 s1 s2 isTask s3 mark s4 s5 s6
  have h1 : held s1 = held s := (held_foldl (fun _ _ => by simp) _ _).trans (setF_held _ _ _)
  have h2 : held s2 = held s := (held_foldl (fun _ _ => by simp) _ _).trans h1
  have h3 : held s3 = held s := (held_foldl (fun _ _ => by simp) _ _).trans h2
  have h4 : held s4 = held s := by simp [s4, h3]
  have h5 : held s5 = held s := (held_foldl (fun _ _ => by simp) _ _).trans h4
  have h6 : held s6 = held s := (held_foldl (fun _ _ => by simp) _ _).trans h5
  rw [held_mk, h6]

@[simp] theorem clearRows_held (s : State) (r0 n : Nat) : held (clearRows s r0 n) = held s := by
  simp only [clearRows, held_mk]

@[simp] theorem checkBoundary_held (s : State) (p r0 n : Nat) (sw : List (Nat × Nat × Upset)) : held (checkBoundary s
    p r0 n sw) = held s := by
  unfold checkBoundary
  repeat' first
    | (simp only [held_mk, readStateWord_held]; done)
    | (simp; done)
    | split
    | (refine (held_foldl (fun _ _ => ?_) _ _).trans ?_)
    | (refine held_snd (by assumption) ?_)
    | (refine held_fst (by assumption) ?_)
    | (refine held_thd (by assumption) ?_)
    | (simp +zetaDelta; done)
    | simp

@[simp] theorem killEnd_held (s : State) (p : Nat) (sw : List (Nat × Nat × Upset)) : held (killEnd s p sw) = held s := by
  unfold killEnd
  extract_lets rg n s1 s2 s3 gran s4
  have h1 : held s1 = held s := by simp only [s1, clearRows_held, checkBoundary_held]
  have h2 : held s2 = held s := (held_foldl (fun _ _ => by simp) _ _).trans h1
  have h3 : held s3 = held s := (setF_held _ _ _).trans h2
  have h4 : held s4 = held s := by simp [s4, gran, h3]
  clear_value s4
  split <;> simp [h4]

@[simp] theorem settleKill_held (s : State) : held (settleKill s) = held s := by
  unfold settleKill
  (repeat' split) <;> simp only [held_mk, finishCmd_held, killEnd_held]

@[simp] theorem abandonReq_held (reason : Nat) (s : State) (id : Nat) : held (abandonReq reason s id) = held s := by
  unfold abandonReq
  (repeat' split) <;> simp only [held_mk, answer_held, dropWait_held, cutRmt_held]

@[simp] theorem parkEntries_held (s : State) : held (parkEntries s) = held s := by
  unfold parkEntries
  exact held_foldl (fun _ _ => by simp only [held_mk, jnlWrite_held]) _ _

@[simp] theorem markEntry_held (s : State) (unit start : Nat) : held (markEntry s unit start) = held s := by
  simp only [markEntry, held_mk, jnlOpen_held]

@[simp] theorem writeMark_held (s : State) (unit start stop : Nat) : held (writeMark s unit start stop) = held s := by
  unfold writeMark
  repeat' first
    | (simp only [held_mk, markEntry_held, jnlFinish_held]; done)
    | (simp; done)
    | split
    | (refine (held_foldl (fun _ _ => ?_) _ _).trans ?_)
    | (refine held_snd (by assumption) ?_)
    | (refine held_fst (by assumption) ?_)
    | (refine held_thd (by assumption) ?_)
    | (simp +zetaDelta; done)
    | simp

@[simp] theorem abandonEntries_held (s0 : State) : held (abandonEntries s0) = held s0 := by
  unfold abandonEntries
  repeat' first
    | (simp only [held_mk, finishCmd_held, abandonReq_held, jnlFinish_held]; done)
    | (simp; done)
    | split
    | (refine (held_foldl (fun _ _ => ?_) _ _).trans ?_)
    | (refine held_snd (by assumption) ?_)
    | (refine held_fst (by assumption) ?_)
    | (refine held_thd (by assumption) ?_)
    | (simp +zetaDelta; done)
    | simp

@[simp] theorem settleShut_held (s : State) : held (settleShut s) = held s := by
  unfold settleShut
  extract_lets s1 s2 q s3
  have h1 : held s1 = held s := parkEntries_held s
  have h2 : held s2 = held s := by
    simp only [s2]
    split <;> simp [h1]
  have h3 : held s3 = held s := (writeMark_held _ _ _ _).trans h2
  clear_value s3 q
  split
  · rfl
  · rw [held_mk, h3]

@[simp] theorem settleUnits_held (s : State) : held (settleUnits s) = held s := by
  simp only [settleUnits, held_mk, settleShut_held, settleKill_held, settleMoves_held]

@[simp] theorem doPartKill_held (s : State) (r : CmdRun) : held (doPartKill s r) = held s := by
  simp only [doPartKill, held_mk, refusePart_held, settleKill_held, keepRun_held, killStart_held, apply_ite held,
    ite_self]

@[simp] theorem ctxAccesses_held (op tag b n data : Nat) (s : State) : held (ctxAccesses op tag b n data s) = held s
    := by
  unfold ctxAccesses
  repeat' first
    | (simp only [held_mk, submitBridge_held]; done)
    | (simp; done)
    | split
    | (refine (held_foldl (fun _ _ => ?_) _ _).trans ?_)
    | (refine held_snd (by assumption) ?_)
    | (refine held_fst (by assumption) ?_)
    | (refine held_thd (by assumption) ?_)
    | (simp +zetaDelta; done)
    | simp

@[simp] theorem doCtxSave_held (s : State) (r : CmdRun) : held (doCtxSave s r) = held s := by
  unfold doCtxSave
  repeat' first
    | (simp only [held_mk, refusePart_held, setF_held, finishCmd_held, ctxBurst_held, keepRun_held]; done)
    | (simp; done)
    | split
    | (refine (held_foldl (fun _ _ => ?_) _ _).trans ?_)
    | (refine held_snd (by assumption) ?_)
    | (refine held_fst (by assumption) ?_)
    | (refine held_thd (by assumption) ?_)
    | (simp +zetaDelta; done)
    | simp

@[simp] theorem doCtxRestore_held (s : State) (r : CmdRun) : held (doCtxRestore s r) = held s := by
  unfold doCtxRestore
  repeat' first
    | (simp only [held_mk, refusePart_held, finishCmd_held, ctxBurst_held, keepRun_held]; done)
    | (simp; done)
    | split
    | (refine (held_foldl (fun _ _ => ?_) _ _).trans ?_)
    | (refine held_snd (by assumption) ?_)
    | (refine held_fst (by assumption) ?_)
    | (refine held_thd (by assumption) ?_)
    | (simp +zetaDelta; done)
    | simp

@[simp] theorem restoreBaton_held (part : Nat) (s : State) (x : Nat × Nat) : held (restoreBaton part s x) = held s := by
  simp only [restoreBaton, held_mk, setF_held, testWaiters_held]

@[simp] theorem restoreTapeRec_held (part : Nat) (s : State) (x : Nat × Nat) : held (restoreTapeRec part s x) = held s
    := by simp only [restoreTapeRec, held_mk, setF_held, restartTape_held]

@[simp] theorem ctxStep_held (s0 : State) (r : Request) : held (ctxStep s0 r) = held s0 := by
  unfold ctxStep
  repeat' first
    | (simp only [held_mk, dropReq_held, keepRun_held, finishCmd_held, restoreBaton_held, restoreTapeRec_held]; done)
    | (simp; done)
    | split
    | (refine (held_foldl (fun _ _ => ?_) _ _).trans ?_)
    | (refine held_snd (by assumption) ?_)
    | (refine held_fst (by assumption) ?_)
    | (refine held_thd (by assumption) ?_)
    | (simp +zetaDelta; done)
    | simp

@[simp] theorem resultsOn_held (n : Nat) (s : State) (p : Nat) : held (resultsOn n s p) = held s := by
  induction n generalizing s with
  | zero => rfl
  | succ k ih =>
    unfold resultsOn
    split
    · split
      · rw [ih, signalBaton_held, setF_held, dropReq_held]
      · rfl
    · rfl

@[simp] theorem marshalEnd_held (s : State) (r : Request) : held (marshalEnd s r) = held s := by
  unfold marshalEnd
  repeat' first
    | (simp only [held_mk, putReq_held, dropReq_held, cmdArrive_held, ctxStep_held]; done)
    | (simp; done)
    | split
    | (refine (held_foldl (fun _ _ => ?_) _ _).trans ?_)
    | (refine held_snd (by assumption) ?_)
    | (refine held_fst (by assumption) ?_)
    | (refine held_thd (by assumption) ?_)
    | (simp +zetaDelta; done)
    | simp

@[simp] theorem marshalDone_held (s : State) (r : Request) : held (marshalDone s r) = held s := by
  unfold marshalDone
  repeat' first
    | (simp only [held_mk, bridgeNext_held, marshalEnd_held]; done)
    | (simp; done)
    | split
    | (refine (held_foldl (fun _ _ => ?_) _ _).trans ?_)
    | (refine held_snd (by assumption) ?_)
    | (refine held_fst (by assumption) ?_)
    | (refine held_thd (by assumption) ?_)
    | (simp +zetaDelta; done)
    | simp

end Sys2Proof.Machine
end

