-- ==== Sys2Proof/Laws/Steps.lean ====
section
/-! SUPPORT. What the operations of Machine/Steps.lean leave alone: the command queue and the bytes of the bank arrays. -/

namespace Sys2Proof.Machine

@[simp] theorem noteV_held (s : State) : held (noteV s) = held s := by simp only [noteV, held_mk, setF_held]

@[simp] theorem retuneTo_held (s : State) (step : Nat) : held (retuneTo s step) = held s := by
  simp only [retuneTo, held_mk, noteV_held, setF_held]

@[simp] theorem doSwitch_held (s : State) (step cause : Nat) : held (doSwitch s step cause) = held s := by
  unfold doSwitch
  repeat' first
    | (simp only [held_mk, setF_held, retuneTo_held, faultEnd_held, trcPush_held]; done)
    | (simp; done)
    | split
    | (refine (held_foldl (fun _ _ => ?_) _ _).trans ?_)
    | (refine held_snd (by assumption) ?_)
    | (refine held_fst (by assumption) ?_)
    | (refine held_thd (by assumption) ?_)
    | (simp +zetaDelta; done)
    | simp

@[simp] theorem stepDue_held (s : State) (step cause tick : Nat) (cal : Bool) : held (stepDue s step cause tick cal) =
    held s := by simp only [stepDue, held_mk, apply_ite held, ite_self]

@[simp] theorem boostBoundary_held (s : State) : held (boostBoundary s) = held s := by
  unfold boostBoundary
  repeat' first
    | (simp only [held_mk, doSwitch_held, retuneTo_held]; done)
    | (simp; done)
    | split
    | (refine (held_foldl (fun _ _ => ?_) _ _).trans ?_)
    | (refine held_snd (by assumption) ?_)
    | (refine held_fst (by assumption) ?_)
    | (refine held_thd (by assumption) ?_)
    | (simp +zetaDelta; done)
    | simp

@[simp] theorem ignoreTrigger_held (s : State) : held (ignoreTrigger s) = held s := by
  simp only [ignoreTrigger, held_mk, incF_held]

@[simp] theorem triggerCold_held (s : State) (cause : Nat) : held (triggerCold s cause) = held s := by
  simp only [triggerCold, held_mk, ignoreTrigger_held, apply_ite held, ite_self]

@[simp] theorem triggerWarm_held (s : State) (cause : Nat) : held (triggerWarm s cause) = held s := by
  simp only [triggerWarm, held_mk, ignoreTrigger_held, apply_ite held, ite_self]

@[simp] theorem noteReset_held (s : State) (cause : Nat) : held (noteReset s cause) = held s := by
  simp only [noteReset, held_mk, incF_held, setF_held]

end Sys2Proof.Machine
end

