-- ==== Sys2Proof/Laws/Integrity.lean ====
section
/-! SUPPORT. What the operations of Machine/Integrity.lean leave alone: the command queue and the bytes of the bank arrays. -/

namespace Sys2Proof.Machine

@[simp] theorem putLine_held (s : State) (l : MirLine) : held (putLine s l) = held s := by
  simp only [putLine, held_mk]

@[simp] theorem bumpGen_held (s : State) (r : Request) (a : GAcc) : held (bumpGen s r a) = held s := by
  unfold bumpGen
  (repeat' split) <;> simp only [held_mk, putLine_held]

@[simp] theorem queueRepair_held (s : State) (b : Nat) : held (queueRepair s b) = held s := by
  simp only [queueRepair, held_mk, setF_held, apply_ite held, ite_self]

@[simp] theorem doConflict_held (s : State) (r : Request) (gp gm : Nat) : held (doConflict s r gp gm) = held s := by
  simp only [doConflict, held_mk, makeState_held, setF_held, incF_held, logGran_held]

@[simp] theorem resolveAct_held (s : State) (r : Request) (p m : GRes) (quiet : Bool) : held (resolveAct s r p m
    quiet).2 = held s := by
  unfold resolveAct
  repeat' first
    | (simp only [held_mk, queueRepair_held, logGran_held, incF_held, doConflict_held]; done)
    | (simp; done)
    | split
    | (refine (held_foldl (fun _ _ => ?_) _ _).trans ?_)
    | (refine held_snd (by assumption) ?_)
    | (refine held_fst (by assumption) ?_)
    | (refine held_thd (by assumption) ?_)
    | (simp +zetaDelta; done)
    | simp

@[simp] theorem resolveDel_held (s : State) (r : Request) (p m : GRes) : held (resolveDel s r p m).2 = held s := by
  simp only [resolveDel, held_mk, resolveAct_held]

@[simp] theorem deliveries_held (s : State) (r : Request) : held (deliveries s r).2 = held s := by
  unfold deliveries
  refine (held_foldl_snd (fun p x => ?_) _ _).trans rfl
  (try dsimp only)
  repeat' first
    | rfl
    | (simp; done)
    | split
    | (simp +zetaDelta; done)

@[simp] theorem submitScrub_held (s : State) (r : Request) : held (submitScrub s r).2 = held s := by
  unfold submitScrub
  split
  · rename_i h
    simpa using submitUnit_held _ _ _ h
  · rfl

@[simp] theorem startRepair_held (s : State) : held (startRepair s) = held s := by
  unfold startRepair
  repeat' first
    | (simp only [held_mk, submitScrub_held]; done)
    | (simp; done)
    | split
    | (refine (held_foldl (fun _ _ => ?_) _ _).trans ?_)
    | (refine held_snd (by assumption) ?_)
    | (refine held_fst (by assumption) ?_)
    | (refine held_thd (by assumption) ?_)
    | (simp +zetaDelta; done)
    | simp

@[simp] theorem repairWrites_held (s : State) (r : Request) : held (repairWrites s r).2 = held s := by
  unfold repairWrites
  refine (held_foldl_snd (fun p x => ?_) _ _).trans rfl
  (try dsimp only)
  repeat' first
    | rfl
    | (simp; done)
    | split
    | (simp +zetaDelta; done)

@[simp] theorem levelGens_held (s : State) (b : Nat) : held (levelGens s b) = held s := by
  unfold levelGens
  split <;> simp only [held_mk, putLine_held]

@[simp] theorem repairStep_held (s : State) (r : Request) : held (repairStep s r) = held s := by
  simp only [repairStep, held_mk, levelGens_held, dropReq_held, repairWrites_held, putReq_held, apply_ite held,
    ite_self]

@[simp] theorem lineCheckDone_held (s : State) (r : Request) : held (lineCheckDone s r) = held s := by
  simp only [lineCheckDone, held_mk, dropReq_held, deliveries_held]

@[simp] theorem deferScrub_held (s : State) : held (deferScrub s) = held s := by
  simp only [deferScrub, held_mk, incF_held]

@[simp] theorem nextScrub_held (s : State) : held (nextScrub s) = held s := by
  simp only [nextScrub, held_mk, setF_held, incF_held, apply_ite held, ite_self]

@[simp] theorem scrubReads_held (a0 : Nat) (a1 : State) : held (scrubReads a0 a1) = held a1 := by
  induction a0 generalizing a1 with
  | zero => simp [scrubReads]
  | succ k ih =>
    unfold scrubReads
    extract_lets g line c x
    have hc : held c.2 = held a1 := by
      clear_value line
      cases line <;> simp [c]
    clear_value c
    split
    · simp [hc]
    · split <;> simp [ih, x, hc]

@[simp] theorem jnlLog_held (s : State) (src sev info : Nat) : held (jnlLog s src sev info) = held s := by
  simp only [jnlLog, held_mk, logEvt_held, irqIf_held, apply_ite held, ite_self]

@[simp] theorem scrubLine_held (s : State) (i : Nat) (u : Upset) : held (scrubLine s i u) = held s := by
  unfold scrubLine
  repeat' first
    | (simp only [held_mk, resolveUpset_held, logEvt_held, putLine_held]; done)
    | (simp; done)
    | split
    | (refine (held_foldl (fun _ _ => ?_) _ _).trans ?_)
    | (refine held_snd (by assumption) ?_)
    | (refine held_fst (by assumption) ?_)
    | (refine held_thd (by assumption) ?_)
    | (simp +zetaDelta; done)
    | simp

@[simp] theorem scrubLog_held (s : State) (i : Nat) (u : Upset) : held (scrubLog s i u) = held s := by
  unfold scrubLog
  repeat' first
    | (simp only [held_mk, resolveUpset_held, logFail_held]; done)
    | (simp; done)
    | split
    | (refine (held_foldl (fun _ _ => ?_) _ _).trans ?_)
    | (refine held_snd (by assumption) ?_)
    | (refine held_fst (by assumption) ?_)
    | (refine held_thd (by assumption) ?_)
    | (simp +zetaDelta; done)
    | simp

@[simp] theorem scrubJnl_held (s : State) (i : Nat) (u : Upset) (shSt : Bool) : held (scrubJnl s i u shSt) = held s := by
  unfold scrubJnl
  repeat' first
    | (simp only [held_mk, resolveUpset_held, jnlLog_held, setF_held, dropEntry_held, deliver_held]; done)
    | (simp; done)
    | split
    | (refine (held_foldl (fun _ _ => ?_) _ _).trans ?_)
    | (refine held_snd (by assumption) ?_)
    | (refine held_fst (by assumption) ?_)
    | (refine held_thd (by assumption) ?_)
    | (simp +zetaDelta; done)
    | simp

@[simp] theorem scrubFilter_held (s : State) (u : Upset) : held (scrubFilter s u) = held s := by
  unfold scrubFilter
  repeat' first
    | (simp only [held_mk, resolveUpset_held, jnlLog_held]; done)
    | (simp; done)
    | split
    | (refine (held_foldl (fun _ _ => ?_) _ _).trans ?_)
    | (refine held_snd (by assumption) ?_)
    | (refine held_fst (by assumption) ?_)
    | (refine held_thd (by assumption) ?_)
    | (simp +zetaDelta; done)
    | simp

@[simp] theorem scrubStores_held (s : State) (u : StoreUpsets) : held (scrubStores s u) = held s := by
  simp only [scrubStores, held_mk, readBibEntry_held, readBatonWord_held, scrubLog_held, scrubLine_held,
    scrubFilter_held, scrubJnl_held]

@[simp] theorem bleachBursts_held (a0 : Nat) (a1 : State) : held (bleachBursts a0 a1) = held a1 := by
  induction a0 generalizing a1 with
  | zero => simp [bleachBursts]
  | succ k ih =>
    unfold bleachBursts
    split
    · rfl
    · rename_i b hb
      have h := submitScrub_held a1 (bleachReq a1 b)
      split <;> rename_i he <;> rw [he] at h
      · exact h
      · simp [ih, ← h]

@[simp] theorem bleachRangeDone_held (s : State) (b : BleachRange) : held (bleachRangeDone s b) = held s := by
  simp only [bleachRangeDone, held_mk, takeFree_held, logEvt_held]

@[simp] theorem bleachDone_held (s : State) : held (bleachDone s) = held s := by
  unfold bleachDone
  exact held_foldl (fun _ _ => by simp only [held_mk, bleachRangeDone_held]) _ _

@[simp] theorem noteOverruns_held (s : State) (f : Nat) : held (noteOverruns s f) = held s := by
  unfold noteOverruns
  repeat' first
    | (simp only [held_mk, incF_held]; done)
    | (simp; done)
    | split
    | (refine (held_foldl (fun _ _ => ?_) _ _).trans ?_)
    | (refine held_snd (by assumption) ?_)
    | (refine held_fst (by assumption) ?_)
    | (refine held_thd (by assumption) ?_)
    | (simp +zetaDelta; done)
    | simp

@[simp] theorem pruneCalendars_held (s : State) (f : Nat) : held (pruneCalendars s f) = held s := by
  simp only [pruneCalendars, held_mk]

@[simp] theorem resubmitHeld_held (s : State) : held (resubmitHeld s) = held s := by
  unfold resubmitHeld
  refine held_foldl (fun t r => ?_) _ _
  have h : held ((submitUnit t r).getD t) = held t := keepsOpt_getD (submitUnit_held t r) rfl
  repeat' split
  all_goals first | exact h | rfl

@[simp] theorem execFineBucketBoundary_held (u : StoreUpsets) (s : State) : keepsHeld s (execFineBucketBoundary u s)
    := by
  unfold execFineBucketBoundary
  repeat' first
    | (simp only [held_mk, boostBoundary_held, pollRings_held, resubmitHeld_held, pruneCalendars_held,
        noteOverruns_held, bleachBursts_held, scrubReads_held, startRepair_held, scrubStores_held, keepsHeld_next];
        done)
    | (simp; done)
    | split
    | (refine (held_foldl (fun _ _ => ?_) _ _).trans ?_)
    | (refine held_snd (by assumption) ?_)
    | (refine held_fst (by assumption) ?_)
    | (refine held_thd (by assumption) ?_)
    | (simp +zetaDelta; done)
    | simp

@[simp] theorem execLatencyDecay_held (s : State) : keepsHeld s (execLatencyDecay s) := by
  unfold execLatencyDecay
  repeat' first
    | (simp only [held_mk, keepsHeld_next]; done)
    | (simp; done)
    | split
    | (refine (held_foldl (fun _ _ => ?_) _ _).trans ?_)
    | (refine held_snd (by assumption) ?_)
    | (refine held_fst (by assumption) ?_)
    | (refine held_thd (by assumption) ?_)
    | (simp +zetaDelta; done)
    | simp

end Sys2Proof.Machine
end

