-- ==== Sys2Proof/Laws/Commit.lean ====
section
/-! SUPPORT. What the operations of Machine/Commit.lean leave alone: the command queue and the bytes of the bank arrays. -/

namespace Sys2Proof.Machine

@[simp] theorem noteP6_held (s : State) (r : Request) (lane : Option Nat) (m : Nat) (flip : Bool) : held (noteP6 s r
    lane m flip) = held s := by
  unfold noteP6
  split <;> simp only [held_mk, setF_held, incF_held, irqIf_held, ctrEvent_held, logGran_held]

@[simp] theorem outbound_held (s : State) (r : Request) (lane : Option Nat) (n sm : Nat) : held (outbound s r lane n
    sm).2 = held s := by
  unfold outbound
  refine (held_foldl_snd (fun p x => ?_) _ _).trans rfl
  (try dsimp only)
  repeat' first
    | rfl
    | (simp; done)
    | split
    | (simp +zetaDelta; done)

@[simp] theorem readData_held (s : State) (r : Request) : held (readData s r).2.2 = held s := by
  unfold readData
  repeat' first
    | (simp only [held_mk, deliveries_held, noteXf_held, energyEvt_held, ctrEvent_held, outbound_held]; done)
    | (simp; done)
    | split
    | (refine (held_foldl (fun _ _ => ?_) _ _).trans ?_)
    | (refine held_snd (by assumption) ?_)
    | (refine held_fst (by assumption) ?_)
    | (refine held_thd (by assumption) ?_)
    | (simp +zetaDelta; done)
    | simp

@[simp] theorem answerDone_held (s : State) (r : Request) : held (answerDone s r) = held s := by
  simp only [answerDone, held_mk, answer_held, readData_held, respond_held, openComb_held, apply_ite held, ite_self]

@[simp] theorem pacerRead_held (s : State) (r : Request) (q st : Nat) : held (pacerRead s r q st) = held s := by
  unfold pacerRead
  repeat' first
    | (simp only [held_mk, readData_held, dropReq_held, setF_held, putTask_held, sendLast_held, flushPushes_held,
        noteMoved_held, settleAbort_held, arbitrate_held, putReq_held, sendRemote_held]; done)
    | (simp; done)
    | split
    | (refine (held_foldl (fun _ _ => ?_) _ _).trans ?_)
    | (refine held_snd (by assumption) ?_)
    | (refine held_fst (by assumption) ?_)
    | (refine held_thd (by assumption) ?_)
    | (simp +zetaDelta; done)
    | simp

@[simp] theorem pacerWrite_held (s : State) (r : Request) (q st : Nat) : held (pacerWrite s r q st) = held s := by
  simp only [pacerWrite, held_mk, settleAbort_held, noteMoved_held, dropReq_held]

@[simp] theorem debugDone_held (s : State) (r : Request) : held (debugDone s r) = held s := by
  simp only [debugDone, held_mk, deliveries_held, dropReq_held]

@[simp] theorem shadowDone_held (s : State) (r : Request) (link : Nat) : held (shadowDone s r link) = held s := by
  unfold shadowDone
  repeat' first
    | (simp only [held_mk, noteMiss_held, dropReq_held, emit_held]; done)
    | (simp; done)
    | split
    | (refine (held_foldl (fun _ _ => ?_) _ _).trans ?_)
    | (refine held_snd (by assumption) ?_)
    | (refine held_fst (by assumption) ?_)
    | (refine held_thd (by assumption) ?_)
    | (simp +zetaDelta; done)
    | simp

@[simp] theorem completeReq_held (s : State) (r : Request) : held (completeReq s r) = held s := by
  unfold completeReq
  repeat' first
    | (simp only [held_mk, dropReq_held, putReq_held, answerDone_held, shadowDone_held, combine_held, dropComb_held,
        pacerRead_held, pacerWrite_held, holdDesc_held, recordEnd_held, spillRead_held, fillWrite_held,
        lineCheckDone_held, repairStep_held, bleachDone_held, marshalDone_held, debugDone_held]; done)
    | (simp; done)
    | split
    | (refine (held_foldl (fun _ _ => ?_) _ _).trans ?_)
    | (refine held_snd (by assumption) ?_)
    | (refine held_fst (by assumption) ?_)
    | (refine held_thd (by assumption) ?_)
    | (simp +zetaDelta; done)
    | simp

@[simp] theorem spillP6_held (s : State) (r : Request) (a : GAcc) (p3 : Nat) (ph : Phys) : held (spillP6 s r a p3
    ph).2 = held s := by
  unfold spillP6
  repeat' first
    | (simp only [held_mk, flipAt_held, noteP6_held]; done)
    | (simp; done)
    | split
    | (refine (held_foldl (fun _ _ => ?_) _ _).trans ?_)
    | (refine held_snd (by assumption) ?_)
    | (refine held_fst (by assumption) ?_)
    | (refine held_thd (by assumption) ?_)
    | (simp +zetaDelta; done)
    | simp

@[simp] theorem logReadback_held (s0 s : State) (ph : Phys) : held (logReadback s0 s ph) = held s := by
  simp only [logReadback, held_mk, logFail_held, apply_ite held, ite_self]

@[simp] theorem pushRet_held (s : State) (r : Request) (a : GAcc) (prio : Nat) (x : Option (Option GRes)) : held
    (pushRet s r a prio x) = held s := by
  unfold pushRet
  repeat' first
    | (simp only [held_mk]; done)
    | (simp; done)
    | split
    | (refine (held_foldl (fun _ _ => ?_) _ _).trans ?_)
    | (refine held_snd (by assumption) ?_)
    | (refine held_fst (by assumption) ?_)
    | (refine held_thd (by assumption) ?_)
    | (simp +zetaDelta; done)
    | simp

@[simp] theorem finishReq_held (s : State) (rid : Nat) : held (finishReq s rid) = held s := by
  unfold finishReq
  repeat' first
    | (simp only [held_mk, settleUnits_held, completeReq_held]; done)
    | (simp; done)
    | split
    | (refine (held_foldl (fun _ _ => ?_) _ _).trans ?_)
    | (refine held_snd (by assumption) ?_)
    | (refine held_fst (by assumption) ?_)
    | (refine held_thd (by assumption) ?_)
    | (simp +zetaDelta; done)
    | simp

@[simp] theorem deliverRet_held (s : State) (e : RetEnt) : held (deliverRet s e) = held s := by
  unfold deliverRet
  repeat' first
    | (simp only [held_mk, finishReq_held, putReq_held]; done)
    | (simp; done)
    | split
    | (refine (held_foldl (fun _ _ => ?_) _ _).trans ?_)
    | (refine held_snd (by assumption) ?_)
    | (refine held_fst (by assumption) ?_)
    | (refine held_thd (by assumption) ?_)
    | (simp +zetaDelta; done)
    | simp

@[simp] theorem deliverRets_held (s : State) : held (deliverRets s) = held s := by
  unfold deliverRets
  repeat' first
    | (simp only [held_mk, deliverRet_held]; done)
    | (simp; done)
    | split
    | (refine (held_foldl (fun _ _ => ?_) _ _).trans ?_)
    | (refine held_snd (by assumption) ?_)
    | (refine held_fst (by assumption) ?_)
    | (refine held_thd (by assumption) ?_)
    | (simp +zetaDelta; done)
    | simp

@[simp] theorem signalled_held (s : State) (r : Request) : held (signalled s r) = held s := by
  simp only [signalled, held_mk, respond_held, answerDone_held, apply_ite held, ite_self]

@[simp] theorem execAttachedSignalApply_held (id : Nat) (up : Upset) (s : State) : keepsHeld s
    (execAttachedSignalApply id up s) := by
  unfold execAttachedSignalApply
  repeat' first
    | (simp only [held_mk, answerDone_held, readBatonWord_held, signalled_held, attachedAs_held]; done)
    | (simp; done)
    | split
    | (refine (held_foldl (fun _ _ => ?_) _ _).trans ?_)
    | (refine held_snd (by assumption) ?_)
    | (refine held_fst (by assumption) ?_)
    | (refine held_thd (by assumption) ?_)
    | (simp +zetaDelta; done)
    | simp

end Sys2Proof.Machine
end

