-- ==== Sys2Proof/Laws/Mesh.lean ====
section
/-! SUPPORT. What the operations of Machine/Mesh.lean leave alone: the command queue and the bytes of the bank arrays. -/

namespace Sys2Proof.Machine

@[simp] theorem noteInbound_held (s : State) (k n : Nat) (c : EvCtx) : held (noteInbound s k n c) = held s := by
  simp only [noteInbound, held_mk, energyEvt_held, ctrEvent_held]

@[simp] theorem takeRemote_held (s : State) (r : Request) (a : MeshAns) : held (takeRemote s r a) = held s := by
  simp only [takeRemote, held_mk, putReq_held, outbound_held, respond_held, apply_ite held, ite_self]

@[simp] theorem execRemoteAnswer_held (a : MeshAns) (s : State) : keepsHeld s (execRemoteAnswer a s) := by
  unfold execRemoteAnswer
  repeat' first
    | (simp only [held_mk, dropGw_held, noteInbound_held, takeRemote_held, keepsHeld_next]; done)
    | (simp; done)
    | split
    | (refine (held_foldl (fun _ _ => ?_) _ _).trans ?_)
    | (refine held_snd (by assumption) ?_)
    | (refine held_fst (by assumption) ?_)
    | (refine held_thd (by assumption) ?_)
    | (simp +zetaDelta; done)
    | simp

@[simp] theorem execGatewayResend_held (seq : Nat) (s : State) : keepsHeld s (execGatewayResend seq s) := by
  unfold execGatewayResend
  (repeat' split) <;> simp only [held_mk, gwTransmit_held, putGw_held, keepsHeld_next]

@[simp] theorem execRemoteTimeout_held (seq : Nat) (s : State) : keepsHeld s (execRemoteTimeout seq s) := by
  unfold execRemoteTimeout
  repeat' first
    | (simp only [held_mk, dropGw_held, answer_held, abortTask_held, keepsHeld_next]; done)
    | (simp; done)
    | split
    | (refine (held_foldl (fun _ _ => ?_) _ _).trans ?_)
    | (refine held_snd (by assumption) ?_)
    | (refine held_fst (by assumption) ?_)
    | (refine held_thd (by assumption) ?_)
    | (simp +zetaDelta; done)
    | simp

@[simp] theorem execDedupExpiry_held (owafer oinst oreq tag : Nat) (s : State) : keepsHeld s (execDedupExpiry owafer
    oinst oreq tag s) := by
  unfold execDedupExpiry
  (repeat' split) <;> simp only [held_mk, dropDedup_held, keepsHeld_next]

@[simp] theorem execMeshLinkTrained_held (k : Nat) (s : State) : keepsHeld s (execMeshLinkTrained k s) := by
  unfold execMeshLinkTrained
  split <;> simp only [held_mk, orF_held, keepsHeld_next]

@[simp] theorem otherLink_held (s : State) (k : Nat) : held (otherLink s k).2 = held s := by simp [otherLink]

@[simp] theorem reroute_held (s : State) (k : Nat) : held (reroute s k) = held s := by
  unfold reroute
  repeat' first
    | (simp only [held_mk, gwTransmit_held, putGw_held]; done)
    | (simp; done)
    | split
    | (refine (held_foldl (fun _ _ => ?_) _ _).trans ?_)
    | (refine held_snd (by assumption) ?_)
    | (refine held_fst (by assumption) ?_)
    | (refine held_thd (by assumption) ?_)
    | (simp +zetaDelta; done)
    | simp

@[simp] theorem execMeshLinkDown_held (k : Nat) (s : State) : keepsHeld s (execMeshLinkDown k s) := by
  unfold execMeshLinkDown
  split <;> simp only [held_mk, reroute_held, setF_held, keepsHeld_next]

@[simp] theorem submitShadow_held (s : State) (link desc : Nat) (data : Beat) : held (submitShadow s link desc data).2
    = held s := by
  unfold submitShadow
  repeat' first
    | (simp only [held_mk, admission_held, ctrEvent_held]; done)
    | (simp; done)
    | split
    | (refine (held_foldl (fun _ _ => ?_) _ _).trans ?_)
    | (refine held_snd (by assumption) ?_)
    | (refine held_fst (by assumption) ?_)
    | (refine held_thd (by assumption) ?_)
    | (simp +zetaDelta; done)
    | simp

@[simp] theorem execShadowWrite_held (link desc : Nat) (data : Beat) (s : State) : keepsHeld s (execShadowWrite link
    desc data s) := by
  unfold execShadowWrite
  repeat' first
    | (simp only [held_mk, noteInbound_held, keepsHeld_next]; done)
    | (simp; done)
    | split
    | (refine (held_foldl (fun _ _ => ?_) _ _).trans ?_)
    | (refine held_snd (by assumption) ?_)
    | (refine held_fst (by assumption) ?_)
    | (refine held_thd (by assumption) ?_)
    | (simp +zetaDelta; done)
    | simp

@[simp] theorem execShadowResubmit_held (s : State) : keepsHeld s (execShadowResubmit s) := by
  unfold execShadowResubmit
  repeat' first
    | (simp only [held_mk, keepsHeld_next]; done)
    | (simp; done)
    | split
    | (refine (held_foldl (fun _ _ => ?_) _ _).trans ?_)
    | (refine held_snd (by assumption) ?_)
    | (refine held_fst (by assumption) ?_)
    | (refine held_thd (by assumption) ?_)
    | (simp +zetaDelta; done)
    | simp

@[simp] theorem ackState_held (s : State) (e : JEntry) (st : Nat) : held (ackState s e st) = held s := by
  unfold ackState
  (repeat' split) <;> simp only [held_mk, startMove_held, proceed_held, closeMove_held, jnlClose_held, closeCmd_held]

@[simp] theorem execShadowAck_held (seq : Nat) (s : State) : keepsHeld s (execShadowAck seq s) := by
  unfold execShadowAck
  (repeat' split) <;> simp only [held_mk, settleUnits_held, ackState_held, putEntry_held, keepsHeld_next]

@[simp] theorem ackAll_held (s : State) (seq : Nat) : held (ackAll s seq) = held s := by
  unfold ackAll
  repeat' first
    | (simp only [held_mk, ackState_held, putEntry_held]; done)
    | (simp; done)
    | split
    | (refine (held_foldl (fun _ _ => ?_) _ _).trans ?_)
    | (refine held_snd (by assumption) ?_)
    | (refine held_fst (by assumption) ?_)
    | (refine held_thd (by assumption) ?_)
    | (simp +zetaDelta; done)
    | simp

@[simp] theorem loseShadow_held (s : State) : held (loseShadow s) = held s := by
  unfold loseShadow
  repeat' first
    | (simp only [held_mk, jnlLog_held, setF_held, settleUnits_held, ackAll_held]; done)
    | (simp; done)
    | split
    | (refine (held_foldl (fun _ _ => ?_) _ _).trans ?_)
    | (refine held_snd (by assumption) ?_)
    | (refine held_fst (by assumption) ?_)
    | (refine held_thd (by assumption) ?_)
    | (simp +zetaDelta; done)
    | simp

@[simp] theorem execShadowTimeout_held (seq : Nat) (s : State) : keepsHeld s (execShadowTimeout seq s) := by
  unfold execShadowTimeout
  (repeat' split) <;> simp only [held_mk, loseShadow_held, keepsHeld_next]

@[simp] theorem sendKeepalive_held (s : State) : held (sendKeepalive s) = held s := by
  simp only [sendKeepalive, held_mk, emit_held]

@[simp] theorem execKeepaliveSend_held (s : State) : keepsHeld s (execKeepaliveSend s) := by
  unfold execKeepaliveSend
  repeat' first
    | (simp only [held_mk, sendKeepalive_held, keepsHeld_next]; done)
    | (simp; done)
    | split
    | (refine (held_foldl (fun _ _ => ?_) _ _).trans ?_)
    | (refine held_snd (by assumption) ?_)
    | (refine held_fst (by assumption) ?_)
    | (refine held_thd (by assumption) ?_)
    | (simp +zetaDelta; done)
    | simp

@[simp] theorem execKeepalive_held (_fenced : Bool) (s : State) : keepsHeld s (execKeepalive _fenced s) := by
  unfold execKeepalive
  split <;> simp only [held_mk, keepsHeld_next]

@[simp] theorem lostEntry_held (s : State) (h blk : Nat) : held (lostEntry s h blk) = held s := by
  simp only [lostEntry, held_mk, emit_held, incF_held, takeFree_held, apply_ite held, ite_self]

@[simp] theorem scanShadow_held (a0 a1 : Nat) (a2 : State) : held (scanShadow a0 a1 a2) = held a2 := by
  induction a0 generalizing a1 a2 with
  | zero => simp [scanShadow]
  | succ k ih =>
    unfold scanShadow
    split
    · rfl
    · extract_lets g0 desc
      split
      · rw [ih]
      · split
        · rw [ih]
        · rw [ih, lostEntry_held]

@[simp] theorem execPartnerLost_held (s : State) : keepsHeld s (execPartnerLost s) := by
  unfold execPartnerLost
  repeat' first
    | (simp only [held_mk, scanShadow_held, setF_held, clearRows_held, jnlLog_held, keepsHeld_next]; done)
    | (simp; done)
    | split
    | (refine (held_foldl (fun _ _ => ?_) _ _).trans ?_)
    | (refine held_snd (by assumption) ?_)
    | (refine held_fst (by assumption) ?_)
    | (refine held_thd (by assumption) ?_)
    | (simp +zetaDelta; done)
    | simp

end Sys2Proof.Machine
end

