-- ==== Sys2Proof/Laws/Cadence.lean ====
section
/-! SUPPORT. What the operations of Machine/Cadence.lean leave alone: the command queue and the bytes of the bank arrays. -/

namespace Sys2Proof.Machine

@[simp] theorem takeFrame_held (s : State) (link ty : Nat) (f : BitVec 128) : held (takeFrame s link ty f).2 = held s
    := by
  unfold takeFrame
  (repeat' split) <;> simp only [held_mk, incF_held, setF_held]

@[simp] theorem sendFrames_held (s : State) (notOn : Nat) (f : Frame) : held (sendFrames s notOn f) = held s := by
  unfold sendFrames
  exact held_foldl (fun _ _ => by split <;> simp only [held_mk, emit_held]) _ _

@[simp] theorem forwardFrame_held (s : State) (link : Nat) (f : Frame) : held (forwardFrame s link f) = held s := by
  simp only [forwardFrame, held_mk, sendFrames_held, apply_ite held, ite_self]

@[simp] theorem noteLink_held (s : State) (k hop c d : Nat) : held (noteLink s k hop c d) = held s := by
  simp only [noteLink, held_mk]

@[simp] theorem takeSource_held (s : State) (k hop : Nat) : held (takeSource s k hop) = held s := by
  unfold takeSource
  repeat' first
    | (simp only [held_mk]; done)
    | (simp; done)
    | split
    | (refine (held_foldl (fun _ _ => ?_) _ _).trans ?_)
    | (refine held_snd (by assumption) ?_)
    | (refine held_fst (by assumption) ?_)
    | (refine held_thd (by assumption) ?_)
    | (simp +zetaDelta; done)
    | simp

@[simp] theorem resolveCount_held (s : State) (c d bound : Nat) : held (resolveCount s c d bound) = held s := by
  simp only [resolveCount, held_mk, setF_held, ctrEvent_held, apply_ite held, ite_self]

@[simp] theorem lockCad_held (s : State) (link hop c : Nat) : held (lockCad s link hop c) = held s := by
  unfold lockCad
  repeat' first
    | (simp only [held_mk, takeSource_held, setF_held]; done)
    | (simp; done)
    | split
    | (refine (held_foldl (fun _ _ => ?_) _ _).trans ?_)
    | (refine held_snd (by assumption) ?_)
    | (refine held_fst (by assumption) ?_)
    | (refine held_thd (by assumption) ?_)
    | (simp +zetaDelta; done)
    | simp

@[simp] theorem acquireFrame_held (s : State) (link hop c d : Nat) : held (acquireFrame s link hop c d) = held s := by
  unfold acquireFrame
  repeat' first
    | (simp only [held_mk, takeSource_held, lockCad_held, resolveCount_held]; done)
    | (simp; done)
    | split
    | (refine (held_foldl (fun _ _ => ?_) _ _).trans ?_)
    | (refine held_snd (by assumption) ?_)
    | (refine held_fst (by assumption) ?_)
    | (refine held_thd (by assumption) ?_)
    | (simp +zetaDelta; done)
    | simp

@[simp] theorem takeEqual_held (s : State) (link hop : Nat) : held (takeEqual s link hop) = held s := by
  unfold takeEqual
  repeat' first
    | (simp only [held_mk, takeSource_held]; done)
    | (simp; done)
    | split
    | (refine (held_foldl (fun _ _ => ?_) _ _).trans ?_)
    | (refine held_snd (by assumption) ?_)
    | (refine held_fst (by assumption) ?_)
    | (refine held_thd (by assumption) ?_)
    | (simp +zetaDelta; done)
    | simp

@[simp] theorem lockedFrame_held (s : State) (link hop c d : Nat) (missed : Bool) : held (lockedFrame s link hop c d
    missed) = held s := by
  unfold lockedFrame
  repeat' first
    | (simp only [held_mk, takeEqual_held, resolveCount_held, takeSource_held]; done)
    | (simp; done)
    | split
    | (refine (held_foldl (fun _ _ => ?_) _ _).trans ?_)
    | (refine held_snd (by assumption) ?_)
    | (refine held_fst (by assumption) ?_)
    | (refine held_thd (by assumption) ?_)
    | (simp +zetaDelta; done)
    | simp

@[simp] theorem execCountFrame_held (link : Nat) (frame : BitVec 128) (s : State) : keepsHeld s (execCountFrame link
    frame s) := by
  unfold execCountFrame
  repeat' first
    | (simp only [held_mk, noteLink_held, acquireFrame_held, lockedFrame_held, forwardFrame_held, keepsHeld_next];
        done)
    | (simp; done)
    | split
    | (refine (held_foldl (fun _ _ => ?_) _ _).trans ?_)
    | (refine held_snd (by assumption) ?_)
    | (refine held_fst (by assumption) ?_)
    | (refine held_thd (by assumption) ?_)
    | (simp +zetaDelta; done)
    | simp

@[simp] theorem loseLock_held (s : State) : held (loseLock s) = held s := by
  unfold loseLock
  repeat' first
    | (simp only [held_mk, irqIf_held]; done)
    | (simp; done)
    | split
    | (refine (held_foldl (fun _ _ => ?_) _ _).trans ?_)
    | (refine held_snd (by assumption) ?_)
    | (refine held_fst (by assumption) ?_)
    | (refine held_thd (by assumption) ?_)
    | (simp +zetaDelta; done)
    | simp

@[simp] theorem checkSource_held (s : State) : held (checkSource s) = held s := by
  unfold checkSource
  repeat' first
    | (simp only [held_mk, loseLock_held]; done)
    | (simp; done)
    | split
    | (refine (held_foldl (fun _ _ => ?_) _ _).trans ?_)
    | (refine held_snd (by assumption) ?_)
    | (refine held_fst (by assumption) ?_)
    | (refine held_thd (by assumption) ?_)
    | (simp +zetaDelta; done)
    | simp

@[simp] theorem execSourceLoss_held (s : State) : keepsHeld s (execSourceLoss s) := by
  unfold execSourceLoss
  repeat' first
    | (simp only [held_mk, loseLock_held]; done)
    | (simp; done)
    | split
    | (refine (held_foldl (fun _ _ => ?_) _ _).trans ?_)
    | (refine held_snd (by assumption) ?_)
    | (refine held_fst (by assumption) ?_)
    | (refine held_thd (by assumption) ?_)
    | (simp +zetaDelta; done)
    | simp

@[simp] theorem execHoldoverExpiry_held (s : State) : keepsHeld s (execHoldoverExpiry s) := by
  unfold execHoldoverExpiry
  repeat' first
    | (simp only [held_mk, irqIf_held, setF_held]; done)
    | (simp; done)
    | split
    | (refine (held_foldl (fun _ _ => ?_) _ _).trans ?_)
    | (refine held_snd (by assumption) ?_)
    | (refine held_fst (by assumption) ?_)
    | (refine held_thd (by assumption) ?_)
    | (simp +zetaDelta; done)
    | simp

@[simp] theorem rejectAnn_held (s : State) : held (rejectAnn s) = held s := by
  simp only [rejectAnn, held_mk, setF_held]

@[simp] theorem acceptAnn_held (s : State) (a : Ann) : held (acceptAnn s a) = held s := by
  simp only [acceptAnn, held_mk, setF_held, retuneTo_held, apply_ite held, ite_self]

@[simp] theorem takeAnn_held (s : State) (a : Ann) (mark : Nat) : held (takeAnn s a mark) = held s := by
  unfold takeAnn
  (repeat' split) <;> simp only [held_mk, rejectAnn_held, acceptAnn_held]

@[simp] theorem execAnnouncementFrame_held (link : Nat) (frame : BitVec 128) (s : State) : keepsHeld s
    (execAnnouncementFrame link frame s) := by
  unfold execAnnouncementFrame
  repeat' first
    | (simp only [held_mk, takeAnn_held, forwardFrame_held, keepsHeld_next]; done)
    | (simp; done)
    | split
    | (refine (held_foldl (fun _ _ => ?_) _ _).trans ?_)
    | (refine held_snd (by assumption) ?_)
    | (refine held_fst (by assumption) ?_)
    | (refine held_thd (by assumption) ?_)
    | (simp +zetaDelta; done)
    | simp

@[simp] theorem execEffectiveTick_held (s : State) : keepsHeld s (execEffectiveTick s) := by
  unfold execEffectiveTick
  repeat' first
    | (simp only [held_mk, stepDue_held, doSwitch_held, keepsHeld_next]; done)
    | (simp; done)
    | split
    | (refine (held_foldl (fun _ _ => ?_) _ _).trans ?_)
    | (refine held_snd (by assumption) ?_)
    | (refine held_fst (by assumption) ?_)
    | (refine held_thd (by assumption) ?_)
    | (simp +zetaDelta; done)
    | simp

@[simp] theorem lateSwitch_held (s : State) (w : StepReq) : held (lateSwitch s w) = held s := by
  unfold lateSwitch
  repeat' first
    | (simp only [held_mk, irqIf_held, setF_held, faultBegin_held]; done)
    | (simp; done)
    | split
    | (refine (held_foldl (fun _ _ => ?_) _ _).trans ?_)
    | (refine held_snd (by assumption) ?_)
    | (refine held_fst (by assumption) ?_)
    | (refine held_thd (by assumption) ?_)
    | (simp +zetaDelta; done)
    | simp

@[simp] theorem execStepSwitch_held (s : State) : keepsHeld s (execStepSwitch s) := by
  unfold execStepSwitch
  repeat' first
    | (simp only [held_mk, lateSwitch_held, doSwitch_held, keepsHeld_next]; done)
    | (simp; done)
    | split
    | (refine (held_foldl (fun _ _ => ?_) _ _).trans ?_)
    | (refine held_snd (by assumption) ?_)
    | (refine held_fst (by assumption) ?_)
    | (refine held_thd (by assumption) ?_)
    | (simp +zetaDelta; done)
    | simp

@[simp] theorem execStepSwitchDeferred_held (s : State) : keepsHeld s (execStepSwitchDeferred s) := by
  unfold execStepSwitchDeferred
  (repeat' split) <;> simp only [held_mk, doSwitch_held, keepsHeld_next]

@[simp] theorem startWake_held (s : State) (w : WakeReq) : held (startWake s w) = held s := by
  simp only [startWake, held_mk, retuneTo_held, setF_held]

@[simp] theorem wakeTo_held (s : State) (w : WakeReq) : held (wakeTo s w) = held s := by
  simp only [wakeTo, held_mk, setF_held, incF_held, triggerCold_held, startWake_held, apply_ite held, ite_self]

@[simp] theorem execWakePattern_held (link : Nat) (frame : BitVec 128) (s : State) : keepsHeld s (execWakePattern link
    frame s) := by
  unfold execWakePattern
  repeat' first
    | (simp only [held_mk, sendFrames_held, wakeTo_held, keepsHeld_next]; done)
    | (simp; done)
    | split
    | (refine (held_foldl (fun _ _ => ?_) _ _).trans ?_)
    | (refine held_snd (by assumption) ?_)
    | (refine held_fst (by assumption) ?_)
    | (refine held_thd (by assumption) ?_)
    | (simp +zetaDelta; done)
    | simp

end Sys2Proof.Machine
end

