-- ==== Sys2Proof/Laws/Marshal.lean ====
section
/-! SUPPORT. What the operations of Machine/Marshal.lean leave alone: the command queue and the bytes of the bank arrays. -/

namespace Sys2Proof.Machine

@[simp] theorem mailboxOnly_held (f : State → CmdRun → State) (s : State) (r : CmdRun) (hf : ∀ x0 x1, held (f x0 x1) =
    held x0) : held (mailboxOnly f s r) = held s := by
  unfold mailboxOnly
  repeat' first
    | (simp; done)
    | (exact hf _ _)
    | split
    | (refine (held_foldl (fun _ _ => ?_) _ _).trans ?_)
    | (refine held_snd (by assumption) ?_)
    | (refine held_fst (by assumption) ?_)
    | (refine held_thd (by assumption) ?_)
    | (simp +zetaDelta; done)
    | simp

@[simp] theorem createPart_held (s : State) (p : Nat) : held (createPart s p) = held s := by
  simp only [createPart, held_mk, setF_held]

@[simp] theorem doPartCreate_held (s : State) (r : CmdRun) : held (doPartCreate s r) = held s := by
  unfold doPartCreate
  (repeat' split) <;> simp only [held_mk, refuseCmd_held, refusePart_held, finishCmd_held, createPart_held]

@[simp] theorem execPartCreate_held (c : CmdSrc) (s : State) : keepsHeld s (execPartCreate c s) := by
  simp [execPartCreate]

@[simp] theorem execPartKill_held (k : Kill) (s : State) : keepsHeld s (execPartKill k s) := by simp [execPartKill]

@[simp] theorem doBibAlloc_held (s : State) (r : CmdRun) : held (doBibAlloc s r) = held s := by
  unfold doBibAlloc
  generalize List.range 4096 = l4
  extract_lets p e
  split
  · simp
  split
  · simp
  have h := chooseFrom_held s (l4.filter (fun n => !flagF s (F.BIB_CTL_VALID n)))
  split
  · rename_i n s1 he
    rw [he] at h
    have hp : keepsOptP s1 (if partCreated s1 p then placeBib s1 p e else none) := by
      split
      · exact placeBib_held s1 p e
      · simp
    split
    · rename_i e1 s2 hq
      have h2 := hp e1 s2 hq
      split <;> simp [h2, ← h]
    · simp
  · simp

@[simp] theorem execBibAlloc_held (c : CmdSrc) (s : State) : keepsHeld s (execBibAlloc c s) := by simp [execBibAlloc]

@[simp] theorem doBibFree_held (s : State) (r : CmdRun) : held (doBibFree s r) = held s := by
  simp only [doBibFree, held_mk, refuseCmd_held, finishCmd_held, dropBib_held, apply_ite held, ite_self]

@[simp] theorem execBibFree_held (c : CmdSrc) (s : State) : keepsHeld s (execBibFree c s) := by simp [execBibFree]

@[simp] theorem doBibLink_held (s : State) (r : CmdRun) : held (doBibLink s r) = held s := by
  simp only [doBibLink, held_mk, refuseCmd_held, finishCmd_held, setF_held, apply_ite held, ite_self]

@[simp] theorem execBibLink_held (c : CmdSrc) (s : State) : keepsHeld s (execBibLink c s) := by simp [execBibLink]

@[simp] theorem doSrSet_held (s : State) (r : CmdRun) : held (doSrSet s r) = held s := by
  simp only [doSrSet, held_mk, refusePart_held, refuseCmd_held, setF_held, finishCmd_held, apply_ite held, ite_self]

@[simp] theorem execSrSet_held (c : CmdSrc) (s : State) : keepsHeld s (execSrSet c s) := by simp [execSrSet]

@[simp] theorem execCtxSave_held (c : CmdSrc) (s : State) : keepsHeld s (execCtxSave c s) := by simp [execCtxSave]

@[simp] theorem execCtxRestore_held (c : CmdSrc) (s : State) : keepsHeld s (execCtxRestore c s) := by
  simp [execCtxRestore]

@[simp] theorem noteOtp_held (s : State) : held (noteOtp s) = held s := by simp only [noteOtp, held_mk, setF_held]

@[simp] theorem burnGen_held (s : State) (g w : Nat) : held (burnGen s g w) = held s := by
  simp only [burnGen, held_mk]

@[simp] theorem doOtpBurn_held (s : State) (r : CmdRun) : held (doOtpBurn s r) = held s := by
  unfold doOtpBurn
  repeat' first
    | (simp only [held_mk, refuseCmd_held, takeFree_held, finishCmd_held, noteOtp_held, burnGen_held]; done)
    | (simp; done)
    | split
    | (refine (held_foldl (fun _ _ => ?_) _ _).trans ?_)
    | (refine held_snd (by assumption) ?_)
    | (refine held_fst (by assumption) ?_)
    | (refine held_thd (by assumption) ?_)
    | (simp +zetaDelta; done)
    | simp

@[simp] theorem execOtpBurn_held (c : CmdSrc) (s : State) : keepsHeld s (execOtpBurn c s) := by simp [execOtpBurn]

end Sys2Proof.Machine
end

