-- ==== Sys2Proof/Laws/Recovery.lean ====
section
/-! SUPPORT. What the operations of Machine/Recovery.lean leave alone: the command queue and the bytes of the bank arrays. -/

namespace Sys2Proof.Machine

@[simp] theorem abandonAll_held (reason : Nat) (f : State → Request → Bool) (s : State) : held (abandonAll reason f s)
    = held s := by
  unfold abandonAll
  exact held_foldl (fun _ _ => by simp only [held_mk, abandonReq_held]) _ _

@[simp] theorem fenceInst_held (s : State) (parts : List (Nat × Nat)) : held (fenceInst s parts) = held s := by
  unfold fenceInst
  repeat' first
    | (simp only [held_mk, jnlLog_held, setF_held, raiseIrq_held, sendKeepalive_held, abandonAll_held,
        abortTask_held]; done)
    | (simp; done)
    | split
    | (refine (held_foldl (fun _ _ => ?_) _ _).trans ?_)
    | (refine held_snd (by assumption) ?_)
    | (refine held_fst (by assumption) ?_)
    | (refine held_thd (by assumption) ?_)
    | (simp +zetaDelta; done)
    | simp

@[simp] theorem blindTags_held (s : State) (l : Nat) : held (blindTags s l) = held s := by
  simp only [blindTags, held_mk]

@[simp] theorem handlePart_held (s : State) (cls idx : Nat) : held (handlePart s cls idx) = held s := by
  unfold handlePart
  split
  · simp only [setF_held, held_mk]
  · extract_lets s1
    have h : held s1 = held s := by
      simp only [s1]
      split <;> exact orF_held _ _ _
    rw [blindTags_held, held_foldl (fun t ch => channelDown_held t idx ch), h]
  · rw [held_foldl (fun u st => abortTask_held u idx st 0x0F), setF_held, orF_held]
  · simp only [reroute_held, held_mk, orF_held]
  · rfl

@[simp] theorem openWindow_held (s : State) (p : Nat × Nat) : held (openWindow s p) = held s := by
  unfold openWindow
  repeat' first
    | (simp only [held_mk, setF_held, handlePart_held]; done)
    | (simp; done)
    | split
    | (refine (held_foldl (fun _ _ => ?_) _ _).trans ?_)
    | (refine held_snd (by assumption) ?_)
    | (refine held_fst (by assumption) ?_)
    | (refine held_thd (by assumption) ?_)
    | (simp +zetaDelta; done)
    | simp

@[simp] theorem closeWindow_held (s : State) : held (closeWindow s) = held s := by
  unfold closeWindow
  repeat' first
    | (simp only [held_mk, setF_held, jnlLog_held, openWindow_held]; done)
    | (simp; done)
    | split
    | (refine (held_foldl (fun _ _ => ?_) _ _).trans ?_)
    | (refine held_snd (by assumption) ?_)
    | (refine held_fst (by assumption) ?_)
    | (refine held_thd (by assumption) ?_)
    | (simp +zetaDelta; done)
    | simp

@[simp] theorem declarePart_held (s : State) (cls idx : Nat) : held (declarePart s cls idx) = held s := by
  unfold declarePart
  repeat' first
    | (simp only [held_mk, jnlLog_held, incF_held, openWindow_held, fenceInst_held, setF_held]; done)
    | (simp; done)
    | split
    | (refine (held_foldl (fun _ _ => ?_) _ _).trans ?_)
    | (refine held_snd (by assumption) ?_)
    | (refine held_fst (by assumption) ?_)
    | (refine held_thd (by assumption) ?_)
    | (simp +zetaDelta; done)
    | simp

@[simp] theorem execPartFault_held (cls idx : Nat) (s : State) : keepsHeld s (execPartFault cls idx s) := by
  unfold execPartFault
  split <;> simp only [held_mk, settleUnits_held, declarePart_held, keepsHeld_next]

@[simp] theorem execRecoveryWindowClose_held (s : State) : keepsHeld s (execRecoveryWindowClose s) := by
  unfold execRecoveryWindowClose
  split <;> simp only [held_mk, settleUnits_held, closeWindow_held, keepsHeld_next]

@[simp] theorem failover_held (s : State) : held (failover s) = held s := by
  unfold failover
  repeat' first
    | (simp only [held_mk, setF_held, jnlLog_held, noteReset_held, declarePart_held, fenceInst_held]; done)
    | (simp; done)
    | split
    | (refine (held_foldl (fun _ _ => ?_) _ _).trans ?_)
    | (refine held_snd (by assumption) ?_)
    | (refine held_fst (by assumption) ?_)
    | (refine held_thd (by assumption) ?_)
    | (simp +zetaDelta; done)
    | simp

@[simp] theorem execHeartbeatTimeout_held (s : State) : keepsHeld s (execHeartbeatTimeout s) := by
  unfold execHeartbeatTimeout
  split <;> simp only [held_mk, failover_held, keepsHeld_next]

@[simp] theorem execMarshalFailure_held (s : State) : keepsHeld s (execMarshalFailure s) := by
  unfold execMarshalFailure
  split <;> simp only [held_mk, failover_held, keepsHeld_next]

@[simp] theorem execMarshalTakeover_held (s : State) : keepsHeld s (execMarshalTakeover s) := by
  unfold execMarshalTakeover
  repeat' first
    | (simp only [held_mk, setF_held, incF_held, fenceInst_held, keepsHeld_next]; done)
    | (simp; done)
    | split
    | (refine (held_foldl (fun _ _ => ?_) _ _).trans ?_)
    | (refine held_snd (by assumption) ?_)
    | (refine held_fst (by assumption) ?_)
    | (refine held_thd (by assumption) ?_)
    | (simp +zetaDelta; done)
    | simp

@[simp] theorem startCopy_held (s : State) : held (startCopy s) = held s := by
  unfold startCopy
  extract_lets src len
  split
  · split
    · rfl
    · rw [setF_held, held_mk]
  · rfl

@[simp] theorem execCheckpointComplete_held (s : State) : keepsHeld s (execCheckpointComplete s) := by
  unfold execCheckpointComplete
  split <;> simp only [held_mk, setF_held, keepsHeld_next]

@[simp] theorem parkWork_held (s : State) : held (parkWork s) = held s := by
  unfold parkWork
  exact held_foldl (fun _ _ => by simp only [held_mk, closeComb_held]) _ _

@[simp] theorem resumeWork_held (s : State) : held (resumeWork s) = held s := by
  unfold resumeWork
  repeat' first
    | (simp only [held_mk, jnlWrite_held, restartMove_held]; done)
    | (simp; done)
    | split
    | (refine (held_foldl (fun _ _ => ?_) _ _).trans ?_)
    | (refine held_snd (by assumption) ?_)
    | (refine held_fst (by assumption) ?_)
    | (refine held_thd (by assumption) ?_)
    | (simp +zetaDelta; done)
    | simp

@[simp] theorem endDrain_held (s : State) : held (endDrain s) = held s := by
  unfold endDrain
  repeat' first
    | (simp only [held_mk, setF_held, refuseCmd_held]; done)
    | (simp; done)
    | split
    | (refine (held_foldl (fun _ _ => ?_) _ _).trans ?_)
    | (refine held_snd (by assumption) ?_)
    | (refine held_fst (by assumption) ?_)
    | (refine held_thd (by assumption) ?_)
    | (simp +zetaDelta; done)
    | simp

@[simp] theorem startShutdown_held (s : State) (src : Nat) : held (startShutdown s src) = held s := by
  simp only [startShutdown, held_mk, setF_held, endDrain_held, parkWork_held, abandonAll_held, settleUnits_held]

@[simp] theorem keepFields_held (s : State) (keep : Fld → Bool) : held (keepFields s keep) = held s := by
  simp only [keepFields, held_mk]

@[simp] theorem execWarmReset_held (s : State) : keepsHeld s (execWarmReset s) := by
  unfold execWarmReset
  split <;> simp only [held_mk, noteReset_held, parkWork_held, keepsHeld_next]

@[simp] theorem warmLogic_held (s : State) : held (warmLogic s) = held s := by
  unfold warmLogic
  exact held_foldl (fun _ _ => by split <;> simp only [held_mk, keepFields_held, setF_held, channelDown_held]) _ _

@[simp] theorem execWarmResume_held (s : State) : keepsHeld s (execWarmResume s) := by
  unfold execWarmResume
  repeat' first
    | (simp only [held_mk, warmLogic_held, writeMark_held, parkEntries_held, resumeWork_held, logEvt_held,
        jnlLog_held, trcPush_held, startShutdown_held, keepsHeld_next]; done)
    | (simp; done)
    | split
    | (refine (held_foldl (fun _ _ => ?_) _ _).trans ?_)
    | (refine held_snd (by assumption) ?_)
    | (refine held_fst (by assumption) ?_)
    | (refine held_thd (by assumption) ?_)
    | (simp +zetaDelta; done)
    | simp

end Sys2Proof.Machine
end

