-- ==== Sys2Proof/Laws/Power.lean ====
section
/-! SUPPORT. What the operations of Machine/Power.lean leave alone: the command queue and the bytes of the bank arrays. -/

namespace Sys2Proof.Machine

@[simp] theorem powerCmd_held (f : State → CmdRun → State) (s : State) (r : CmdRun) (hf : ∀ x0 x1, held (f x0 x1) =
    held x0) : held (powerCmd f s r) = held s := by
  unfold powerCmd
  repeat' first
    | (simp; done)
    | (exact hf _ _)
    | split
    | (refine (held_foldl (fun _ _ => ?_) _ _).trans ?_)
    | (refine held_snd (by assumption) ?_)
    | (refine held_fst (by assumption) ?_)
    | (refine held_thd (by assumption) ?_)
    | (simp +zetaDelta; done)
    | simp

@[simp] theorem doPwrIdle_held (s : State) (r : CmdRun) : held (doPwrIdle s r) = held s := by
  simp only [doPwrIdle, held_mk, finishCmd_held, setF_held, refuseCmd_held, apply_ite held, ite_self]

@[simp] theorem execPwrIdle_held (c : CmdSrc) (s : State) : keepsHeld s (execPwrIdle c s) := by simp [execPwrIdle]

@[simp] theorem doPwrActive_held (s : State) (r : CmdRun) : held (doPwrActive s r) = held s := by
  simp only [doPwrActive, held_mk, finishCmd_held, setF_held, refuseCmd_held, apply_ite held, ite_self]

@[simp] theorem execPwrActive_held (c : CmdSrc) (s : State) : keepsHeld s (execPwrActive c s) := by
  simp [execPwrActive]

@[simp] theorem doPwrStepSet_held (s : State) (r : CmdRun) : held (doPwrStepSet s r) = held s := by
  unfold doPwrStepSet
  repeat' first
    | (simp only [held_mk, refuseCmd_held, retuneTo_held, stepDue_held, finishCmd_held]; done)
    | (simp; done)
    | split
    | (refine (held_foldl (fun _ _ => ?_) _ _).trans ?_)
    | (refine held_snd (by assumption) ?_)
    | (refine held_fst (by assumption) ?_)
    | (refine held_thd (by assumption) ?_)
    | (simp +zetaDelta; done)
    | simp

@[simp] theorem execPwrStepSet_held (c : CmdSrc) (s : State) : keepsHeld s (execPwrStepSet c s) := by
  simp [execPwrStepSet]

@[simp] theorem doPwrCap_held (s : State) (r : CmdRun) : held (doPwrCap s r) = held s := by
  simp only [doPwrCap, held_mk, refuseCmd_held, finishCmd_held, setF_held, apply_ite held, ite_self]

@[simp] theorem execPwrCap_held (c : CmdSrc) (s : State) : keepsHeld s (execPwrCap c s) := by simp [execPwrCap]

@[simp] theorem doPwrFixed_held (s : State) (r : CmdRun) : held (doPwrFixed s r) = held s := by
  simp only [doPwrFixed, held_mk, finishCmd_held, setF_held]

@[simp] theorem execPwrFixed_held (c : CmdSrc) (s : State) : keepsHeld s (execPwrFixed c s) := by simp [execPwrFixed]

@[simp] theorem doPwrBoost_held (s : State) (r : CmdRun) : held (doPwrBoost s r) = held s := by
  simp only [doPwrBoost, held_mk, refuseCmd_held, finishCmd_held, setF_held, apply_ite held, ite_self]

@[simp] theorem execPwrBoost_held (c : CmdSrc) (s : State) : keepsHeld s (execPwrBoost c s) := by simp [execPwrBoost]

@[simp] theorem doPwrDoze_held (s : State) (r : CmdRun) : held (doPwrDoze s r) = held s := by
  unfold doPwrDoze
  repeat' first
    | (simp only [held_mk, refuseCmd_held, setF_held, keepRun_held, closeComb_held]; done)
    | (simp; done)
    | split
    | (refine (held_foldl (fun _ _ => ?_) _ _).trans ?_)
    | (refine held_snd (by assumption) ?_)
    | (refine held_fst (by assumption) ?_)
    | (refine held_thd (by assumption) ?_)
    | (simp +zetaDelta; done)
    | simp

@[simp] theorem execPwrDoze_held (c : CmdSrc) (s : State) : keepsHeld s (execPwrDoze c s) := by simp [execPwrDoze]

@[simp] theorem linksDown_held (s : State) : held (linksDown s) = held s := by
  unfold linksDown
  extract_lets s1
  rw [setF_held]
  exact held_foldl (fun t id => by split <;> simp) _ _

@[simp] theorem clocksOff_held (s : State) : held (clocksOff s) = held s := by
  simp only [clocksOff, held_mk, setF_held]

@[simp] theorem enterDoze_held (s : State) : held (enterDoze s) = held s := by
  unfold enterDoze
  extract_lets s1 s2 s3 sI s4
  have h2 : held s2 = held s := (held_foldl (fun t _ => trcDrain_held t) _ _).trans (trcPush_held _ _)
  have h3 : held s3 = held s := by simp only [s3, setF_held, h2]
  have hI : held sI = held s := by
    simp only [sI]
    split
    · rw [irqIf_held, h3]
    · exact h3
  have h4 : held s4 = held s := by simp [s4, hI]
  clear_value s4
  rw [held_mk, h4]

@[simp] theorem execDozeEntry_held (s : State) : keepsHeld s (execDozeEntry s) := by
  unfold execDozeEntry
  repeat' first
    | (simp only [held_mk, finishCmd_held, enterDoze_held, keepsHeld_next]; done)
    | (simp; done)
    | split
    | (refine (held_foldl (fun _ _ => ?_) _ _).trans ?_)
    | (refine held_snd (by assumption) ?_)
    | (refine held_fst (by assumption) ?_)
    | (refine held_thd (by assumption) ?_)
    | (simp +zetaDelta; done)
    | simp

@[simp] theorem dozeBack_held (s : State) (r : CmdRun) : held (dozeBack s r) = held s := by
  simp only [dozeBack, held_mk, setF_held, refuseCmd_held]

@[simp] theorem execDozeDrainTimeout_held (s : State) : keepsHeld s (execDozeDrainTimeout s) := by
  unfold execDozeDrainTimeout
  (repeat' split) <;> simp only [held_mk, dozeBack_held, keepsHeld_next]

@[simp] theorem cpmAonWake_held (m : Master) (w : Nat) (s : State) : held (cpmAonWake m w s) = held s := by
  unfold cpmAonWake
  (repeat' split) <;> simp only [held_mk, setF_held, wakeTo_held]

@[simp] theorem wakeRequest_held (s : State) (source lane : Nat) : held (wakeRequest s source lane) = held s := by
  simp only [wakeRequest, held_mk, emit_held, setF_held, apply_ite held, ite_self]

@[simp] theorem execWakeRequest_held (source lane : Nat) (s : State) : keepsHeld s (execWakeRequest source lane s) := by
  simp only [execWakeRequest, held_mk, wakeRequest_held, keepsHeld_next]

@[simp] theorem execDozeTimerExpiry_held (s : State) : keepsHeld s (execDozeTimerExpiry s) := by
  simp only [execDozeTimerExpiry, held_mk, wakeRequest_held, keepsHeld_next]

@[simp] theorem execLaneTrainingRequest_held (lane : Nat) (s : State) : keepsHeld s (execLaneTrainingRequest lane s)
    := by simp only [execLaneTrainingRequest, held_mk, wakeRequest_held, keepsHeld_next]

@[simp] theorem execWakeComplete_held (s : State) : keepsHeld s (execWakeComplete s) := by
  unfold execWakeComplete
  (repeat' split) <;> simp only [held_mk, setF_held, trcPush_held, keepsHeld_next]

@[simp] theorem execRetentionBrownout_held (s : State) : keepsHeld s (execRetentionBrownout s) := by
  unfold execRetentionBrownout
  split <;> simp only [held_mk, incF_held, setF_held, keepsHeld_next]

@[simp] theorem clkIrq_held (s : State) : held (clkIrq s) = held s := by simp only [clkIrq, held_mk, irqIf_held]

@[simp] theorem enterSafe_held (s : State) (k : ClockFaultKind) : held (enterSafe s k) = held s := by
  unfold enterSafe
  repeat' first
    | (simp only [held_mk, setF_held, logEvt_held, clkIrq_held, faultBegin_held, fenceInst_held]; done)
    | (simp; done)
    | split
    | (refine (held_foldl (fun _ _ => ?_) _ _).trans ?_)
    | (refine held_snd (by assumption) ?_)
    | (refine held_fst (by assumption) ?_)
    | (refine held_thd (by assumption) ?_)
    | (simp +zetaDelta; done)
    | simp

@[simp] theorem execClockFault_held (k : ClockFaultKind) (s : State) : keepsHeld s (execClockFault k s) := by
  unfold execClockFault
  (repeat' split) <;> simp only [held_mk, setF_held, enterSafe_held, keepsHeld_next]

@[simp] theorem execRcFail_held (s : State) : keepsHeld s (execRcFail s) := by
  unfold execRcFail
  split <;> simp only [held_mk, clkIrq_held, setF_held, keepsHeld_next]

@[simp] theorem execReferenceUsable_held (s : State) : keepsHeld s (execReferenceUsable s) := by
  unfold execReferenceUsable
  split <;> simp only [held_mk, setF_held, keepsHeld_next]

@[simp] theorem execSafeExit_held (s : State) : keepsHeld s (execSafeExit s) := by
  unfold execSafeExit
  repeat' first
    | (simp only [held_mk, faultEnd_held, setF_held, triggerWarm_held]; done)
    | (simp; done)
    | split
    | (refine (held_foldl (fun _ _ => ?_) _ _).trans ?_)
    | (refine held_snd (by assumption) ?_)
    | (refine held_fst (by assumption) ?_)
    | (refine held_thd (by assumption) ?_)
    | (simp +zetaDelta; done)
    | simp

@[simp] theorem execSafeTimeout_held (s : State) : keepsHeld s (execSafeTimeout s) := by
  unfold execSafeTimeout
  split <;> simp only [held_mk, fenceInst_held, keepsHeld_next]

@[simp] theorem execFmDone_held (count : Nat) (s : State) : keepsHeld s (execFmDone count s) := by
  unfold execFmDone
  split <;> simp only [held_mk, setF_held, keepsHeld_next]

@[simp] theorem sampleOne_held (raw : List Int) (s : State) (i : Nat) : held (sampleOne raw s i) = held s := by
  unfold sampleOne
  repeat' first
    | (simp only [held_mk, takeFree_held, setF_held, logEvt_held]; done)
    | (simp; done)
    | split
    | (refine (held_foldl (fun _ _ => ?_) _ _).trans ?_)
    | (refine held_snd (by assumption) ?_)
    | (refine held_fst (by assumption) ?_)
    | (refine held_thd (by assumption) ?_)
    | (simp +zetaDelta; done)
    | simp

@[simp] theorem noteTj_held (s : State) : held (noteTj s) = held s := by
  unfold noteTj
  repeat' first
    | (simp only [held_mk, takeFree_held, setF_held]; done)
    | (simp; done)
    | split
    | (refine (held_foldl (fun _ _ => ?_) _ _).trans ?_)
    | (refine held_snd (by assumption) ?_)
    | (refine held_fst (by assumption) ?_)
    | (refine held_thd (by assumption) ?_)
    | (simp +zetaDelta; done)
    | simp

@[simp] theorem thermIrq_held (s : State) : held (thermIrq s) = held s := by simp only [thermIrq, held_mk, irqIf_held]

@[simp] theorem thermLevels_held (s : State) (tj : Nat) : held (thermLevels s tj) = held s := by
  simp only [thermLevels, held_mk, logEvt_held, thermIrq_held, setF_held, apply_ite held, ite_self]

@[simp] theorem thermTrip_held (s : State) : held (thermTrip s) = held s := by
  simp only [thermTrip, held_mk, setF_held, logEvt_held, stepDue_held, retuneTo_held, apply_ite held, ite_self]

@[simp] theorem execTempSample_held (raw : List Int) (s : State) : keepsHeld s (execTempSample raw s) := by
  unfold execTempSample
  repeat' first
    | (simp only [held_mk, noteTj_held, sampleOne_held, thermLevels_held, thermTrip_held, fenceInst_held, logEvt_held,
        keepsHeld_next]; done)
    | (simp; done)
    | split
    | (refine (held_foldl (fun _ _ => ?_) _ _).trans ?_)
    | (refine held_snd (by assumption) ?_)
    | (refine held_fst (by assumption) ?_)
    | (refine held_thd (by assumption) ?_)
    | (simp +zetaDelta; done)
    | simp

@[simp] theorem execTripSwitch_held (s : State) : keepsHeld s (execTripSwitch s) := by
  unfold execTripSwitch
  (repeat' split) <;> simp only [held_mk, doSwitch_held, keepsHeld_next]

@[simp] theorem trippedClear_held (s : State) : held (trippedClear s) = held s := by
  simp only [trippedClear, held_mk, logEvt_held, setF_held, apply_ite held, ite_self]

@[simp] theorem execSupplyBelowWarn_held (rail : Nat) (s : State) : keepsHeld s (execSupplyBelowWarn rail s) := by
  unfold execSupplyBelowWarn
  split <;> simp only [held_mk, setF_held, logEvt_held, irqIf_held, keepsHeld_next]

@[simp] theorem execSupplyReturn_held (s : State) : keepsHeld s (execSupplyReturn s) := by
  unfold execSupplyReturn
  split <;> simp only [held_mk, setF_held, keepsHeld_next]

@[simp] theorem execSupplyPauseEnd_held (s : State) : keepsHeld s (execSupplyPauseEnd s) := by
  unfold execSupplyPauseEnd
  (repeat' split) <;> simp only [held_mk, setF_held, jnlLog_held, logEvt_held, incF_held, writeMark_held,
      keepsHeld_next]

@[simp] theorem execVmonRefresh_held (mv : List Nat) (s : State) : keepsHeld s (execVmonRefresh mv s) := by
  unfold execVmonRefresh
  repeat' first
    | (simp only [held_mk, setF_held, keepsHeld_next]; done)
    | (simp; done)
    | split
    | (refine (held_foldl (fun _ _ => ?_) _ _).trans ?_)
    | (refine held_snd (by assumption) ?_)
    | (refine held_fst (by assumption) ?_)
    | (refine held_thd (by assumption) ?_)
    | (simp +zetaDelta; done)
    | simp

@[simp] theorem execPmonRefresh_held (edges : List Nat) (s : State) : keepsHeld s (execPmonRefresh edges s) := by
  unfold execPmonRefresh
  repeat' first
    | (simp only [held_mk, setF_held, keepsHeld_next]; done)
    | (simp; done)
    | split
    | (refine (held_foldl (fun _ _ => ?_) _ _).trans ?_)
    | (refine held_snd (by assumption) ?_)
    | (refine held_fst (by assumption) ?_)
    | (refine held_thd (by assumption) ?_)
    | (simp +zetaDelta; done)
    | simp

@[simp] theorem divSt_held (s : State) (n d : Nat) : held (divSt s n d) = held s := by
  simp only [divSt, held_mk, takeFree_held, apply_ite held, ite_self]

@[simp] theorem addEnergy_held (s : State) (lo hi : Fld) (key x : Nat) : held (addEnergy s lo hi key x) = held s := by
  simp only [addEnergy, held_mk, setF_held]

@[simp] theorem addShare_held (s : State) (k x : Nat) : held (addShare s k x) = held s := by
  simp only [addShare, held_mk, addEnergy_held, apply_ite held, ite_self]

@[simp] theorem shareOut_held (s : State) (e : Nat) : held (shareOut s e) = held s := by
  unfold shareOut
  extract_lets t s0
  have h0 : held s0 = held s := addEnergy_held _ _ _ _ _
  clear_value s0
  split
  · simp [h0]
  · refine (held_foldl_snd (fun p x => ?_) _ _).trans ?_
    · simp
    · exact (takeFree_held _ 128).trans h0

@[simp] theorem ratioSt_held (s : State) (measured : Nat) : held (ratioSt s measured) = held s := by
  unfold ratioSt
  generalize scaledEnergy s (termSum s [0, 1, 2]) 1 = ea
  dsimp only
  split <;> simp only [takeFree_held, divSt_held]

@[simp] theorem calRound_held (s : State) (d : Int) : held (calRound s d).2 = held s := by
  unfold calRound
  split <;> simp only [held_mk, takeFree_held]

@[simp] theorem calStep_held (s : State) (b r : Nat) : held (calStep s b r) = held s := by
  unfold calStep
  extract_lets k d g
  rw [setF_held]
  exact calRound_held s d

@[simp] theorem calibrate_held (s : State) (b measured : Nat) : held (calibrate s b measured) = held s := by
  simp only [calibrate, held_mk, calStep_held, ratioSt_held, incF_held, logEvt_held, orF_held, apply_ite held,
    ite_self]

@[simp] theorem noteAverage_held (s : State) : held (noteAverage s) = held s := by
  simp only [noteAverage, held_mk, divSt_held, takeFree_held, setF_held, irqIf_held, logEvt_held, apply_ite held,
    ite_self]

@[simp] theorem noteGuard_held (s : State) (b : Nat) (good : Bool) : held (noteGuard s b good) = held s := by
  simp only [noteGuard, held_mk, setF_held, incF_held, apply_ite held, ite_self]

@[simp] theorem closeWith_held (s0 s : State) (raw e measured : Nat) : held (closeWith s0 s raw e measured) = held s
    := by
  unfold closeWith
  extract_lets b s1 s2 src s3
  have h1 : held s1 = held s := noteGuard_held _ _ _
  have h2 : held s2 = held s := by
    simp only [s2]
    split <;> simp only [calibrate_held, h1]
  clear_value s2
  have h3 : held s3 = held s := by simp only [s3, noteAverage_held, shareOut_held, held_mk, h2]
  clear_value s3
  rw [held_mk, h3]

@[simp] theorem closeEst_held (s : State) (measured : Nat) : held (closeEst s measured) = held s := by
  simp only [closeEst, held_mk, divSt_held, closeWith_held]

@[simp] theorem execEstimatorWindow_held (measured milliamps : Nat) (s : State) : keepsHeld s (execEstimatorWindow
    measured milliamps s) := by
  unfold execEstimatorWindow
  split <;> simp only [held_mk, closeEst_held, setF_held, keepsHeld_next]

@[simp] theorem calReset_held (s : State) : held (calReset s) = held s := by
  unfold calReset
  exact held_foldl (fun _ _ => by simp only [held_mk, rstF_held, setF_held]) _ _

@[simp] theorem execMonitorToken_held (sweep : Nat) (s : State) : keepsHeld s (execMonitorToken sweep s) := by
  unfold execMonitorToken
  (repeat' split) <;> simp only [held_mk, setF_held, emit_held, takeFree_held, keepsHeld_next]

@[simp] theorem execNoToken_held (s : State) : keepsHeld s (execNoToken s) := by
  unfold execNoToken
  split <;> simp only [held_mk, logEvt_held, setF_held, keepsHeld_next]

end Sys2Proof.Machine
end

