-- ==== Sys2Proof/Laws/RollCall.lean ====
section
/-! SUPPORT. What the operations of Machine/RollCall.lean leave alone: the command queue and the bytes of the bank arrays. -/

namespace Sys2Proof.Machine

@[simp] theorem forceField_held (s : State) (f : Fld) (v : Nat) : held (forceField s f v) = held s := by
  unfold forceField
  repeat' first
    | (simp only [held_mk, setF_held]; done)
    | (simp; done)
    | split
    | (refine (held_foldl (fun _ _ => ?_) _ _).trans ?_)
    | (refine held_snd (by assumption) ?_)
    | (refine held_fst (by assumption) ?_)
    | (refine held_thd (by assumption) ?_)
    | (simp +zetaDelta; done)
    | simp

@[simp] theorem notePartner_held (s : State) (m : RollMsg) : held (notePartner s m) = held s := by
  simp only [notePartner, held_mk, apply_ite held, ite_self]

@[simp] theorem sendFieldStatus_held (s : State) : held (sendFieldStatus s) = held s := by
  unfold sendFieldStatus
  exact held_foldl (fun _ _ => by simp only [held_mk, emit_held]) _ _

@[simp] theorem setNbr_held (s : State) (k st : Nat) : held (setNbr s k st) = held s := by
  simp only [setNbr, held_mk, orF_held, setF_held, sendFieldStatus_held, apply_ite held, ite_self]

@[simp] theorem execHelloSend_held (s : State) : keepsHeld s (execHelloSend s) := by
  unfold execHelloSend
  repeat' first
    | (simp only [held_mk, emit_held, setNbr_held, keepsHeld_next]; done)
    | (simp; done)
    | split
    | (refine (held_foldl (fun _ _ => ?_) _ _).trans ?_)
    | (refine held_snd (by assumption) ?_)
    | (refine held_fst (by assumption) ?_)
    | (refine held_thd (by assumption) ?_)
    | (simp +zetaDelta; done)
    | simp

@[simp] theorem execHello_held (link : Nat) (m : BitVec 128) (s : State) : keepsHeld s (execHello link m s) := by
  unfold execHello
  (repeat' split) <;> simp only [held_mk, takeFree_held, notePartner_held, emit_held, keepsHeld_next]

@[simp] theorem execHelloReply_held (link : Nat) (m : BitVec 128) (receipt : Nat) (s : State) : keepsHeld s
    (execHelloReply link m receipt s) := by
  unfold execHelloReply
  repeat' first
    | (simp only [held_mk, setF_held, notePartner_held, setNbr_held, keepsHeld_next]; done)
    | (simp; done)
    | split
    | (refine (held_foldl (fun _ _ => ?_) _ _).trans ?_)
    | (refine held_snd (by assumption) ?_)
    | (refine held_fst (by assumption) ?_)
    | (refine held_thd (by assumption) ?_)
    | (simp +zetaDelta; done)
    | simp

@[simp] theorem execNeighbourSilent_held (link : Nat) (s : State) : keepsHeld s (execNeighbourSilent link s) := by
  unfold execNeighbourSilent
  (repeat' split) <;> simp only [held_mk, setNbr_held, keepsHeld_next]

@[simp] theorem closeField_held (s : State) : held (closeField s) = held s := by
  unfold closeField
  extract_lets cap src s1 s2 s3
  have h3 : held s3 = held s := by
    simp only [s3]
    split <;> simp [s2, s1]
  clear_value s3
  split
  · rw [emit_held, setF_held]
    refine (held_foldl_snd (fun p i => ?_) _ _).trans h3
    dsimp only
    split <;> simp
  · exact h3

@[simp] theorem execFieldStatus_held (m : BitVec 128) (s : State) : keepsHeld s (execFieldStatus m s) := by
  unfold execFieldStatus
  repeat' first
    | (simp only [held_mk, notePartner_held, closeField_held, keepsHeld_next]; done)
    | (simp; done)
    | split
    | (refine (held_foldl (fun _ _ => ?_) _ _).trans ?_)
    | (refine held_snd (by assumption) ?_)
    | (refine held_fst (by assumption) ?_)
    | (refine held_thd (by assumption) ?_)
    | (simp +zetaDelta; done)
    | simp

@[simp] theorem execFieldStatusTimeout_held (s : State) : keepsHeld s (execFieldStatusTimeout s) := by
  unfold execFieldStatusTimeout
  split <;> simp only [held_mk, closeField_held, keepsHeld_next]

@[simp] theorem endRollCall_held (s : State) : held (endRollCall s) = held s := by
  unfold endRollCall
  repeat' first
    | (simp only [held_mk, setF_held, lockCad_held]; done)
    | (simp; done)
    | split
    | (refine (held_foldl (fun _ _ => ?_) _ _).trans ?_)
    | (refine held_snd (by assumption) ?_)
    | (refine held_fst (by assumption) ?_)
    | (refine held_thd (by assumption) ?_)
    | (simp +zetaDelta; done)
    | simp

@[simp] theorem glbSelfWrite_held (m : Master) (w : Nat) (s : State) : held (glbSelfWrite m w s) = held s := by
  unfold glbSelfWrite
  repeat' first
    | (simp only [held_mk, forceField_held, endRollCall_held]; done)
    | (simp; done)
    | split
    | (refine (held_foldl (fun _ _ => ?_) _ _).trans ?_)
    | (refine held_snd (by assumption) ?_)
    | (refine held_fst (by assumption) ?_)
    | (refine held_thd (by assumption) ?_)
    | (simp +zetaDelta; done)
    | simp

end Sys2Proof.Machine
end

