-- ==== Sys2Proof/Laws/Resets.lean ====
section
/-! SUPPORT. What the operations of Machine/Resets.lean leave alone: the command queue and the bytes of the bank arrays. -/

namespace Sys2Proof.Machine

@[simp] theorem execSupplyResetRelease_held (s : State) : keepsHeld s (execSupplyResetRelease s) := by
  simp only [execSupplyResetRelease, held_mk, keepsHeld_next]

@[simp] theorem execRailsRemoved_held (s : State) : keepsHeld s (execRailsRemoved s) := by
  unfold execRailsRemoved
  split <;> simp only [held_mk, keepsHeld_next]

@[simp] theorem execRailsApplied_held (s : State) : keepsHeld s (execRailsApplied s) := by
  unfold execRailsApplied
  repeat' first
    | (simp only [held_mk, triggerCold_held, startWake_held, keepsHeld_next]; done)
    | (simp; done)
    | split
    | (refine (held_foldl (fun _ _ => ?_) _ _).trans ?_)
    | (refine held_snd (by assumption) ?_)
    | (refine held_fst (by assumption) ?_)
    | (refine held_thd (by assumption) ?_)
    | (simp +zetaDelta; done)
    | simp

@[simp] theorem execWarmRstN_held (s : State) : keepsHeld s (execWarmRstN s) := by
  unfold execWarmRstN
  split <;> simp only [held_mk, triggerWarm_held, keepsHeld_next]

@[simp] theorem execColdRstN_held (s : State) : keepsHeld s (execColdRstN s) := by
  unfold execColdRstN
  split <;> simp only [held_mk, triggerCold_held, keepsHeld_next]

@[simp] theorem rstWarm_held (m : Master) (s : State) : held (rstWarm m s) = held s := by
  simp only [rstWarm, held_mk, triggerWarm_held, apply_ite held, ite_self]

@[simp] theorem rstCold_held (m : Master) (s : State) : held (rstCold m s) = held s := by
  simp only [rstCold, held_mk, triggerCold_held, apply_ite held, ite_self]

@[simp] theorem doPwrOff_held (s : State) (r : CmdRun) : held (doPwrOff s r) = held s := by
  simp only [doPwrOff, held_mk, refuseCmd_held, startShutdown_held, apply_ite held, ite_self]

@[simp] theorem execPwrOff_held (c : CmdSrc) (s : State) : keepsHeld s (execPwrOff c s) := by simp [execPwrOff]

@[simp] theorem execPfailAssert_held (s : State) : keepsHeld s (execPfailAssert s) := by
  unfold execPfailAssert
  (repeat' split) <;> simp only [held_mk, startShutdown_held, keepsHeld_next]

@[simp] theorem offResult_held (s : State) : held (offResult s) = held s := by
  unfold offResult
  repeat' first
    | (simp only [held_mk, closeCmd_held]; done)
    | (simp; done)
    | split
    | (refine (held_foldl (fun _ _ => ?_) _ _).trans ?_)
    | (refine held_snd (by assumption) ?_)
    | (refine held_fst (by assumption) ?_)
    | (refine held_thd (by assumption) ?_)
    | (simp +zetaDelta; done)
    | simp

@[simp] theorem execHandoffPoint_held (s : State) : keepsHeld s (execHandoffPoint s) := by
  unfold execHandoffPoint
  repeat' first
    | (simp only [held_mk, logEvt_held, offResult_held, setF_held, clocksOff_held, linksDown_held, triggerCold_held,
        keepsHeld_next]; done)
    | (simp; done)
    | split
    | (refine (held_foldl (fun _ _ => ?_) _ _).trans ?_)
    | (refine held_snd (by assumption) ?_)
    | (refine held_fst (by assumption) ?_)
    | (refine held_thd (by assumption) ?_)
    | (simp +zetaDelta; done)
    | simp

@[simp] theorem execPfailRelease_held (s : State) : keepsHeld s (execPfailRelease s) := by
  unfold execPfailRelease
  (repeat' split) <;> simp only [held_mk, triggerCold_held, resumeWork_held, setF_held, keepsHeld_next]

@[simp] theorem doReform_held (s : State) (r : CmdRun) : held (doReform s r) = held s := by
  simp only [doReform, held_mk, keepRun_held, setF_held]

@[simp] theorem execReform_held (c : CmdSrc) (s : State) : keepsHeld s (execReform c s) := by simp [execReform]

@[simp] theorem reformKill_held (s : State) (p : Nat) : held (reformKill s p) = held s := by
  simp only [reformKill, held_mk, killEnd_held, killStart_held, apply_ite held, ite_self]

@[simp] theorem startMarshals_held (s : State) (bad : List Nat) : held (startMarshals s bad) = held s := by
  unfold startMarshals
  repeat' first
    | (simp only [held_mk, setF_held]; done)
    | (simp; done)
    | split
    | (refine (held_foldl (fun _ _ => ?_) _ _).trans ?_)
    | (refine held_snd (by assumption) ?_)
    | (refine held_fst (by assumption) ?_)
    | (refine held_thd (by assumption) ?_)
    | (simp +zetaDelta; done)
    | simp

@[simp] theorem bootFail_held (s : State) (cause : Nat) : held (bootFail s cause) = held s := by
  simp only [bootFail, held_mk, setF_held]

end Sys2Proof.Machine
end

