-- ==== Sys2Proof/Laws/Control.lean ====
section
/-! SUPPORT. What the operations of Machine/Control.lean leave alone: the command queue and the bytes of the bank arrays. -/

namespace Sys2Proof.Machine

@[simp] theorem writeF_held (w : Nat) (s : State) (f : Fld) : held (writeF w s f) = held s := by
  unfold writeF
  repeat' first
    | (simp only [held_mk, setF_held]; done)
    | (simp; done)
    | split
    | (refine (held_foldl (fun _ _ => ?_) _ _).trans ?_)
    | (refine held_snd (by assumption) ?_)
    | (refine held_fst (by assumption) ?_)
    | (refine held_thd (by assumption) ?_)
    | (simp +zetaDelta; done)
    | simp

@[simp] theorem writeFields_held (off w : Nat) (s : State) : held (writeFields off w s) = held s := by
  unfold writeFields
  exact held_foldl (fun _ _ => by simp only [held_mk, writeF_held]) _ _

@[simp] theorem forceFields_held (off w : Nat) (s : State) : held (forceFields off w s) = held s := by
  unfold forceFields
  repeat' first
    | (simp only [held_mk, forceField_held]; done)
    | (simp; done)
    | split
    | (refine (held_foldl (fun _ _ => ?_) _ _).trans ?_)
    | (refine held_snd (by assumption) ?_)
    | (refine held_fst (by assumption) ?_)
    | (refine held_thd (by assumption) ?_)
    | (simp +zetaDelta; done)
    | simp

@[simp] theorem rollRegSet_held (m : Master) (off w : Nat) (s : State) : held (rollRegSet m off w s) = held s := by
  unfold rollRegSet
  repeat' first
    | (simp only [held_mk, forceFields_held]; done)
    | (simp; done)
    | split
    | (refine (held_foldl (fun _ _ => ?_) _ _).trans ?_)
    | (refine held_snd (by assumption) ?_)
    | (refine held_fst (by assumption) ?_)
    | (refine held_thd (by assumption) ?_)
    | (simp +zetaDelta; done)
    | simp

@[simp] theorem debugMark_held (m : Master) (off w : Nat) (s : State) : held (debugMark m off w s) = held s := by
  simp only [debugMark, held_mk, trcPush_held, apply_ite held, ite_self]

@[simp] theorem unreached_held (m : Master) (s : State) : held (unreached m s) = held s := by
  unfold unreached
  repeat' first
    | (simp only [held_mk, emit_held]; done)
    | (simp; done)
    | split
    | (refine (held_foldl (fun _ _ => ?_) _ _).trans ?_)
    | (refine held_snd (by assumption) ?_)
    | (refine held_fst (by assumption) ?_)
    | (refine held_thd (by assumption) ?_)
    | (simp +zetaDelta; done)
    | simp

@[simp] theorem asWrite_held (m : Master) (off w : Nat) (f : State → State) (s : State) (hf : ∀ x0, held (f x0) = held
    x0) : held (asWrite m off w f s) = held s := by
  unfold asWrite
  split
  · rw [debugMark_held, hf]
  · exact unreached_held _ _

@[simp] theorem bibStageWord_held (m : Master) (n k w : Nat) (s : State) : held (bibStageWord m n k w s) = held s := by
  unfold bibStageWord
  extract_lets v
  split
  · rfl
  · rw [held_mk]

@[simp] theorem bibCommitWrite_held (m : Master) (n w : Nat) (up : Upset) (s : State) : held (bibCommitWrite m n w up
    s) = held s := by simp only [bibCommitWrite, held_mk, readBibEntry_held, commitBib_held, apply_ite held, ite_self]

@[simp] theorem execBibCommit_held (m : Master) (n : Nat) (w : Word) (up : Upset) (s : State) : keepsHeld s
    (execBibCommit m n w up s) := by simp [execBibCommit]

@[simp] theorem execBibStageWrite_held (m : Master) (n k : Nat) (w : Word) (s : State) : keepsHeld s
    (execBibStageWrite m n k w s) := by simp [execBibStageWrite]

@[simp] theorem syncIgnored_held (s : State) : held (syncIgnored s) = held s := by
  simp only [syncIgnored, held_mk, setF_held]

@[simp] theorem btnCountWrite_held (n w : Nat) (up : Upset) (s : State) : held (btnCountWrite n w up s) = held s := by
  simp only [btnCountWrite, held_mk, readBatonWord_held, testWaiters_held, setF_held, apply_ite held, ite_self]

@[simp] theorem btnControlWrite_held (n w : Nat) (s : State) : held (btnControlWrite n w s) = held s := by
  simp only [btnControlWrite, held_mk, setF_held, syncIgnored_held, apply_ite held, ite_self]

@[simp] theorem execBtnCntWrite_held (m : Master) (n : Nat) (w : Word) (up : Upset) (s : State) : keepsHeld s
    (execBtnCntWrite m n w up s) := by simp [execBtnCntWrite]

@[simp] theorem execBtnCtlWrite_held (m : Master) (n : Nat) (w : Word) (s : State) : keepsHeld s (execBtnCtlWrite m n
    w s) := by simp [execBtnCtlWrite]

@[simp] theorem tapeHeatSet_held (n w : Nat) (s : State) : held (tapeHeatSet n w s) = held s := by
  simp only [tapeHeatSet, held_mk, restartTape_held, apply_ite held, ite_self]

@[simp] theorem forceTape_held (n : Nat) (s : State) : held (forceTape n s) = held s := by
  simp only [forceTape, held_mk, tapeRun_held, completeHeat_held, apply_ite held, ite_self]

@[simp] theorem tapeCfgSet_held (n w : Nat) (s : State) : held (tapeCfgSet n w s) = held s := by
  simp only [tapeCfgSet, held_mk, writeF_held, syncIgnored_held, writeFields_held, apply_ite held, ite_self]

@[simp] theorem tapeLinkSet_held (n w : Nat) (s : State) : held (tapeLinkSet n w s) = held s := by
  simp only [tapeLinkSet, held_mk, syncIgnored_held, writeFields_held, apply_ite held, ite_self]

@[simp] theorem execTapeHeatWrite_held (m : Master) (n : Nat) (w : Word) (s : State) : keepsHeld s (execTapeHeatWrite
    m n w s) := by simp [execTapeHeatWrite]

@[simp] theorem execForce_held (m : Master) (n : Nat) (s : State) : keepsHeld s (execForce m n s) := by
  simp [execForce]

@[simp] theorem execTapeCfgWrite_held (m : Master) (n : Nat) (link : Bool) (w : Word) (s : State) : keepsHeld s
    (execTapeCfgWrite m n link w s) := by
  unfold execTapeCfgWrite
  split <;> simp

@[simp] theorem relayLoad_held (n w : Nat) (s : State) : held (relayLoad n w s) = held s := by
  simp only [relayLoad, held_mk, incF_held, enterRelay_held, apply_ite held, ite_self]

@[simp] theorem execRlyLoad_held (m : Master) (n : Nat) (w : Word) (s : State) : keepsHeld s (execRlyLoad m n w s) := by
  simp [execRlyLoad]

@[simp] theorem execFlush_held (m : Master) (n : Nat) (s : State) : keepsHeld s (execFlush m n s) := by
  unfold execFlush
  split <;> simp

@[simp] theorem pacerAbort_held (q w : Nat) (s : State) : held (pacerAbort q w s) = held s := by
  unfold pacerAbort
  repeat' first
    | (simp only [held_mk, settleUnits_held, abortTask_held]; done)
    | (simp; done)
    | split
    | (refine (held_foldl (fun _ _ => ?_) _ _).trans ?_)
    | (refine held_snd (by assumption) ?_)
    | (refine held_fst (by assumption) ?_)
    | (refine held_thd (by assumption) ?_)
    | (simp +zetaDelta; done)
    | simp

@[simp] theorem execAbort_held (m : Master) (q : Nat) (w : Word) (s : State) : keepsHeld s (execAbort m q w s) := by
  simp [execAbort]

@[simp] theorem pmStage_held (q w : Nat) (s : State) : held (pmStage q w s) = held s := by
  simp only [pmStage, held_mk, apply_ite held, ite_self]

@[simp] theorem pmWrite_held (q w : Nat) (s : State) : held (pmWrite q w s) = held s := by
  simp only [pmWrite, held_mk, setF_held, apply_ite held, ite_self]

@[simp] theorem execPmDataLoWrite_held (m : Master) (q : Nat) (w : Word) (s : State) : keepsHeld s (execPmDataLoWrite
    m q w s) := by simp [execPmDataLoWrite]

@[simp] theorem execPmDataHiWrite_held (m : Master) (q : Nat) (w : Word) (s : State) : keepsHeld s (execPmDataHiWrite
    m q w s) := by simp [execPmDataHiWrite]

@[simp] theorem partRangeWrite_held (n k w : Nat) (s : State) : held (partRangeWrite n k w s) = held s := by
  simp only [partRangeWrite, held_mk, setF_held, writeFields_held, apply_ite held, ite_self]

@[simp] theorem execPartRegionWrite_held (m : Master) (n k : Nat) (w : Word) (s : State) : keepsHeld s
    (execPartRegionWrite m n k w s) := by simp [execPartRegionWrite]

@[simp] theorem partQosSet_held (n w : Nat) (s : State) : held (partQosSet n w s) = held s := by
  unfold partQosSet
  split
  · rfl
  · rw [apply_ite held, setF_held, writeFields_held, ite_self]

@[simp] theorem execPartQosWrite_held (m : Master) (n : Nat) (w : Word) (s : State) : keepsHeld s (execPartQosWrite m
    n w s) := by simp [execPartQosWrite]

@[simp] theorem regSplitSet_held (q w : Nat) (s : State) : held (regSplitSet q w s) = held s := by
  simp only [regSplitSet, held_mk, setF_held, writeFields_held, apply_ite held, ite_self]

@[simp] theorem execRegSplitWrite_held (m : Master) (q : Nat) (w : Word) (s : State) : keepsHeld s (execRegSplitWrite
    m q w s) := by simp [execRegSplitWrite]

@[simp] theorem regCtlSet_held (m : Master) (w : Nat) (s : State) : held (regCtlSet m w s) = held s := by
  simp only [regCtlSet, held_mk, writeFields_held, apply_ite held, ite_self]

@[simp] theorem execRegCtlWrite_held (m : Master) (w : Word) (s : State) : keepsHeld s (execRegCtlWrite m w s) := by
  simp [execRegCtlWrite]

@[simp] theorem regTargetSet_held (c w : Nat) (s : State) : held (regTargetSet c w s) = held s := by
  simp only [regTargetSet, held_mk, writeFields_held, apply_ite held, ite_self]

@[simp] theorem noteRepair_held (t : Nat) (s : State) : held (noteRepair t s) = held s := by
  simp only [noteRepair, held_mk, setF_held]

@[simp] theorem sbStatSet_held (w : Nat) (s : State) : held (sbStatSet w s) = held s := by
  unfold sbStatSet
  repeat' first
    | (simp only [held_mk, writeFields_held, setF_held]; done)
    | (simp; done)
    | split
    | (refine (held_foldl (fun _ _ => ?_) _ _).trans ?_)
    | (refine held_snd (by assumption) ?_)
    | (refine held_fst (by assumption) ?_)
    | (refine held_thd (by assumption) ?_)
    | (simp +zetaDelta; done)
    | simp

@[simp] theorem calStatSet_held (n w : Nat) (s : State) : held (calStatSet n w s) = held s := by
  unfold calStatSet
  repeat' first
    | (simp only [held_mk, writeFields_held, setF_held]; done)
    | (simp; done)
    | split
    | (refine (held_foldl (fun _ _ => ?_) _ _).trans ?_)
    | (refine held_snd (by assumption) ?_)
    | (refine held_fst (by assumption) ?_)
    | (refine held_thd (by assumption) ?_)
    | (simp +zetaDelta; done)
    | simp

@[simp] theorem trkRepairSet_held (n w : Nat) (s : State) : held (trkRepairSet n w s) = held s := by
  simp only [trkRepairSet, held_mk, noteRepair_held, writeFields_held, apply_ite held, ite_self]

@[simp] theorem execTrkRepairWrite_held (m : Master) (n : Nat) (w : Word) (s : State) : keepsHeld s
    (execTrkRepairWrite m n w s) := by simp [execTrkRepairWrite]

@[simp] theorem execCadCtlWrite_held (m : Master) (w : Word) (s : State) : keepsHeld s (execCadCtlWrite m w s) := by
  simp [execCadCtlWrite]

@[simp] theorem laneCombSet_held (n w : Nat) (s : State) : held (laneCombSet n w s) = held s := by
  unfold laneCombSet
  repeat' first
    | (simp only [held_mk, writeFields_held, closeComb_held]; done)
    | (simp; done)
    | split
    | (refine (held_foldl (fun _ _ => ?_) _ _).trans ?_)
    | (refine held_snd (by assumption) ?_)
    | (refine held_fst (by assumption) ?_)
    | (refine held_thd (by assumption) ?_)
    | (simp +zetaDelta; done)
    | simp

@[simp] theorem execLaneCombWrite_held (m : Master) (n : Nat) (w : Word) (s : State) : keepsHeld s (execLaneCombWrite
    m n w s) := by simp [execLaneCombWrite]

@[simp] theorem channelSwitch_held (old lane : Nat) (s : State) (ch : Nat) : held (channelSwitch old lane s ch) = held
    s := by
  unfold channelSwitch
  repeat' first
    | (simp only [held_mk, channelInit_held, channelOff_held]; done)
    | (simp; done)
    | split
    | (refine (held_foldl (fun _ _ => ?_) _ _).trans ?_)
    | (refine held_snd (by assumption) ?_)
    | (refine held_fst (by assumption) ?_)
    | (refine held_thd (by assumption) ?_)
    | (simp +zetaDelta; done)
    | simp

@[simp] theorem laneCtlSet_held (n w : Nat) (s : State) : held (laneCtlSet n w s) = held s := by
  unfold laneCtlSet
  repeat' first
    | (simp only [held_mk, channelSwitch_held, writeFields_held]; done)
    | (simp; done)
    | split
    | (refine (held_foldl (fun _ _ => ?_) _ _).trans ?_)
    | (refine held_snd (by assumption) ?_)
    | (refine held_fst (by assumption) ?_)
    | (refine held_thd (by assumption) ?_)
    | (simp +zetaDelta; done)
    | simp

@[simp] theorem laneCreditSet_held (n k w : Nat) (s : State) : held (laneCreditSet n k w s) = held s := by
  simp only [laneCreditSet, held_mk, writeF_held, writeFields_held, apply_ite held, ite_self]

@[simp] theorem ringCfgSet_held (p key w : Nat) (en bib pos : Fld) (s : State) : held (ringCfgSet p key w en bib pos
    s).2 = held s := by
  unfold ringCfgSet
  repeat' first
    | (simp only [held_mk, setF_held]; done)
    | (simp; done)
    | split
    | (refine (held_foldl (fun _ _ => ?_) _ _).trans ?_)
    | (refine held_snd (by assumption) ?_)
    | (refine held_fst (by assumption) ?_)
    | (refine held_thd (by assumption) ?_)
    | (simp +zetaDelta; done)
    | simp

@[simp] theorem splRingSet_held (p w : Nat) (s : State) : held (splRingSet p w s) = held s := by
  simp only [splRingSet, held_mk, ringCfgSet_held, setF_held, apply_ite held, ite_self]

@[simp] theorem execSplRingCfgWrite_held (m : Master) (p : Nat) (w : Word) (s : State) : keepsHeld s
    (execSplRingCfgWrite m p w s) := by simp [execSplRingCfgWrite]

@[simp] theorem mshRingSet_held (p w : Nat) (s : State) : held (mshRingSet p w s) = held s := by
  simp only [mshRingSet, held_mk, ringCfgSet_held]

@[simp] theorem splTierSet_held (t k w : Nat) (s : State) : held (splTierSet t k w s) = held s := by
  simp only [splTierSet, held_mk, writeF_held, writeFields_held, apply_ite held, ite_self]

@[simp] theorem execSplTierWrite_held (m : Master) (t k : Nat) (w : Word) (s : State) : keepsHeld s (execSplTierWrite
    m t k w s) := by simp [execSplTierWrite]

@[simp] theorem copyEntry_held (s : State) (e : JEntry) : held (copyEntry s e) = held s := by
  simp only [copyEntry, held_mk, emit_held]

@[simp] theorem jnlBuddySet_held (w : Nat) (s : State) : held (jnlBuddySet w s) = held s := by
  unfold jnlBuddySet
  repeat' first
    | (simp only [held_mk, writeFields_held, copyEntry_held, setF_held]; done)
    | (simp; done)
    | split
    | (refine (held_foldl (fun _ _ => ?_) _ _).trans ?_)
    | (refine held_snd (by assumption) ?_)
    | (refine held_fst (by assumption) ?_)
    | (refine held_thd (by assumption) ?_)
    | (simp +zetaDelta; done)
    | simp

@[simp] theorem execJnlBuddyWrite_held (m : Master) (w : Word) (s : State) : keepsHeld s (execJnlBuddyWrite m w s) := by
  simp [execJnlBuddyWrite]

@[simp] theorem jnlHbSet_held (m : Master) (w : Nat) (s : State) : held (jnlHbSet m w s) = held s := by
  simp only [jnlHbSet, held_mk, writeFields_held, apply_ite held, ite_self]

@[simp] theorem execJnlHbWrite_held (m : Master) (w : Word) (s : State) : keepsHeld s (execJnlHbWrite m w s) := by
  simp [execJnlHbWrite]

@[simp] theorem execFailover_held (m : Master) (s : State) : keepsHeld s (execFailover m s) := by simp [execFailover]

@[simp] theorem jnlCtlSet_held (w : Nat) (s : State) : held (jnlCtlSet w s) = held s := by
  simp only [jnlCtlSet, held_mk, writeFields_held, failover_held, apply_ite held, ite_self]

@[simp] theorem ckptSet_held (w : Nat) (s : State) : held (ckptSet w s) = held s := by
  simp only [ckptSet, held_mk, writeFields_held, startCopy_held, apply_ite held, ite_self]

@[simp] theorem execStart_held (m : Master) (w : Word) (s : State) : keepsHeld s (execStart m w s) := by
  simp [execStart]

@[simp] theorem meshCtlSet_held (w : Nat) (s : State) : held (meshCtlSet w s) = held s := by
  simp only [meshCtlSet, held_mk, writeFields_held, apply_ite held, ite_self]

@[simp] theorem execMeshCtlWrite_held (m : Master) (w : Word) (s : State) : keepsHeld s (execMeshCtlWrite m w s) := by
  simp [execMeshCtlWrite]

@[simp] theorem lmapSet_held (mi w : Nat) (s : State) : held (lmapSet mi w s) = held s := by
  unfold lmapSet
  repeat' first
    | (simp only [held_mk]; done)
    | (simp; done)
    | split
    | (refine (held_foldl (fun _ _ => ?_) _ _).trans ?_)
    | (refine held_snd (by assumption) ?_)
    | (refine held_fst (by assumption) ?_)
    | (refine held_thd (by assumption) ?_)
    | (simp +zetaDelta; done)
    | simp

@[simp] theorem execMshLmapWrite_held (mi : Nat) (w : Word) (s : State) : keepsHeld s (execMshLmapWrite mi w s) := by
  unfold execMshLmapWrite
  repeat' first
    | (simp only [held_mk, lmapSet_held]; done)
    | (simp; done)
    | split
    | (refine (held_foldl (fun _ _ => ?_) _ _).trans ?_)
    | (refine held_snd (by assumption) ?_)
    | (refine held_fst (by assumption) ?_)
    | (refine held_thd (by assumption) ?_)
    | (simp +zetaDelta; done)
    | simp

@[simp] theorem flipCtlSet_held (w : Nat) (s : State) : held (flipCtlSet w s) = held s := by
  simp only [flipCtlSet, held_mk, writeFields_held, setF_held, apply_ite held, ite_self]

@[simp] theorem execFlipCtlWrite_held (m : Master) (w : Word) (s : State) : keepsHeld s (execFlipCtlWrite m w s) := by
  simp [execFlipCtlWrite]

@[simp] theorem startLogTest_held (s : State) : held (startLogTest s) = held s := by simp only [startLogTest, held_mk]

@[simp] theorem clearGasp_held (s : State) : held (clearGasp s) = held s := by
  simp only [clearGasp, held_mk, setF_held, apply_ite held, ite_self]

@[simp] theorem execRetry_held (m : Master) (s : State) : keepsHeld s (execRetry m s) := by simp [execRetry]

@[simp] theorem execGaspClr_held (m : Master) (s : State) : keepsHeld s (execGaspClr m s) := by simp [execGaspClr]

@[simp] theorem logCtlSet_held (w : Nat) (s : State) : held (logCtlSet w s) = held s := by
  simp only [logCtlSet, held_mk, clearGasp_held, startLogTest_held, apply_ite held, ite_self]

@[simp] theorem execLogTestDone_held (pass : Bool) (s : State) : keepsHeld s (execLogTestDone pass s) := by
  unfold execLogTestDone
  (repeat' split) <;> simp only [held_mk, setF_held, takeFree_held, logFail_held, keepsHeld_next]

@[simp] theorem execCpmAonWake_held (m : Master) (w : Word) (s : State) : keepsHeld s (execCpmAonWake m w s) := by
  simp [execCpmAonWake]

@[simp] theorem fmCtlSet_held (w : Nat) (s : State) : held (fmCtlSet w s) = held s := by
  simp only [fmCtlSet, held_mk, writeFields_held, setF_held, apply_ite held, ite_self]

@[simp] theorem thermStatSet_held (w : Nat) (s : State) : held (thermStatSet w s) = held s := by
  simp only [thermStatSet, held_mk, writeF_held, trippedClear_held, apply_ite held, ite_self]

@[simp] theorem execTrippedClear_held (m : Master) (s : State) : keepsHeld s (execTrippedClear m s) := by
  simp [execTrippedClear]

@[simp] theorem estCtlSet_held (w : Nat) (s : State) : held (estCtlSet w s) = held s := by
  simp only [estCtlSet, held_mk, writeFields_held, calReset_held, apply_ite held, ite_self]

@[simp] theorem execCalReset_held (m : Master) (s : State) : keepsHeld s (execCalReset m s) := by simp [execCalReset]

@[simp] theorem execWarm_held (m : Master) (s : State) : keepsHeld s (execWarm m s) := by simp [execWarm]

@[simp] theorem execCold_held (m : Master) (s : State) : keepsHeld s (execCold m s) := by simp [execCold]

@[simp] theorem rstCmdSet_held (m : Master) (w : Nat) (s : State) : held (rstCmdSet m w s) = held s := by
  simp only [rstCmdSet, held_mk, rstWarm_held, rstCold_held, apply_ite held, ite_self]

@[simp] theorem ctrSelSet_held (i w : Nat) (s : State) : held (ctrSelSet i w s) = held s := by
  simp only [ctrSelSet, held_mk, writeFields_held, apply_ite held, ite_self]

@[simp] theorem execCtrSelWrite_held (m : Master) (i : Nat) (w : Word) (s : State) : keepsHeld s (execCtrSelWrite m i
    w s) := by simp [execCtrSelWrite]

@[simp] theorem clearCounters_held (s : State) : held (clearCounters s) = held s := by
  simp only [clearCounters, held_mk]

@[simp] theorem execClear_held (m : Master) (s : State) : keepsHeld s (execClear m s) := by simp [execClear]

@[simp] theorem ctrCtlSet_held (w : Nat) (s : State) : held (ctrCtlSet w s) = held s := by
  simp only [ctrCtlSet, held_mk, writeFields_held, clearCounters_held, apply_ite held, ite_self]

@[simp] theorem tdCtl_held (snap clear : Bool) (s : State) : held (tdCtl snap clear s) = held s := by
  simp only [tdCtl, held_mk, apply_ite held, ite_self]

@[simp] theorem execSnap_held (m : Master) (andClear : Bool) (s : State) : keepsHeld s (execSnap m andClear s) := by
  simp [execSnap]

@[simp] theorem execTdClear_held (m : Master) (s : State) : keepsHeld s (execTdClear m s) := by simp [execTdClear]

@[simp] theorem clearTrace_held (s : State) : held (clearTrace s) = held s := by
  simp only [clearTrace, held_mk, setF_held]

@[simp] theorem execTrcClear_held (m : Master) (s : State) : keepsHeld s (execTrcClear m s) := by simp [execTrcClear]

@[simp] theorem trcCtlSet_held (w : Nat) (s : State) : held (trcCtlSet w s) = held s := by
  simp only [trcCtlSet, held_mk, writeFields_held, clearTrace_held, apply_ite held, ite_self]

@[simp] theorem markTrace_held (w : Nat) (s : State) : held (markTrace w s) = held s := by
  simp only [markTrace, held_mk, trcPush_held]

@[simp] theorem execTrcMark_held (m : Master) (w : Word) (s : State) : keepsHeld s (execTrcMark m w s) := by
  simp [execTrcMark]

@[simp] theorem dbgCtlSet_held (m : Master) (w : Nat) (s : State) : held (dbgCtlSet m w s) = held s := by
  simp only [dbgCtlSet, held_mk, writeFields_held, apply_ite held, ite_self]

@[simp] theorem execDbgCtlWrite_held (m : Master) (w : Word) (s : State) : keepsHeld s (execDbgCtlWrite m w s) := by
  simp [execDbgCtlWrite]

@[simp] theorem rollStep4_held (s : State) : held (rollStep4 s) = held s := by
  simp only [rollStep4, held_mk, setF_held, apply_ite held, ite_self]

@[simp] theorem execGlbSelfWrite_held (m : Master) (w : Word) (s : State) : keepsHeld s (execGlbSelfWrite m w s) := by
  unfold execGlbSelfWrite
  split <;> simp

@[simp] theorem sysRowSet_held (m : Master) (off w : Nat) (s : State) : held (sysRowSet m off w s) = held s := by
  simp only [sysRowSet, held_mk, rollStep4_held, setF_held, apply_ite held, ite_self]

@[simp] theorem mailboxSet_held (m : Master) (off w : Nat) (s : State) : held (mailboxSet m off w s) = held s := by
  simp only [mailboxSet, held_mk, writeFields_held, setF_held, cmdArrive_held, apply_ite held, ite_self]

@[simp] theorem writeBlock_held (m : Master) (off w : Nat) (s : State) : held (writeBlock m off w s) = held s := by
  unfold writeBlock
  repeat' first
    | (simp only [held_mk, partRangeWrite_held, partQosSet_held, writeFields_held, trkRepairSet_held,
        laneCombSet_held, laneCreditSet_held, pmStage_held, pmWrite_held, pacerAbort_held, relayLoad_held,
        flushRelay_held, ctrSelSet_held, ctrCtlSet_held, tdCtl_held, trcCtlSet_held, markTrace_held,
        bibCommitWrite_held, bibStageWord_held, btnCountWrite_held, btnControlWrite_held, tapeCfgSet_held,
        tapeLinkSet_held, forceTape_held, tapeHeatSet_held]; done)
    | (simp; done)
    | split
    | (refine (held_foldl (fun _ _ => ?_) _ _).trans ?_)
    | (refine held_snd (by assumption) ?_)
    | (refine held_fst (by assumption) ?_)
    | (refine held_thd (by assumption) ?_)
    | (simp +zetaDelta; done)
    | simp

@[simp] theorem writeSingle_held (m : Master) (off w : Nat) (s : State) : held (writeSingle m off w s) = held s := by
  simp only [writeSingle, apply_ite held, ite_self, held_mk, glbSelfWrite_held, rollStep4_held, rstCmdSet_held,
      dbgCtlSet_held, sbStatSet_held, rollRegSet_held, sysRowSet_held, fmCtlSet_held, cpmAonWake_held, thermStatSet_held,
      estCtlSet_held, regCtlSet_held, regTargetSet_held, regSplitSet_held, flipCtlSet_held, logCtlSet_held,
      jnlCtlSet_held, jnlBuddySet_held, jnlHbSet_held, ckptSet_held, splTierSet_held, splRingSet_held,
      meshCtlSet_held, mailboxSet_held, mshRingSet_held, writeFields_held]

@[simp] theorem writeAny_held (m : Master) (off w : Nat) (s : State) : held (writeAny m off w s) = held s := by
  simp only [writeAny, held_mk, writeBlock_held, writeSingle_held, apply_ite held, ite_self]

@[simp] theorem busWrite_held (m : Master) (off size w : Nat) (s : State) : held (busWrite m off size w s) = held s := by
  unfold busWrite
  repeat' first
    | (simp only [held_mk, emit_held, asWrite_held, writeAny_held]; done)
    | (simp; done)
    | split
    | (refine (held_foldl (fun _ _ => ?_) _ _).trans ?_)
    | (refine held_snd (by assumption) ?_)
    | (refine held_fst (by assumption) ?_)
    | (refine held_thd (by assumption) ?_)
    | (simp +zetaDelta; done)
    | simp

@[simp] theorem sramStore_held (mi i size w : Nat) (s : State) : held (sramStore mi i size w s) = held s := by
  unfold sramStore
  repeat' first
    | (simp only [held_mk]; done)
    | (simp; done)
    | split
    | (refine (held_foldl (fun _ _ => ?_) _ _).trans ?_)
    | (refine held_snd (by assumption) ?_)
    | (refine held_fst (by assumption) ?_)
    | (refine held_thd (by assumption) ?_)
    | (simp +zetaDelta; done)
    | simp

@[simp] theorem dataAccess_held (op off size w : Nat) (s : State) : held (dataAccess op off size w s) = held s := by
  unfold dataAccess
  repeat' first
    | (simp only [held_mk, submitBridge_held]; done)
    | (simp; done)
    | split
    | (refine (held_foldl (fun _ _ => ?_) _ _).trans ?_)
    | (refine held_snd (by assumption) ?_)
    | (refine held_fst (by assumption) ?_)
    | (refine held_thd (by assumption) ?_)
    | (simp +zetaDelta; done)
    | simp

@[simp] theorem marshalStore_held (mi a size w : Nat) (s : State) : held (marshalStore mi a size w s) = held s := by
  unfold marshalStore
  repeat' first
    | (simp only [held_mk, sramStore_held, lmapSet_held, busWrite_held, dataAccess_held]; done)
    | (simp; done)
    | split
    | (refine (held_foldl (fun _ _ => ?_) _ _).trans ?_)
    | (refine held_snd (by assumption) ?_)
    | (refine held_fst (by assumption) ?_)
    | (refine held_thd (by assumption) ?_)
    | (simp +zetaDelta; done)
    | simp

@[simp] theorem execRegisterWrite_held (b : Bus) (off size : Nat) (w : Word) (s : State) : keepsHeld s
    (execRegisterWrite b off size w s) := by
  unfold execRegisterWrite
  split <;> simp

end Sys2Proof.Machine
end

