-- ==== Sys2Proof/Laws/Debug.lean ====
section
/-! SUPPORT. What the operations of Machine/Debug.lean leave alone: the command queue and the bytes of the bank arrays. -/

namespace Sys2Proof.Machine

@[simp] theorem readMark_held (off : Nat) (s : State) : held (readMark off s) = held s := by
  simp only [readMark, held_mk, setF_held, apply_ite held, ite_self]

@[simp] theorem readReg_held (m : Master) (off : Nat) (s : State) : held (readReg m off s).2 = held s := by
  unfold readReg
  (repeat' split) <;> simp only [held_mk, readMark_held]

@[simp] theorem loadWir_held (n dr : Nat) (s : State) : held (loadWir n dr s) = held s := by
  simp only [loadWir, held_mk]

@[simp] theorem refuseWir_held (s : State) : held (refuseWir s) = held s := by
  simp only [refuseWir, held_mk, setF_held, loadWir_held]

@[simp] theorem loadBoundary_held (n : Nat) (s : State) : held (loadBoundary n s) = held s := by
  simp only [loadBoundary, held_mk, loadWir_held, takeFree_held, refuseWir_held, apply_ite held, ite_self]

@[simp] theorem execWsBypass_held (s : State) : keepsHeld s (execWsBypass s) := by
  simp only [execWsBypass, held_mk, loadWir_held, keepsHeld_next]

@[simp] theorem execWsExtest_held (s : State) : keepsHeld s (execWsExtest s) := by
  simp only [execWsExtest, held_mk, loadBoundary_held, keepsHeld_next]

@[simp] theorem execWsIntest_held (s : State) : keepsHeld s (execWsIntest s) := by
  simp only [execWsIntest, held_mk, loadBoundary_held, keepsHeld_next]

@[simp] theorem execWidcode_held (s : State) : keepsHeld s (execWidcode s) := by
  simp only [execWidcode, held_mk, loadWir_held, keepsHeld_next]

@[simp] theorem execStatus_held (s : State) : keepsHeld s (execStatus s) := by
  simp only [execStatus, held_mk, loadWir_held, keepsHeld_next]

@[simp] theorem marshalLoad_held (mi a size : Nat) (s : State) : held (marshalLoad mi a size s).2 = held s := by
  unfold marshalLoad
  repeat' first
    | (simp only [held_mk, emit_held, readReg_held, dataAccess_held]; done)
    | (simp; done)
    | split
    | (refine (held_foldl (fun _ _ => ?_) _ _).trans ?_)
    | (refine held_snd (by assumption) ?_)
    | (refine held_fst (by assumption) ?_)
    | (refine held_thd (by assumption) ?_)
    | (simp +zetaDelta; done)
    | simp

@[simp] theorem csrAccess_held (off data : Nat) (write : Bool) (s : State) : held (csrAccess off data write s).2 =
    held s := by
  unfold csrAccess
  (repeat' split) <;> simp only [held_mk, debugMark_held, writeAny_held, readReg_held]

@[simp] theorem execCsr_held (d : BitVec 59) (s : State) : keepsHeld s (execCsr d s) := by
  unfold execCsr
  repeat' first
    | (simp only [held_mk, refuseWir_held, csrAccess_held, loadWir_held, keepsHeld_next]; done)
    | (simp; done)
    | split
    | (refine (held_foldl (fun _ _ => ?_) _ _).trans ?_)
    | (refine held_snd (by assumption) ?_)
    | (refine held_fst (by assumption) ?_)
    | (refine held_thd (by assumption) ?_)
    | (simp +zetaDelta; done)
    | simp

@[simp] theorem debugAccess_held (off data : Nat) (write : Bool) (s : State) : held (debugAccess off data write s) =
    held s := by
  unfold debugAccess
  repeat' first
    | (simp only [held_mk, setF_held, admission_held, accept_held, incF_held, ctrEvent_held]; done)
    | (simp; done)
    | split
    | (refine (held_foldl (fun _ _ => ?_) _ _).trans ?_)
    | (refine held_snd (by assumption) ?_)
    | (refine held_fst (by assumption) ?_)
    | (refine held_thd (by assumption) ?_)
    | (simp +zetaDelta; done)
    | simp

@[simp] theorem execMem_held (d : BitVec 97) (s : State) : keepsHeld s (execMem d s) := by
  unfold execMem
  repeat' first
    | (simp only [held_mk, refuseWir_held, setF_held, debugAccess_held, loadWir_held, keepsHeld_next]; done)
    | (simp; done)
    | split
    | (refine (held_foldl (fun _ _ => ?_) _ _).trans ?_)
    | (refine held_snd (by assumption) ?_)
    | (refine held_fst (by assumption) ?_)
    | (refine held_thd (by assumption) ?_)
    | (simp +zetaDelta; done)
    | simp

@[simp] theorem execWake_held (b : Bool) (s : State) : keepsHeld s (execWake b s) := by
  simp only [execWake, held_mk, loadWir_held, wakeRequest_held, keepsHeld_next, apply_ite held, ite_self]

end Sys2Proof.Machine
end

