-- ==== Sys2Proof/Laws/Boot.lean ====
section
/-! SUPPORT. What the operations of Machine/Boot.lean leave alone: the command queue and the bytes of the bank arrays. -/

namespace Sys2Proof.Machine

@[simp] theorem noteBist_held (r : BistResult) (s : State) (t : Nat) : held (noteBist r s t) = held s := by
  simp only [noteBist, held_mk, setF_held]

@[simp] theorem loadOtp_held (s : State) (g : Nat) : held (loadOtp s g) = held s := by
  unfold loadOtp
  extract_lets w c s1 s2 s3
  have h1 : held s1 = held s := by
    simp only [s1, noteOtp_held]
    split <;> simp only [burnGen_held]
  have h2 : held s2 = held s := (held_foldl (fun _ _ => setF_held _ _ _) _ _).trans ((setF_held _ _ _).trans h1)
  have h3 : held s3 = held s := by simp only [s3, setF_held, h2]
  exact (held_foldl (fun _ _ => by simp only [setF_held]) _ _).trans h3

@[simp] theorem repairTrack_held (s : State) (t : Nat) : held (repairTrack s t) = held s := by
  unfold repairTrack
  repeat' first
    | (simp only [held_mk, setF_held, noteRepair_held]; done)
    | (simp; done)
    | split
    | (refine (held_foldl (fun _ _ => ?_) _ _).trans ?_)
    | (refine held_snd (by assumption) ?_)
    | (refine held_fst (by assumption) ?_)
    | (refine held_thd (by assumption) ?_)
    | (simp +zetaDelta; done)
    | simp

@[simp] theorem bootOtp_held (s : State) : held (bootOtp s) = held s := by
  unfold bootOtp
  extract_lets bad s1
  have h1 : held s1 = held s := setF_held _ _ _
  clear_value s1
  split
  · rw [bootFail_held, h1]
  · rename_i g hg
    have h2 : held ((List.range 16).foldl repairTrack (loadOtp s1 g)) = held s :=
      (held_foldl (fun t k => repairTrack_held t k) _ _).trans ((loadOtp_held _ _).trans h1)
    extract_lets s2 s3
    have h3 : held s3 = held s := by simp only [s3, retuneTo_held, setF_held, s2, h2]
    clear_value s3
    split <;> simp only [bootFail_held, setF_held, h3]

@[simp] theorem execRefReady_held (s : State) : keepsHeld s (execRefReady s) := by
  unfold execRefReady
  split <;> simp only [held_mk, setF_held, keepsHeld_next]

@[simp] theorem execRefclkTimeout_held (s : State) : keepsHeld s (execRefclkTimeout s) := by
  unfold execRefclkTimeout
  split <;> simp only [held_mk, bootFail_held, keepsHeld_next]

@[simp] theorem execPllLock_held (s : State) : keepsHeld s (execPllLock s) := by
  unfold execPllLock
  split <;> simp only [held_mk, setF_held, keepsHeld_next]

@[simp] theorem pickImage_held (s : State) : held (pickImage s).2 = held s := by simp [pickImage]

@[simp] theorem takeDirectory_held (s : State) (b : Block) : held (takeDirectory s b) = held s := by
  unfold takeDirectory
  repeat' first
    | (simp only [held_mk, bootFail_held, setF_held]; done)
    | (simp; done)
    | split
    | (refine (held_foldl (fun _ _ => ?_) _ _).trans ?_)
    | (refine held_snd (by assumption) ?_)
    | (refine held_fst (by assumption) ?_)
    | (refine held_thd (by assumption) ?_)
    | (simp +zetaDelta; done)
    | simp

@[simp] theorem execDirectory_held (b : Block) (s : State) : keepsHeld s (execDirectory b s) := by
  unfold execDirectory
  split <;> simp only [held_mk, takeDirectory_held, keepsHeld_next]

@[simp] theorem failSlot_held (s : State) (cause : Nat) : held (failSlot s cause) = held s := by
  simp only [failSlot, held_mk, setF_held, orF_held]

@[simp] theorem takeBytes_held (s : State) (b : Block) : held (takeBytes s b) = held s := by
  simp only [takeBytes, held_mk, failSlot_held, apply_ite held, ite_self]

@[simp] theorem execData_held (b : Block) (s : State) : keepsHeld s (execData b s) := by
  unfold execData
  repeat' first
    | (simp only [held_mk, takeBytes_held, keepsHeld_next]; done)
    | (simp; done)
    | split
    | (refine (held_foldl (fun _ _ => ?_) _ _).trans ?_)
    | (refine held_snd (by assumption) ?_)
    | (refine held_fst (by assumption) ?_)
    | (refine held_thd (by assumption) ?_)
    | (simp +zetaDelta; done)
    | simp

@[simp] theorem putSram_held (s : State) (a1 : Nat) (a2 : List Byte) : held (putSram s a1 a2) = held s := by
  induction a2 generalizing s a1 with
  | nil => simp only [putSram]
  | cons v l ih =>
    unfold putSram
    extract_lets m
    rw [ih, held_mk]

@[simp] theorem setShadow_held (s : State) : held (setShadow s) = held s := by
  unfold setShadow
  extract_lets l r s1
  have h1 : held s1 = held s := by
    simp only [s1]
    split <;> simp only [setF_held]
  clear_value s1
  split <;> simp only [setF_held, h1]

@[simp] theorem startFirmware_held (s : State) : held (startFirmware s) = held s := by
  simp only [startFirmware, held_mk, setF_held, logEvt_held, trcPush_held, apply_ite held, ite_self]

@[simp] theorem bootUnused_held (s : State) : held (bootUnused s) = held s := by
  simp only [bootUnused, held_mk, startFirmware_held, setF_held, setShadow_held]

@[simp] theorem execAuthDone_held (s : State) : keepsHeld s (execAuthDone s) := by
  unfold execAuthDone
  (repeat' split) <;> simp only [held_mk, failSlot_held, bootUnused_held, setF_held, keepsHeld_next]

@[simp] theorem applyThen_held (x : Bool × State) (f : State → Bool × State) (hf : ∀ x0, held (f x0).2 = held x0) :
    held (applyThen x f).2 = held x.2 := by
  unfold applyThen
  split
  · exact hf _
  · rfl

@[simp] theorem applyPart_held (l : List Byte) (o : Nat) (s : State) (n : Nat) : held (applyPart l o s n) = held s := by
  unfold applyPart
  repeat' first
    | (simp only [held_mk, writeFields_held, writeAny_held]; done)
    | (simp; done)
    | split
    | (refine (held_foldl (fun _ _ => ?_) _ _).trans ?_)
    | (refine held_snd (by assumption) ?_)
    | (refine held_fst (by assumption) ?_)
    | (refine held_thd (by assumption) ?_)
    | (simp +zetaDelta; done)
    | simp

@[simp] theorem applyCreate_held (l : List Byte) (o : Nat) (x : Bool × State) (n : Nat) : held (applyCreate l o x n).2
    = held x.2 := by
  unfold applyCreate
  (repeat' split) <;> simp only [held_mk, createPart_held]

@[simp] theorem applyPartitions_held (l : List Byte) (t : List Sect) (s : State) : held (applyPartitions l t s).2 =
    held s := by
  unfold applyPartitions
  split
  · rfl
  · rename_i x hx
    have h1 : held ((List.range 16).foldl (applyPart l x.off) s) = held s := held_foldl (fun t k => applyPart_held _ _
        t k) _ _
    extract_lets s1
    split
    · exact (held_foldl_snd (fun p k => applyCreate_held _ _ p k) _ _).trans h1
    · exact h1

@[simp] theorem applyRole_held (l : List Byte) (s : State) : held (applyRole l s) = held s := by
  simp only [applyRole, held_mk, setShadow_held, setF_held]

@[simp] theorem applyBib_held (l : List Byte) (o b : Nat) (x : Bool × State) (i : Nat) : held (applyBib l o b x i).2 =
    held x.2 := by
  unfold applyBib
  split <;> simp

@[simp] theorem applySect_held (l : List Byte) (x : Bool × State) (y : Sect) : held (applySect l x y).2 = held x.2 := by
  unfold applySect
  split
  · exact held_foldl (fun _ _ => writeAny_held _ _ _ _) _ _
  · exact held_mk _ ..
  · exact held_foldl_snd (fun p k => applyBib_held _ _ _ p k) _ _
  · rfl

@[simp] theorem applyType_held (l : List Byte) (t : List Sect) (ty : Nat) (s : State) : held (applyType l t ty s).2 =
    held s := by
  unfold applyType
  refine (held_foldl_snd (fun p y => ?_) _ _).trans rfl
  split
  · exact applySect_held _ _ _
  · rfl

@[simp] theorem applyAll_held (s : State) : held (applyAll s).2 = held s := by
  simp only [applyAll, applyThen_held, applyType_held, applyRole_held, applyPartitions_held, implies_true]

@[simp] theorem clearStaging_held (s : State) : held (clearStaging s) = held s := by simp only [clearStaging, held_mk]

@[simp] theorem initStep_held (s : State) : held (initStep s) = held s := by
  simp only [initStep, held_mk, retuneTo_held, stepDue_held, apply_ite held, ite_self]

@[simp] theorem endApply_held (s : State) : held (endApply s) = held s := by
  simp only [endApply, held_mk, initStep_held, clearStaging_held, setF_held, startFirmware_held]

@[simp] theorem execApplyDone_held (s : State) : keepsHeld s (execApplyDone s) := by
  unfold execApplyDone
  repeat' first
    | (simp only [held_mk, applyAll_held, endApply_held, failSlot_held, keepsHeld_next]; done)
    | (simp; done)
    | split
    | (refine (held_foldl (fun _ _ => ?_) _ _).trans ?_)
    | (refine held_snd (by assumption) ?_)
    | (refine held_fst (by assumption) ?_)
    | (refine held_thd (by assumption) ?_)
    | (simp +zetaDelta; done)
    | simp

end Sys2Proof.Machine
end

