-- ==== Sys2Proof/Laws/Sparse.lean ====
section
/-! SUPPORT. Laws of the sparse maps: what a key reads as after an update, and that every update keeps the canonical
form. -/

namespace Sys2Proof.Machine

variable {α : Type}

@[simp] theorem Sparse.find_nil (k : Nat) : Sparse.find ([] : Sparse α) k = none := rfl

@[simp] theorem Sparse.at_nil (k : Nat) (d : α) : Sparse.at ([] : Sparse α) k d = d := rfl

/-- A key just listed reads as what was put there. -/
@[simp] theorem Sparse.find_put_same (m : Sparse α) (k : Nat) (v : α) : Sparse.find (Sparse.put m k v) k = some v := by
  induction m with
  | nil => simp [Sparse.put, Sparse.find]
  | cons p r ih =>
    obtain ⟨j, w⟩ := p
    unfold Sparse.put
    split
    · simp [Sparse.find]
    · split
      · simp [Sparse.find]
      · rename_i h
        simp [Sparse.find, h, ih]

/-- Another key reads as before. -/
theorem Sparse.find_put_other (m : Sparse α) {k j : Nat} (v : α) (h : j ≠ k) :
    Sparse.find (Sparse.put m k v) j = Sparse.find m j := by
  induction m with
  | nil => simp [Sparse.put, Sparse.find, Ne.symm h]
  | cons p r ih =>
    obtain ⟨i, w⟩ := p
    unfold Sparse.put
    split
    · simp [Sparse.find, Ne.symm h]
    · split
      · rename_i hi
        subst hi
        simp [Sparse.find, Ne.symm h]
      · simp [Sparse.find, ih]

/-- A deleted key is not listed. -/
@[simp] theorem Sparse.find_del_same (m : Sparse α) (k : Nat) : Sparse.find (Sparse.del m k) k = none := by
  induction m with
  | nil => rfl
  | cons p r ih =>
    obtain ⟨i, w⟩ := p
    unfold Sparse.del
    split
    · exact ih
    · rename_i h
      simp [Sparse.find, h, ih]

/-- Another key reads as before. -/
theorem Sparse.find_del_other (m : Sparse α) {k j : Nat} (h : j ≠ k) :
    Sparse.find (Sparse.del m k) j = Sparse.find m j := by
  induction m with
  | nil => rfl
  | cons p r ih =>
    obtain ⟨i, w⟩ := p
    unfold Sparse.del
    split
    · rename_i hi
      subst hi
      simp [Sparse.find, Ne.symm h, ih]
    · simp [Sparse.find, ih]

/-- A key reads as the value it was set to. -/
@[simp] theorem Sparse.at_set_same [DecidableEq α] (m : Sparse α) (k : Nat) (v d : α) :
    Sparse.at (Sparse.set m k v d) k d = v := by
  unfold Sparse.at Sparse.set
  split
  · rename_i h
    simp [h]
  · simp

/-- Another key reads as before. -/
theorem Sparse.at_set_other [DecidableEq α] (m : Sparse α) {k j : Nat} (v d e : α) (h : j ≠ k) :
    Sparse.at (Sparse.set m k v d) j e = Sparse.at m j e := by
  unfold Sparse.at Sparse.set
  split
  · rw [Sparse.find_del_other m h]
  · rw [Sparse.find_put_other m v h]

/-- Every key of the list is above `k`. -/
def Sparse.above (k : Nat) (m : Sparse α) : Bool := m.all (fun p => decide (k < p.1))

theorem Sparse.sorted_cons (p : Nat × α) (m : Sparse α) :
    Sparse.sorted (p :: m) = (Sparse.above p.1 m && Sparse.sorted m) := by
  induction m generalizing p with
  | nil => simp [Sparse.sorted, Sparse.above]
  | cons q r ih =>
    obtain ⟨j, v⟩ := p
    obtain ⟨k, w⟩ := q
    rw [Sparse.sorted, ih]
    rw [Bool.eq_iff_iff]
    simp only [Sparse.above, List.all_cons, Bool.and_eq_true, decide_eq_true_eq, List.all_eq_true]
    constructor
    · rintro ⟨h, hr, hs⟩
      exact ⟨⟨h, fun x hx => Nat.lt_trans h (hr x hx)⟩, hr, hs⟩
    · rintro ⟨⟨h, _⟩, hr, hs⟩
      exact ⟨h, hr, hs⟩

theorem Sparse.above_put {j k : Nat} {m : Sparse α} (v : α) (h : Sparse.above j m = true) (g : j < k) :
    Sparse.above j (Sparse.put m k v) = true := by
  induction m with
  | nil => simpa [Sparse.put, Sparse.above] using g
  | cons p r ih =>
    obtain ⟨i, w⟩ := p
    simp only [Sparse.above, List.all_cons, Bool.and_eq_true, decide_eq_true_eq] at h ih
    unfold Sparse.put
    split
    · simp [Sparse.above, g, h.1, h.2]
    · split
      · simp [Sparse.above, g, h.2]
      · simp [Sparse.above, h.1, ih h.2]

theorem Sparse.above_del {j k : Nat} {m : Sparse α} (h : Sparse.above j m = true) :
    Sparse.above j (Sparse.del m k) = true := by
  induction m with
  | nil => rfl
  | cons p r ih =>
    obtain ⟨i, w⟩ := p
    simp only [Sparse.above, List.all_cons, Bool.and_eq_true, decide_eq_true_eq] at h ih
    unfold Sparse.del
    split
    · exact ih h.2
    · simp [Sparse.above, h.1, ih h.2]

theorem Sparse.above_mono {j k : Nat} {m : Sparse α} (h : Sparse.above k m = true) (g : j ≤ k) :
    Sparse.above j m = true := by
  simp only [Sparse.above, List.all_eq_true, decide_eq_true_eq] at h ⊢
  exact fun x hx => Nat.lt_of_le_of_lt g (h x hx)

/-- Listing a value keeps the keys rising. -/
theorem Sparse.sorted_put {m : Sparse α} (k : Nat) (v : α) (h : Sparse.sorted m = true) :
    Sparse.sorted (Sparse.put m k v) = true := by
  induction m with
  | nil => rfl
  | cons p r ih =>
    obtain ⟨i, w⟩ := p
    have h0 := h
    rw [Sparse.sorted_cons, Bool.and_eq_true] at h
    unfold Sparse.put
    split
    · rename_i hk
      rw [Sparse.sorted_cons, Bool.and_eq_true]
      refine ⟨?_, h0⟩
      simp only [Sparse.above, List.all_cons, Bool.and_eq_true, decide_eq_true_eq]
      exact ⟨hk, Sparse.above_mono h.1 (Nat.le_of_lt hk)⟩
    · split
      · rename_i hi
        subst hi
        rw [Sparse.sorted_cons, Bool.and_eq_true]
        exact h
      · rename_i h1 h2
        rw [Sparse.sorted_cons, Bool.and_eq_true]
        exact ⟨Sparse.above_put v h.1 (by simp only at h1 h2 ⊢; omega), ih h.2⟩

/-- Deleting a key keeps the keys rising. -/
theorem Sparse.sorted_del {m : Sparse α} (k : Nat) (h : Sparse.sorted m = true) :
    Sparse.sorted (Sparse.del m k) = true := by
  induction m with
  | nil => rfl
  | cons p r ih =>
    obtain ⟨i, w⟩ := p
    rw [Sparse.sorted_cons, Bool.and_eq_true] at h
    unfold Sparse.del
    split
    · exact ih h.2
    · rw [Sparse.sorted_cons, Bool.and_eq_true]
      exact ⟨Sparse.above_del h.1, ih h.2⟩

theorem Sparse.all_put {m : Sparse α} {f : α → Bool} (k : Nat) (v : α) (h : m.all (fun p => f p.2) = true)
    (g : f v = true) : (Sparse.put m k v).all (fun p => f p.2) = true := by
  induction m with
  | nil => simpa [Sparse.put] using g
  | cons p r ih =>
    obtain ⟨i, w⟩ := p
    simp only [List.all_cons, Bool.and_eq_true] at h
    unfold Sparse.put
    split
    · simp [g, h.1, h.2]
    · split
      · simp [g, h.2]
      · simp [h.1, ih h.2]

theorem Sparse.all_del {m : Sparse α} {f : α → Bool} (k : Nat) (h : m.all (fun p => f p.2) = true) :
    (Sparse.del m k).all (fun p => f p.2) = true := by
  induction m with
  | nil => rfl
  | cons p r ih =>
    obtain ⟨i, w⟩ := p
    simp only [List.all_cons, Bool.and_eq_true] at h
    unfold Sparse.del
    split
    · exact ih h.2
    · simp [h.1, ih h.2]

/-- Setting a key keeps the canonical form. -/
theorem Sparse.wf_set [DecidableEq α] {m : Sparse α} {d : α} (k : Nat) (v : α) (h : Sparse.wf m d = true) :
    Sparse.wf (Sparse.set m k v d) d = true := by
  unfold Sparse.wf at h ⊢
  rw [Bool.and_eq_true] at h ⊢
  unfold Sparse.set
  split
  · exact ⟨Sparse.sorted_del k h.1, Sparse.all_del (f := fun x => decide (x ≠ d)) k h.2⟩
  · rename_i hv
    exact ⟨Sparse.sorted_put k v h.1, Sparse.all_put (f := fun x => decide (x ≠ d)) k v h.2 (by simpa using hv)⟩

-- ## Register fields

/-- A field reads as what was stored in it, cut to its width. -/
@[simp] theorem getF_setF_same (s : State) (f : Fld) (v : Nat) : getF (setF s f v) f = v % 2 ^ f.w := by
  simp [getF, setF]

/-- A field reads within its width. -/
theorem getF_lt (s : State) (f : Fld) : getF s f < 2 ^ f.w := Nat.mod_lt _ (Nat.two_pow_pos _)

@[simp] theorem getF_mod (s : State) (f : Fld) : getF s f % 2 ^ f.w = getF s f := Nat.mod_eq_of_lt (getF_lt s f)

/-- A field at another place reads as before. -/
theorem getF_setF_other (s : State) {f g : Fld} (v : Nat) (h : g.key ≠ f.key) : getF (setF s f v) g = getF s g := by
  simp [getF, setF, Sparse.at_set_other _ _ _ _ h]

/-- A field put back reads as its reset value. -/
@[simp] theorem getF_rstF_same (s : State) (f : Fld) : getF (rstF s f) f = f.rst % 2 ^ f.w := by
  simp [getF, rstF, Sparse.at]

theorem getF_rstF_other (s : State) {f g : Fld} (h : g.key ≠ f.key) : getF (rstF s f) g = getF s g := by
  simp [getF, rstF, Sparse.at, Sparse.find_del_other _ h]

-- ## Memory

/-- The byte written reads back. -/
@[simp] theorem readByte_writeByte_same (s : State) (a : Nat) (v : Byte) : readByte (writeByte s a v) a = v := by
  simp [readByte, writeByte]

/-- Every other byte reads as before. -/
theorem readByte_writeByte_other (s : State) {a b : Nat} (v : Byte) (h : b ≠ a) :
    readByte (writeByte s a v) b = readByte s b := by
  simp [readByte, writeByte, Sparse.at_set_other _ _ _ _ h]

/-- A write keeps the canonical form of memory. -/
theorem memory_wf_writeByte {s : State} (a : Nat) (v : Byte) (h : Memory.wf s.mem = true) :
    Memory.wf (writeByte s a v).mem = true := Sparse.wf_set a v h

end Sys2Proof.Machine
end

