-- ==== Sys2Proof/Laws/Tick.lean ====
section
/-! SUPPORT. What the operations of Machine/Tick.lean leave alone: the command queue and the bytes of the bank arrays. -/

namespace Sys2Proof.Machine

@[simp] theorem countSlots_held (s : State) : held (countSlots s) = held s := by
  simp only [countSlots, held_mk, apply_ite held, ite_self]

@[simp] theorem concourseEdge_held (s : State) : held (concourseEdge s) = held s := by
  unfold concourseEdge
  repeat' first
    | (simp only [held_mk, freeInputs_held, deliverRets_held, noteWaits_held, arbitrate_held]; done)
    | (simp; done)
    | split
    | (refine (held_foldl (fun _ _ => ?_) _ _).trans ?_)
    | (refine held_snd (by assumption) ?_)
    | (refine held_fst (by assumption) ?_)
    | (refine held_thd (by assumption) ?_)
    | (simp +zetaDelta; done)
    | simp

@[simp] theorem applySigs_held (s : State) : held (applySigs s) = held s := by
  unfold applySigs
  repeat' first
    | (simp only [held_mk, signalAs_held]; done)
    | (simp; done)
    | split
    | (refine (held_foldl (fun _ _ => ?_) _ _).trans ?_)
    | (refine held_snd (by assumption) ?_)
    | (refine held_fst (by assumption) ?_)
    | (refine held_thd (by assumption) ?_)
    | (simp +zetaDelta; done)
    | simp

@[simp] theorem oneCycle_held (s : State) : held (oneCycle s) = held s := by
  unfold oneCycle
  repeat' first
    | (simp only [held_mk, concourseEdge_held, countSlots_held, trcDrain_held, countStalls_held, ctrEvent_held,
        leadsDue_held, applySigs_held]; done)
    | (simp; done)
    | split
    | (refine (held_foldl (fun _ _ => ?_) _ _).trans ?_)
    | (refine held_snd (by assumption) ?_)
    | (refine held_fst (by assumption) ?_)
    | (refine held_thd (by assumption) ?_)
    | (simp +zetaDelta; done)
    | simp

@[simp] theorem cyclesOfTick_held (s : State) : held (cyclesOfTick s) = held s := by
  unfold cyclesOfTick
  repeat' first
    | (simp only [held_mk]; done)
    | (simp; done)
    | split
    | (refine (held_foldl (fun _ _ => ?_) _ _).trans ?_)
    | (refine held_snd (by assumption) ?_)
    | (refine held_fst (by assumption) ?_)
    | (refine held_thd (by assumption) ?_)
    | (simp +zetaDelta; done)
    | simp

@[simp] theorem advanceCount_held (s : State) : held (advanceCount s) = held s := by
  unfold advanceCount
  repeat' first
    | (simp only [held_mk, checkSource_held, ctrEvent_held]; done)
    | (simp; done)
    | split
    | (refine (held_foldl (fun _ _ => ?_) _ _).trans ?_)
    | (refine held_snd (by assumption) ?_)
    | (refine held_fst (by assumption) ?_)
    | (refine held_thd (by assumption) ?_)
    | (simp +zetaDelta; done)
    | simp

@[simp] theorem tick_held (s : State) : held (tick s) = held s := by
  unfold tick
  repeat' first
    | (simp only [held_mk, oneCycle_held, cyclesOfTick_held, advanceCount_held]; done)
    | (simp; done)
    | split
    | (refine (held_foldl (fun _ _ => ?_) _ _).trans ?_)
    | (refine held_snd (by assumption) ?_)
    | (refine held_fst (by assumption) ?_)
    | (refine held_thd (by assumption) ?_)
    | (simp +zetaDelta; done)
    | simp

end Sys2Proof.Machine
end

