-- ==== Sys2Proof/Laws/Memory.lean ====
section
/-! SUPPORT. The operations that store to the bank arrays, and those that clear them, keep the canonical form of memory
and the command queue. -/

namespace Sys2Proof.Machine

/-- The queue is `q` and memory is in canonical form. -/
def formed (q : List Instr) (v : List Instr × List Host.Cell) : Prop := v.1 = q ∧ Memory.wf v.2 = true

/-- The next state of an outcome, if it gives one, is formed. -/
def keepsForm (q : List Instr) (o : Host.Outcome State Fault Refusal) : Prop := ∀ u, o = .next u → formed q (held u)

theorem keepsForm_next (q : List Instr) (u : State) : keepsForm q (.next u) ↔ formed q (held u) := by
  simp [keepsForm]

/-- An outcome that leaves the held part alone keeps its form. -/
theorem keepsForm_of_held {q : List Instr} {s : State} {o : Host.Outcome State Fault Refusal} (h : formed q (held s))
    (k : keepsHeld s o) : keepsForm q o := by
  intro u e
  rw [k u e]
  exact h

theorem formed_foldl {α : Type} {q : List Instr} {g : State → α → State}
    (h : ∀ t x, formed q (held t) → formed q (held (g t x))) (l : List α) {s : State} (hs : formed q (held s)) :
    formed q (held (l.foldl g s)) := by
  induction l generalizing s with
  | nil => exact hs
  | cons x l ih => exact ih (h s x hs)

theorem writeByte_formed {q : List Instr} {s : State} (a : Nat) (v : Byte) (h : formed q (held s)) :
    formed q (held (writeByte s a v)) := ⟨h.1, memory_wf_writeByte a v h.2⟩

theorem writeRow_formed {q : List Instr} {s : State} (pg : Nat) (d : Beat) (be : Nat) (h : formed q (held s)) :
    formed q (held (writeRow s pg d be)) := by
  unfold writeRow
  refine formed_foldl (fun t i ht => ?_) _ h
  split
  · exact writeByte_formed _ _ ht
  · exact ht

theorem damageRow_formed {q : List Instr} {s : State} (pg : Nat) (l : List Nat) (h : formed q (held s)) :
    formed q (held (damageRow s pg l)) := by
  unfold damageRow
  refine formed_foldl (fun t i ht => ?_) _ h
  split
  · rw [setPar_held]
    exact writeByte_formed _ _ ht
  · rw [setPar_held]
    exact ht

theorem storeRow_formed {q : List Instr} {s : State} (pg : Nat) (d : Beat) (be m fl : Nat) (h : formed q (held s)) :
    formed q (held (storeRow s pg d be m fl)) := by
  unfold storeRow
  simp only [setFlip_held, setPar_held]
  exact writeRow_formed _ _ _ h

theorem readSlot_formed {q : List Instr} {s : State} (r : Request) (g : Nat) (ph : Phys) (h : formed q (held s)) :
    formed q (held (readSlot s r g ph).2) := by
  unfold readSlot
  extract_lets pg s1 st s2 d m s3
  have h2 : formed q (held s2) := by
    simp only [s2, s1, noteSlot_held, readStateWord_held]
    exact damageRow_formed _ _ h
  clear_value s1 s2 st pg
  split
  · exact h2
  · split
    · exact h2
    · have h3 : held s3 = held s2 := by simp only [s3, noteParity_held]
      clear_value s3
      dsimp only
      split
      · rw [makeState_held, h3]
        exact h2
      · rw [h3]
        exact h2

theorem writeSlot_formed {q : List Instr} {s : State} (r : Request) (a : GAcc) (ph : Phys) (h : formed q (held s)) :
    formed q (held (writeSlot s r a ph)) := by
  unfold writeSlot
  extract_lets g pg s1 st s2 fi m s3 fs full zero d s4
  have h2 : formed q (held s2) := by
    simp only [s2, s1, noteSlot_held, readStateWord_held]
    exact damageRow_formed _ _ h
  have hf : held fi.2 = held s2 := by
    simp only [fi]
    split
    · rfl
    · exact flipAt_held _ _ _
  have h3 : held s3 = held s2 := by
    simp only [s3]
    split
    · exact hf
    · rw [noteParity_held]
      exact hf
  have h4 : formed q (held s4) := by
    refine storeRow_formed _ _ _ _ _ ?_
    have e : held fs.2 = held s3 := flipAt_held _ _ _
    rw [e, h3]
    exact h2
  clear_value s4 s2
  split
  · rw [makeState_held]
    exact h2
  · rw [makeState_held]
    exact h2
  · rw [makeState_held]
    exact h4

theorem bleachSlot_formed {q : List Instr} {s : State} (r : Request) (g : Nat) (ph : Phys) (h : formed q (held s)) :
    formed q (held (bleachSlot s r g ph)) := by
  unfold bleachSlot
  extract_lets pg s1 p2 fs s2
  have h2 : formed q (held p2.2) := by
    simp only [p2, s1, operandP2_held, noteSlot_held, readStateWord_held]
    exact damageRow_formed _ _ h
  have h3 : formed q (held s2) := by
    refine storeRow_formed _ _ _ _ _ ?_
    have e : held fs.2 = held p2.2 := flipAt_held _ _ _
    rw [e]
    exact h2
  clear_value s2 p2
  split
  · split
    · exact h3
    · rw [makeState_held]
      exact h3
  · exact h2

theorem adderStore_formed {q : List Instr} {s : State} (r : Request) (g d : Nat) (st : Bool) (h : formed q (held s)) :
    formed q (held (adderStore s r g d st)) := by
  unfold adderStore
  simp only [makeState_held, setFlip_held, setPar_held]
  refine writeRow_formed _ _ _ ?_
  rw [flipAt_held]
  exact h

theorem accumSlots_formed {q : List Instr} {s : State} (r : Request) (a : GAcc) (ph : Phys) (h : formed q (held s)) :
    formed q (held (accumSlots s r a ph)) := by
  unfold accumSlots
  refine adderStore_formed _ _ _ _ ?_
  simp only [noteXf_held, noteAdder_held, noteSlot_held]
  refine readSlot_formed _ _ _ ?_
  rw [operandP2_held]
  exact h

theorem atomSlots_formed {q : List Instr} {s : State} (r : Request) (a : GAcc) (ph : Phys) (h : formed q (held s)) :
    formed q (held (atomSlots s r a ph).2.2) := by
  unfold atomSlots
  extract_lets g w o p2 rd old x s1
  have h1 : formed q (held s1) := by
    simp only [s1, noteAdder_held, noteSlot_held]
    refine readSlot_formed _ _ _ ?_
    rw [operandP2_held]
    exact h
  clear_value s1
  split
  · exact h1
  · exact adderStore_formed _ _ _ _ h1

theorem readAccess_formed {q : List Instr} {s : State} (r : Request) (a : GAcc) (ph : Phys) (h : formed q (held s)) :
    formed q (held (readAccess s r a ph).2) := by
  unfold readAccess
  extract_lets rd p4 p6 st x
  have h1 : formed q (held p6.2) := by
    have e : held p6.2 = held rd.2 := by simp only [p6, p4, spillP6_held, readP4_held]
    rw [e]
    exact readSlot_formed _ _ _ h
  dsimp only
  split
  · rw [energyEvt_held, ctrEvent_held]
    exact h1
  · exact h1

theorem doAccess_formed {q : List Instr} {s : State} (r : Request) (a : GAcc) (ph : Phys) (h : formed q (held s)) :
    formed q (held (doAccess s r a ph).2.2) := by
  unfold doAccess
  split
  · split <;> exact h
  split
  · exact readAccess_formed _ _ _ h
  split
  · dsimp only
    split
    · exact bleachSlot_formed _ _ _ h
    · exact writeSlot_formed _ _ _ h
  split
  · exact accumSlots_formed _ _ _ h
  · extract_lets x
    split <;> exact atomSlots_formed _ _ _ h

theorem commitAccess_formed {q : List Instr} {s : State} (i : TInput) (r : Request) (a : GAcc) (ph : Phys)
    (h : formed q (held s)) : formed q (held (commitAccess s i r a ph)) := by
  unfold commitAccess
  extract_lets x src r1 s1 s2 s3
  have h1 : formed q (held s1) := by
    simp only [s1, putReq_held]
    exact doAccess_formed _ _ _ h
  have h2 : held s2 = held s1 := by
    simp only [s2]
    split <;> simp only [bumpGen_held]
  have h3 : held s3 = held s2 := by simp only [s3, notePort_held, passInput_held, logReadback_held]
  rw [finishReq_held, pushRet_held, h3, h2]
  exact h1

theorem putByte_formed {q : List Instr} {s : State} (a : Nat) (v : Byte) (h : formed q (held s)) :
    formed q (held (putByte s a v)) := by
  unfold putByte
  refine writeByte_formed _ _ ?_
  split
  · simp only [setFlip_held, setPar_held, setState_held]
    exact writeRow_formed _ _ _ h
  · exact h

theorem putBytes_formed {q : List Instr} {s : State} (a : Nat) (l : List Byte) (h : formed q (held s)) :
    formed q (held (putBytes s a l)) := by
  induction l generalizing s a with
  | nil => exact h
  | cons v l ih => exact ih _ (putByte_formed _ _ h)

theorem placeSections_formed {q : List Instr} {s : State} (h : formed q (held s)) : formed q (held (placeSections s)) := by
  unfold placeSections
  refine putBytes_formed _ _ (formed_foldl (fun t x ht => ?_) _ h)
  split
  · rw [putSram_held]
    exact ht
  · split
    · exact putBytes_formed _ _ ht
    · exact ht

theorem endPass_formed {q : List Instr} {s : State} (h : formed q (held s)) : formed q (held (endPass s)) := by
  unfold endPass
  extract_lets n src s1 s2
  have h1 : held s1 = held s := by simp only [s1, setF_held, held_mk]
  have h2 : formed q (held s2) := placeSections_formed (by rw [h1]; exact h)
  clear_value s2 s1
  split
  · split
    · rw [failSlot_held, h1]
      exact h
    · rw [h1]
      exact h
  split
  · rw [failSlot_held, h1]
    exact h
  · split
    · rw [setF_held]
      exact h2
    · rw [failSlot_held]
      exact h2

theorem runBist_formed {q : List Instr} {s : State} (r : BistResult) (h : formed q (held s)) :
    formed q (held (runBist s r)) := by
  unfold runBist
  rw [held_foldl (fun t k => noteBist_held r t k)]
  exact ⟨h.1, rfl⟩

theorem coldState_formed {q : List Instr} {s : State} (c : Nat) (h : formed q (held s)) :
    formed q (held (coldState s c)) := by
  unfold coldState
  rw [noteReset_held, setF_held]
  exact ⟨h.1, rfl⟩

theorem reformState_formed {q : List Instr} {s : State} (h : formed q (held s)) : formed q (held (reformState s)) := by
  unfold reformState
  dsimp only
  split
  · rw [bootFail_held, startMarshals_held, noteReset_held]
    exact h
  · rw [setF_held, startMarshals_held, noteReset_held]
    exact h

-- ## The commands that store or clear

theorem execAccessCommit_formed {q : List Instr} {s : State} (bank : Nat) (ph : Phys) (h : formed q (held s)) :
    keepsForm q (execAccessCommit bank ph s) := by
  unfold execAccessCommit
  split
  · exact (keepsForm_next _ _).2 h
  split
  · exact (keepsForm_next _ _).2 h
  split
  · exact (keepsForm_next _ _).2 (commitAccess_formed _ _ _ _ h)
  · exact (keepsForm_next _ _).2 h

theorem execColdReset_formed {q : List Instr} {s : State} (h : formed q (held s)) : keepsForm q (execColdReset s) := by
  unfold execColdReset
  split
  · exact (keepsForm_next _ _).2 (coldState_formed _ h)
  · exact (keepsForm_next _ _).2 h

theorem execVaonApplied_formed {q : List Instr} {s : State} (h : formed q (held s)) : keepsForm q (execVaonApplied s) :=
  (keepsForm_next _ _).2 ⟨h.1, rfl⟩

theorem execVaonRemoved_formed {q : List Instr} {s : State} (h : formed q (held s)) : keepsForm q (execVaonRemoved s) := by
  unfold execVaonRemoved
  split
  · refine (keepsForm_next _ _).2 ?_
    rw [setF_held]
    exact ⟨h.1, rfl⟩
  · exact (keepsForm_next _ _).2 h

theorem execSupplyReset_formed {q : List Instr} {s : State} (h : formed q (held s)) : keepsForm q (execSupplyReset s) := by
  unfold execSupplyReset
  split
  · exact (keepsForm_next _ _).2 h
  split
  · rw [keepsForm_next, ignoreTrigger_held]
    exact h
  · exact (keepsForm_next _ _).2 (coldState_formed _ h)

theorem execReformRestart_formed {q : List Instr} {s : State} (h : formed q (held s)) :
    keepsForm q (execReformRestart s) := by
  unfold execReformRestart
  split
  · split
    · refine (keepsForm_next _ _).2 (reformState_formed ?_)
      rw [held_foldl (fun t p => reformKill_held t p)]
      exact h
    · exact (keepsForm_next _ _).2 h
  · exact (keepsForm_next _ _).2 h

theorem execBistDone_formed {q : List Instr} {s : State} (r : BistResult) (h : formed q (held s)) :
    keepsForm q (execBistDone r s) := by
  unfold execBistDone
  split
  · exact (keepsForm_next _ _).2 h
  · extract_lets s1
    have h1 : held s1 = held s := startMarshals_held _ _
    clear_value s1
    split
    · rw [keepsForm_next, bootFail_held, h1]
      exact h
    · rw [keepsForm_next, bootOtp_held]
      exact runBist_formed r (by rw [h1]; exact h)

theorem execEndOfPass_formed {q : List Instr} {s : State} (b : Block) (h : formed q (held s)) :
    keepsForm q (execEndOfPass b s) := by
  unfold execEndOfPass
  split
  · exact (keepsForm_next _ _).2 (endPass_formed h)
  · exact (keepsForm_next _ _).2 h

end Sys2Proof.Machine
end

