-- ==== Sys2Proof/Laws/Notes.lean ====
section
/-! SUPPORT. What the operations that note an event change: the counters, the trace, the error log, the interrupt source and
what is sent. Every other register field and every other part of the state stays (`Noted`). -/

namespace Sys2Proof.Machine

/-- The register fields that a noted event can change. -/
def noteKeys : List Nat :=
  [F.GLB_IRQ_STAT_PEND.key, F.TRC_STAT_WRAPPED.key, F.TRC_STAT_FULL.key, F.TRC_STAT_DROP.key, F.TRC_CNT_LOST_CNT.key,
   F.CTR_OVF_OVF.key, F.INT_LOG_CNT_LOST_CNT.key, F.INT_LOG_CNT_OVF_CNT.key, F.INT_LOG_PTR_HEAD.key, F.INT_LOG_PTR_TAIL.key,
   F.INT_STAT_LOG_LOST.key]

/-- The state without what a noted event changes. -/
def unnoted (s : State) : State :=
  { s with regs := [], ctr := [], trc := ⟨[], [], 0, 0, 0⟩, out := [], free := 0, energy := [],
           integ := { s.integ with logEnt := [], logFailed := false, gasp := [] } }

/-- `t` is `s` but for noted events. -/
def Noted (s t : State) : Prop := (∀ f : Fld, f.key ∉ noteKeys → getF t f = getF s f) ∧ unnoted t = unnoted s

theorem Noted.refl (s : State) : Noted s s := ⟨fun _ _ => rfl, rfl⟩

theorem Noted.trans {s t u : State} (h : Noted s t) (g : Noted t u) : Noted s u :=
  ⟨fun f k => (g.1 f k).trans (h.1 f k), g.2.trans h.2⟩

theorem Noted.ite {s a b : State} {c : Prop} [Decidable c] (h : Noted s a) (g : Noted s b) : Noted s (if c then a else b) := by
  split <;> assumption

theorem setF_noted (s : State) (f : Fld) (v : Nat) (h : f.key ∈ noteKeys) : Noted s (setF s f v) :=
  ⟨fun _ hg => getF_setF_other s v (fun e => hg (e ▸ h)), rfl⟩

theorem incF_noted (s : State) (f : Fld) (n : Nat) (h : f.key ∈ noteKeys) : Noted s (incF s f n) := setF_noted _ _ _ h

theorem orF_noted (s : State) (f : Fld) (n : Nat) (h : f.key ∈ noteKeys) : Noted s (orF s f n) := setF_noted _ _ _ h

/-- An update of what `unnoted` forgets. -/
theorem Noted.of_regs {s t : State} (h : t.regs = s.regs) (g : unnoted t = unnoted s) : Noted s t :=
  ⟨fun f _ => by unfold getF; rw [h], g⟩

theorem emit_noted (s : State) (p : OutPkt) : Noted s (emit s p) := .of_regs rfl rfl

theorem energyEvt_noted (s : State) (a b c n : Nat) : Noted s (energyEvt s a b c n) := .of_regs rfl rfl

theorem takeFree_noted (s : State) (n : Nat) : Noted s (takeFree s n).2 := .of_regs rfl rfl

theorem raiseIrq_noted (s : State) (n : Nat) : Noted s (raiseIrq s n) := by
  unfold raiseIrq
  have h := orF_noted s F.GLB_IRQ_STAT_PEND n (by decide)
  exact .ite (.refl s) (.ite (h.trans (emit_noted _ _)) h)

theorem irqIf_noted (s : State) (en : Fld) (n : Nat) : Noted s (irqIf s en n) := .ite (raiseIrq_noted s n) (.refl s)

theorem trcDiscard_noted (s : State) : Noted s (trcDiscard s) :=
  .trans (.of_regs (t := { s with trc := { s.trc with lost := s.trc.lost + 1 } }) rfl rfl)
    ((setF_noted _ F.TRC_STAT_DROP 1 (by decide)).trans (incF_noted _ F.TRC_CNT_LOST_CNT 1 (by decide)))

theorem trcPush_noted (s : State) (r : Nat) : Noted s (trcPush s r) := by
  unfold trcPush
  refine .ite (.refl s) (.ite (incF_noted _ _ _ (by decide)) (.ite (trcDiscard_noted s) (.ite (.of_regs rfl rfl) ?_)))
  dsimp only
  exact .ite (.trans (.of_regs rfl rfl) (trcDiscard_noted _)) (.of_regs rfl rfl)

theorem ctrAdd_noted (s : State) (i n : Nat) (c : EvCtx) : Noted s (ctrAdd s i n c) := by
  unfold ctrAdd
  dsimp only
  have h1 : Noted s { s with ctr := Sparse.set s.ctr i ((Sparse.at s.ctr i 0 + n) % 2 ^ 48) 0 } := .of_regs rfl rfl
  have h2 : ∀ c : Bool, Noted s (if c then irqIf (orF { s with ctr := Sparse.set s.ctr i ((Sparse.at s.ctr i 0 + n) % 2 ^ 48) 0 }
      F.CTR_OVF_OVF i) F.CTR_CTL_OVF_IRQ_EN 13
      else { s with ctr := Sparse.set s.ctr i ((Sparse.at s.ctr i 0 + n) % 2 ^ 48) 0 }) :=
    fun c => .ite (h1.trans ((orF_noted _ _ _ (by decide)).trans (irqIf_noted _ _ _))) h1
  exact .ite ((h2 _).trans (trcPush_noted _ _)) (h2 _)

theorem Noted.foldl {α : Type} {g : State → α → State} (h : ∀ t x, Noted t (g t x)) (l : List α) (s : State) :
    Noted s (l.foldl g s) := by
  induction l generalizing s with
  | nil => exact .refl s
  | cons x l ih => exact (h s x).trans (ih _)

theorem ctrEvent_noted (s : State) (ev u n : Nat) (c : EvCtx) : Noted s (ctrEvent s ev u n c) :=
  .ite (.refl s) (.foldl (fun t i => .ite (ctrAdd_noted t i n c) (.refl t)) _ _)

theorem gaspAdd_noted (s : State) (e : Nat) : Noted s (gaspAdd s e) :=
  .ite (.of_regs rfl rfl) (incF_noted _ _ _ (by decide))

theorem logFail_noted (s : State) (i : Nat) : Noted s (logFail s i) := by
  unfold logFail
  have h1 : Noted s { s with integ := { s.integ with logFailed := true } } := .of_regs rfl rfl
  have h2 := h1.trans (setF_noted _ F.INT_STAT_LOG_LOST 1 (by decide))
  exact (h2.trans (gaspAdd_noted _ _)).trans ((irqIf_noted _ _ _).trans (irqIf_noted _ _ _))

theorem logEnt_noted (s : State) (m : Sparse Nat) : Noted s { s with integ := { s.integ with logEnt := m } } := .of_regs rfl rfl

theorem logEvt_noted (s : State) (src sev part req gran bank track info : Nat) :
    Noted s (logEvt s src sev part req gran bank track info) := by
  unfold logEvt
  refine .ite (.refl s) ?_
  dsimp only
  generalize logWord s src sev part req gran bank track info = e
  generalize getF s F.INT_LOG_PTR_HEAD = hd
  generalize getF s F.INT_LOG_PTR_TAIL = tl
  have h1 : ∀ t, Noted s t → Noted s (if s.integ.logFailed then gaspAdd s e
      else if (hd + 1) % 256 == tl then setF (setF t F.INT_LOG_PTR_HEAD ((hd + 1) % 256)) F.INT_LOG_PTR_TAIL ((tl + 1) % 256)
      else setF t F.INT_LOG_PTR_HEAD ((hd + 1) % 256)) := fun t h =>
    have g := h.trans (setF_noted _ F.INT_LOG_PTR_HEAD ((hd + 1) % 256) (by decide))
    .ite (gaspAdd_noted _ _) (.ite (g.trans (setF_noted _ _ _ (by decide))) g)
  have h4 : ∀ a, Noted s a → Noted s (if sev = 2 then irqIf a F.INT_CTL_IRQ_STAIN 7
      else if sev = 3 then irqIf a F.INT_CTL_IRQ_FAULT 7 else a) :=
    fun a h => .ite (h.trans (irqIf_noted _ _ _)) (.ite (h.trans (irqIf_noted _ _ _)) h)
  have h5 := h4 _ (h1 { s with integ := { s.integ with logEnt := Sparse.set s.integ.logEnt hd e 0 } } (logEnt_noted s _))
  exact .ite (incF_noted _ _ _ (by decide)) (.ite (h5.trans (trcPush_noted _ _)) h5)

end Sys2Proof.Machine
end

