-- ==== Sys2Proof/Tests/Slice0.lean ====
section
/-! SUPPORT. The package's own tests. For each check of WellFormed an ill-formed command that it refuses; for each statement of
Certificates/Slice0/Obligations.lean concrete states and operands that meet its premises, clause by clause where they exclude each
other, most with a field of what `exec` then answers, worked out by hand from the rules. Each `witness_<topic>` belongs to the statement of that topic; the
sections follow the order of the statements. A clause whose case an opaque constant of Config decides has its premises shown only. -/

namespace Sys2Proof.Tests

set_option Elab.async false

open Sys2Proof Sys2Proof.Machine

-- ## Small helpers

/-- A state with some register fields set. -/
def put (l : List (Fld × Nat)) (s : State) : State := l.foldl (fun t x => setF t x.1 x.2) s

/-- A state at a tick. -/
def tickAt (n : Nat) (s : State) : State := { s with cad := { s.cad with count := n } }

/-- A test of what an outcome holds. -/
def ends (o : Host.Outcome State Fault Refusal) (f : State → Bool) : Bool :=
  match o with
  | .next t => f t
  | _ => false

/-- The queue aside, the outcome is the state itself. -/
def stays (o : Host.Outcome State Fault Refusal) (s : State) : Bool := ends o (fun t => t == s)

-- ## WellFormed refuses what is out of range

/-- A lane packet with nothing in it. -/
def pkt0 (lane ch flits : Nat) : LanePkt := ⟨lane, ch, flits, 0, [], .none⟩

theorem test_wf_lane : Instr.wf (.read (pkt0 63 2 1)) = true ∧ Instr.wf (.read (pkt0 64 2 1)) = false
    ∧ Instr.wf (.write (pkt0 0 3 1)) = false ∧ Instr.wf (.accum (pkt0 0 0 0)) = false
    ∧ Instr.wf (.channelUp 64 0) = false ∧ Instr.wf (.channelDown 0 3) = false ∧ Instr.wf (.creditReturnTimeout 63 3) = false := by
  decide

theorem test_wf_mesh : Instr.wf (.meshRequest ⟨4, 0, 0, 0, 0, [], .none⟩) = false
    ∧ Instr.wf (.meshRequest ⟨0, 24, 0, 0, 0, [], .none⟩) = false ∧ Instr.wf (.meshRequest ⟨0, 23, 480, 0, 0, [], .none⟩) = false
    ∧ Instr.wf (.meshRequest ⟨3, 23, 479, 0, 0, [], .none⟩) = true ∧ Instr.wf (.remoteAnswer ⟨0, 8, 0, 0, []⟩) = false
    ∧ Instr.wf (.countFrame 4 0) = false ∧ Instr.wf (.hello 4 0) = false ∧ Instr.wf (.helloReply 0 0 (2 ^ 32)) = false
    ∧ Instr.wf (.meshLinkTrained 4) = false ∧ Instr.wf (.shadowWrite 0 8192 0) = false := by decide

theorem test_wf_pacer : Instr.wf (.nop 16 0 ⟨false, .none, []⟩) = false ∧ Instr.wf (.endTask 15 4 ⟨false, .none, []⟩) = false
    ∧ Instr.wf (.endTask 15 3 ⟨false, .none, []⟩) = true ∧ Instr.wf (.hintStart 16) = false ∧ Instr.wf (.taskEnd 0 4) = false := by decide

theorem test_wf_units : Instr.wf (.tapeRelease 256) = false ∧ Instr.wf (.combWindowExpiry 0 8 0) = false
    ∧ Instr.wf (.combWindowExpiry 0 0 4) = false ∧ Instr.wf (.spill ⟨16, []⟩) = false ∧ Instr.wf (.partCreate (.ring 16)) = false
    ∧ Instr.wf (.partFault 5 0) = false ∧ Instr.wf (.partFault 4 4) = false ∧ Instr.wf (.partFault 4 3) = true
    ∧ Instr.wf (.accessCommit 512 ⟨.none, [], 0, 0, 0, false⟩) = false
    ∧ Instr.wf (.accessCommit 511 ⟨.none, [576], 0, 0, 0, false⟩) = false
    ∧ Instr.wf (.bistDone ⟨[512], [], []⟩) = false ∧ Instr.wf (.bistDone ⟨[], [16], []⟩) = false
    ∧ Instr.wf (.bistDone ⟨[], [], [2]⟩) = false ∧ Instr.wf (.directory ⟨0, []⟩) = false
    ∧ Instr.wf (.tierPageDelivery ⟨0, 0, 0, [], [], []⟩) = false := by decide

theorem test_wf_monitors : Instr.wf (.wakeRequest 8 0) = false ∧ Instr.wf (.wakeRequest 0 64) = false
    ∧ Instr.wf (.tempSample [0]) = false ∧ Instr.wf (.supplyBelowWarn 2) = false ∧ Instr.wf (.vmonRefresh []) = false
    ∧ Instr.wf (.pmonRefresh []) = false ∧ Instr.wf (.monitorToken (2 ^ 16)) = false := by decide

theorem test_wf_registers : Instr.wf (.bibCommit .marshal 4096 0 .none) = false ∧ Instr.wf (.bibStageWrite .marshal 0 4 0) = false
    ∧ Instr.wf (.btnCntWrite .marshal 16384 0 .none) = false ∧ Instr.wf (.btnCtlWrite .marshal 16384 0) = false
    ∧ Instr.wf (.tapeHeatWrite .marshal 256 0) = false ∧ Instr.wf (.rlyLoad .marshal 128 0) = false
    ∧ Instr.wf (.abort .marshal 16 0) = false ∧ Instr.wf (.partRegionWrite .marshal 0 7 0) = false
    ∧ Instr.wf (.laneCombWrite .marshal 64 0) = false ∧ Instr.wf (.splTierWrite .marshal 3 0 0) = false
    ∧ Instr.wf (.ctrSelWrite .marshal 32 0) = false ∧ Instr.wf (.mshLmapWrite 2 0) = false
    ∧ Instr.wf (.registerWrite (.port .marshal) 0 3 0) = false ∧ Instr.wf (.registerWrite (.port .marshal) 2 4 0) = true
    ∧ Instr.wf (.registerWrite (.port .marshal) (2 ^ 20) 4 0) = false ∧ Instr.wf (.registerWrite (.core 2) 0 4 0) = false
    ∧ Instr.wf (.registerWrite (.core 1) 2 4 0) = false ∧ Instr.wf (.registerWrite (.core 1) (2 ^ 32) 4 0) = false
    ∧ Instr.wf (.partKill ⟨.debug, [(512, 0, .single)]⟩) = false ∧ Instr.wf (.scoreboardPass ⟨5, [(16, 1)]⟩) = false := by decide

-- ## The block as a whole

theorem witness_empty_queue : ticksRun State.reset = false ∧ State.reset.pending = []
    ∧ (let s := put [(F.CPM_CLK_STAT_REF_READY, 1)] State.reset
       let q := { s with cad := { s.cad with slow := 3, phase := 15 } }
       ticksRun s = true ∧ ends (step s) (fun t => t.cad.count == 1 && t.cad.phase == 1) = true
       ∧ ends (step q) (fun t => t.cad.count == 0 && t.cad.phase == 0 && t.cad.slow == 2) = true) := by decide +kernel

theorem witness_step_is_next : ends (step { State.reset with pending := [.railsRemoved, .rcFail] })
    (fun t => t.pending == [.rcFail]) = true := by decide +kernel

theorem witness_invariant : Machine.Inv { State.reset with mem := [(5, 3), (9, 1)], pending := [.rcFail, .spill ⟨15, []⟩] } :=
  ⟨by decide, by decide⟩

theorem witness_other_command : storesMemory .rcFail = false
    ∧ ends (exec .rcFail { State.reset with mem := [(5, 3)] }) (fun t => readByte t 5 == 3) = true := by decide +kernel

theorem witness_reset_field : (F.TRK_STAT_BIST_DONE 0).rst < 2 ^ (F.TRK_STAT_BIST_DONE 0).w := by decide

-- ## The pacers

/-- A pace instruction: OP, D, A, B and the bits from 16 up (R386). -/
def ins (op d a b rest : Nat) : Nat := op + 64 * d + 512 * a + 4096 * b + 2 ^ 16 * rest

/-- A task of stream 1 of pacer 3, of partition 0, with X1 = 10, X2 = 7, X4 = 2^64 - 1, L2 = 1. -/
def task0 : Task where
  q := 3
  st := 1
  rid := 7
  h := unitHdr 0x16 4 0 0 0
  blk := 0
  bFirst := 0
  bLast := 100
  started := true
  parked := false
  x := [0, 10, 7, 0, 2 ^ 64 - 1, 0, 0, 0]
  l := [0, 5, 1, 0]
  src := none
  dst := none
  srcPage := none
  dstPage := none
  usedB := 0
  used := [0, 0, 0, 0, 0]
  pushes := []
  handles := []
  pwait := false
  lastSent := false
  prog := [0, 0, 0, 0, 0]
  abortAt := 0

/-- Its state with the instruction `i` at program counter `pc`. -/
def pacing (t : Task) (pc i : Nat) : State :=
  put [(F.PACER_S_STAT_STATE 3 1, 1), (F.PACER_S_STAT_PC 3 1, pc)] { State.reset with tasks := [t], pm := [(3 * 256 + pc, i)] }

/-- No damage. -/
def fine0 : InsUps := ⟨false, .none, []⟩

/-- The stream executes the instruction and then holds `v` in X[d], at the next instruction. -/
def writesX (op : Nat) (c : Instr) (i d v : Nat) : Bool :=
  executes op 3 1 i task0 fine0 (pacing task0 254 i)
  && ends (exec c (pacing task0 254 i)) (fun t => pcOf t 3 1 == 255 && (findTask t 3 1).map (fun u => u.x.getD d 0) == some v)

/-- The stream executes the instruction and then stands at `pc`. -/
def goesTo (op : Nat) (c : Instr) (i pc : Nat) : Bool :=
  executes op 3 1 i task0 fine0 (pacing task0 254 i) && ends (exec c (pacing task0 254 i)) (fun t => pcOf t 3 1 == pc)

theorem witness_pacer_arithmetic :
    goesTo 0 (.nop 3 1 fine0) (ins 0 0 0 0 0) 255 = true
    ∧ writesX 1 (.li 3 1 fine0) (ins 1 3 0 0 (2 ^ 48 - 1)) 3 (2 ^ 64 - 1) = true
    ∧ writesX 2 (.add 3 1 fine0) (ins 2 3 1 4 0) 3 9 = true
    ∧ writesX 3 (.addi 3 1 fine0) (ins 3 1 1 0 (2 ^ 32 - 11)) 1 (2 ^ 64 - 1) = true
    ∧ writesX 4 (.muli 3 1 fine0) (ins 4 3 4 0 2) 3 (2 ^ 64 - 2) = true
    ∧ writesX 5 (.shli 3 1 fine0) (ins 5 3 2 0 63) 3 (2 ^ 63) = true
    ∧ writesX 6 (.shri 3 1 fine0) (ins 6 3 4 0 60) 3 15 = true
    ∧ writesX 7 (.andi 3 1 fine0) (ins 7 3 4 0 (2 ^ 32 - 1)) 3 (2 ^ 32 - 1) = true := by decide +kernel

theorem witness_pacer_branches :
    goesTo 8 (.jmp 3 1 fine0) (ins 8 0 0 0 255) 255 = true
    ∧ goesTo 9 (.bnz 3 1 fine0) (ins 9 0 1 0 17) 17 = true ∧ goesTo 9 (.bnz 3 1 fine0) (ins 9 0 3 0 17) 255 = true
    ∧ goesTo 0xA (.beq 3 1 fine0) (ins 0xA 0 1 1 17) 17 = true ∧ goesTo 0xA (.beq 3 1 fine0) (ins 0xA 0 1 2 17) 255 = true
    ∧ goesTo 0xB (.loop 3 1 fine0) (ins 0xB 0 0 0 (9 * 2 ^ 27)) 9 = true
    ∧ goesTo 0xB (.loop 3 1 fine0) (ins 0xB 0 1 0 (4 + 9 * 2 ^ 27)) 255 = true
    ∧ goesTo 0xC (.endl 3 1 fine0) (ins 0xC 0 0 0 (1 + 4 * 20)) 20 = true
    ∧ goesTo 0xC (.endl 3 1 fine0) (ins 0xC 0 0 0 (2 + 4 * 20)) 255 = true := by decide +kernel

theorem witness_pacer_modes :
    (let i := ins 0x10 0 0 0 (1 + 8 * 4095)
     executes 0x10 3 1 i task0 fine0 (pacing task0 254 i)
     && ends (exec (.src 3 1 fine0) (pacing task0 254 i)) (fun t => (findTask t 3 1).bind (fun u => u.src) == some ⟨1, 4095, 0, 0⟩)) = true
    ∧ (let i := ins 0x11 0 0 2 (2 + 8)
       executes 0x11 3 1 i task0 fine0 (pacing task0 254 i)
       && ends (exec (.dst 3 1 fine0) (pacing task0 254 i)) (fun t => (findTask t 3 1).bind (fun u => u.dst) == some ⟨2, 7, 0, 0⟩)) = true := by
  decide +kernel

theorem witness_bad_instruction :
    (let i := ins 2 3 1 4 0
     findTask (pacing task0 0 i) 3 1 = some task0 ∧ fetched (pacing task0 0 i) 3 1 = i ∧ decoding (pacing task0 0 i) task0 = true
     ∧ ends (exec (.add 3 1 ⟨true, .none, []⟩) (pacing task0 0 i)) (fun t => getF t (F.PACER_STAT_PM_PERR 3) == 1) = true
     ∧ ends (exec (.add 3 1 fine0) (put [(F.PACER_S_STAT_STATE 3 1, 2)] (pacing task0 0 i))) (fun t => pcOf t 3 1 == 0) = true)
    ∧ insBad (ins 2 3 1 4 1) = true ∧ insBad (ins 0 0 0 0 0) = false ∧ pcOf (pacing task0 255 0) 3 1 = 255
    ∧ pacerRow 3 1 fine0 2 = some (.add 3 1 fine0) := by decide +kernel

theorem witness_parity_and_instr :
    (let i := ins 2 3 1 4 1
     decoding (pacing task0 0 i) task0 && insBad i
     && ends (exec (.add 3 1 ⟨true, .none, []⟩) (pacing task0 0 i)) (fun t => getF t (F.PACER_S_STAT_CAUSE 3 1) == 1
          && getF t (F.PACER_STAT_PM_PERR 3) == 1)
     && ends (exec (.add 3 1 ⟨true, .none, []⟩) (pacing task0 0 (ins 2 3 1 4 0))) (fun t => getF t (F.PACER_S_STAT_CAUSE 3 1) == 14)) = true := by
  decide +kernel

theorem witness_granules : (0 : Nat) < 2048 ∧ rowOf (512 * 2047 + 511) = 2047 ∧ bankOf 0 < 512 ∧ granAt (bankOf 1048575) (rowOf 1048575) = 1048575 := by
  decide +kernel

/-- Partition 0 is created, with rows 0 to 7. -/
def home : List (Fld × Nat) :=
  [(F.PART_STAT_STATE 0, 1), (F.PART_REGION_BASE_ROW 0, 0), (F.PART_REGION_ROW_CNT 0, 8), (F.PART_REGION_RD_EN 0, 1),
   (F.PART_REGION_WR_EN 0, 1)]

/-- A charge of 1,010 of each kind, a consumer. -/
def blk0 : Nat := 1010 * (1 + 2 ^ 24 + 2 ^ 48 + 2 ^ 72 + 2 ^ 96) + 2 ^ 169

/-- A task that moves between offsets 64 and 128 of the array. -/
def mover : Task := { task0 with x := [0, 64, 128, 65, 0, 0, 0, 0], blk := blk0, src := some ⟨0, 0, 0, 0⟩, dst := some ⟨1, 0, 0, 0⟩ }

/-- One that pushes to its consumer. -/
def pusher : Task := { mover with dst := some ⟨0, 0, 0, 0⟩ }

/-- The mover's state. -/
def moving (t : Task) (pc i : Nat) : State :=
  let s := put (home ++ [(F.LANE_CTL_CH_EN 0, 4), (F.PACER_S_CRED_AVAIL 3 1, 1)]) (pacing t pc i)
  { s with chans := [(2, ⟨true, 0, 0, 0, 0, 0, [], []⟩)] }

/-- What a plan decides. -/
def planIs (p : MovPlan) (a : Option Nat) (st : Bool) : Bool :=
  match p with
  | .abort c => a == some c
  | .stall _ => st
  | .part _ => false
  | .go _ => a == none && !st

theorem witness_mov_goes :
    (let i := ins 0x12 0 1 2 0
     executes 0x12 3 1 i mover fine0 (moving mover 254 i) && planIs (movPlan (moving mover 254 i) mover i) none false
     && ends (exec (.mov 3 1 fine0) (moving mover 254 i)) (fun t => pcOf t 3 1 == 255 && t.reqs.length == 2 && t.nextId == 2)) = true
    ∧ (let i := ins 0x12 0 1 0 0
       executes 0x12 3 1 i pusher fine0 (moving pusher 254 i) && planIs (movPlan (moving pusher 254 i) pusher i) none false
       && ends (exec (.mov 3 1 fine0) (moving pusher 254 i))
            (fun t => getF t (F.PACER_S_CRED_AVAIL 3 1) == 0 && getF t (F.PACER_S_PUSHSEQ_SEQ 3 1) == 1)) = true := by decide +kernel

theorem witness_mov_part :
    (let i := ins 0x12 0 1 2 1
     let m : Task := { mover with x := [0, 64, 256, 0, 0, 0, 0, 0], blk := 1 + 2 ^ 24 * 1010 + 2 ^ 48 * 1010 + 2 ^ 72 * 1010 + 2 ^ 96 * 1010 + 2 ^ 169 }
     let s := put [(F.REG_CTL_EARLY_REL, 0)] (moving m 254 i)
     executes 0x12 3 1 i m fine0 s && (match movPlan s m i with | .part _ => true | _ => false)
     && ends (exec (.mov 3 1 fine0) s) (fun t => pcOf t 3 1 == 254 && t.reqs == []
          && (findTask t 3 1).any (fun u => u.prog.getD 0 0 == 1))) = true := by decide +kernel

theorem witness_mov_stops :
    (let i := ins 0x12 0 3 2 0
     executes 0x12 3 1 i mover fine0 (moving mover 254 i) && planIs (movPlan (moving mover 254 i) mover i) (some 2) false) = true
    ∧ (let i := ins 0x12 0 1 0 1
       executes 0x12 3 1 i pusher fine0 (moving pusher 254 i) && planIs (movPlan (moving pusher 254 i) pusher i) none true) = true := by
  decide +kernel

/-- A signal of baton 5 with increment 3, and a wait for it with the target in X2. -/
def sig5 (rmt : Nat) : Nat := ins 0x13 0 0 0 (5 + 3 * 2 ^ 15 + rmt * 2 ^ 31)

theorem witness_sig :
    (let s := pacing task0 0 (sig5 0)
     executes 0x13 3 1 (sig5 0) task0 fine0 s && sigReady s task0
     && ends (exec (.sig 3 1 fine0) s) (fun t => getF t (F.BTN_CNT_COUNT 5) == 3 && pcOf t 3 1 == 1)) = true
    ∧ (let s := { pacing task0 0 (sig5 0) with reqs := [blankReq 1 (.pacer 3 1) (unitHdr 4 4 0 63 0) [] 0] }
       executes 0x13 3 1 (sig5 0) task0 fine0 s && !sigReady s task0) = true
    ∧ (let s := put [(F.GLB_SELF_ASSIGNED, 1), (F.GLB_SELF_INSTANCE, 4)] (pacing task0 0 (sig5 1 + 2 ^ 9 * 3))
       executes 0x13 3 1 (sig5 1 + 2 ^ 9 * 3) task0 fine0 s && sigReady s task0 && !namesSelf s 0 && badInstance s 0) = true
    ∧ (let s := { put [(F.GLB_SELF_ASSIGNED, 1), (F.GLB_SELF_INSTANCE, 4)] (pacing task0 0 (sig5 1 + 2 ^ 9 * 3)) with
                    sysRow := [(0, 2 ^ 480 - 1)] }
       executes 0x13 3 1 (sig5 1 + 2 ^ 9 * 3) task0 fine0 s && sigReady s task0 && !namesSelf s 0 && !badInstance s 0) = true := by
  decide +kernel

theorem witness_waitb :
    (let i := ins 0x14 0 2 0 5
     let s := pacing task0 0 i
     executes 0x14 3 1 i task0 fine0 s && batonAllows s 5 0 && !batonShut s 5
     && ends (exec (.waitb 3 1 fine0) s) (fun t => t.waiters == [⟨5, 7, none, some (3, 1)⟩])
     && ends (exec (.waitb 3 1 fine0) (put [(F.BTN_CNT_COUNT 5, 7)] s)) (fun t => pcOf t 3 1 == 1 && t.waiters == [])
     && ends (exec (.waitb 3 1 fine0) (put [(F.BTN_CNT_COUNT 5, 6)] s)) (fun t => pcOf t 3 1 == 0)) = true := by decide +kernel

/-- Queue 127 is enabled. -/
def relaying (t : Task) (i : Nat) (l : List Handle) : State :=
  { put [(F.RLY_CTL_EN 127, 1)] (pacing t 254 i) with relays := if l = [] then [] else [(127, l)] }

theorem witness_rpop :
    (let i := ins 0x15 6 0 0 127
     executes 0x15 3 1 i task0 fine0 (relaying task0 i [⟨9, false, none⟩])
     && relayAllows (relaying task0 i []) 127 0 && !relayAllows (pacing task0 254 i) 127 0
     && executes 0x15 3 1 i task0 fine0 (pacing task0 254 i) && executes 0x15 3 1 i task0 fine0 (relaying task0 i [])
     && ends (exec (.rpop 3 1 fine0) (relaying task0 i [⟨9, false, none⟩]))
          (fun t => relayQ t 127 == [] && pcOf t 3 1 == 255 && (findTask t 3 1).map (fun u => u.x.getD 6 0) == some 9)) = true := by
  decide +kernel

theorem witness_rpop_signal :
    (let i := ins 0x15 6 0 0 127
     let s := put [(F.RLY_NOTIFY_POP_SIG_EN 127, 1), (F.RLY_NOTIFY_POP_BATON 127, 44)] (relaying task0 i [⟨9, false, none⟩])
     ends (exec (.rpop 3 1 fine0) s) (fun t => t.conc.sigs == [(44, 0)] && getF t (F.BTN_CNT_COUNT 44) == 0)
     && ends (exec (.rpop 3 1 fine0) s) (fun t => getF (applySigs t) (F.BTN_CNT_COUNT 44) == 1)) = true := by decide +kernel

/-- 64 handles. -/
def full64 : List Handle := List.replicate 64 ⟨1, false, none⟩

theorem witness_rpush :
    (let i := ins 0x16 0 1 0 127
     executes 0x16 3 1 i task0 fine0 (relaying task0 i []) && rpushReady (relaying task0 i []) task0
     && ends (exec (.rpush 3 1 fine0) (relaying task0 i [])) (fun t => relayQ t 127 == [⟨10, false, some 7⟩] && pcOf t 3 1 == 255)
     && executes 0x16 3 1 i task0 fine0 (relaying task0 i full64)
     && ends (exec (.rpush 3 1 fine0) (relaying task0 i full64)) (fun t => t.relayWait.length == 1 && pcOf t 3 1 == 254)
     && executes 0x16 3 1 i task0 fine0
          { relaying task0 i full64 with relayWait := List.replicate 256 ⟨127, ⟨1, false, none⟩, none, none⟩ }
     && !relayAllows (pacing task0 254 i) 127 0) = true := by decide +kernel

theorem witness_sync_end :
    (let s := pacing task0 254 (ins 0x17 0 0 0 0)
     executes 0x17 3 1 (ins 0x17 0 0 0 0) task0 fine0 s && streamQuiet s 3 1
     && ends (exec (.sync 3 1 fine0) s) (fun t => pcOf t 3 1 == 255)) = true
    ∧ (let s := { pacing task0 254 (ins 0x17 0 0 0 0) with reqs := [blankReq 1 (.pacer 3 1) (unitHdr 0 4 0 63 0) [] 0] }
       executes 0x17 3 1 (ins 0x17 0 0 0 0) task0 fine0 s && !streamQuiet s 3 1) = true
    ∧ (let s := pacing task0 254 (ins 0x18 0 0 0 0)
       executes 0x18 3 1 (ins 0x18 0 0 0 0) task0 fine0 s && !blkConsEn task0.blk
       && ends (exec (.endTask 3 1 fine0) s) (fun t => streamState t 3 1 == 2)) = true := by decide +kernel

theorem witness_end_advances :
    (let s := pacing task0 7 (ins 0x18 0 0 0 0)
     executes 0x18 3 1 (ins 0x18 0 0 0 0) task0 fine0 s && ends (exec (.endTask 3 1 fine0) s) (fun t => pcOf t 3 1 == 8)) = true
    ∧ ends (exec (.endTask 3 1 fine0) (pacing task0 255 (ins 0x18 0 0 0 0))) (fun t => pcOf t 3 1 == 0 && streamState t 3 1 == 2) = true := by
  decide +kernel

theorem witness_tasks_end :
    (let s := put [(F.PACER_S_STAT_STATE 3 1, 2)] (pacing task0 0 0)
     findTask s 3 1 == some task0 && arrayRuns s && streamQuiet s 3 1
     && ends (exec (.taskEnd 3 1) s) (fun t => (findTask t 3 1).isNone)) = true
    ∧ (let s := tickAt 6464 (pacing task0 0 0)
       findTask s 3 1 == some task0 && streamState s 3 1 == 1 && decide (64 * (task0.bLast + 1) ≤ now s)
       && ends (exec (.taskCutoff 3 1) s) (fun t => streamState t 3 1 != 1)
       && ends (exec (.taskCutoff 3 1) (tickAt 6463 s)) (fun t => streamState t 3 1 == 1)) = true
    ∧ (let s := tickAt 100 { State.reset with hints := [(3, (100, 101))] }
       Sparse.find s.hints 3 == some (100, 101)
       && ends (exec (.hintStart 3) s) (fun t => getF t (F.PACER_STAT_HINT_ACT 3) == 1)
       && ends (exec (.hintEnd 3) (tickAt 101 s)) (fun t => t.hints == [])) = true := by decide +kernel

/-- An outbound write of the stream, in the gateway. -/
def gw0 (at_ : Nat) : GwEntry := ⟨11, none, some (3, 1), 4 + 16 * 4, [1, 2], 0, 6464, 0, at_, 0⟩

/-- A state that waits for its answer. -/
def outbound (at_ : Nat) : State := { pacing task0 0 0 with gw := [gw0 at_] }

theorem witness_pacer_answers :
    (arrayRuns (outbound 0) && findGw (outbound 0) 11 == some (gw0 0) && findTask (outbound 0) 3 1 == some task0
     && bits (gw0 0).hdr 4 5 == 4
     && ends (exec (.pacerRemoteAnswer ⟨11, 1, 0, 0, []⟩) (outbound 0)) (fun t => getF t (F.PACER_S_MOVED_MOVED 3 1) == 2 && t.gw == [])
     && ends (exec (.pacerRemoteAnswer ⟨11, 2, 2763, 0, []⟩) (outbound 0)) (fun t => t.gw == [gw0 2763])
     && ends (exec (.pacerRemoteAnswer ⟨11, 3, 2764, 0, []⟩) (outbound 0)) (fun t => streamState t 3 1 != 1)
     && ends (exec (.pacerRemoteAnswer ⟨11, 4, 0, 0, []⟩) (outbound 0)) (fun t => streamState t 3 1 != 1)) = true
    ∧ (findGw (outbound 5) 11 == some (gw0 5) && ends (exec (.pacerRemoteResend 11) (tickAt 5 (outbound 5)))
         (fun t => t.gw.length == 1 && t.gw.all (fun e => e.retryAt == 0))) = true := by decide +kernel

theorem witness_remote_push_answer :
    (let h : Handle := ⟨9, false, none⟩
     let t0 : Task := { task0 with handles := [(127, h)] }
     let e : GwEntry := { gw0 0 with hdr := 16 * 0x17 + 2 ^ 136 * (127 + 9 * 2 ^ 16), beats := [] }
     let s := { pacing t0 0 0 with gw := [e] }
     findGw s 11 == some e && bits e.hdr 4 5 == 0x17
     && ends (exec (.pacerRemoteAnswer ⟨11, 0, 0, 0, []⟩) s) (fun t => t.gw == [] && (findTask t 3 1).any (fun u => u.handles == []))
     && ends (exec (.pacerRemoteAnswer ⟨11, 6, 0, 0, []⟩) s) (fun t => getF t (F.PACER_S_STAT_CAUSE 3 1) == 0x0C)) = true := by decide +kernel

-- ## Requests at a lane

/-- An open instance at tick 65,600: partition 0 created, core 0 of lane 0 bound to it, V and D up with credits, LOCKED, S7. -/
def openAt : State :=
  let s := put (home ++ [(F.REG_CTL_OPEN, 1), (F.PART_QOS_CLASS_EN 0, 127), (F.PART_QOS_SHARE 0, 64), (F.LANE_CTL_CH_EN 0, 7),
    (F.LANE_CTL_BIND 0, 1), (F.LANE_PART_PART 0 0, 0), (F.CPM_STEP_CUR_STEP, 7), (F.RLY_CTL_EN 9, 1), (F.TAPE_CFG_EN 6, 1),
    (F.TAPE_CFG_EXPECT 6, 2), (F.PACER_CTL_EN 3, 1)]) State.reset
  { tickAt 65600 s with cad := { s.cad with count := 65600, st := .locked }, activeM := some 0,
                        chans := [(1, ⟨true, 4, 16, 0, 0, 0, [], []⟩), (2, ⟨true, 4, 16, 0, 0, 0, [], []⟩)] }

/-- A request header of class 4, partition 0, tag 5, core 0, deadline T_rx + 40,000, to the self alias: OP, ENGINE, SIZE, MOD,
the offset, ARG. -/
def hdrOf (op eng size mod addr arg : Nat) : Nat :=
  fieldsWord [(4, op), (9, 4), (16, 5), (31, eng), (40, size), (56, mod), (64, addr), (104, 40000), (136, arg)]

/-- The self alias with an offset (R78). -/
def self (o : Nat) : Nat := 31 * 2 ^ 35 + 511 * 2 ^ 26 + o

/-- The packet of a header on channel V (1) or D (2). -/
def pktOf (h ch : Nat) (beats : List Beat) : LanePkt :=
  ⟨0, ch, beats.length + 1, BitVec.ofNat 256 (withCrc h (beats.map (fun b => b.toNat))), beats, .none⟩

/-- The packet reaches the checks and is accepted. -/
def accepted (op : Nat) (p : LanePkt) (s : State) : Bool := reachesLane op p s && (accepts p s).isSome

/-- What the packet of a header does. -/
def doing (op h ch : Nat) (beats : List Beat) (s : State) (c : LanePkt → Instr) (f : State → Bool) : Bool :=
  accepted op (pktOf h ch beats) s && ends (exec (c (pktOf h ch beats)) s) f

/-- The request of tag 5 on channel V is admitted to a bucket, its tag held. -/
def isAdmitted (t : State) : Bool := t.reqs.any (fun r => r.stage == .admitted && r.h.tag == 5) && tagOf t 1 5 == .held

theorem witness_array_cycle :
    (let s := { openAt with cad := { openAt.cad with left := 2, cycles := 7 } }
     s.pending == [] && arrayRuns s
     && ends (step s) (fun t => t.cad.left == 1 && t.cad.cycles == 8 && t.cad.count == 65600)) = true := by decide +kernel

theorem witness_reads :
    doing 0 (hdrOf 0 1 63 0 (self 64) 0) 1 [] openAt .read isAdmitted = true
    ∧ doing 1 (hdrOf 1 1 511 2 (self 64) 64) 1 [] openAt .readT isAdmitted = true
    ∧ doing 2 (hdrOf 2 1 63 2 (self 64) 64) 1 [] openAt .readS isAdmitted = true
    ∧ doing 3 (hdrOf 3 1 127 0 (self 64) 0) 1 [] openAt .readX isAdmitted = true
    ∧ dataRow (pkt0 0 1 1) 3 = some (.readX (pkt0 0 1 1)) := by decide +kernel

set_option maxRecDepth 100000 in
theorem witness_write :
    doing 4 (hdrOf 4 1 63 0 (self 64) 0) 1 [7] openAt .write isAdmitted = true := by decide +kernel

set_option maxRecDepth 100000 in
theorem witness_write_n :
    doing 5 (hdrOf 5 1 63 0 (self 64) 0) 1 [7] openAt .writeN isAdmitted = true := by decide +kernel

set_option maxRecDepth 100000 in
theorem witness_accum :
    doing 6 (hdrOf 6 1 63 0 (self 64) 0) 1 [7] openAt .accum isAdmitted = true := by decide +kernel

theorem witness_atomics :
    doing 8 (hdrOf 8 1 3 0 (self 64) 3) 1 [] openAt .atomAdd isAdmitted = true
    ∧ doing 9 (hdrOf 9 1 3 0 (self 64) 3) 1 [] openAt .atomMin isAdmitted = true
    ∧ doing 0xA (hdrOf 0xA 1 3 0 (self 64) 3) 1 [] openAt .atomMax isAdmitted = true
    ∧ doing 0xB (hdrOf 0xB 1 3 0 (self 64) 3) 1 [] openAt .atomSwap isAdmitted = true
    ∧ doing 0xC (hdrOf 0xC 1 3 0 (self 64) 3) 1 [] openAt .atomCas isAdmitted = true := by decide +kernel

/-- The answer of tag 5 on channel V has CODE `c` and VALUE `v`. -/
def answers (c v : Nat) (t : State) : Bool :=
  match tagOf t 1 5 with
  | .answered r => r.code == c && r.value == v
  | _ => false

theorem witness_baton_requests :
    doing 0x10 (hdrOf 0x10 1 0 0 (self 0) (5 + 3 * 2 ^ 16)) 1 [] openAt .batonSignal
      (fun t => answers 0 0 t && getF t (F.BTN_CNT_COUNT 5) == 3) = true
    ∧ doing 0x11 (hdrOf 0x11 1 0 0 (self 0) (5 + 7 * 2 ^ 32)) 1 [] openAt .batonWait (fun t => t.waiters.length == 1) = true
    ∧ doing 0x11 (hdrOf 0x11 1 0 0 (self 0) (5 + 7 * 2 ^ 32)) 1 [] (put [(F.BTN_CNT_COUNT 5, 7)] openAt) .batonWait (answers 0 7) = true
    ∧ doing 0x12 (hdrOf 0x12 1 0 0 (self 0) 5) 1 [] (put [(F.BTN_CNT_COUNT 5, 7)] openAt) .batonRead (answers 0 7) = true
    ∧ doing 0x10 (hdrOf 0x10 1 0 0 (self 0) (5 + 3 * 2 ^ 16)) 1 [] (put [(F.BTN_CTL_PARKED 5, 1)] openAt) .batonSignal
      (fun t => getF t (F.BTN_CNT_COUNT 5) == 0 && batonShut t 5) = true
    ∧ doing 0x11 (hdrOf 0x11 1 0 0 (self 0) (5 + 7 * 2 ^ 32)) 1 [] (put [(F.BTN_CTL_BROKEN 5, 1)] openAt) .batonWait (fun t => batonShut t 5) = true
    ∧ doing 0x12 (hdrOf 0x12 1 0 0 (self 0) 5) 1 [] (put [(F.BTN_CTL_BROKEN 5, 1)] openAt) .batonRead (fun t => batonShut t 5) = true := by
  decide +kernel

theorem witness_third_wait :
    (let r0 : Request := { blankReq 900 (.lane 0 1) (unitHdr 0x11 4 0 0 0) [] 0 with stage := .waiting, h := { unitHdr 0x11 4 0 0 0 with tag := 8, engine := 1 } }
     let w (b : Nat) : Waiter := ⟨b, 9, some 900, none⟩
     doing 0x11 (hdrOf 0x11 1 0 0 (self 0) (5 + 7 * 2 ^ 32)) 1 []
       { openAt with reqs := [r0], waiters := [w 1, w 2], nextId := 901 } .batonWait (answers 6 4)) = true := by decide +kernel

theorem witness_third_wait_on_shut_baton :
    (let r0 : Request := { blankReq 900 (.lane 0 1) (unitHdr 0x11 4 0 0 0) [] 0 with stage := .waiting, h := { unitHdr 0x11 4 0 0 0 with tag := 8, engine := 1 } }
     let w (b : Nat) : Waiter := ⟨b, 9, some 900, none⟩
     doing 0x11 (hdrOf 0x11 1 0 0 (self 0) (5 + 7 * 2 ^ 32)) 1 []
       { put [(F.BTN_CTL_BROKEN 5, 1)] openAt with reqs := [r0], waiters := [w 1, w 2], nextId := 901 } .batonWait
       (fun t => answers 6 4 t && getF t F.GLB_SYNC_STAT_WAIT_OVF == 1)) = true := by decide +kernel

theorem witness_other_requests :
    doing 0x14 (hdrOf 0x14 1 0 0 0 0) 1 [] openAt .fence (answers 0 0) = true
    ∧ doing 0x15 (hdrOf 0x15 1 0 0 0 (1 + 8 * 16)) 1 [] openAt .hint (fun t => answers 0 0 t && t.hints.length == 1) = true
    ∧ doing 0x17 (hdrOf 0x17 1 0 0 (self 0) (9 + 4 * 2 ^ 16)) 1 [] openAt .relayPush
      (fun t => answers 0 0 t && relayQ t 9 == [⟨4, false, none⟩]) = true
    ∧ doing 0x18 (hdrOf 0x18 1 0 0 (self 0) 9) 1 [] openAt .relayPop (answers 0 4096) = true
    ∧ doing 0x18 (hdrOf 0x18 1 0 0 (self 0) 9) 1 [] { openAt with relays := [(9, [⟨4, true, none⟩])] } .relayPop
      (fun t => answers 1 4 t && relayQ t 9 == []) = true
    ∧ doing 0x17 (hdrOf 0x17 1 0 0 (self 0) (9 + 4 * 2 ^ 16)) 1 [] { openAt with relays := [(9, full64)] } .relayPush
      (fun t => t.relayWait.length == 1) = true
    ∧ doing 0x17 (hdrOf 0x17 1 0 0 (self 0) (9 + 4 * 2 ^ 16)) 1 []
      { openAt with relays := [(9, full64)], relayWait := List.replicate 256 ⟨9, ⟨1, false, none⟩, none, none⟩ } .relayPush
      (answers 6 3) = true := by decide +kernel

/-- An arrival at tape 6 with the given sense. -/
def arrive (sense : Nat) : Nat := hdrOf 0x13 1 0 0 (self 0) (6 + sense * 2 ^ 16)

/-- The engine of the arrival has already arrived for heat 0. -/
def arrivedAlready : Arrival := ⟨6, .engine 0 0 1, 0, false, false, false, none, .lane 0 1, unitHdr 0x13 4 0 0 0, 0⟩

/-- What tape 6 makes of the arrival after its acceptance. -/
def kindAt (sense : Nat) (s : State) : Option ArriveKind :=
  (accepts (pktOf (arrive sense) 1 []) s).map (fun x =>
    arriveKind (putReq (acceptedIn x.2.2 x.1 0 1) (acceptedAs x.2.2 x.1 x.2.1)) 6 (.engine 0 0 1) sense)

theorem witness_tape_arrive :
    kindAt 0 openAt = some .current
    ∧ doing 0x13 (arrive 0) 1 [] openAt .tapeArrive (fun t => t.arrivals.length == 1 && getF t (F.TAPE_STAT_ARRIVED 6) == 1) = true
    ∧ kindAt 1 { openAt with arrivals := [arrivedAlready] } = some .early
    ∧ kindAt 0 { put [(F.TAPE_STAT_STATE 6, 3)] openAt with arrivals := [] } = some .refused
    ∧ doing 0x13 (arrive 0) 1 [] (put [(F.TAPE_STAT_STATE 6, 3)] openAt) .tapeArrive (answers 6 6) = true
    ∧ (match kindAt 1 openAt with | some (.fault _) => true | _ => false) = true := by decide +kernel

/-- 4,096 records of another tape. -/
def manyArrivals : List Arrival := List.replicate 4096 ⟨5, .engine 1 1 1, 0, false, true, false, none, .lane 1 1, unitHdr 0x13 4 0 0 0, 0⟩

theorem many_arrivals : manyArrivals.length = 4096 := List.length_replicate

/-- None of them is a record of tape 6. -/
theorem many_arrivals_elsewhere (who : Participant) : manyArrivals.filter (fun a => a.tape == 6 && a.who == who) = [] :=
  List.filter_eq_nil_iff.mpr (fun a ha => by rw [List.eq_of_mem_replicate ha]; simp)

theorem witness_arrival_pool : kindAt 0 { openAt with arrivals := manyArrivals } = some .current
    ∧ accepted 0x13 (pktOf (arrive 0) 1 []) { openAt with arrivals := manyArrivals } = true := by decide +kernel

theorem witness_notified_arrival :
    doing 0x13 (hdrOf 0x13 1 0 2 (self 0) 6) 1 [] openAt .tapeArrive (fun t => answers 0 0 t && t.arrivals.length == 1) = true := by
  decide +kernel

/-- A launch of stream 2 of pacer 3 at program counter 0, with a charge of one fine bucket. -/
def launchPkt : LanePkt :=
  pktOf (hdrOf 0x16 1 63 0 0 (3 + 2 * 2 ^ 4) - 39744 * 2 ^ 104) 1 [BitVec.ofNat 512 (10 + 10 * 2 ^ 24 + 10 * 2 ^ 96 + 4 * 2 ^ 115)]

set_option maxRecDepth 100000 in
theorem witness_launch :
    (reachesLane 0x16 launchPkt openAt && firstSending launchPkt openAt
     && (match presented? launchPkt (enteredLane launchPkt openAt) with
      | some (r0, u) =>
        let r := { r0 with promise := promiseOf u r0.h r0.trx }
        let b := (r.beats.headD 0).toNat
        !r.h.attEn && (pauseOf u r.h.cls).isNone && (findTask u 3 2).isNone && bits r.h.arg 0 4 == 3 && bits r.h.arg 4 2 == 2
        && getF u (F.PACER_CTL_EN 3) == 1 && jnlRoom u 4
        && (match decideTask u b 3 0 r.trx (launchEnd b r.trx r.promise) with
          | (.admitted (.task bf n), _) => bf == 1026 && n == 1
          | _ => false)
      | none => false)) = true := by decide +kernel

/-- A read packet with a wrong CRC, and one with a flit too many. -/
def badCrc : LanePkt := { pktOf (hdrOf 0 1 63 0 (self 64) 0) 1 [] with hdr := BitVec.ofNat 256 (hdrOf 0 1 63 0 (self 64) 0) }

theorem witness_drops :
    (reachesLane 0 badCrc openAt && dropCause openAt badCrc (beatsIn (decodeHdr badCrc.hdr)) == some 1
     && ends (exec (.read badCrc) openAt) (fun t => getF t (F.LANE_CH_DROP_CRC_CNT 0 1) == 1 && t.reqs == [])) = true
    ∧ (let p := { badCrc with flits := 2 }
       reachesLane 0 p openAt && dropCause openAt p (beatsIn (decodeHdr p.hdr)) == some 2
       && ends (exec (.read p) openAt) (fun t => getF t (F.LANE_CH_DROP_FRAME_CNT 0 1) == 1)) = true
    ∧ (let s := { openAt with chans := [(1, ⟨true, 0, 0, 0, 0, 0, [], []⟩)] }
       reachesLane 0 badCrc s && dropCause s badCrc (beatsIn (decodeHdr badCrc.hdr)) == some 3
       && ends (exec (.read badCrc) s) (fun t => (chanOf t 1).hAvail == 0)) = true
    ∧ reachesLane 0 badCrc State.reset = false := by decide +kernel

-- ## Lane channels

theorem witness_channels :
    (chanOf openAt 1).linkUp = true ∧ (chanOf openAt 191).linkUp = false
    ∧ ends (exec (.channelDown 0 1) openAt) (fun t => (chanOf t 1).linkUp == false && (chanOf t 1).hAvail == 0) = true
    ∧ ends (exec (.channelUp 63 2) openAt) (fun t => (chanOf t 191).linkUp && t.out == []) = true
    ∧ ends (exec (.channelUp 0 0) openAt) (fun t => (chanOf t 0).linkUp && (chanOf t 0).hAvail == getF openAt (F.LANE_CH_CRD_HCRD_MAX 0 0)
        && t.out.length == 1) = true
    ∧ aonState (put [(F.CPM_AON_STAT_AON_STATE, 3)] State.reset) = 3
    ∧ (let s (c : Nat) : State := { openAt with chans := [(1, ⟨true, 4, 16, 1, 0, 1, [], []⟩)], cad := { openAt.cad with cycles := c } }
       chanUp (s 64) 0 1 && arrayRuns (s 64) && stays (exec (.creditReturnTimeout 0 1) (s 63)) (s 63)
       && ends (exec (.creditReturnTimeout 0 1) (s 64)) (fun t => t.out.length == 1 && (chanOf t 1).owed == 0)) = true
    ∧ ((chanOf openAt 1).owed = 0 ∧ chanUp openAt 0 1 = true) := by decide +kernel

/-- A credit packet: 4 granules returned to stream 1 of pacer 3. -/
def creditPkt (ch : Nat) : LanePkt := ⟨0, ch, 1, BitVec.ofNat 256 (withCrc (5 + 16 * 3 + 256 + 1024 * 4) []), [], .none⟩

theorem witness_core_credit :
    (bits (creditPkt 2).hdr.toNat 0 4 == 5 && (dropCause openAt (creditPkt 2) 0).isNone && chanUp openAt 0 2
     && ends (exec (.coreCreditPacket (creditPkt 2)) openAt) (fun t => (chanOf t 2).hAvail == 4)) = true
    ∧ ((dropCause openAt (creditPkt 1) 0).isNone && ends (exec (.coreCreditPacket (creditPkt 1)) openAt)
        (fun t => getF t (F.PACER_CRD_ERR_CRD_ERR_CNT 3) == 1)) = true := by decide +kernel

-- ## The stages of a request

/-- A write of granule 1 by the engine of lane 0, V, in a stage. -/
def wr1 (id : Nat) (st : Stage) : Request :=
  { blankReq id (.lane 0 1) { unitHdr 4 4 0 63 64 with engine := 1, tag := 5 } [7] 65600 with
    stage := st, base := 64, place := .fine 1025, accs := [⟨1, 0, 0, 0, 7, 2 ^ 64 - 1, false, 0, false, none, 0⟩] }

theorem witness_hold_point :
    (let s := { openAt with reqs := [wr1 5 .held], nextId := 6 }
     findReq s 5 == some (wr1 5 .held) && (match holdTest s (wr1 5 .held) with | (.pass, _) => true | _ => false)
     && ends (exec (.holdPointPass 5) s) (fun t => t.reqs.all (fun r => r.stage != .held))) = true
    ∧ (let s := { openAt with reqs := [wr1 4 .held, wr1 5 .held], nextId := 6 }
       (match holdTest s (wr1 5 .held) with | (.hold, _) => true | _ => false)
       && ends (exec (.holdPointPass 5) s) (fun t => t.reqs.all (fun r => r.stage == .held))) = true
    ∧ ends (exec (.holdPointPass 5) { openAt with reqs := [wr1 5 .admitted] }) (fun t => t.reqs == [wr1 5 .admitted]) = true := by
  decide +kernel

theorem witness_issue_release :
    (let s := { openAt with reqs := [wr1 5 .admitted] }
     findReq s 5 == some (wr1 5 .admitted) && decide (64 * 1025 ≤ now s) && !s.parked
     && ends (exec (.issueRelease 5) s) (fun t => (findReq t 5).map (fun r => r.stage) == some .stage3 && t.orderNo == 1)
     && stays (exec (.issueRelease 5) { s with parked := true }) { s with parked := true }
     && !isWriteBack (wr1 5 .admitted)) = true
    ∧ (let s := put [(F.REG_CTL_EARLY_REL, 0)] (tickAt 65599 { openAt with reqs := [wr1 5 .admitted] })
       decide (now s < 64 * 1025) && !earlyRel s && stays (exec (.issueRelease 5) s) s) = true
    ∧ (let r := { wr1 5 .admitted with place := .task 1025 3, h := { unitHdr 0x16 4 0 63 0 with arg := 3 + 16 } }
       let s := { openAt with reqs := [r], tasks := [{ task0 with rid := 5, started := false, bFirst := 1025, bLast := 1027 }] }
       findReq s 5 == some r && ends (exec (.issueRelease 5) s) (fun t => t.tasks.all (fun k => k.started))) = true := by decide +kernel

theorem witness_coarse_release :
    (let r := { wr1 5 .admitted with place := .coarse 1 }
     let s (n : Nat) : State := tickAt n { openAt with reqs := [r] }
     coarseFirst (s 131008) r 1 && !moveWaits (s 131008) r && decide (65536 * 1 + 65472 ≤ now (s 131008))
     && ends (exec (.issueRelease 5) (s 131008)) (fun t => (findReq t 5).map (fun q => q.stage) == some .stage3)
     && (let q := { r with id := 4 }
         !coarseFirst { s 131008 with reqs := [q, r] } r 1)) = true := by decide +kernel

theorem witness_scoreboard :
    (let s := { openAt with reqs := [wr1 5 .stage3] }
     !sbHeld s (wr1 5 .stage3) && !sbNoEntry s (wr1 5 .stage3) && !sbBehind s (wr1 5 .stage3)
     && ends (exec (.scoreboardPass ⟨5, []⟩) s) (fun t => (findReq t 5).map (fun r => r.stage) == some .access)) = true
    ∧ (let s := { openAt with reqs := [{ wr1 4 .access with order := 0 }, { wr1 5 .stage3 with order := 1 }] }
       sbHeld s { wr1 5 .stage3 with order := 1 } && stays (exec (.scoreboardPass ⟨5, []⟩) s) s) = true
    ∧ (let far (i : Nat) : Request := { wr1 (100 + i) .access with accs := [⟨1000 + i, 0, 0, 0, 7, 1, false, 0, false, none, 0⟩] }
       let s := { openAt with reqs := (List.range 256).map far ++ [wr1 5 .stage3] }
       !sbHeld s (wr1 5 .stage3) && sbNoEntry s (wr1 5 .stage3)
       && ends (exec (.scoreboardPass ⟨5, []⟩) s) (fun t => getF t F.GLB_SB_STAT_SB_FULL == 1)) = true
    ∧ (let far (i : Nat) : Request := { wr1 (100 + i) .access with accs := [⟨1000 + i, 0, 0, 0, 7, 1, false, 0, false, none, 0⟩] }
       let rd : Request := { wr1 5 .stage3 with h := unitHdr 0 4 0 63 64, accs := [readAcc 2 0 0 0], order := 1 }
       let s := { openAt with reqs := (List.range 256).map far ++ [wr1 4 .stage3, rd] }
       !sbHeld s rd && !sbNoEntry s rd && sbBehind s rd && stays (exec (.scoreboardPass ⟨5, []⟩) s) s) = true := by decide +kernel

/-- The write of granule 1 at the port of its bank. -/
def atBank (i : Nat) : State :=
  { openAt with reqs := [wr1 5 .access], inputs := [⟨trackOf 1, i, 5, 0, 4, 0, 0⟩], mem := [(64 * physG openAt 1 + 63, 9), (7, 1)].reverse }

/-- No damage at the bank. -/
def noPhys : Phys := ⟨.none, [], 0, 0, 0, false⟩

theorem witness_access :
    (let s := { atBank 3 with mem := [(7, 1)] }
     level2 s (bankOf 1) == some ⟨trackOf 1, 3, 5, 0, 4, 0, 0⟩ && (inputHead s ⟨trackOf 1, 3, 5, 0, 4, 0, 0⟩).isSome
     && getF s F.INT_FLIP_CTL_ARM == 0
     && ends (exec (.accessCommit (bankOf 1) noPhys) s)
          (fun t => readByte t (64 * physG s 1) == 7 && readByte t (64 * physG s 1 + 1) == 0 && readByte t 7 == 1)) = true := by decide +kernel

theorem witness_read_access :
    (let r := { wr1 5 .access with h := unitHdr 0 4 0 63 64, beats := [], accs := [readAcc 1 0 0 0] }
     let s := { atBank 3 with mem := [(7, 1)], reqs := [r] }
     level2 s (bankOf 1) == some ⟨trackOf 1, 3, 5, 0, 4, 0, 0⟩ && accReads r (readAcc 1 0 0 0)
     && ends (exec (.accessCommit (bankOf 1) noPhys) s) (fun t => t.mem == s.mem)) = true := by decide +kernel

/-- The write with an attached signal for baton 8. -/
def signal8 : Request := { wr1 5 .signal with h := { (wr1 5 .signal).h with attEn := true, attBaton := 8, attAdd := 2 } }

theorem witness_attached_signal :
    (let r := signal8
     let s := { openAt with reqs := [r] }
     findReq s 5 == some r && r.verdict == (0, 0) && !earlierWrite s r
     && ends (exec (.attachedSignalApply 5 .none) s) (fun t => getF t (F.BTN_CNT_COUNT 8) == 2 && t.reqs == [])) = true
    ∧ (let r := signal8
       let s := { openAt with reqs := [{ wr1 4 .access with order := 0 }, { r with order := 1 }] }
       r.h.attEn && earlierWrite s { r with order := 1 } && stays (exec (.attachedSignalApply 5 .none) s) s) = true
    ∧ (let r := { signal8 with verdict := (7, 1) }
       r.h.attEn && ends (exec (.attachedSignalApply 5 .none) { openAt with reqs := [r] }) (fun t => t.reqs == [])) = true := by decide +kernel

theorem witness_signal_of_a_foreign_baton :
    (let s := put [(F.BTN_CTL_PART 8, 3)] { openAt with reqs := [signal8] }
     ends (exec (.attachedSignalApply 5 .none) s) (fun t => getF t (F.BTN_CNT_COUNT 8) == 0 && getF t F.GLB_SYNC_CNT_NA_CNT == 1 && t.reqs == [])
     && ends (exec (.attachedSignalApply 5 .none) (put [(F.BTN_CTL_PART 8, 15)] s)) (fun t => getF t (F.BTN_CNT_COUNT 8) == 2)) = true := by
  decide +kernel

/-- A combining entry of lane 0, core 2, slot 1, last used in cycle 0. -/
def ent (d : Bool) : CombEntry := ⟨0, 2, 1, 64, 4, 3, d, 0, false⟩

theorem witness_combining :
    (let s (d : Bool) (c : Nat) : State :=
       { put [(F.LANE_COMB_WIN 0, 2)] openAt with comb := [ent d], cad := { openAt.cad with cycles := c } }
     (s false 32).comb.find? (combIs 0 2 1) == some (ent false)
     && ends (exec (.combWindowExpiry 0 2 1) (s false 32)) (fun t => t.comb == [])
     && ends (exec (.combWindowExpiry 0 2 1) (s true 32)) (fun t => t.comb.all (fun e => e.closing))
     && stays (exec (.combWindowExpiry 0 2 1) (s true 31)) (s true 31)) = true
    ∧ (let r := { wr1 5 .held with org := .combine 0 2 1, adm := 65600 }
       let s := { openAt with reqs := [r], comb := [{ ent true with closing := true }] }
       findReq s 5 == some r && ends (exec (.combWriteBackResend 5) s) (fun t => t.reqs.length == 1)
       && stays (exec (.combWriteBackResend 5) (tickAt 65599 s)) (tickAt 65599 s)) = true := by decide +kernel

-- ## The mesh

/-- The self alias made the address of instance 4 of wafer 0. -/
def at04 (o : Nat) : Nat := 4 * 2 ^ 26 + o

/-- This instance is number 4 of wafer 0, and instance 5 is good; link 2 is up. -/
def meshAt : State :=
  { put [(F.GLB_SELF_ASSIGNED, 1), (F.GLB_SELF_INSTANCE, 4), (F.MESH_STAT_UP, 4)] openAt with sysRow := [(0, 2 ^ 4 + 2 ^ 5)] }

/-- A READ of 64 bytes over link 2 from instance 9 of wafer 1. -/
def meshRd (addr : Nat) : MeshPkt := ⟨2, 1, 9, 3, BitVec.ofNat 256 (hdrOf 0 1 63 0 addr 0), [], .none⟩

theorem witness_mesh_request :
    (arrayRuns meshAt && bits (getF meshAt F.MESH_STAT_UP) 2 1 == 1 && bits (getF meshAt F.MESH_STAT_DATA_OFF) 2 1 == 0
     && isSelf meshAt (at04 64) && !isAlias (at04 64)
     && ends (exec (.meshRequest (meshRd (at04 64))) meshAt) (fun t => t.reqs.any (fun r => r.stage == .admitted))
     && (meshCheck4 (meshRd (at04 64)).hdr.toNat (decodeHdr (meshRd (at04 64)).hdr) []).isNone
     && ends (exec (.meshRequest (meshRd (5 * 2 ^ 26))) meshAt) (fun t => t.reqs == [] && t.out.length == 1)
     && siteGood meshAt 0 5
     && stays (exec (.meshRequest (meshRd (at04 64))) openAt) openAt) = true := by decide +kernel

/-- An outbound READ of request 5, promised at 65,600. -/
def gw1 (n : Nat) : GwEntry := ⟨12, some 5, none, hdrOf 0 1 63 0 (5 * 2 ^ 26) 0, [], 2, 65600, n, 0, 0⟩

/-- It waits for its answer at a tick. -/
def gwAt (n t : Nat) : State :=
  tickAt t { meshAt with gw := [gw1 n], reqs := [{ blankReq 5 (.lane 0 1) { unitHdr 0 4 0 63 (5 * 2 ^ 26) with tag := 5, engine := 1 } [] 100 with stage := .remote, isRemote := true }],
                         tags := [(4096 + 5, .held)] }

theorem witness_gateway :
    findGw (gwAt 0 1) 12 = some (gw1 0)
    ∧ ends (exec (.remoteAnswer ⟨12, 0, 0, 0, [9]⟩) (gwAt 0 70000)) (fun t => t.gw == [] && t.reqs == []) = true
    ∧ ends (exec (.gatewayResend 12) (gwAt 0 69600)) (fun t => t.gw.all (fun e => e.resends == 1)) = true
    ∧ stays (exec (.gatewayResend 12) (gwAt 0 69599)) (gwAt 0 69599) = true
    ∧ stays (exec (.gatewayResend 12) (gwAt 2 99999)) (gwAt 2 99999) = true
    ∧ stays (exec (.remoteTimeout 12) (gwAt 2 77599)) (gwAt 2 77599) = true
    ∧ ends (exec (.remoteTimeout 12) (gwAt 2 77600)) (fun t => answers 7 9 t && t.gw == []) = true
    ∧ (let s := tickAt 18464 { pacing task0 0 0 with gw := [gw0 0] }
       findGw s 11 == some (gw0 0) && ends (exec (.remoteTimeout 11) s) (fun t => streamState t 3 1 != 1)) = true
    ∧ (let d : Dedup := ⟨1, 2, 3, 4, 4, 0, 63, 0, 0, 0, 500, true, false⟩
       let s := { tickAt 500 State.reset with dedup := [d] }
       findDedup s 1 2 3 4 == some d && ends (exec (.dedupExpiry 1 2 3 4) s) (fun t => t.dedup == [])
       && stays (exec (.dedupExpiry 1 2 3 4) (tickAt 499 s)) (tickAt 499 s)) = true := by decide +kernel

-- ## The cadence

/-- A frame of a type with HOP 2 and a payload. -/
def frameOf (ty pay : Nat) : BitVec 128 := BitVec.ofNat 128 (frameBits ⟨ty, 2, 0, pay⟩)

/-- The instance at a tick in a lock state, REFCLK ready. -/
def cadAt (st : CadState) (n : Nat) (l : List (Fld × Nat)) : State :=
  let s := put ([(F.CPM_CLK_STAT_REF_READY, 1), (F.CPM_CAD_CTL_LINK_EN, 15)] ++ l) State.reset
  { s with cad := { s.cad with count := n, st := st, src := 1, refOk := true } }

theorem witness_frames :
    (let s := cadAt .locked 65536 []
     linkEn s 3 && aonState s == 0
     && ends (exec (.countFrame 3 0) s) (fun t => getF t F.CPM_CAD_ERR_FRAME_ERR_CNT == 1 && getF t F.CPM_CAD_STAT_FRAME_ERR == 1)
     && ends (exec (.wakePattern 3 (frameOf 0 1)) s) (fun t => getF t F.CPM_CAD_ERR_FRAME_ERR_CNT == 1)
     && stays (exec (.wakePattern 3 (frameOf 0 65536)) s) s && stays (exec (.announcementFrame 3 (frameOf 2 5)) s) s
     && stays (exec (.countFrame 3 (frameOf 2 5)) s) s
     && ends (exec (.countFrame 1 (frameOf 0 65536)) s) (fun t => getF t F.CPM_CAD_ERR_FRAME_ERR_CNT == 0)) = true := by decide +kernel

theorem witness_frames_not_counted :
    (let s := cadAt .locked 65536 []
     ends (exec (.announcementFrame 3 (frameOf 1 5)) s) (fun t => getF t F.CPM_CAD_ERR_FRAME_ERR_CNT == 0 && getF t F.CPM_CAD_STAT_ANN_REJ == 1)
     && ends (exec (.wakePattern 3 (frameOf 2 5)) s) (fun t => getF t F.CPM_CAD_ERR_FRAME_ERR_CNT == 0)) = true := by decide +kernel

theorem witness_locked_count :
    (let s := cadAt .locked 65536 []
     let b := cadAt .locked 65539 []
     takeFrame s 1 0 (frameOf 0 131072) == (some ⟨0, 2, 0, 131072⟩, s) && !flagF s F.CPM_CAD_CTL_FORCE_SRC && linkDelay s 1 == 0
     && ends (exec (.countFrame 1 (frameOf 0 131072)) s) (fun t => t.cad.count == 131072 && getF t F.CPM_JUMP_TICKS_VAL == 65536)
     && ends (exec (.countFrame 1 (frameOf 0 65536)) b) (fun t => t.cad.count == 65539 && t.cad.slow == 3
          && getF t F.CPM_CAD_STAT_JUMP == 1 && getF t F.CPM_JUMP_TICKS_VAL == 2 ^ 32 - 3)
     && ends (exec (.countFrame 2 (frameOf 0 131072)) { s with cad := { s.cad with links := [(1, ⟨65500, 65500, 2, 65536, true⟩)] } })
          (fun t => t.cad.count == 65536 && t.cad.src == 1)) = true := by decide +kernel

theorem witness_lock :
    (let s0 := cadAt .acquiring 65536 []
     let s := { s0 with cad := { s0.cad with loaded := some 0, links := [(1, ⟨0, 0, 2, 0, true⟩)] } }
     takeFrame s 1 0 (frameOf 0 65536) == (some ⟨0, 2, 0, 65536⟩, s) && getF s F.MSH_BOOT_STAGE != 9
     && selectedLink (noteLink s 1 2 65536 0) 1 && (takeSource (noteLink s 1 2 65536 0) 1 2).cad.refOk
     && ends (exec (.countFrame 1 (frameOf 0 65536)) s) (fun t => t.cad.st == .locked && t.cad.src == 1 && t.cad.hop == 2)
     && selectedLink (noteLink s0 1 2 65536 0) 1
     && ends (exec (.countFrame 1 (frameOf 0 65536)) s0) (fun t => t.cad.st == .acquiring && t.cad.loaded == some 65536)) = true := by
  decide +kernel

theorem witness_loss :
    (let s := cadAt .locked 100 [(F.CPM_CAD_CTL_HOLD_LIMIT, 3)]
     let h := { s with cad := { s.cad with st := .holdover, holdEntry := 100 } }
     ends (exec .sourceLoss s) (fun t => t.cad.st == .holdover && t.cad.holdEntry == 100)
     && ends (exec .sourceLoss (put [(F.CPM_CAD_CTL_HOLD_LIMIT, 0)] s)) (fun t => t.cad.st == .unlocked)
     && stays (exec .holdoverExpiry (tickAt 196707 h)) (tickAt 196707 h)
     && ends (exec .holdoverExpiry (tickAt 196708 h)) (fun t => t.cad.st == .unlocked && getF t F.CPM_CAD_STAT_HOLD_EXPIRED == 1)
     && stays (exec .sourceLoss h) h) = true := by decide +kernel

theorem witness_source_missed :
    (let s (n : Nat) : State := { cadAt .locked n [(F.CPM_CAD_CTL_HOLD_LIMIT, 3)] with
       cad := { (cadAt .locked n []).cad with links := [(1, ⟨0, 0, 2, 0, true⟩)] } }
     ticksRun (s 131136) && (s 131136).cad.slow == 0
     && ends (step (s 131135)) (fun t => t.cad.st == .locked)
     && ends (step (s 131136)) (fun t => t.cad.st == .holdover)) = true := by decide +kernel

/-- An announcement payload: step, ID 7, effective tick. -/
def annPay (step tick : Nat) : Nat := step + 256 * 7 + 2 ^ 32 * tick

theorem witness_announcement :
    (let s := cadAt .locked 65536 []
     let p := { s with cad := { s.cad with ann := some ⟨5, 7, 131072⟩ } }
     takeFrame s 1 1 (frameOf 1 (annPay 5 131072)) == (some ⟨1, 2, 0, annPay 5 131072⟩, s)
     && ends (exec (.announcementFrame 1 (frameOf 1 (annPay 5 131072))) s) (fun t => t.cad.ann == some ⟨5, 7, 131072⟩)
     && ends (exec (.announcementFrame 1 (frameOf 1 (annPay 5 131072))) (tickAt 65537 s))
          (fun t => t.cad.ann == none && getF t F.CPM_CAD_STAT_ANN_REJ == 1)
     && ends (exec (.announcementFrame 1 (frameOf 1 (annPay 5 131072))) p) (fun t => t.cad.ann == some ⟨5, 7, 131072⟩
          && getF t F.CPM_CAD_STAT_ANN_REJ == 0)
     && ends (exec (.announcementFrame 1 (frameOf 1 (annPay 4 131072))) p) (fun t => t.cad.ann == some ⟨4, 7, 131072⟩)
     && ends (exec (.announcementFrame 1 (frameOf 1 (annPay 6 131072))) p)
          (fun t => t.cad.ann == some ⟨5, 7, 131072⟩ && getF t F.CPM_CAD_STAT_ANN_REJ == 1)) = true := by decide +kernel

theorem witness_effective_tick :
    (let s0 := cadAt .locked 131072 [(F.CPM_STEP_CUR_STEP, 5)]
     let s (k : Nat) := { s0 with cad := { s0.cad with ann := some ⟨k, 7, 131072⟩ } }
     stays (exec .effectiveTick (tickAt 131071 (s 3))) (tickAt 131071 (s 3))
     && ends (exec .effectiveTick (s 5)) (fun t => t.cad.ann == none && curStep t == 5)
     && ends (exec .effectiveTick (s 3)) (fun t => t.cad.ann == none && curStep t == 3)
     && ends (exec .effectiveTick (s 7)) (fun t => t.cad.ann == none && curStep t == 5 && t.clk.sw == some ⟨7, 0, 131072, true, false⟩))
      = true := by decide +kernel

/-- A change to step 7 that is due at tick 200. -/
def due7 (cause : Nat) (late : Bool) (n mv : Nat) : State :=
  let s := cadAt .locked n [(F.CPM_STEP_CUR_STEP, 5), (F.CPM_VMON_MV 0, mv), (F.CPM_VMON_MV 1, mv)]
  { s with clk := { s.clk with sw := some ⟨7, cause, 200, true, late⟩ }, msh := { s.msh with otp := [(0, 0), (1, 0), (2, 0), (3, 0)] } }

theorem witness_step_switch :
    (arrayRuns (due7 0 false 200 2000) && railsAt (due7 0 false 200 2000) (tableMv (due7 0 false 200 2000) 7)
     && ends (exec .stepSwitch (due7 0 false 200 2000)) (fun t => curStep t == 7 && t.clk.sw == none)
     && stays (exec .stepSwitch (due7 0 false 199 2000)) (due7 0 false 199 2000)
     && ends (exec .stepSwitchDeferred (due7 0 true 200 2000)) (fun t => curStep t == 7)
     && ends (exec .tripSwitch (due7 1 false 200 2000)) (fun t => curStep t == 7 && t.clk.div == 1)) = true := by decide +kernel

/-- Generation 0 with a voltage of 800 mV in each place of its table, and its marker and CRC. -/
def gen800 : Nat :=
  let w := (2 ^ 976 - 1)
  w + 2 ^ 976 * otpCrc w + 2 ^ 1016 * 0xC3

theorem witness_step_late :
    (let s (late : Bool) : State := { due7 0 late 200 0 with msh := { State.reset.msh with otp := [(0, gen800), (1, 0), (2, 0), (3, 0)] } }
     !railsAt (s false) (tableMv (s false) 7)
     && ends (exec .stepSwitch (s false)) (fun t => curStep t == 5 && getF t F.CPM_CLK_STAT_STEP_LATE == 1)
     && stays (exec .stepSwitchDeferred (s true)) (s true)) = true := by decide +kernel

/-- A dozing instance 4 of wafer 0. -/
def dozing (lost : Nat) : State :=
  let s := cadAt .unlocked 65536 [(F.CPM_AON_STAT_AON_STATE, 1), (F.CPM_AON_STAT_RET_LOST, lost), (F.GLB_SELF_INSTANCE, 4), (F.GLB_SELF_ASSIGNED, 1)]
  { s with rst := { s.rst with coldRun := false } }

/-- A wake pattern for one instance of wafer 0, with step 6. -/
def wakePay (inst : Nat) : Nat := inst + 2 ^ 16 * 6

theorem witness_wake_pattern :
    ((takeFrame (dozing 0) 3 2 (frameOf 2 (wakePay 4))).1 == some ⟨2, 2, 0, wakePay 4⟩ && selfInst (dozing 0) == 4
     && ends (exec (.wakePattern 3 (frameOf 2 (wakePay 4))) (dozing 0)) (fun t => aonState t == 2 && t.clk.wake == some ⟨0, 0, 3, 6⟩
          && curStep t == 6 && t.cad.st == .acquiring)
     && ends (exec (.wakePattern 3 (frameOf 2 (wakePay 4))) (dozing 1)) (fun t => aonState t == 1 && t.rst.due == 6)
     && ends (exec (.wakePattern 3 (frameOf 2 (wakePay 5))) (dozing 0)) (fun t => aonState t == 1)) = true := by decide +kernel

theorem witness_boundaries :
    (let up : StoreUpsets := ⟨.none, .none, .none, .none, .none, .none, false⟩
     arrayRuns openAt && decide (openAt.fineSeen < now openAt / 64)
     && ends (exec (.fineBucketBoundary up) openAt) (fun t => t.fineSeen == 1025)
     && ends (exec (.fineBucketBoundary up) (put [(F.INT_CTL_SCRUB_EN, 0)] openAt)) (fun t => t.fineSeen == 1025)
     && stays (exec (.fineBucketBoundary up) { openAt with fineSeen := 1025 }) { openAt with fineSeen := 1025 }
     && ends (exec .latencyDecay { openAt with mlat := [(5, 9), (6, 1), (7, 8)], mcnt := [(7, 1)] })
          (fun t => t.mlat == [(5, 4), (7, 8)] && t.coarseSeen == 1)
     && stays (exec .latencyDecay { openAt with coarseSeen := 1 }) { openAt with coarseSeen := 1 }) = true := by decide +kernel

-- ## Tapes

/-- A tape message to tape 6: kind, heat, and the bits above. -/
def tapeMsgAt (kind heat : Nat) (rest : Nat) : BitVec 128 := BitVec.ofNat 128 (kind + 4 * 6 + 2 ^ 10 * 9 + 2 ^ 18 * 1 + 2 ^ 27 * 3 + 2 ^ 32 * heat + rest)

/-- Tape 6 with two engines and one child expected, and more fields set. -/
def tapeAt (l : List (Fld × Nat)) : State := put ([(F.TAPE_CFG_NCHILD 6, 1)] ++ l) openAt

theorem witness_tape_refused :
    (arrayRuns (tapeAt []) && tapeRefuses (tapeAt []) (tapeMsgAt 0 0 (2 ^ 97)).toNat true
     && tapeRefuses (tapeAt []) (tapeMsgAt 1 0 (2 ^ 101)).toNat true && tapeRefuses (tapeAt []) (tapeMsgAt 2 0 (2 ^ 127)).toNat true
     && tapeRefuses (put [(F.TAPE_CFG_EN 6, 0)] openAt) (tapeMsgAt 3 0 0).toNat false
     && ends (exec (.tapeArriveMessage (tapeMsgAt 0 0 (2 ^ 97))) (tapeAt []))
          (fun t => getF t F.GLB_SYNC_CNT_NA_CNT == 1 && getF t F.GLB_SYNC_STAT_NOT_APPLIED == 1 && t.arrivals == [])) = true := by
  decide +kernel

theorem witness_tape_messages :
    (!tapeRefuses (tapeAt []) (tapeMsgAt 0 0 0).toNat true && arriveKind (tapeAt []) 6 (.child 3 1 9) 0 == .current
     && ends (exec (.tapeArriveMessage (tapeMsgAt 0 0 0)) (tapeAt [])) (fun t => t.arrivals.length == 1
          && getF t (F.TAPE_STAT_CHILD_ARR 6) == 1 && !heatComplete t 6)) = true
    ∧ (let s := tapeAt [(F.TAPE_STAT_STATE 6, 1)]
       !tapeRefuses s (tapeMsgAt 1 0 0).toNat true && heatOf s 6 == 0
       && ends (exec (.tapeReleaseMessage (tapeMsgAt 1 0 0)) s) (fun t => tapeState t 6 == 0 && heatOf t 6 == 1)
       && !tapeRefuses s (tapeMsgAt 1 0 (2 ^ 96 + 2 ^ 64 * 65601)).toNat true && absTick (now s) 65601 == 65601
       && ends (exec (.tapeReleaseMessage (tapeMsgAt 1 0 (2 ^ 96 + 2 ^ 64 * 65601))) s)
            (fun t => tapeState t 6 == 2 && heatOf t 6 == 0 && Sparse.find t.tapeRel 6 == some (65601, true))
       && ends (exec (.tapeReleaseMessage (tapeMsgAt 1 0 (2 ^ 96 + 2 ^ 64 * 65599))) s)
            (fun t => heatOf t 6 == 1 && getF t F.GLB_SYNC_STAT_ALIGN_LATE == 1)) = true
    ∧ (!tapeRefuses (tapeAt []) (tapeMsgAt 2 0 0).toNat true && !tapeRefuses (tapeAt []) (tapeMsgAt 3 0 (2 ^ 97)).toNat false
       && ends (exec (.tapeFaultMessage (tapeMsgAt 2 0 0)) (tapeAt [])) (fun t => getF t (F.TAPE_STAT_FAULT_CAUSE 6) == 6)
       && ends (exec (.tapeRefusedMessage (tapeMsgAt 3 0 (2 ^ 97))) (tapeAt [])) (fun t => tapeState t 6 == 3
            && getF t (F.TAPE_STAT_FAULT_CAUSE 6) == 5)) = true
    ∧ (let s := { tapeAt [(F.TAPE_STAT_STATE 6, 2)] with tapeRel := [(6, (65700, true))] }
       tapeState s 6 == 2 && stays (exec (.tapeRelease 6) s) s
       && ends (exec (.tapeRelease 6) (tickAt 65700 s)) (fun t => tapeState t 6 == 0 && heatOf t 6 == 1)) = true := by decide +kernel

theorem witness_tape_replies :
    (let m0 := tapeMsgAt 0 0 0
     let fa := tapeAt [(F.TAPE_STAT_STATE 6, 3)]
     let child : Arrival := ⟨6, .child 3 1 9, 0, false, false, false, none, .mesh 0 3 1 0, unitHdr 0x13 4 0 0 0, 0⟩
     !tapeRefuses fa m0.toNat true && arriveKind fa 6 (.child 3 1 9) 0 == .refused
     && ends (exec (.tapeArriveMessage m0) fa) (fun t => t.out.length == 1 && t.arrivals == [])
     && stays (exec (.tapeReleaseMessage (tapeMsgAt 1 0 (2 ^ 101))) fa) fa && stays (exec (.tapeFaultMessage (tapeMsgAt 2 0 0)) fa) fa
     && stays (exec (.tapeRefusedMessage (tapeMsgAt 3 0 0)) fa) fa
     && ends (exec (.tapeReleaseMessage (tapeMsgAt 1 0 (2 ^ 97))) (tapeAt [(F.TAPE_STAT_STATE 6, 1)]))
          (fun t => getF t F.GLB_SYNC_CNT_NA_CNT == 1 && t.out.length == 1 && tapeState t 6 == 1)
     && ends (exec (.tapeFaultMessage (tapeMsgAt 2 0 (2 ^ 97))) (tapeAt [])) (fun t => getF t F.GLB_SYNC_CNT_NA_CNT == 1 && t.out == [])
     && ends (exec (.tapeRefusedMessage (tapeMsgAt 3 0 (2 ^ 101))) (tapeAt [])) (fun t => getF t F.GLB_SYNC_CNT_NA_CNT == 1 && t.out == [])
     && ends (exec (.tapeReleaseMessage (tapeMsgAt 1 1 0)) (tapeAt [(F.TAPE_STAT_STATE 6, 1)]))
          (fun t => tapeState t 6 == 3 && getF t (F.TAPE_STAT_FAULT_CAUSE 6) == 5)
     && (let s := { tapeAt [(F.TAPE_STAT_STATE 6, 1)] with arrivals := [child] }
         arriveKind s 6 (.child 3 1 9) 1 == .early
         && ends (exec (.tapeArriveMessage (tapeMsgAt 0 1 0)) s) (fun t => t.arrivals.length == 2 && t.arrivals.getLast?.any (fun a => a.heat == 1)))
     && arriveKind (tapeAt []) 6 (.child 3 1 9) 1 == .fault 2
     && ends (exec (.tapeArriveMessage (tapeMsgAt 0 1 0)) (tapeAt [])) (fun t => getF t (F.TAPE_STAT_FAULT_CAUSE 6) == 2)) = true := by
  decide +kernel

theorem witness_tape_pool : arriveKind { tapeAt [] with arrivals := manyArrivals } 6 (.child 3 1 9) 0 = .current := by
  have h := many_arrivals_elsewhere (.child 3 1 9)
  simp only [arriveKind, h]
  decide +kernel

theorem witness_tape_pool_early :
    arriveKind { tapeAt [] with arrivals := ⟨6, .child 3 1 9, 0, false, false, false, none, .mesh 0 3 1 0, unitHdr 0x13 4 0 0 0, 0⟩ :: manyArrivals }
      6 (.child 3 1 9) 1 = .early := by
  have h := many_arrivals_elsewhere (.child 3 1 9)
  simp only [arriveKind, List.filter_cons, h]
  decide +kernel

-- ## Moves

/-- Ring 0 in bib 20 (4 granules, 2 records), its doorbell baton 30; bib 21 of 3 granules at granule 4096 in the array, bib 22
at page 8 of tier 0; tier 0 on. -/
def moveAt (l : List (Fld × Nat)) : State :=
  put ([(F.SPL_CTL_EN, 1), (F.SPL_RING_CFG_EN 0, 1), (F.SPL_RING_CFG_BIB 0, 20), (F.SPL_RING_BATON_DOORBELL 0, 30),
    (F.BIB_CTL_VALID 20, 1), (F.BIB_LEN_LEN 20, 4), (F.BIB_LOC_LOC 20, 2048), (F.BIB_CTL_VALID 21, 1), (F.BIB_LEN_LEN 21, 3),
    (F.BIB_LOC_LOC 21, 4096), (F.BIB_CTL_VALID 22, 1), (F.BIB_LEN_LEN 22, 3), (F.BIB_LOC_LOC 22, 8), (F.BIB_CTL_PLACE 22, 1),
    (F.SPL_TIER_CFG_EN 0, 1), (F.SPL_TIER_CFG_RATE 0, 4), (F.SPL_TIER_CFG_ACCESS 0, 1), (F.SPL_TIER_CFG_TMO 0, 2),
    (F.SPL_TIER_PAGES_PAGES 0, 64), (F.PART_REGION_BASE_ROW 0, 0), (F.PART_REGION_ROW_CNT 0, 64), (F.PART_TIER_BASE_BASE 0 0, 0), (F.PART_TIER_CNT_CNT 0 0, 64), (F.REG_BOUND_BOUND 7, 60000)] ++ l) openAt

theorem witness_move_descriptor_read :
    (let s := moveAt []
     ringUsable s 0 && !s.parked && flagF s F.SPL_CTL_EN && !reached (getF s (F.BTN_CNT_COUNT (getF s (F.SPL_RING_BATON_DOORBELL 0)))) 1
     && stays (exec (.moveDescriptorRead 0) s) s) = true
    ∧ (let s := moveAt [(F.BTN_CNT_COUNT 30, 1)]
       ringUsable s 0 && reached (getF s (F.BTN_CNT_COUNT (getF s (F.SPL_RING_BATON_DOORBELL 0)))) 1
       && ends (exec (.moveDescriptorRead 0) s) (fun t => t.reqs.length == 1 && Sparse.at t.ringTaken 0 0 == 1
            && getF t (F.SPL_RING_POS_TAKEN 0) == 1)) = true := by decide +kernel

/-- A descriptor of partition 0, the first of its ring. -/
def descAt (w : Nat) : MvDesc := ⟨0, 0, w, 65600⟩

/-- A SPILL of bib 21 to page 8 of tier 0, and a FILL of bib 22 to granule 8192. -/
def spillWord : Nat := 1 + 2 ^ 8 * 21 + 2 ^ 128 * 8

/-- A FILL of bib 22 to granule 8192. -/
def fillWord : Nat := 2 + 2 ^ 8 * 22 + 2 ^ 160 * 8192

/-- The state with a held descriptor. -/
def descHeld (w : Nat) : State := { moveAt [] with descs := [descAt w] }

/-- A move of SPILL (1) or FILL (2) of bib `b`, window from fine bucket 1100 on, a page outstanding. -/
def moveOf (kind b : Nat) (got : List (Nat × Nat)) : Move :=
  ⟨5, 0, 0, kind, kind, 70000, 1100, 3, 4, [b], [0], [8], [4096], [0], [(0, 0)], got, 0, 0, none, false⟩

/-- The state with that move. -/
def withMove (m : Move) : State := { moveAt [] with moves := [m], nextId := 6 }

theorem witness_spill_and_fill :
    (let s := descHeld (1 + 2 ^ 6)
     headDesc s 0 == some (descAt (1 + 2 ^ 6))
     && (match checkMove { s with descs := [] } (descAt (1 + 2 ^ 6)) with | .error e => e == ((5, 1, 0), false, none) | _ => false)
     && ends (exec (.spill ⟨0, []⟩) s) (fun t => t.moves == [] && t.descs == [])) = true
    ∧ (let s := descHeld spillWord
       (match checkMove { s with descs := [] } (descAt spillWord) with | .ok (m, _, n, _, _) => m.bibs == [21] && n == 2 | _ => false)
       && ends (exec (.spill ⟨0, []⟩) s) (fun t => t.moves.length == 1 && getF t (F.BIB_CTL_PLACE 21) == 5)) = true
    ∧ (let s := descHeld fillWord
       (match checkMove { s with descs := [] } (descAt fillWord) with | .ok (m, _, n, _, _) => m.bibs == [22] && n == 2 | _ => false)
       && ends (exec (.fill ⟨0, []⟩) s) (fun t => t.moves.length == 1 && getF t (F.BIB_CTL_PLACE 22) == 4)) = true := by decide +kernel

theorem witness_other_kind_of_move :
    (stays (exec (.fill ⟨0, []⟩) (descHeld spillWord)) (descHeld spillWord)
     && stays (exec (.spill ⟨0, []⟩) (descHeld fillWord)) (descHeld fillWord)
     && owedByTier (moveOf 1 21 [(0, 0)]) (0, 0) && !owedByTier (moveOf 2 22 [(0, 0)]) (0, 0)) = true := by decide +kernel

theorem witness_tier_moves :
    (let m := moveOf 1 21 [(0, 0)]
     findMove (withMove m) 5 == some m && ends (exec (.tierAck 5 0 0) (withMove m)) (fun t => (findMove t 5).all (fun x => x.pend == []))) = true
    ∧ (let m := moveOf 2 22 []
       ends (exec (.tierPageFailure 5 0) (withMove m)) (fun t => getF t F.SPL_STAT_TIER_ERR == 1)
       && stays (exec (.tierTimeout 5) (tickAt 72047 (withMove m))) (tickAt 72047 (withMove m))
       && ends (exec (.tierTimeout 5) (tickAt 72048 (withMove m))) (fun t => getF t F.SPL_STAT_LATE == 1)) = true
    ∧ (getF (completeBib (moveAt []) (moveOf 1 21 []) 0) (F.BIB_CTL_PLACE 21) = 1
       ∧ getF (completeBib (moveAt []) (moveOf 1 21 []) 0) (F.BIB_LOC_LOC 21) = 8
       ∧ getF (completeBib (moveAt []) (moveOf 2 22 []) 0) (F.BIB_CTL_PLACE 22) = 0) := by decide +kernel

set_option maxRecDepth 100000 in
theorem witness_tier_page :
    (let m := moveOf 2 22 []
     let d : TierPage := ⟨5, 0, 0, [], [], []⟩
     findMove (withMove m) 5 == some m && (pageStates (withMove m) m 0 0 d).2 == some 2
     && ends (exec (.tierPageDelivery d) (withMove m)) (fun t => t.reqs.length == (pageBursts (withMove m) m 0 0 5).length
          && getF t F.SPL_STAT_PAGE_STAIN == 1 && (findMove t 5).map (fun x => x.stain) == some 3)) = true := by decide +kernel

theorem witness_move_waits :
    (let r : Request := { blankReq 7 (.spill 0) (unitHdr 0 7 0 63 (64 * 4096)) [] 65600 with
       stage := .admitted, place := .fine 1025, accs := [readAcc 4096 0 0 0], aux := [3, 5, 0, 0] }
     let w := { wr1 4 .access with accs := [⟨4097, 0, 0, 0, 7, 1, false, 0, false, none, 0⟩] }
     let s := { withMove (moveOf 1 21 []) with reqs := [w, r] }
     findReq s 7 == some r && moveWaits s r && stays (exec (.issueRelease 7) s) s
     && !moveWaits { s with reqs := [r] } r) = true := by decide +kernel

-- ## The journal shadow and the partner

/-- The shadow is on, and this instance is its partner's target over link 2. -/
def shadowAt : State := put [(F.JNL_SHADOW_EN, 1), (F.JNL_SHADOW_ROW, 4), (F.JNL_CTL_SHADOW_EN, 1), (F.JNL_BUDDY_SET, 1)] meshAt

/-- A held shadow write that arrived at tick 65,600. -/
def hold0 : ShadowHold := ⟨2, 9, 7, 65600, 65700⟩

/-- A dip pauses admission. -/
def dipping (s : State) : State := put [(F.REG_STAT_P_DIP, 1)] s

theorem witness_shadow :
    (arrayRuns shadowAt && linkUsable shadowAt 2 && flagF shadowAt F.JNL_SHADOW_EN && shadowAt.shHold == []
     && (submitShadow (noteInbound shadowAt 2 1 ⟨0xD2, 0, 15, some 7, 0⟩) 2 9 7).1 == none
     && ends (exec (.shadowWrite 2 9 7) shadowAt) (fun t => t.reqs.length == 1 && t.shHold == [])
     && ((submitShadow (noteInbound (dipping shadowAt) 2 1 ⟨0xD2, 0, 15, some 7, 0⟩) 2 9 7).1).isSome
     && (submitShadow (noteInbound (dipping shadowAt) 2 1 ⟨0xD2, 0, 15, some 7, 0⟩) 2 9 7).2.shHold == []
     && ends (exec (.shadowWrite 2 9 7) (dipping shadowAt)) (fun t => t.reqs == [] && t.shHold.length == 1)
     && ends (exec (.shadowWrite 2 9 7) { shadowAt with shHold := [hold0] }) (fun t => t.shHold == [hold0, ⟨2, 9, 7, 65600, 0⟩])
     && ends (exec (.shadowWrite 2 9 7) { shadowAt with shHold := List.replicate 64 hold0 }) (fun t => t.shHold.length == 64)) = true := by
  decide +kernel

theorem witness_shadow_resubmit :
    (let s (n : Nat) : State := tickAt n { shadowAt with shHold := [hold0] }
     arrayRuns (s 65699) && stays (exec .shadowResubmit (s 65699)) (s 65699)
     && (submitShadow (s 65700) 2 9 7).1 == none
     && ends (exec .shadowResubmit (s 65700)) (fun t => t.shHold == [] && t.reqs.length == 1)
     && ((submitShadow (dipping (s 65700)) 2 9 7).1).isSome
     && ends (exec .shadowResubmit (dipping (s 65700))) (fun t => t.shHold.length == 1 && t.reqs == [])
     && ends (exec .shadowResubmit (s 81600)) (fun t => t.shHold == [] && t.reqs == [])) = true := by decide +kernel

/-- An entry of an inbound request whose first state waits for its acknowledgement. -/
def jent : JEntry where
  seq := 4
  kind := 1
  state := 1
  part := 0
  cls := 4
  req := 0
  tag := 5
  owafer := 0
  oinst := 0
  core := 0
  engine := 1
  body := 0
  promised := 70000
  code := 0
  cause := 0
  value := 0
  addr := 64
  size := 63
  op := 4
  stainMap := 0
  unit := 0
  words := []
  rid := none
  states := [(1, 65600)]
  ans := none
  csrc := none

theorem witness_shadow_ack :
    (let s := { shadowAt with jnl := [jent] }
     findEntry s 4 == some jent && jent.states == [(1, 65600)] && arrayRuns s
     && ends (exec (.shadowAck 4) s) (fun t => t.jnl.all (fun e => e.states == []))
     && stays (exec (.shadowTimeout 4) (tickAt 85599 s)) (tickAt 85599 s)
     && ends (exec (.shadowTimeout 4) (tickAt 85600 s)) (fun t => !shadowOn t)) = true := by decide +kernel

theorem witness_keepalives :
    (flagF shadowAt F.JNL_BUDDY_SET && flagF shadowAt F.JNL_CTL_SHADOW_EN && getF shadowAt F.MESH_STAT_UP != 0
     && ends (exec .keepaliveSend shadowAt) (fun t => t.buddy.kaSent == 1 && t.out.length == 1)
     && (let s := { shadowAt with buddy := { shadowAt.buddy with kaSent := 1 } }
         stays (exec .keepaliveSend s) s)
     && ends (exec (.keepalive false) shadowAt) (fun t => t.buddy.kaLast == some 65600)
     && (let s := { shadowAt with buddy := { shadowAt.buddy with kaLast := some 65600 } }
         stays (exec .partnerLost (tickAt 327743 s)) (tickAt 327743 s)
         && ends (exec .partnerLost (tickAt 327744 s)) (fun t => getF t F.JNL_STAT_PARTNER_LOST == 1)
         && ends (exec .partnerLost { s with buddy := { s.buddy with cold := true } }) (fun t => getF t F.JNL_STAT_PARTNER_LOST == 1))) = true := by
  decide +kernel

-- ## Marshals

/-- The firmware runs; marshal 0 is active, marshal 1 ready to take over. -/
def firmAt : State := put [(F.MSH_BOOT_STAGE, 11), (F.MSH_STAT_STBY_OK, 1), (F.JNL_HB_HB_TMO, 2)] openAt

/-- Marshal 1 takes over, with a slot of 0 bytes. -/
def takingAt : State :=
  { put [(F.JNL_CNT_REPLAYED, 3)] firmAt with activeM := none, msh := { firmAt.msh with taking := some 1, slots := [(2, ⟨1, 0, 0, crc32c [], 1⟩)] } }

theorem witness_marshals :
    (firmwareRuns firmAt && aonState firmAt == 0 && firmAt.activeM.isSome && firmAt.msh.hb == 0
     && stays (exec .heartbeatTimeout (tickAt 2047 firmAt)) (tickAt 2047 firmAt)
     && ends (exec .heartbeatTimeout (tickAt 2048 firmAt)) (fun t => t.activeM == none)
     && (openPart firmAt).isNone && flagF firmAt F.MSH_STAT_STBY_OK
     && ends (exec .marshalFailure firmAt) (fun t => t.activeM == none && t.msh.taking == some 1 && flagF t F.MSH_STAT_M0_FAIL)) = true
    ∧ (pickSlot (setF { takingAt with activeM := some 1, msh := { takingAt.msh with taking := none, hb := now takingAt } } F.MSH_STAT_ACTIVE 1) 1
         == some ⟨1, 0, 0, crc32c [], 1⟩ && !shdn takingAt
       && ends (exec .marshalTakeover takingAt) (fun t => t.activeM == some 1 && t.msh.taking == none && getF t F.MSH_STAT_ACTIVE == 1
            && getF t F.JNL_CNT_REPLAYED == 3 && getF t F.REG_CTL_OPEN == 1)) = true
    ∧ (let s := { put [(F.JNL_CKPT_GEN, 6)] firmAt with msh := { firmAt.msh with copy := some ⟨1, 0, 4, 9⟩ } }
       ends (exec .checkpointComplete s) (fun t => getF t F.JNL_CKPT_GEN == 7 && getF t F.JNL_STAT_CKPT_SLOT == 1 && t.msh.copy == none
         && (Sparse.find t.msh.slots 3).any (fun sl => sl.gen == 7 && sl.jseq == 9 && sl.len == 4))) = true
    ∧ (partOk 3 15 && !partOk 3 16 && ends (exec (.partFault 3 15) firmAt) (fun t => flagF t F.JNL_STAT_RECOVERING)) = true
    ∧ (let s := put [(F.JNL_STAT_RECOVERING, 1), (F.JNL_FAULT_CLASS, 3), (F.JNL_FAULT_INDEX, 3)] firmAt
       windowOver s && ends (exec .recoveryWindowClose s) (fun t => !flagF t F.JNL_STAT_RECOVERING)
       && !windowOver { s with tasks := [task0] }
       && stays (exec .recoveryWindowClose { s with tasks := [task0] }) { s with tasks := [task0] }) = true := by decide +kernel

-- ## Resets, pins and supplies

/-- Powered, in no reset. -/
def poweredAt : State :=
  let s := put [(F.GLB_RST_CAUSE_CAUSE, 1), (F.CPM_AON_LAST_SOURCE, 5), (F.CPM_AON_STAT_AON_STATE, 0)] openAt
  { s with rst := { s.rst with due := 0, coldRun := false, warm := 0 }, clk := { s.clk with vaon := true, powerOk := true, rails := true, stopped := false } }

/-- With a reset due. -/
def dueAt (k : Nat) : State := { poweredAt with rst := { poweredAt.rst with due := k } }

/-- In an always-on state. -/
def aonAt (k : Nat) : State := put [(F.CPM_AON_STAT_AON_STATE, k)] poweredAt

theorem witness_reset_triggers :
    (ends (exec .coldRstN (dueAt 7)) (fun t => t.rst.due == 7 && getF t F.GLB_RST_CAUSE_IGNORED == 1)
     && ends (exec .coldRstN (dueAt 8)) (fun t => t.rst.due == 2)
     && ends (exec .coldRstN poweredAt) (fun t => t.rst.due == 2)
     && ends (exec .warmRstN poweredAt) (fun t => t.rst.due == 8)
     && ends (exec .warmRstN (dueAt 1)) (fun t => t.rst.due == 1 && getF t F.GLB_RST_CAUSE_IGNORED == 1)
     && reaches .supervisor 0x14 poweredAt && !shdn poweredAt
     && ends (exec (.warm .supervisor) poweredAt) (fun t => t.rst.due == 9)
     && ends (exec (.cold .supervisor) (dueAt 8)) (fun t => t.rst.due == 3)) = true := by decide +kernel

theorem witness_resets :
    (let s := { dueAt 3 with mem := [(7, 1)], msh := { poweredAt.msh with otp := [(0, 5)] }, tasks := [task0] }
     ends (exec .coldReset s) (fun t => getF t F.GLB_RST_CAUSE_CAUSE == 3 && getF t F.GLB_RST_CAUSE_PREV == 1 && t.mem == []
       && t.tasks == [] && t.msh.otp == [(0, 5)] && t.rst.coldRun && t.rst.due == 0 && getF t F.CPM_AON_LAST_SOURCE == 5
       && getF t F.REG_CTL_OPEN == 0 && t.clk.powerOk)) = true
    ∧ (stays (exec .coldReset poweredAt) poweredAt && stays (exec .warmReset poweredAt) poweredAt) = true
    ∧ (let s := { dueAt 9 with tasks := [task0] }
       ends (exec .warmReset s) (fun t => t.rst.warm == 9 && t.rst.due == 0 && t.parked && getF t F.GLB_RST_CAUSE_CAUSE == 9
         && t.tasks.all (fun k => k.parked))) = true
    ∧ (let s := { poweredAt with rst := { poweredAt.rst with warm := 9 }, parked := true }
       drained s && ends (exec .warmResume s) (fun t => t.rst.warm == 0 && !t.parked)
       && !drained { s with comb := [ent true] } && stays (exec .warmResume { s with comb := [ent true] }) { s with comb := [ent true] }) = true := by
  decide +kernel

theorem witness_supplies :
    (ends (exec .supplyReset poweredAt) (fun t => getF t F.GLB_RST_CAUSE_CAUSE == 4 && !t.clk.powerOk && t.rst.coldRun)
     && ends (exec .supplyReset (aonAt 2)) (fun t => aonState t == 0)
     && ends (exec .supplyResetRelease { poweredAt with clk := { poweredAt.clk with powerOk := false } }) (fun t => t.clk.powerOk)
     && ends (exec .railsRemoved (aonAt 1)) (fun t => !t.clk.rails && t.clk.railsOff)
     && ends (exec .railsApplied { aonAt 3 with clk := { poweredAt.clk with rails := false } }) (fun t => t.clk.rails && t.rst.due == 7)
     && ends (exec .vaonApplied { poweredAt with msh := { poweredAt.msh with otp := [(0, 5)] } })
          (fun t => t.regs == [] && t.msh.otp == [(0, 5)] && t.rst.coldRun)
     && ends (exec .vaonRemoved { aonAt 3 with mem := [(7, 1)] }) (fun t => aonState t == 3 && !t.clk.vaon && t.mem == []
          && getF t F.CPM_AON_LAST_SOURCE == 0)) = true := by decide +kernel

/-- A shutdown with a source has begun. -/
def shutting (src : Nat) (pf : Bool) : State :=
  let s := put [(F.GLB_SHDN_STAT_SHDN_ACT, 1), (F.GLB_SHDN_STAT_SOURCE, src)] poweredAt
  { s with rst := { s.rst with pfail := pf } }

theorem witness_shutdown :
    (ends (exec .pfailAssert poweredAt) (fun t => shdn t && flagF t F.GLB_SHDN_STAT_SOURCE && getF t F.REG_CTL_OPEN == 0 && t.rst.pfail)
     && ends (exec .pfailAssert { poweredAt with rst := { poweredAt.rst with warm := 8 } }) (fun t => !shdn t && t.rst.shutDue)
     && ends (exec .pfailRelease (shutting 1 true)) (fun t => !shdn t && flagF t F.GLB_SHDN_STAT_ABORTED && flagF t F.REG_CTL_OPEN && !t.rst.pfail)
     && stays (exec .pfailRelease poweredAt) poweredAt
     && (let s := shutting 1 true
         let m := { s with rst := { s.rst with mark := some 4 } }
         markAcked m && ends (exec .handoffPoint m) (fun t => aonState t == 3 && t.rst.due == 0))
     && (let s := shutting 0 false
         let m := { s with rst := { s.rst with mark := some 4 } }
         markAcked m && ends (exec .handoffPoint m) (fun t => aonState t == 3 && t.rst.due == 5))
     && !markAcked (shutting 1 true) && stays (exec .handoffPoint (shutting 1 true)) (shutting 1 true)) = true := by decide +kernel

-- ## Boot

/-- Booting in a stage, the OTP blank. -/
def bootStage (k : Nat) (l : List (Fld × Nat)) : State :=
  let s := put ([(F.MSH_BOOT_STAGE, k)] ++ l) poweredAt
  { s with rst := { s.rst with coldRun := true }, msh := { s.msh with otp := [(0, 0), (1, 0), (2, 0), (3, 0)] } }

/-- A block of a kind with a number, for slot 0. -/
def block (kind k : Nat) (p : List Byte) : Block := ⟨BitVec.ofNat 256 (kind + 2 ^ 16 * k), p⟩

/-- The state with a boot stream. -/
def streaming (stage : Nat) (dir : List Nat) (img : List Byte) : State :=
  let s := bootStage stage []
  { s with boot := { s.boot with on := true, sel := true, gap := false, dir := dir, img := img } }

/-- The record of a GOOD slot of 100 bytes. -/
def rec100 : Nat := let w := 4 + 2 ^ 32 * 7 + 2 ^ 64 * 100
  w + 2 ^ 496 * crc16 496 w

theorem witness_boot_clocks :
    (let s := bootStage 0 [(F.MSH_STAT_M0_FAIL, 0)]
     let r : BistResult := ⟨[], [], []⟩
     s.rst.coldRun && !flagF s F.MSH_STAT_M0_FAIL && aonState s == 0
     && ends (exec (.bistDone r) { s with mem := [(7, 1)] }) (fun t => t.mem == [] && t.activeM == some 0 && getF t (F.TRK_STAT_BIST_DONE 15) == 1
          && getF t F.MSH_BOOT_STAGE == 15)
     && ends (exec .refReady (bootStage 3 [])) (fun t => getF t F.CPM_CLK_STAT_REF_READY == 1 && getF t F.MSH_BOOT_STAGE == 4)
     && ends (exec .refclkTimeout (bootStage 3 [])) (fun t => getF t F.MSH_BOOT_STAGE == 15 && getF t F.MSH_BOOT_CAUSE == 11)
     && ends (exec .pllLock (bootStage 4 [])) (fun t => getF t F.CPM_CLK_STAT_ON_PLL == 1 && getF t F.MSH_BOOT_STAGE == 5)
     && stays (exec .pllLock (bootStage 11 [])) (bootStage 11 [])) = true := by decide +kernel

theorem witness_boot_stream :
    (blockOk (block 0 0 (toBytes 64 rec100)) 0
     && ends (exec (.directory (block 0 0 [])) (bootStage 5 [])) (fun t => getF t F.MSH_BOOT_STAGE == 15 && getF t F.MSH_BOOT_CAUSE == 1)
     && imageOk { bootStage 5 [] with boot := { State.reset.boot with dir := [rec100, 0] } } 0
     && (let s := streaming 5 [rec100, 0] []
         nextBlock s == 0 && selRecord s == rec100 && !formatBad (padBytes 1024 [1, 2] |>.take 100) rec100
         && ends (exec (.data (block 1 0 [1, 2])) s) (fun t => t.boot.img.length == 100)
         && ends (exec (.data (block 1 1 [1, 2])) s) (fun t => t.boot.gap)
         && ends (exec (.endOfPass (block 2 0 [])) s) (fun t => getF t F.MSH_BOOT_PASSES == 1 && !t.boot.on)
         && ends (exec (.endOfPass (block 2 0 [])) (put [(F.MSH_BOOT_PASSES, 3)] s))
              (fun t => getF t F.MSH_BOOT_CAUSE == 2 && getF t F.MSH_BOOT_BAD == 1))
     && (let s := streaming 5 [2 ^ 64 * 256, 0] []
         formatBad (padBytes 1024 [] |>.take 256) (selRecord s)
         && ends (exec (.data (block 1 0 [])) s) (fun t => getF t F.MSH_BOOT_CAUSE == 3)
         && nextBlock { s with boot := { s.boot with img := [1] } } == 1
         && stays (exec (.data (block 1 0 [])) { s with boot := { s.boot with img := [1] } }) { s with boot := { s.boot with img := [1] } })) = true := by
  decide +kernel

/-- 256 bytes of zeros but for the CRC. -/
def zeros256 : List Byte := List.replicate 24 0 ++ toBytes 4 (crc32c (List.replicate 256 0)) ++ List.replicate 228 0

set_option maxRecDepth 100000 in
theorem witness_boot_image :
    (let s := streaming 5 [2 ^ 64 * 256, 0] zeros256
     imageCrc s.boot.img == imgNat s.boot.img 0x18 4
     && ends (exec (.endOfPass (block 2 0 [])) s) (fun t => getF t F.MSH_BOOT_STAGE == 6)
     && (let z := { s with boot := { s.boot with img := List.replicate 256 0 } }
         imageCrc z.boot.img != imgNat z.boot.img 0x18 4
         && ends (exec (.endOfPass (block 2 0 [])) z) (fun t => getF t F.MSH_BOOT_STAGE == 5 && getF t F.MSH_BOOT_CAUSE == 4))
     && !keyOk (streaming 6 [] []) && ends (exec .authDone (streaming 6 [] [])) (fun t => getF t F.MSH_BOOT_CAUSE == 5)) = true := by
  decide +kernel

/-- An image of one PARTITIONS section whose DL_RES of partition 0 is more than its SHARE. -/
def badParts : List Byte := List.replicate 7 0 ++ [1] ++ List.replicate 248 0 ++ [3, 0xFF, 0, 0, 0x20, 1, 0, 0] ++ List.replicate 28 0 ++ [1, 0xFF]

theorem witness_boot_apply :
    (applyAll (streaming 7 [] [])).1 = true := by decide +kernel

set_option maxRecDepth 100000 in
theorem witness_boot_apply_fails : (applyAll (streaming 7 [] badParts)).1 = false := by decide +kernel

-- ## Roll-call

/-- Roll-call in a step, the four links up. -/
def rolling (k : Nat) (l : List (Fld × Nat)) : State := put ([(F.GLB_RC_STAT_STEP, k), (F.MESH_STAT_UP, 15), (F.MSH_BOOT_STAGE, 8)] ++ l) poweredAt

/-- A roll-call message with its CRC. -/
def rollMsg (kind status inst body hold : Nat) : BitVec 128 :=
  let w := fieldsWord [(0, kind), (4, status), (7, inst), (32, body), (96, hold)]
  BitVec.ofNat 128 (w + 2 ^ 112 * crc16 112 w)

theorem witness_hello :
    (rollStep (rolling 1 []) == 1 && (rolling 1 []).roll.sent == 0 && rollLinkUp (rolling 1 []) 3
     && (let s := { rolling 1 [] with roll := { (rolling 1 []).roll with sent := 1 } }
         stays (exec .helloSend s) s)
     && ends (exec .helloSend (rolling 1 [])) (fun t => t.roll.sent == 1 && t.out.length == 4)
     && (parseRoll (rollMsg 0 0 5 0 0).toNat).any (fun r => r.kind == 0)
     && ends (exec (.hello 2 (rollMsg 0 0 5 0 0)) (rolling 1 [])) (fun t => t.out.length == 1)
     && (parseRoll (rollMsg 1 1 5 (2 ^ 32 * 1000) 3).toNat) == some ⟨1, 1, 5, 2 ^ 32 * 1000, 3⟩
     && ends (exec (.helloReply 2 (rollMsg 1 1 5 (2 ^ 32 * 1000) 3) 1008) (rolling 1 []))
          (fun t => getF t (F.CPM_LINK_DLY_DELAY 2) == 3 && nbrDone t 2 && getF t (F.GLB_RC_NBR_NBR 2) == 1)
     && (parseRoll (rollMsg 1 0 5 0 0).toNat).any (fun r => r.status == 0)
     && ends (exec (.helloReply 2 (rollMsg 1 0 5 0 0) 8) (rolling 1 [])) (fun t => !nbrDone t 2)) = true := by decide +kernel

theorem witness_neighbour_silent :
    (let s (n : Nat) : State := { tickAt n (rolling 1 [(F.GLB_RC_NBR_DONE, 3)]) with roll := { State.reset.roll with booting := [(3, 101)] } }
     Sparse.find (s 0).roll.booting 3 == some (100 + 1) && !nbrDone (s 0) 3
     && stays (exec (.neighbourSilent 3) (s 1000000099)) (s 1000000099)
     && ends (exec (.neighbourSilent 3) (s 1000000100)) (fun t => nbrDone t 3 && getF t (F.GLB_RC_NBR_NBR 3) == 0)
     && getF (rolling 1 [(F.GLB_RC_NBR_DONE, 7)]) F.GLB_RC_NBR_DONE + 2 ^ 3 == 15
     && (let q (n : Nat) : State := { tickAt n (rolling 2 []) with roll := { State.reset.roll with step1 := 101 } }
         stays (exec .fieldStatusTimeout (q 5000099)) (q 5000099))) = true := by decide +kernel

theorem witness_glb_self :
    (let g := fieldsWord [(0, 4), (16, 1), (31, 1)]
     reaches .marshal 8 (rolling 1 []) && (rolling 1 []).activeM.isSome
     && ends (exec (.glbSelfWrite .marshal g) (rolling 1 [])) (fun t => getF t F.GLB_SELF_INSTANCE == 4 && getF t F.GLB_SELF_WAFER == 1
          && getF t F.GLB_SELF_ASSIGNED == 1 && getF t F.GLB_RC_STAT_STEP == 5 && getF t F.JNL_BUDDY_WAFER == 1))
      = true := by decide +kernel

/-- The witness of a status of the own field: whichever the field's number is, a message for its site 3. -/
theorem witness_field_status : ∀ f, f < 40 →
    (parseRoll (rollMsg 2 1 (12 * f + 3) 0 0).toNat).any (fun r => r.kind == 2 && r.inst / 12 == f && r.inst % 12 == 3) = true := by
  decide +kernel

theorem witness_own_field :
    (parseRoll (rollMsg 2 1 (12 * Config.siteField + 3) 0 0).toNat).any
      (fun r => r.kind == 2 && r.inst / 12 == Config.siteField && r.inst % 12 == 3) = true :=
  witness_field_status Config.siteField (Nat.mod_lt _ (by decide))

-- ## Commands of the marshal

/-- A command word: CODE, USER 9 and the arguments. -/
def cmdWord (code : Nat) (args : List Nat) : Nat :=
  code + 2 ^ 16 * 9 + ((List.range args.length).map (fun i => 2 ^ (32 * (i + 1)) * args.getD i 0)).sum

/-- The command has arrived from a source. -/
def cmdIn (c : CmdSrc) (code : Nat) (args : List Nat) (s : State) : State :=
  { s with msh := { s.msh with cmdQ := [⟨c, cmdWord code args, 0, 0⟩] } }

/-- The command is taken, and of what the taking leaves something holds. -/
def taking (c : CmdSrc) (code : Nat) (s : State) (f : CmdRun → State → Bool) : Bool :=
  match takeCmd s c (fun x => x == code) with
  | some (r, u) => f r u
  | none => false

/-- The result of the supervisor's mailbox has CODE and CAUSE. -/
def resultIs (code cause : Nat) (t : State) : Bool :=
  getF t (F.MSH_MB_R_WORD 0 0) == code + 2 ^ 8 * cause + 2 ^ 16 * 9 && getF t (F.MSH_MB_CTL_DONE 0) == 1

theorem witness_part_create :
    (let s := cmdIn .supervisor 1 [2] (put [(F.PART_REGION_BASE_ROW 2, 100), (F.PART_REGION_ROW_CNT 2, 8)] poweredAt)
     (match takeCmd s .supervisor (fun k => k == 1 || !knownCode k) with
      | some (r, u) => knownCode (cmdCode r.words) && fromMailbox r && (createCause u (cmdArg r.words 0)).isNone
      | none => false)
     && ends (exec (.partCreate .supervisor) s) (fun t => getF t (F.PART_STAT_STATE 2) == 1 && resultIs 0 0 t)) = true
    ∧ (let s := cmdIn .supervisor 1 [0] poweredAt
       (match takeCmd s .supervisor (fun k => k == 1 || !knownCode k) with
        | some (r, u) => createCause u (cmdArg r.words 0) == some 3
        | none => false)
       && ends (exec (.partCreate .supervisor) s) (fun t => getF t (F.PART_STAT_LAST_CAUSE 0) == 3)) = true
    ∧ (let s := cmdIn .supervisor 11 [0] poweredAt
       (match takeCmd s .supervisor (fun k => k == 1 || !knownCode k) with
        | some (r, _) => !knownCode (cmdCode r.words)
        | none => false)
       && ends (exec (.partCreate .supervisor) s) (fun t => resultIs 5 2 t)) = true
    ∧ (let s := cmdIn (.ring 3) 1 [2] poweredAt
       (match takeCmd s (.ring 3) (fun k => k == 1 || !knownCode k) with
        | some (r, _) => knownCode (cmdCode r.words) && !fromMailbox r
        | none => false)
       && ends (exec (.partCreate (.ring 3)) s) (fun t => getF t (F.PART_STAT_LAST_CAUSE 2) == 1)) = true := by decide +kernel

theorem witness_part_kill :
    taking .supervisor 2 (cmdIn .supervisor 2 [0] poweredAt) (fun r u => fromMailbox r && partCreated u (cmdArg r.words 0)) = true
    ∧ (taking .supervisor 2 (cmdIn .supervisor 2 [16] poweredAt) (fun r _ => cmdArg r.words 0 == 16)
       && ends (exec (.partKill ⟨.supervisor, []⟩) (cmdIn .supervisor 2 [16] poweredAt)) (resultIs 5 2)) = true
    ∧ (taking .supervisor 2 (cmdIn .supervisor 2 [15] poweredAt) (fun r _ => cmdArg r.words 0 == 15)
       && ends (exec (.partKill ⟨.supervisor, []⟩) (cmdIn .supervisor 2 [15] poweredAt)) (fun t => getF t (F.PART_STAT_LAST_CAUSE 15) == 3)) = true := by
  decide +kernel

/-- Bib 21 of partition 0 is VALID, and bib 22, which chains to bib 23. -/
def bibsAt : State := put [(F.BIB_CTL_VALID 23, 1), (F.BIB_LEN_LEN 23, 3), (F.BIB_CTL_CHAINED 22, 1), (F.BIB_CTL_NEXT 22, 23),
  (F.CPM_AON_STAT_AON_STATE, 0)] (moveAt [])

theorem witness_bib_commands :
    (let s := cmdIn (.ring 0) 4 [21] bibsAt
     taking (.ring 0) 4 s (fun r u => cmdArg r.words 0 == 21 && flagF u (F.BIB_CTL_VALID 21) && mayActOn r (getF u (F.BIB_CTL_PART 21)) && !bibHeld u 21)
     && ends (exec (.bibFree (.ring 0)) s) (fun t => !flagF t (F.BIB_CTL_VALID 21))
     && (let m := { s with moves := [moveOf 1 21 []] }
         taking (.ring 0) 4 m (fun _ u => bibHeld u 21) && ends (exec (.bibFree (.ring 0)) m) (fun t => flagF t (F.BIB_CTL_VALID 21)))) = true
    ∧ (let s := cmdIn .debug 5 [21, 22] bibsAt
       taking .debug 5 s (fun r u => cmdArg r.words 1 == 22 && !flagF u (F.BIB_CTL_CHAINED 21) && !chainReaches u 21 4096 22)
       && ends (exec (.bibLink .debug) s) (fun t => flagF t (F.BIB_CTL_CHAINED 21) && getF t (F.BIB_CTL_NEXT 21) == 22)) = true
    ∧ (let s := cmdIn .supervisor 5 [23, 22] bibsAt
       taking .supervisor 5 s (fun _ u => !flagF u (F.BIB_CTL_CHAINED 23) && chainReaches u 23 4096 22)
       && ends (exec (.bibLink .supervisor) s) (fun t => !flagF t (F.BIB_CTL_CHAINED 23) && resultIs 4 7 t)) = true
    ∧ (let s := cmdIn (.ring 0) 6 [0, 5, 6, 7] bibsAt
       taking (.ring 0) 6 s (fun r _ => mayActOn r 0)
       && ends (exec (.srSet (.ring 0)) s) (fun t => getF t (F.PART_SR_KEY_LO_KEY_LO 0) == 5 && getF t (F.PART_SR_STEP_STEP 0) == 7)) = true := by
  decide +kernel

theorem choose_some (s : State) (l : List Nat) (h : l ≠ []) : ∃ n k, chooseFrom s l = (some n, { s with free := k }) := by
  have hp : Config.freeNat s.free % max l.length 1 < l.length := by
    have := List.length_pos_iff.mpr h
    rw [Nat.max_eq_left (by omega)]
    exact Nat.mod_lt _ this
  exact ⟨l[Config.freeNat s.free % max l.length 1], s.free + 1, by simp [chooseFrom, takeFree, h, List.getElem?_eq_getElem hp]⟩

/-- A BIB_ALLOC of 40 granules for partition 0. -/
def allocAt : State := cmdIn .supervisor 3 [0, 40, 0] poweredAt

theorem witness_alloc_taken :
    taking .supervisor 3 allocAt (fun r u => mayActOn r 0 && !allocBad r.words (allocEntry r.words) && partCreated u 0
      && !(allocEntry r.words).mirror && (List.range 4096).filter (fun k => !flagF u (F.BIB_CTL_VALID k)) != []
      && freeBlocks u 0 (allocEntry r.words).len (usedGrans u) != []) = true := by decide +kernel

theorem place_some (s : State) (p : Nat) (e : BibE) (hm : e.mirror = false) (h : freeBlocks s p e.len (usedGrans s) ≠ []) :
    ∃ x t, placeBib s p e = some (x, t) ∧ x.mirror = false := by
  obtain ⟨n, k, hc⟩ := choose_some s _ h
  exact ⟨{ e with loc := 32 * n }, { s with free := k }, by simp [placeBib, hc, hm], hm⟩

theorem witness_bib_alloc : ∃ r u n e u1 u2, takeCmd allocAt .supervisor (fun x => x == 3) = some (r, u)
    ∧ mayActOn r 0 = true ∧ allocBad r.words (allocEntry r.words) = false ∧ partCreated u 0 = true
    ∧ chooseFrom u ((List.range 4096).filter (fun k => !flagF u (F.BIB_CTL_VALID k))) = (some n, u1)
    ∧ placeBib u1 0 (allocEntry r.words) = some (e, u2) ∧ bibNoLines u2 n (bibE u2 n) e = false := by
  have h := witness_alloc_taken
  unfold taking at h
  split at h
  · rename_i r u hk
    simp only [Bool.and_eq_true, Bool.not_eq_true', bne_iff_ne] at h
    obtain ⟨⟨⟨⟨⟨ha, hb⟩, hp⟩, hm⟩, hv⟩, hf⟩ := h
    obtain ⟨n, k, hc⟩ := choose_some u _ hv
    obtain ⟨e, u2, he, hx⟩ := place_some { u with free := k } 0 _ hm hf
    exact ⟨r, u, n, e, _, u2, hk, ha, hb, hp, hc, he, by simp [bibNoLines, hx]⟩
  · exact absurd h (by decide)

/-- CTX_SAVE or CTX_RESTORE of two batons from 40 on and tape 6, in bib 21. -/
def ctxIn (code : Nat) (s : State) : State := cmdIn .supervisor code [0, 40, 2, 6, 1, 21, 0] s

theorem witness_contexts :
    (taking .supervisor 7 (ctxIn 7 bibsAt) (fun r u => fromMailbox r && (ctxCause u r.words false).isNone && ctxBytes r.words == 32)
     && ends (exec (.ctxSave .supervisor) (ctxIn 7 bibsAt)) (fun t => getF t (F.BTN_CTL_PARKED 40) == 1 && getF t (F.BTN_CTL_PARKED 41) == 1
          && getF t (F.TAPE_CFG_EN 6) == 0 && t.reqs.length == 1)
     && (let s := ctxIn 7 (put [(F.BTN_CTL_PART 41, 3)] bibsAt)
         taking .supervisor 7 s (fun r u => ctxCause u r.words false == some 1)
         && ends (exec (.ctxSave .supervisor) s) (fun t => getF t (F.PART_STAT_LAST_CAUSE 0) == 1 && getF t (F.BTN_CTL_PARKED 40) == 0))) = true
    ∧ (taking .supervisor 8 (ctxIn 8 bibsAt) (fun r u => fromMailbox r && (ctxCause u r.words true).isNone)
       && ends (exec (.ctxRestore .supervisor) (ctxIn 8 bibsAt)) (fun t => t.reqs.length == 1 && t.msh.run.isSome)
       && (let s := ctxIn 8 (put [(F.BIB_CTL_PLACE 21, 4)] bibsAt)
           taking .supervisor 8 s (fun r u => ctxCause u r.words true == some 3)
           && ends (exec (.ctxRestore .supervisor) s) (fun t => getF t (F.PART_STAT_LAST_CAUSE 0) == 3))) = true := by decide +kernel

/-- Generation 0 is burned, the others are blank. -/
def otpAt (op : Nat) : State := { put [(F.REG_CTL_OPEN, op)] poweredAt with msh := { poweredAt.msh with otp := [(0, 7), (1, 0), (2, 0), (3, 0)] } }

theorem witness_otp_and_reform :
    (taking .supervisor 9 (cmdIn .supervisor 9 [] (otpAt 1)) (fun r u => fromMailbox r && flagF u F.REG_CTL_OPEN)
     && ends (exec (.otpBurn .supervisor) (cmdIn .supervisor 9 [] (otpAt 1))) (fun t => resultIs 2 3 t && Sparse.find t.msh.otp 1 == some 0)
     && taking .supervisor 9 (cmdIn .supervisor 9 [] (otpAt 0)) (fun _ u => (List.range 4).find? (fun g => otpGen u g == 0) == some 1)) = true
    ∧ (taking .debug 10 (cmdIn .debug 10 [] poweredAt) (fun r _ => fromMailbox r)
       && ends (exec (.reform .debug) (cmdIn .debug 10 [] poweredAt)) (fun t => getF t F.REG_CTL_OPEN == 0 && t.msh.run.isSome)) = true
    ∧ (let r : CmdRun := ⟨4, .supervisor, cmdWord 1 [2], [], []⟩
       let s := { poweredAt with msh := { poweredAt.msh with run := some r }, jnl := [{ jent with kind := 4, words := [cmdWord 1 [2]], csrc := some .supervisor }] }
       !shadowOn s && (findEntry s 4).any (fun e => e.words == [r.words] && e.csrc == some r.src)
       && resultIs 7 5 (finishCmd s r 7 5 (2 ^ 32 * 3 + 8)) && getF (finishCmd s r 7 5 (2 ^ 32 * 3 + 8)) (F.MSH_MB_R_WORD 0 2) == 3) = true := by
  decide +kernel

theorem witness_reform_restart :
    (let s := { poweredAt with msh := { poweredAt.msh with run := some ⟨4, .supervisor, 10, [], []⟩ } }
     aonState s == 0 && reformDrained s && !reformDrained { s with tasks := [task0] }
     && stays (exec .reformRestart { s with tasks := [task0] }) { s with tasks := [task0] }) = true := by decide +kernel

-- ## Power commands

/-- A power command of the supervisor's mailbox and its result. -/
def powered (code : Nat) (args : List Nat) (i : Instr) (l : List (Fld × Nat)) (f : State → Bool) : Bool :=
  let s := cmdIn .supervisor code args (put l poweredAt)
  taking .supervisor code s (fun _ u => !shdn u) && ends (exec i s) f

theorem witness_power_commands :
    (taking .debug 0x20 (cmdIn .debug 0x20 [] poweredAt) (fun r _ => r.src != .supervisor)
     && ends (exec (.pwrIdle .debug) (cmdIn .debug 0x20 [] poweredAt)) (fun t => pwrState t == 0)
     && taking .supervisor 0x20 (cmdIn .supervisor 0x20 [] (shutting 0 false)) (fun _ u => shdn u)
     && ends (exec (.pwrIdle .supervisor) (cmdIn .supervisor 0x20 [] (shutting 0 false))) (resultIs 2 3)
     && powered 0x20 [] (.pwrIdle .supervisor) [] (fun t => pwrState t == 1 && resultIs 0 0 t)
     && powered 0x21 [] (.pwrActive .supervisor) [] (fun t => resultIs 2 3 t)
     && powered 0x21 [] (.pwrActive .supervisor) [(F.CPM_PWR_STAT_STATE, 1)] (fun t => pwrState t == 0 && resultIs 0 0 t)
     && powered 0x28 [257] (.pwrCap .supervisor) [] (resultIs 5 2) && powered 0x28 [63] (.pwrCap .supervisor) [] (resultIs 4 5)
     && powered 0x28 [256] (.pwrCap .supervisor) [] (fun t => getF t F.CPM_PWR_MODE_CAP == 256)
     && powered 0x29 [1] (.pwrFixed .supervisor) [] (fun t => getF t F.CPM_PWR_MODE_FIXED == 1)
     && powered 0x2A [1] (.pwrBoost .supervisor) [(F.CPM_PWR_MODE_FIXED, 1)] (resultIs 2 3)
     && powered 0x2A [1] (.pwrBoost .supervisor) [] (fun t => getF t F.CPM_PWR_MODE_BOOST_EN == 1)
     && powered 0x24 [8] (.pwrStepSet .supervisor) [(F.REG_CTL_OPEN, 0)] (resultIs 5 2)
     && powered 0x24 [7] (.pwrStepSet .supervisor) [(F.REG_CTL_OPEN, 0)] (resultIs 0 0)
     && powered 0x24 [7] (.pwrStepSet .supervisor) [] (resultIs 2 3)
     && powered 0x22 [13, 400] (.pwrDoze .supervisor) [] (fun t => pwrState t == 2 && getF t F.REG_CTL_OPEN == 0
          && getF t F.CPM_AON_WAKE_EN_TMR_EN == 1 && getF t F.CPM_AON_WAKE_EN_LANE_EN == 0 && getF t F.CPM_AON_TMR_PERIODS == 400)
     && powered 0x22 [13, 400] (.pwrDoze .supervisor) [(F.CPM_TEMP_VALID 3, 1), (F.CPM_TEMP_TEMP 3, 299)]
          (fun t => getF t F.CPM_PWR_STAT_DOZE_REJ == 1 && resultIs 2 3 t)
     && powered 0x23 [] (.pwrOff .supervisor) [] (fun t => shdn t && getF t F.REG_CTL_OPEN == 0)) = true := by decide +kernel

theorem witness_doze :
    (let s := put [(F.CPM_PWR_STAT_STATE, 2)] poweredAt
     ends (exec .dozeEntry s) (fun t => aonState t == 1 && pwrState t == 0 && t.cad.st == .unlocked && getF t F.CPM_SLEEP_ENTRY_LO_VAL == 65600)
     && (let z := put [(F.GLB_SHDN_STAT_SHDN_ACT, 1)] s
         stays (exec .dozeEntry z) z)
     && (let z := { s with msh := { s.msh with run := some ⟨4, .supervisor, 0x22, [], []⟩ }, tasks := [task0], clk := { s.clk with dozeBy := 65599 } }
         !dozeDrained z 4 && ends (exec .dozeDrainTimeout z) (fun t => getF t F.CPM_PWR_STAT_DOZE_REJ == 4 && getF t F.REG_CTL_OPEN == 1))
     && (let z := { s with msh := { s.msh with run := some ⟨4, .supervisor, 0x22, [], []⟩ }, tasks := [task0], clk := { s.clk with dozeBy := 65600 } }
         stays (exec .dozeDrainTimeout z) z)) = true := by decide +kernel

theorem witness_wakes :
    (let s := put [(F.CPM_AON_WAKE_EN_TMR_EN, 1), (F.CPM_AON_TMR_PERIODS, 9)] (aonAt 1)
     let lost := put [(F.CPM_AON_STAT_RET_LOST, 1)] s
     aonState s == 1 && wakeEnabled s 2 && !wakeEnabled s 3 && s.clk.wake == none
     && ends (exec .dozeTimerExpiry s) (fun t => getF t F.CPM_AON_STAT_PWR_REQ == 1 && t.out.length == 1)
     && stays (exec (.laneTrainingRequest 5) s) s
     && ends (exec .retentionBrownout s) (fun t => getF t F.CPM_AON_STAT_RET_LOST == 1 && getF t F.CPM_AON_CNT_BROWNOUTS == 1)
     && reaches .supervisor 0x1080 s
     && ends (exec (.cpmAonWake .supervisor 11) s) (fun t => aonState t == 2 && t.clk.wake == some ⟨1, 0, 0, 5⟩
          && getF t F.CPM_AON_LAST_SOURCE == 1 && getF t F.CPM_STEP_CUR_STEP == 5 && t.cad.st == .acquiring)
     && ends (exec (.cpmAonWake .supervisor 11) lost) (fun t => t.rst.due == 6)) = true
    ∧ (let s := { aonAt 2 with clk := { (aonAt 2).clk with wake := some ⟨1, 0, 0, 5⟩ } }
       ends (exec .wakeComplete s) (fun t => aonState t == 0 && t.clk.wake == none && getF t F.REG_CTL_OPEN == 1
         && getF t F.CPM_CLK_STAT_ON_PLL == 1)
       && (let z := { s with cad := { s.cad with st := .acquiring } }
           stays (exec .wakeComplete z) z)) = true := by decide +kernel

-- ## Clock faults and monitors

/-- In SAFE since tick 100, with more fields set. -/
def safeAtTick (l : List (Fld × Nat)) (usable dead : Bool) (n : Nat) : State :=
  let s := put ([(F.CPM_CLK_STAT_SAFE, 1)] ++ l) (tickAt n poweredAt)
  { s with clk := { s.clk with safeAt := 100, refUsable := usable, safeDead := dead } }

theorem witness_clock_faults :
    (monitorsRun poweredAt && poweredAt.clk.safeExit == 0
     && ends (exec (.clockFault .pllOver) poweredAt) (fun t => flagF t F.CPM_CLK_STAT_SAFE && flagF t F.CPM_CLK_STAT_PLL_OVER
          && flagF t F.CPM_CLK_STAT_UNCLEAN && t.clk.safeAt == 65600)
     && ends (exec (.clockFault .refFail) poweredAt) (fun t => flagF t F.CPM_CLK_STAT_REF_FAIL && !flagF t F.CPM_CLK_STAT_UNCLEAN && t.clk.refUsable == altUsable poweredAt)
     && ends (exec (.clockFault .pllUnlock) (safeAtTick [] false false 200)) (fun t => flagF t F.CPM_CLK_STAT_PLL_UNLOCK && t.clk.safeAt == 100)
     && ends (exec .rcFail poweredAt) (fun t => flagF t F.CPM_CLK_STAT_RC_FAIL && !flagF t F.CPM_CLK_STAT_SAFE)
     && ends (exec .referenceUsable (safeAtTick [] false false 200)) (fun t => t.clk.refUsable && getF t F.CPM_CLK_STAT_ALT_REF == 0)
     && ends (exec .safeExit (safeAtTick [] true false 200)) (fun t => !flagF t F.CPM_CLK_STAT_SAFE && flagF t F.CPM_CLK_STAT_ON_PLL && t.rst.due == 0)
     && ends (exec .safeExit (safeAtTick [(F.CPM_CLK_STAT_UNCLEAN, 1)] true false 200)) (fun t => t.rst.due == 10)
     && ends (exec .safeTimeout (safeAtTick [] false false 10000100)) (fun t => t.clk.safeDead)
     && !countHeld (safeAtTick [] false false 10000099)
     && stays (exec .safeTimeout (safeAtTick [] false false 10000099)) (safeAtTick [] false false 10000099)
     && (let s := { poweredAt with clk := { poweredAt.clk with fmRun := true } }
         ends (exec (.fmDone 77) s) (fun t => getF t F.CPM_FM_CNT_COUNT == 77 && flagF t F.CPM_FM_CTL_DONE && !t.clk.fmRun))
     && !poweredAt.clk.fmRun && stays (exec (.fmDone 77) poweredAt) poweredAt) = true := by decide +kernel

/-- Generation 0 of the OTP is all zeros but for its marker and CRC, so that no trim is set. -/
def untrimmed : State := { poweredAt with msh := { poweredAt.msh with otp := [(0, 2 ^ 976 * otpCrc 0 + 2 ^ 1016 * 0xC3), (1, 0), (2, 0), (3, 0)] } }

/-- Eight equal readings. -/
def temps (x : Int) : List Int := List.replicate 8 x

theorem witness_temperature : ∀ x : Nat, x ∈ [327, 328, 331, 332, 337, 338, 357, 358, 367] →
    (monitorsRun untrimmed && (List.range 8).all (fun i => tempOk (trimmed untrimmed i ((temps x).getD i 0)))
     && ((List.range 8).map (fun i => (trimmed untrimmed i ((temps x).getD i 0)).toNat)).foldl max 0 == x) = true := by decide +kernel

theorem witness_supply :
    (!flagF poweredAt F.CPM_SUP_BELOW_WARN
     && ends (exec (.supplyBelowWarn 1) poweredAt) (fun t => flagF t F.CPM_SUP_BELOW_WARN && flagF t F.CPM_SUP_DIP && flagF t F.REG_STAT_P_DIP
          && getF t F.CPM_SUP_RAIL == 1)
     && ends (exec .supplyReturn (put [(F.CPM_SUP_BELOW_WARN, 1)] poweredAt)) (fun t => !flagF t F.CPM_SUP_BELOW_WARN && t.clk.supReturn == some 65600)
     && stays (exec .supplyReturn poweredAt) poweredAt
     && (let s (n : Nat) : State := { tickAt n (dipping poweredAt) with clk := { poweredAt.clk with supReturn := some 65600 } }
         stays (exec .supplyPauseEnd (s 67599)) (s 67599)
         && ends (exec .supplyPauseEnd (s 67600)) (fun t => !flagF t F.REG_STAT_P_DIP && t.clk.supReturn == none && getF t F.JNL_DIP_DIP_CNT == 1))) = true := by
  decide +kernel

theorem witness_monitors :
    (ends (exec (.vmonRefresh [800, 801, 802, 803]) poweredAt) (fun t => getF t (F.CPM_VMON_MV 3) == 803)
     && ends (exec (.pmonRefresh [0, 1, 2, 3, 4, 5, 6, 7]) poweredAt) (fun t => getF t (F.CPM_PMON_COUNT 7) == 7)
     && decide (poweredAt.est.win < now poweredAt / 1000)
     && (let s := { poweredAt with est := { poweredAt.est with win := 65 } }
         stays (exec (.estimatorWindow 5000 900) s) s)
     && stays (exec .noToken (tickAt 999999 poweredAt)) (tickAt 999999 poweredAt)
     && ends (exec .noToken (tickAt 1000000 poweredAt)) (fun t => getF t F.CPM_MON_STAT_NO_TOKEN == 1 && t.clk.tokenAt == 1000000)) = true := by
  decide +kernel

-- ## Writes to the control space

/-- No power. -/
def unpowered : State := { poweredAt with clk := { poweredAt.clk with powerOk := false } }

theorem witness_reach : reaches .supervisor 0 poweredAt = true ∧ reaches .supervisor 0xFFFFC poweredAt = true
    ∧ reaches .marshal 0x30000 poweredAt = true ∧ (∀ m off, reaches m off unpowered = false) :=
  ⟨by decide +kernel, by decide +kernel, by decide +kernel, fun _ _ => rfl⟩

theorem witness_doze_answers :
    (aonState (aonAt 1) == 1 && ends (exec (.flush .supervisor 3) (aonAt 1)) (fun t => t.out == (aonAt 1).out ++ [.busReject .supervisor 5])
     && ends (exec (.bibCommit .supervisor 3 1 .none) (aonAt 1)) (fun t => t.out == (aonAt 1).out ++ [.busReject .supervisor 5])) = true := by
  decide +kernel

/-- A write of the supervisor and what holds after it. -/
def wrote (i : Instr) (l : List (Fld × Nat)) (f : State → Bool) : Bool := ends (exec i (put l poweredAt)) f

theorem witness_bib_writes :
    (wrote (.bibStageWrite .supervisor 4095 2 4194304) [] (fun t => Sparse.find t.bibStage (stageKey .supervisor 4095 2) == some 4194304)
     && (let s := { poweredAt with bibStage := [(stageKey .supervisor 9 1, 640), (stageKey .supervisor 9 2, 4)] }
         let w := BitVec.ofNat 32 (fieldsWord [(0, 1), (4, 3), (20, 77)])
         !bibIgnored s 9 (bibE s 9) (bibMerge s .supervisor 9 w.toNat (bibE s 9)) && !s.bibBad.contains 9
         && ends (exec (.bibCommit .supervisor 9 w .none) s) (fun t => flagF t (F.BIB_CTL_VALID 9) && getF t (F.BIB_CTL_PART 9) == 3
              && getF t (F.BIB_LOC_LOC 9) == 640 && getF t (F.BIB_LEN_LEN 9) == 4 && getF t (F.BIB_CTL_NEXT 9) == 77))
     && bibIgnored poweredAt 9 (bibE poweredAt 9) (bibMerge poweredAt .supervisor 9 1 (bibE poweredAt 9))
     && wrote (.bibCommit .supervisor 9 1 .none) [] (fun t => getF t F.GLB_BIB_STAT_WR_IGN == 1 && getF t F.GLB_BIB_STAT_LAST_BIB == 9
          && !flagF t (F.BIB_CTL_VALID 9))) = true := by decide +kernel

/-- A waiter on baton 8 for the count 5. -/
def wait8 : Waiter := ⟨8, 5, none, none⟩

theorem witness_sync_writes :
    (wrote (.btnCntWrite .supervisor 16383 5 .none) [(F.BTN_CTL_BROKEN 16383, 1)] (fun t => getF t (F.BTN_CNT_COUNT 16383) == 5
       && !flagF t (F.BTN_CTL_BROKEN 16383))
     && wrote (.btnCtlWrite .supervisor 8 19) [(F.BTN_CNT_COUNT 8, 4)] (fun t => getF t (F.BTN_CTL_PARKED 8) == 1 && getF t (F.BTN_CTL_PART 8) == 3
          && getF t (F.BTN_CNT_COUNT 8) == 4)
     && ends (exec (.btnCtlWrite .supervisor 8 19) { poweredAt with waiters := [wait8] }) (fun t => getF t (F.BTN_CTL_PART 8) == 0
          && getF t F.GLB_SYNC_STAT_WR_IGN == 1)
     && wrote (.tapeHeatWrite .supervisor 255 9) [(F.TAPE_STAT_STATE 255, 3), (F.TAPE_STAT_FAULT_CAUSE 255, 2)]
          (fun t => heatOf t 255 == 9 && tapeState t 255 == 0 && getF t (F.TAPE_STAT_FAULT_CAUSE 255) == 0)
     && wrote (.force .supervisor 6) [] (fun t => heatOf t 6 == 1)
     && wrote (.force .supervisor 6) [(F.TAPE_STAT_STATE 6, 3)] (fun t => heatOf t 6 == 0 && tapeState t 6 == 3)
     && wrote (.tapeCfgWrite .supervisor 9 false 7) [] (fun t => flagF t (F.TAPE_CFG_EN 9) && getF t (F.TAPE_CFG_PART 9) == 3)
     && wrote (.tapeCfgWrite .supervisor 6 false 6) [] (fun t => !flagF t (F.TAPE_CFG_EN 6) && getF t (F.TAPE_CFG_PART 6) == 0
          && getF t F.GLB_SYNC_STAT_WR_IGN == 1)
     && wrote (.tapeCfgWrite .supervisor 6 true 1) [] (fun t => getF t F.GLB_SYNC_STAT_WR_IGN == 1 && getF t (F.TAPE_LINK_PARENT_EN 6) == 0)
     && wrote (.tapeCfgWrite .supervisor 7 true 1) [] (fun t => getF t F.GLB_SYNC_STAT_WR_IGN == 0)) = true := by decide +kernel

theorem witness_relay_and_pacer_writes :
    (wrote (.rlyLoad .supervisor 127 4097) [] (fun t => relayQ t 127 == [⟨1, false, none⟩])
     && (let s := { poweredAt with relays := [(9, full64)] }
         (relayQ s 9).length == 64 && ends (exec (.rlyLoad .supervisor 9 1) s) (fun t => getF t (F.RLY_CNT_FULL_CNT 9) == 1)
         && ends (exec (.flush .supervisor 9) { s with relayWait := [⟨9, ⟨3, false, none⟩, none, none⟩] })
              (fun t => relayQ t 9 == [⟨3, false, none⟩] && t.relayWait == []))
     && (let s := { put [(F.PACER_S_STAT_STATE 3 1, 1)] poweredAt with tasks := [task0] }
         streamState s 3 1 == 1 && !pacerIdle s 3
         && ends (exec (.abort .supervisor 3 2) s) (fun t => streamState t 3 1 != 1)
         && ends (exec (.pmDataHiWrite .supervisor 3 2) s) (fun t => getF t (F.PACER_STAT_PM_IGN 3) == 1))
     && wrote (.pmDataLoWrite .supervisor 3 9) [] (fun t => Sparse.at t.pmLo 3 0 == 9)
     && pacerIdle poweredAt 3
     && ends (exec (.pmDataHiWrite .supervisor 3 2) { put [(F.PACER_PM_ADDR_ADDR 3, 255), (F.PACER_PM_ADDR_AUTOINC 3, 1)] poweredAt with pmLo := [(3, 9)] })
          (fun t => Sparse.at t.pm 1023 0 == 9 + 2 ^ 33 && getF t (F.PACER_PM_ADDR_ADDR 3) == 0)) = true := by decide +kernel

theorem witness_partition_writes :
    (wrote (.partRegionWrite .supervisor 14 6 5) [] (fun t => getF t (F.PART_STAT_WR_IGN 14) == 0)
     && wrote (.partRegionWrite .supervisor 0 0 5) [] (fun t => getF t (F.PART_STAT_WR_IGN 0) == 1)
     && qosOk (writeFields (0x4020 + 1024 * 2) (fieldsWord [(0, 176), (8, 176)]) poweredAt)
     && wrote (.partQosWrite .supervisor 2 (BitVec.ofNat 32 (fieldsWord [(0, 176), (8, 176)]))) []
          (fun t => getF t (F.PART_QOS_SHARE 2) == 176 && getF t (F.PART_QOS_DL_RES 2) == 176)
     && wrote (.partQosWrite .supervisor 2 177) [] (fun t => getF t F.REG_STAT_QOS_REJ == 1 && getF t (F.PART_QOS_SHARE 2) == 0)
     && wrote (.regSplitWrite .supervisor 15 0x655) [] (fun t => getF t (F.REG_SPLIT_RD 15) == 5 && getF t (F.REG_SPLIT_RM 15) == 6
          && getF t F.REG_STAT_QOS_REJ == 0)
     && wrote (.regSplitWrite .supervisor 15 0x755) [] (fun t => getF t F.REG_STAT_QOS_REJ == 1)
     && wrote (.regCtlWrite .supervisor 0) [] (fun t => getF t F.REG_CTL_OPEN == 0)
     && stays (exec (.trkRepairWrite .supervisor 15 1) poweredAt) poweredAt
     && wrote (.trkRepairWrite .supervisor 15 1) [(F.REG_CTL_OPEN, 0)] (fun t => t.rst.due == 0)
     && wrote (.cadCtlWrite .supervisor 0) [] (fun t => t.rst.due == 0)
     && (let s := { poweredAt with comb := [{ ent true with lane := 63 }] }
         ends (exec (.laneCombWrite .supervisor 63 0) s) (fun t => t.comb.all (fun e => e.closing)))) = true := by decide +kernel

theorem witness_ring_and_tier_writes :
    (let ringBib : List (Fld × Nat) := [(F.BIB_CTL_VALID 20, 1), (F.BIB_LEN_LEN 20, 4), (F.BIB_LOC_LOC 20, 2048)]
     let w := BitVec.ofNat 32 (1 + 2 * 20)
     ringBibOk (put ringBib poweredAt) 0 20 && !ringBibOk poweredAt 0 20
     && wrote (.splRingCfgWrite .supervisor 0 w) ringBib (fun t => flagF t (F.SPL_RING_CFG_EN 0) && getF t (F.SPL_RING_CFG_BIB 0) == 20)
     && wrote (.splRingCfgWrite .supervisor 0 w) [] (fun t => !flagF t (F.SPL_RING_CFG_EN 0) && getF t F.SPL_STAT_RING_ERR == 1)
     && wrote (.splRingCfgWrite .supervisor 0 40) [] (fun t => !flagF t (F.SPL_RING_CFG_EN 0) && getF t F.SPL_STAT_RING_ERR == 0)
     && (let s := { poweredAt with moves := [{ moveOf 1 21 [] with tl := [2] }] }
         stays (exec (.splTierWrite .supervisor 2 1 64) s) s)
     && wrote (.splTierWrite .supervisor 2 1 64) [] (fun t => getF t (F.SPL_TIER_PAGES_PAGES 2) == 64)) = true := by decide +kernel

theorem witness_journal_writes :
    (wrote (.jnlBuddyWrite .supervisor 0) [(F.JNL_BUDDY_SET, 1)] (fun t => !flagF t F.JNL_BUDDY_SET)
     && flagF (writeFields 0x6200C (2 ^ 14) (put [(F.JNL_STAT_SHADOW_LOST, 1)] poweredAt)) F.JNL_BUDDY_SET
     && wrote (.jnlBuddyWrite .supervisor (BitVec.ofNat 32 (2 ^ 14))) [(F.JNL_STAT_SHADOW_LOST, 1)] (fun t => !flagF t F.JNL_STAT_SHADOW_LOST)
     && wrote (.jnlHbWrite .marshal 0) [] (fun t => t.msh.hb == 65600) && wrote (.jnlHbWrite .supervisor 0) [] (fun t => t.msh.hb == 0)
     && wrote (.failover .supervisor) [] (fun t => t.activeM == none)
     && poweredAt.msh.copy.isNone && poweredAt.activeM == some 0 && poweredAt.msh.run.isNone
     && wrote (.meshCtlWrite .supervisor 0) [] (fun t => getF t F.MESH_CTL_WILGUS_EN == 0)
     && (let s := put [(F.MESH_CTL_WILGUS_EN, 1), (F.MESH_CTL_W_LINKS, 15)] poweredAt
         stays (exec (.meshCtlWrite .supervisor 0) s) s)
     && !flagF poweredAt (failBit 1)
     && ends (exec (.mshLmapWrite 1 1) poweredAt) (fun t => Sparse.at t.msh.remap 1 0 == 1)) = true := by decide +kernel

/-- The word of JNL_CKPT_CMD with START, SRC_KB and LEN_KB. -/
def ckptWord (src len : Nat) : Word := BitVec.ofNat 32 (fieldsWord [(0, 1), (F.JNL_CKPT_CMD_SRC_KB.lo, src), (F.JNL_CKPT_CMD_LEN_KB.lo, len)])

theorem witness_checkpoint_start :
    (let s := put [(F.MSH_STAT_STBY_OK, 1)] poweredAt
     getF (writeFields 0x6201C (ckptWord 120 8).toNat s) F.JNL_CKPT_CMD_SRC_KB == 120
     && getF (writeFields 0x6201C (ckptWord 120 8).toNat s) F.JNL_CKPT_CMD_LEN_KB == 8
     && ends (exec (.start .supervisor (ckptWord 120 8)) s) (fun t => t.msh.copy.any (fun c => c.src == 120 && c.len == 8)
          && getF t F.JNL_CKPT_CMD_BUSY == 1)
     && ends (exec (.start .supervisor (ckptWord 121 8)) s) (fun t => t.msh.copy == none)) = true := by decide +kernel

theorem witness_debug_writes :
    (wrote (.flipCtlWrite .supervisor 1) [(F.INT_FLIP_CTL_ARM, 1)] (fun t => flagF t F.INT_FLIP_CTL_ARM)
     && wrote (.flipCtlWrite .supervisor 0) [(F.INT_FLIP_CTL_ARM, 1)] (fun t => !flagF t F.INT_FLIP_CTL_ARM)
     && wrote (.flipCtlWrite .supervisor (BitVec.ofNat 32 (fieldsWord [(0, 1), (F.INT_FLIP_CTL_COUNT.lo, 3)]))) []
          (fun t => flagF t F.INT_FLIP_CTL_ARM && t.integ.flipLeft == 3)
     && wrote (.retry .supervisor) [] (fun t => t.integ.logTest)
     && !poweredAt.integ.logFailed && wrote (.gaspClr .supervisor) [(F.INT_STAT_LOG_LOST, 1)] (fun t => getF t F.INT_STAT_LOG_LOST == 0)
     && (let s := { poweredAt with integ := { poweredAt.integ with logFailed := true, logTest := true } }
         stays (exec (.gaspClr .supervisor) s) s && ends (exec (.logTestDone true) s) (fun t => !t.integ.logFailed && !t.integ.logTest)
         && ends (exec (.logTestDone false) s) (fun t => t.integ.logFailed))
     && !poweredAt.integ.logTest && stays (exec (.logTestDone true) poweredAt) poweredAt
     && wrote (.trippedClear .supervisor) [(F.CPM_THERM_STAT_TRIPPED, 1), (F.CPM_THERM_STAT_TJ_MAX, 327)] (fun t => !flagF t F.CPM_THERM_STAT_TRIPPED)
     && wrote (.trippedClear .supervisor) [(F.CPM_THERM_STAT_TRIPPED, 1), (F.CPM_THERM_STAT_TJ_MAX, 328)] (fun t => flagF t F.CPM_THERM_STAT_TRIPPED)
     && wrote (.calReset .supervisor) [(F.CPM_EST_STAT_CAL, 1), (F.CPM_EST_K_WINDOWS 3, 5)]
          (fun t => getF t F.CPM_EST_STAT_CAL == 0 && getF t (F.CPM_EST_K_WINDOWS 3) == 0)
     && ends (exec (.ctrSelWrite .supervisor 31 0) { poweredAt with ctr := [(30, 4), (31, 5)] }) (fun t => t.ctr == [(30, 4)])
     && ends (exec (.clear .supervisor) { poweredAt with ctr := [(30, 4)] }) (fun t => t.ctr == [])
     && (let s := { poweredAt with td := [(1023, 4), (1024, 5)], tdSnap := [] }
         ends (exec (.snap .supervisor false) s) (fun t => t.tdSnap == [(1023, 4)] && t.td == s.td)
         && ends (exec (.snap .supervisor true) s) (fun t => t.tdSnap == [(1023, 4)] && t.td == [(1024, 5)])
         && ends (exec (.tdClear .supervisor) s) (fun t => t.tdSnap == [] && t.td == [(1024, 5)]))
     && wrote (.trcClear .supervisor) [(F.TRC_STAT_FULL, 1)] (fun t => t.trc.count == 0 && getF t F.TRC_STAT_FULL == 0)
     && reaches .debug 0x20 (put [(F.GLB_DBG_CTL_CSR_EN, 1)] poweredAt)
     && wrote (.dbgCtlWrite .debug 0) [(F.GLB_DBG_CTL_CSR_EN, 1)] (fun t => flagF t F.GLB_DBG_CTL_CSR_EN)
     && wrote (.dbgCtlWrite .supervisor 0) [(F.GLB_DBG_CTL_CSR_EN, 1)] (fun t => !flagF t F.GLB_DBG_CTL_CSR_EN)
     && wrote (.registerWrite (.port .supervisor) 2 4 1) [] (fun t => t.out == poweredAt.out ++ [.busReject .supervisor 5] && t.regs == poweredAt.regs)
     && wrote (.registerWrite (.port .debug) 0x2000 2 0) [] (fun t => t.out == poweredAt.out ++ [.busReject .debug 5] && getF t F.REG_CTL_OPEN == 1)
     && ends (exec (.registerWrite (.port .supervisor) 0x2000 4 0) (aonAt 1)) (fun t => t.out == poweredAt.out ++ [.busReject .supervisor 5])
     && wrote (.registerWrite (.port .supervisor) 0x2000 4 0) [] (fun t => getF t F.REG_CTL_OPEN == 0)) = true := by decide +kernel

theorem witness_access_codes :
    (F.REG_CTL_OPEN.acc == .rw || F.REG_CTL_OPEN.acc == .rws) = true ∧ (F.BIB_LEN_LEN 0).acc ≠ .w1c
    ∧ getF (writeF 0x655 poweredAt (F.REG_SPLIT_RM 15)) (F.REG_SPLIT_RM 15) = 6
    ∧ (∃ f : Fld, f = F.PART_REGION_ROW_CNT 0 ∧ (f.acc = .rw ∨ f.acc = .rws) ∧ f.mx < bits (2049 * 2 ^ f.lo) f.lo f.w)
    ∧ F.GLB_SELF_INSTANCE.acc = .ro ∧ (F.TRK_REPAIR_OTP_EN 0).acc = .otp ∧ F.CPM_CAD_STAT_ANN_REJ.acc = .w1c
    ∧ F.CPM_CAD_ERR_FRAME_ERR_CNT.acc = .w1cf ∧ F.GLB_SELF_INSTANCE.key ≠ F.CPM_CAD_STAT_ANN_REJ.key := by
  refine ⟨by decide, by decide, by decide +kernel, ⟨_, rfl, by decide, by decide⟩, by decide, by decide, by decide, by decide, by decide⟩

-- ## The wrapper

/-- A CSR access: DATA, ADDR, write, start. -/
def csrWord (data addr wr start : Nat) : BitVec 59 := BitVec.ofNat 59 (fieldsWord [(0, data), (32, addr), (52, wr), (53, start)])

/-- A MEM access: DATA, ADDR, write, start. -/
def memWord (data addr wr start : Nat) : BitVec 97 := BitVec.ofNat 97 (fieldsWord [(0, data), (64, addr), (90, wr), (91, start)])

theorem witness_wrapper :
    (ends (exec .wsBypass poweredAt) (fun t => t.wrap.wir == 0) && ends (exec .widcode poweredAt) (fun t => t.wrap.wir == 3)
     && ends (exec .status poweredAt) (fun t => t.wrap.wir == 4 && bits t.wrap.dr 10 1 == 1 && bits t.wrap.dr 32 32 == 65600)
     && ends (exec .wsExtest (put [(F.MSH_BOOT_STAGE, 15)] poweredAt)) (fun t => t.wrap.wir == 1)
     && ends (exec .wsIntest (put [(F.MSH_BOOT_STAGE, 15)] poweredAt)) (fun t => t.wrap.wir == 2)
     && ends (exec .wsExtest poweredAt) (fun t => t.wrap.wir == 0 && getF t F.GLB_DBG_STAT_DBG_REFUSED == 1)
     && ends (exec (.wake true) (put [(F.CPM_AON_WAKE_EN_DEBUG_EN, 1)] (aonAt 1))) (fun t => t.wrap.wir == 7 && getF t F.CPM_AON_STAT_PWR_REQ == 1)
     && ends (exec (.wake false) poweredAt) (fun t => t.wrap.dr == 0)
     && ends (exec (.csr (csrWord 0 0x2000 1 1)) (put [(F.GLB_DBG_CTL_CSR_EN, 0)] poweredAt)) (fun t => getF t F.GLB_DBG_STAT_DBG_REFUSED == 1)
     && wrote (.csr (csrWord 0 0x2000 1 1)) [(F.GLB_DBG_CTL_CSR_EN, 1)] (fun t => t.wrap.wir == 5 && bits t.wrap.dr 58 1 == 1
          && bits t.wrap.dr 54 3 == 0 && getF t F.REG_CTL_OPEN == 0)
     && wrote (.csr (csrWord 0 0x20 1 1)) [(F.GLB_DBG_CTL_CSR_EN, 1)] (fun t => bits t.wrap.dr 54 3 == 4)
     && wrote (.csr (csrWord 0 0x2000 0 1)) [(F.GLB_DBG_CTL_CSR_EN, 1)] (fun t => bits t.wrap.dr 0 1 == 1)) = true := by decide +kernel

theorem witness_wrapper_memory :
    (ends (exec (.mem (memWord 5 64 1 1)) (put [(F.GLB_DBG_CTL_MEM_EN, 0)] poweredAt)) (fun t => getF t F.GLB_DBG_STAT_DBG_REFUSED == 1)
     && wrote (.mem (memWord 5 64 0 1)) [(F.GLB_DBG_CTL_MEM_EN, 1)] (fun t => t.wrap.wir == 6 && t.reqs.length == 1)
     && wrote (.mem (memWord 5 64 0 0)) [(F.GLB_DBG_CTL_MEM_EN, 1)] (fun t => t.wrap.wir == 6 && t.reqs == [])
     && (let s := { put [(F.GLB_DBG_CTL_MEM_EN, 1)] poweredAt with reqs := [{ wr1 5 .admitted with org := .debug }] }
         ends (exec (.mem (memWord 5 64 0 1)) s) (fun t => bits t.wrap.dr 95 1 == 1 && getF t F.GLB_DBG_STAT_DBG_OVR == 1))) = true := by decide +kernel

theorem witness_mesh_links :
    (wrote (.meshLinkTrained 3) [] (fun t => getF t F.MESH_STAT_UP == 8)
     && wrote (.meshLinkDown 3) [(F.MESH_STAT_UP, 12)] (fun t => getF t F.MESH_STAT_UP == 4)) = true := by decide +kernel

-- ## The concourse and the marshals' own address space

theorem witness_concourse :
    (let i : TInput := ⟨trackOf 1, 3, 5, 0, 4, 0, 0⟩
     let s := atBank 3
     level2 s (bankOf 1) == some i && level2 s ((bankOf 1 + 1) % 512) == none
     && stays (exec (.accessCommit ((bankOf 1 + 1) % 512) noPhys) s) s
     && level2 { s with inputs := [{ i with passed := 1 }] } (bankOf 1) == none
     && level2 { s with inputs := [{ i with since := 1 }] } (bankOf 1) == none
     && level2 { s with conc := { s.conc with ports := [(portKey s 1, 1)] } } (bankOf 1) == none
     && level2 { s with conc := { s.conc with rsv := [(portKey s 1, 0)] } } (bankOf 1) == none) = true
    ∧ (let i : TInput := ⟨trackOf 1, 3, 5, 0, 4, 0, 0⟩
       let r := { wr1 5 .access with h := unitHdr 0 4 0 63 64, beats := [], accs := [readAcc 1 0 0 0] }
       let e (n : Nat) : List RetEnt := List.replicate n ⟨9, 4, trackOf 1, 0, 0, none⟩
       let s (n : Nat) : State := { atBank 3 with reqs := [r], conc := { openAt.conc with ret := e n } }
       needsRet r (readAcc 1 0 0 0) && level2 (s 63) (bankOf 1) == some i && level2 (s 64) (bankOf 1) == none) = true
    ∧ (let e (p t : Nat) : RetEnt := ⟨9, 4, t, p, 0, none⟩
       delPick 2 [e 3 1, e 5 2, e 4 0] = [e 5 2, e 4 0]) := by decide +kernel

/-- Stores of the active marshal 0, and of the standby, at an address. -/
def stored (mi a size : Nat) (w : Word) (f : State → Bool) : Bool := ends (exec (.registerWrite (.core mi) a size w) poweredAt) f

theorem witness_marshal_stores :
    (marshalRuns 0 poweredAt && marshalRuns 1 poweredAt && poweredAt.activeM == some 0
     && stored 0 0x100000 4 7 (fun t => t == poweredAt) && stored 0 0x3FFFC 4 7 (fun t => t == poweredAt)
     && stored 1 0x200010 2 0x1234 (fun t => t.msh.sram == [(2 ^ 18 + 16, 0x34), (2 ^ 18 + 17, 0x12)])
     && stored 0 0x300000 4 1 (fun t => t.msh.remap == [(0, 1)])
     && ends (exec (.registerWrite (.core 0) 0x3FFFF 1 9) { poweredAt with msh := { poweredAt.msh with remap := [(0, 1)] } })
          (fun t => t.msh.sram == [(0x3FFFF, 9)])
     && stored 0 0x40002000 4 0 (fun t => getF t F.REG_CTL_OPEN == 0) && stored 1 0x40002000 4 0 (fun t => t == poweredAt)
     && stored 0 0x80000040 4 9 (fun t => t.reqs.any (fun r => r.org == .marshal && r.h.op == 4 && r.h.cls == 7 && r.base == 64))
     && stored 1 0x80000040 4 9 (fun t => t == poweredAt) && stored 0 0x110000 4 9 (fun t => t == poweredAt)
     && stored 0 0x240000 4 9 (fun t => t == poweredAt) && stored 0 0x300004 4 9 (fun t => t == poweredAt)) = true
    ∧ (let o (k : Nat) : Request := { wr1 k .access with org := .marshal }
       let s := { poweredAt with reqs := (List.range 8).map o, nextId := 9 }
       !bridgeRoom s .marshal && ends (exec (.registerWrite (.core 0) 0x80000040 4 9) s)
          (fun t => t.reqs.length == 9 && t.nextId == 10 && (findReq t 9).map (fun r => r.stage) == some .held)) = true := by decide +kernel

end Sys2Proof.Tests
end

section
/-! SUPPORT. The rules of a control-space write: what it does to one field by the field's access code (R4, R11), and what
the fields of a register hold after it. Settles O57. -/

namespace Sys2Proof.Machine

-- ## Bits

theorem bits_eq_one_iff (x i : Nat) : bits x i 1 = 1 ↔ bitAt x i = true := by simp [bits, bitAt]

theorem bits_eq_zero_iff (x i : Nat) : bits x i 1 = 0 ↔ bitAt x i = false := by simp [bits, bitAt]

@[simp] theorem bits_mod (x lo w : Nat) : bits x lo w % 2 ^ w = bits x lo w := Nat.mod_mod _ _

theorem bitAt_eq_testBit (x i : Nat) : bitAt x i = x.testBit i := by
  rw [Nat.testBit_eq_decide_div_mod_eq]
  rfl

/-- A bit within a field is the bit of the word at that place. -/
theorem bitAt_bits (x lo : Nat) {w i : Nat} (h : i < w) : bitAt (bits x lo w) i = bitAt x (lo + i) := by
  simp [bitAt_eq_testBit, bits, Nat.testBit_mod_two_pow, Nat.testBit_div_two_pow, h, Nat.add_comm]

/-- What is common to two numbers, taken from the first, clears those bits of it and no other. -/
theorem testBit_sub_and (x y i : Nat) : (x - (x &&& y)).testBit i = (x.testBit i && !y.testBit i) := by
  induction i generalizing x y with
  | zero =>
    have hxy := Nat.and_mod_two_eq_one (a := x) (b := y)
    have hle := Nat.and_le_left (n := x) (m := y)
    rw [Bool.eq_iff_iff]
    simp only [Nat.testBit_zero, Bool.and_eq_true, Bool.not_eq_true', decide_eq_true_eq, decide_eq_false_iff_not]
    omega
  | succ i ih =>
    have hhalf : (x - (x &&& y)) / 2 = x / 2 - (x / 2 &&& y / 2) := by
      have hdiv := Nat.and_div_two (a := x) (b := y)
      have hxy := Nat.and_mod_two_eq_one (a := x) (b := y)
      have hle := Nat.and_le_left (n := x) (m := y)
      omega
    simp only [Nat.testBit_succ, hhalf, ih]

-- ## One field

/-- A write to a field leaves the state alone or stores a value in that field. -/
theorem writeF_cases (w : Nat) (s : State) (f : Fld) : writeF w s f = s ∨ ∃ v, writeF w s f = setF s f v := by
  unfold writeF
  cases f.acc <;> dsimp only
  case ro | wo | otp => exact .inl rfl
  case w1c => exact .inr ⟨_, rfl⟩
  case rw | rws => split <;> simp
  case w1cf => split <;> simp

/-- A field at another place reads as before. -/
theorem getF_writeF_other (w : Nat) (s : State) {f g : Fld} (h : g.key ≠ f.key) : getF (writeF w s f) g = getF s g := by
  obtain e | ⟨v, e⟩ := writeF_cases w s f
  · rw [e]
  · rw [e, getF_setF_other s v h]

/-- RW and RWS take a defined encoding. -/
theorem getF_writeF_defined {w : Nat} (s : State) {f : Fld} (ha : f.acc = .rw ∨ f.acc = .rws)
    (hmn : f.mn ≤ bits w f.lo f.w) (hmx : bits w f.lo f.w ≤ f.mx) : getF (writeF w s f) f = bits w f.lo f.w := by
  have hset : writeF w s f = setF s f (bits w f.lo f.w) := by rcases ha with ha | ha <;> simp [writeF, ha, hmn, hmx]
  rw [hset, getF_setF_same, bits_mod]

/-- RW and RWS leave an undefined encoding (R11). -/
theorem writeF_undefined {w : Nat} (s : State) {f : Fld} (ha : f.acc = .rw ∨ f.acc = .rws)
    (hv : bits w f.lo f.w < f.mn ∨ f.mx < bits w f.lo f.w) : writeF w s f = s := by
  have hno : ¬ (f.mn ≤ bits w f.lo f.w ∧ bits w f.lo f.w ≤ f.mx) := by omega
  rcases ha with ha | ha <;> simp [writeF, ha, hno]

theorem writeF_readOnly (w : Nat) (s : State) {f : Fld} (ha : f.acc = .ro ∨ f.acc = .otp) : writeF w s f = s := by
  rcases ha with ha | ha <;> simp [writeF, ha]

/-- A W1C bit written 1 clears, and another bit stays. -/
theorem bitAt_writeF_w1c (w : Nat) (s : State) {f : Fld} (ha : f.acc = .w1c) {i : Nat} (hi : i < f.w) :
    bitAt (getF (writeF w s f) f) i = (bitAt (getF s f) i && !bitAt w (f.lo + i)) := by
  have hset : writeF w s f = setF s f (getF s f - (getF s f &&& bits w f.lo f.w)) := by
    simp only [writeF, ha]
    rfl
  have hlt := Nat.lt_of_le_of_lt (Nat.sub_le _ (getF s f &&& bits w f.lo f.w)) (getF_lt s f)
  rw [hset, getF_setF_same, Nat.mod_eq_of_lt hlt, ← bitAt_bits w f.lo hi]
  simp only [bitAt_eq_testBit, testBit_sub_and]

/-- A count clears whole on any 1. -/
theorem getF_writeF_count (w : Nat) (s : State) {f : Fld} (ha : f.acc = .w1cf) :
    getF (writeF w s f) f = if bits w f.lo f.w = 0 then getF s f else 0 := by
  simp only [writeF, ha]
  split <;> simp

/-- Settles O57, one rule of a field's access code per clause. -/
theorem accessCodesGovernWrites : Obligations.AccessCodesGovernWrites := by
  intro w f g s
  exact ⟨getF_writeF_defined s, writeF_undefined s, writeF_readOnly w s, fun ha _ hi => bitAt_writeF_w1c w s ha hi,
    getF_writeF_count w s, getF_writeF_other w s⟩

-- ## The fields of a register

/-- Writes to a list of fields leave a field that lies at none of their places. -/
theorem getF_foldl_writeF_other (w : Nat) {g : Fld} (l : List Fld) (s : State) (h : ∀ f ∈ l, g.key ≠ f.key) :
    getF (l.foldl (writeF w) s) g = getF s g := by
  induction l generalizing s with
  | nil => rfl
  | cons f l ih =>
    obtain ⟨hf, hl⟩ := List.forall_mem_cons.1 h
    rw [List.foldl_cons, ih _ hl, getF_writeF_other w s hf]

/-- A field of a register takes a defined encoding, when no field after it lies at the same place. -/
theorem getF_writeFields_defined {off w : Nat} (s : State) {l r : List Fld} {f : Fld} (hat : fieldsAt off = l ++ f :: r)
    (hr : ∀ g ∈ r, f.key ≠ g.key) (ha : f.acc = .rw ∨ f.acc = .rws) (hmn : f.mn ≤ bits w f.lo f.w)
    (hmx : bits w f.lo f.w ≤ f.mx) : getF (writeFields off w s) f = bits w f.lo f.w := by
  rw [writeFields, hat, List.foldl_append, List.foldl_cons, getF_foldl_writeF_other w r _ hr,
    getF_writeF_defined _ ha hmn hmx]

/-- A write to a field leaves the event counters alone. -/
theorem writeF_ctr (w : Nat) (s : State) (f : Fld) : (writeF w s f).ctr = s.ctr := by
  obtain e | ⟨v, e⟩ := writeF_cases w s f <;> rw [e]
  rfl

/-- A write to the fields of a register leaves the event counters alone. -/
theorem writeFields_ctr (off w : Nat) (s : State) : (writeFields off w s).ctr = s.ctr := by
  unfold writeFields
  induction fieldsAt off generalizing s with
  | nil => rfl
  | cons f l ih => rw [List.foldl_cons, ih, writeF_ctr]

end Sys2Proof.Machine
end

section
/-! SUPPORT. What the commands that write the integrity, clock, counter, trace and debug registers do, one rule per
operation; the answer to a write that reaches its register, and to one that does not. Settles O56. -/

namespace Sys2Proof.Machine

-- ## A write that reaches its register, and one that does not (R704)

/-- A write that reaches its register has its effect, and leaves the mark of a debug write. -/
theorem next_asWrite_of_reaches {m : Master} {off : Nat} (w : Nat) {f : State → State} {s u : State}
    (hr : reaches m off s = true) (hf : f s = u) :
    (.next (asWrite m off w f s) : Host.Outcome State Fault Refusal) = .next (debugMark m off w u) := by
  rw [asWrite, if_pos hr, hf]

theorem asWrite_of_not_reaches {m : Master} {off : Nat} (w : Nat) (f : State → State) {s : State}
    (hr : reaches m off s = false) : asWrite m off w f s = unreached m s := by simp [asWrite, hr]

/-- In Doze the always-on domain answers the supervisor. -/
theorem unreached_doze {s : State} (hd : aonState s = 1) (hp : s.clk.powerOk = true) (hv : s.clk.vaon = true) :
    unreached .supervisor s = emit s (.busReject .supervisor 5) := by simp [unreached, hd, hp, hv]

theorem busWrite_outside (m : Master) {off : Nat} (size w : Nat) (s : State) (h : 2 ^ 20 ≤ off) :
    busWrite m off size w s = s := if_pos h

theorem busWrite_word (m : Master) {off : Nat} (w : Nat) (s : State) (h : off < 2 ^ 20) (ha : off % 4 = 0) :
    busWrite m off 4 w s = asWrite m off w (writeAny m off w) s := by
  rw [busWrite, if_neg (Nat.not_le.2 h), if_neg (by simp [ha])]

/-- A write that is no aligned one of 4 bytes has no effect but its answer (R6). -/
theorem busWrite_malformed (m : Master) {off size : Nat} (w : Nat) (s : State) (h : off < 2 ^ 20)
    (hs : size ≠ 4 ∨ off % 4 ≠ 0) :
    busWrite m off size w s = if reaches m off s then emit s (.busReject m 5) else unreached m s := by
  have hbad : (size != 4 || off % 4 != 0) = true := by simpa using hs
  rw [busWrite, if_neg (Nat.not_le.2 h), if_pos hbad]

/-- A write that does not reach its register comes to nothing but the answer of the always-on domain, whatever its size. -/
theorem busWrite_unreached (m : Master) {off : Nat} (size w : Nat) {s : State} (h : off < 2 ^ 20)
    (hr : reaches m off s = false) : busWrite m off size w s = unreached m s := by
  by_cases hs : size ≠ 4 ∨ off % 4 ≠ 0
  · simp [busWrite_malformed m w s h hs, hr]
  · obtain ⟨rfl, ha⟩ : size = 4 ∧ off % 4 = 0 := by omega
    rw [busWrite_word m w s h ha, asWrite_of_not_reaches w _ hr]

-- ## The flip mask (R534)

theorem flipCtlSet_armed {w : Nat} {s : State} (ha : flagF s F.INT_FLIP_CTL_ARM = true) (hw : bits w 0 1 = 1) :
    flipCtlSet w s = s := by simp [flipCtlSet, ha, (bits_eq_one_iff w 0).1 hw]

theorem flipCtlSet_disarm {w : Nat} (s : State) (hw : bits w 0 1 = 0) : flipCtlSet w s = writeFields 0x61020 w s := by
  simp [flipCtlSet, (bits_eq_zero_iff w 0).1 hw]

/-- ARM takes the bit written to it. -/
theorem getF_writeFields_flipArm (w : Nat) (s : State) :
    getF (writeFields 0x61020 w s) F.INT_FLIP_CTL_ARM = bits w 0 1 :=
  have hbit : bits w 0 1 ≤ 1 := Nat.le_of_lt_succ (Nat.mod_lt _ Nat.two_pos)
  getF_writeFields_defined s (l := []) rfl (by decide) (.inl rfl) (Nat.zero_le _) hbit

/-- An arming write loads the count, and with a count of 0 leaves the mask disarmed. -/
theorem flipCtlSet_arm {w : Nat} {s : State} (ha : flagF s F.INT_FLIP_CTL_ARM = false) (hw : bits w 0 1 = 1) :
    let c := getF (writeFields 0x61020 w s) F.INT_FLIP_CTL_COUNT
    let u := flipCtlSet w s
    if c = 0 then getF u F.INT_FLIP_CTL_ARM = 0 else getF u F.INT_FLIP_CTL_ARM = 1 ∧ u.integ.flipLeft = c := by
  intro c u
  have hu : u = if c = 0 then setF (writeFields 0x61020 w s) F.INT_FLIP_CTL_ARM 0
      else { writeFields 0x61020 w s with integ := { (writeFields 0x61020 w s).integ with flipLeft := c } } := by
    simp [u, c, flipCtlSet, ha, (bits_eq_one_iff w 0).1 hw]
  rw [hu]
  split
  · rw [getF_setF_same, Nat.zero_mod]
  · exact ⟨(getF_writeFields_flipArm w s).trans hw, rfl⟩

-- ## The log memory (R561, R563)

theorem clearGasp_failed {s : State} (h : s.integ.logFailed = true) : clearGasp s = s := if_pos h

/-- GASP_CLR empties the last records and clears LOG_LOST and its count. -/
theorem clearGasp_works {s : State} (h : s.integ.logFailed = false) :
    (clearGasp s).integ.gasp = [] ∧ getF (clearGasp s) F.INT_STAT_LOG_LOST = 0
      ∧ getF (clearGasp s) F.INT_LOG_CNT_LOST_CNT = 0 := by
  rw [clearGasp, if_neg (by simp [h])]
  refine ⟨rfl, ?_, ?_⟩
  · rw [getF_setF_other _ _ (by decide), getF_setF_same, Nat.zero_mod]
  · rw [getF_setF_same, Nat.zero_mod]

theorem irqIf_integ (s : State) (en : Fld) (n : Nat) : (irqIf s en n).integ = s.integ := by
  unfold irqIf raiseIrq
  dsimp only
  split <;> [split <;> [rfl; (split <;> rfl)]; rfl]

theorem gaspAdd_logFailed (s : State) (e : Nat) : (gaspAdd s e).integ.logFailed = s.integ.logFailed := by
  unfold gaspAdd
  split <;> rfl

theorem logFail_logFailed (s : State) (i : Nat) : (logFail s i).integ.logFailed = true := by
  unfold logFail
  rw [irqIf_integ, irqIf_integ, gaspAdd_logFailed]
  rfl

/-- The notes of an event start and end no march test. -/
theorem Noted.logTest {s t : State} (h : Noted s t) : t.integ.logTest = s.integ.logTest := by
  have hsame := congrArg (fun u : State => u.integ.logTest) h.2
  exact hsame

theorem execLogTestDone_idle {s : State} (ht : s.integ.logTest = false) (pass : Bool) :
    execLogTestDone pass s = .next s := if_pos (by simp [ht])

/-- A passed test brings the log memory back, empty. -/
theorem execLogTestDone_pass {s : State} (ht : s.integ.logTest = true) :
    ∃ t, execLogTestDone true s = .next t ∧ t.integ.logTest = false ∧ t.integ.logFailed = false ∧ t.integ.logEnt = []
      ∧ getF t F.INT_LOG_PTR_HEAD = 0 ∧ getF t F.INT_LOG_PTR_TAIL = 0 := by
  rw [execLogTestDone, if_neg (by simp [ht]), if_pos rfl]
  refine ⟨_, rfl, rfl, rfl, rfl, ?_, ?_⟩
  · rw [getF_setF_other _ _ (by decide), getF_setF_same, Nat.zero_mod]
  · rw [getF_setF_same, Nat.zero_mod]

theorem execLogTestDone_fail {s : State} (ht : s.integ.logTest = true) :
    ∃ t, execLogTestDone false s = .next t ∧ t.integ.logTest = false ∧ t.integ.logFailed = true := by
  rw [execLogTestDone, if_neg (by simp [ht]), if_neg Bool.false_ne_true]
  exact ⟨_, rfl, (logFail_noted _ _).logTest, logFail_logFailed _ _⟩

-- ## The trip latch and the calibration (R720, R732)

theorem trippedClear_cool {s : State} (ht : flagF s F.CPM_THERM_STAT_TRIPPED = true)
    (hj : getF s F.CPM_THERM_STAT_TJ_MAX < 328) : getF (trippedClear s) F.CPM_THERM_STAT_TRIPPED = 0 := by
  rw [trippedClear, if_pos (by simp [ht, hj]), (logEvt_noted _ _ _ _ _ _ _ _ _).1 _ (by decide), getF_setF_same,
    Nat.zero_mod]

theorem trippedClear_hot {s : State} (hj : 328 ≤ getF s F.CPM_THERM_STAT_TJ_MAX) : trippedClear s = s :=
  if_neg (by simp [Nat.not_lt.2 hj])

/-- No value of the field is listed in `regs`, so that it reads as its reset value. -/
def Unlisted (s : State) (f : Fld) : Prop := Sparse.find s.regs f.key = none

theorem getF_of_unlisted {s : State} {f : Fld} (h : Unlisted s f) : getF s f = f.rst % 2 ^ f.w := by
  unfold Unlisted at h
  simp [getF, Sparse.at, h]

theorem rstF_unlisted (s : State) (f : Fld) : Unlisted (rstF s f) f := Sparse.find_del_same _ _

theorem Unlisted.after_rstF {s : State} {g : Fld} (h : Unlisted s g) (f : Fld) : Unlisted (rstF s f) g := by
  by_cases e : g.key = f.key
  · exact (congrArg (Sparse.find _) e).trans (Sparse.find_del_same _ _)
  · exact (Sparse.find_del_other _ e).trans h

/-- A run of steps that put `f` back in one of them, and list it in none, leaves it unlisted. -/
theorem Unlisted.foldl {α : Type} {step : State → α → State} {f : Fld} {b : α}
    (hkeep : ∀ t x, Unlisted t f → Unlisted (step t x) f) (hput : ∀ t, Unlisted (step t b) f) {l : List α} (hb : b ∈ l)
    (s : State) : Unlisted (l.foldl step s) f := by
  have hrest : ∀ (r : List α) (t : State), Unlisted t f → Unlisted (r.foldl step t) f := by
    intro r
    induction r with
    | nil => exact fun _ h => h
    | cons x r ih => exact fun t h => ih _ (hkeep t x h)
  obtain ⟨l, r, rfl⟩ := List.append_of_mem hb
  rw [List.foldl_append, List.foldl_cons]
  exact hrest r _ (hput _)

/-- Put K and WINDOWS of bin `b` back to their reset values (R732). -/
def putBackK (s : State) (b : Nat) : State := rstF (rstF s (F.CPM_EST_K_K b)) (F.CPM_EST_K_WINDOWS b)

theorem calReset_eq (s : State) : calReset s = setF ((List.range 4).foldl putBackK s) F.CPM_EST_STAT_CAL 0 := rfl

theorem getF_calReset_cal (s : State) : getF (calReset s) F.CPM_EST_STAT_CAL = 0 := by
  rw [calReset_eq, getF_setF_same, Nat.zero_mod]

/-- A field that putting back one of the four bins unlists reads as its reset value after the whole reset. -/
theorem getF_calReset {b : Nat} (hb : b < 4) {f : Fld} (hput : ∀ t, Unlisted (putBackK t b) f)
    (hcal : f.key ≠ F.CPM_EST_STAT_CAL.key) (s : State) : getF (calReset s) f = f.rst % 2 ^ f.w := by
  rw [calReset_eq, getF_setF_other _ _ hcal]
  exact getF_of_unlisted
    (Unlisted.foldl (fun _ _ h => (h.after_rstF _).after_rstF _) hput (List.mem_range.2 hb) s)

theorem getF_calReset_k (s : State) {b : Nat} (hb : b < 4) :
    getF (calReset s) (F.CPM_EST_K_K b) = (F.CPM_EST_K_K b).rst := by
  refine getF_calReset hb (fun t => (rstF_unlisted t _).after_rstF _) ?_ s
  simp only [Fld.key, F.CPM_EST_K_K, F.CPM_EST_STAT_CAL]
  omega

theorem getF_calReset_windows (s : State) {b : Nat} (hb : b < 4) : getF (calReset s) (F.CPM_EST_K_WINDOWS b) = 0 := by
  refine getF_calReset hb (fun t => rstF_unlisted _ _) ?_ s
  simp only [Fld.key, F.CPM_EST_K_WINDOWS, F.CPM_EST_STAT_CAL]
  omega

-- ## Counters, trace and debug (R771, R778, R782, R787)

theorem ctrSelSet_of_lt {i : Nat} (w : Nat) (s : State) (h : i < 32) :
    (ctrSelSet i w s).ctr = Sparse.del s.ctr i := by
  rw [ctrSelSet, if_neg (Nat.not_le.2 h)]
  exact congrArg (Sparse.del · i) (writeFields_ctr _ w s)

theorem execCtrSelWrite_of_lt (m : Master) {i : Nat} (w : Word) (s : State) (h : i < 32) :
    execCtrSelWrite m i w s = .next (asWrite m (0x28100 + 16 * i) w.toNat (ctrSelSet i w.toNat) s) := by
  rw [execCtrSelWrite, Nat.mod_eq_of_lt h]

theorem getF_clearTrace_full (s : State) : getF (clearTrace s) F.TRC_STAT_FULL = 0 := by
  rw [clearTrace, getF_setF_same, Nat.zero_mod]

theorem markTrace_word (w : Word) (s : State) : markTrace w.toNat s = trcPush s (trcRecord s 4 0 w.toNat (now s) 0) := by
  rw [markTrace, Nat.mod_eq_of_lt w.isLt]

theorem dbgCtlSet_barred {m : Master} (w : Nat) {s : State} (h : m = .debug ∨ flagF s F.GLB_DBG_CTL_LOCK = true) :
    dbgCtlSet m w s = s := if_pos h

theorem dbgCtlSet_open {m : Master} (w : Nat) {s : State} (hm : m ≠ .debug) (hl : flagF s F.GLB_DBG_CTL_LOCK = false) :
    dbgCtlSet m w s = writeFields 0x20 w s := if_neg (by simp [hm, hl])

-- ## The statement

/-- Settles O56, one rule of an operation per clause. -/
theorem debugAndRegisterWritesTakeEffect : Obligations.DebugAndRegisterWritesTakeEffect := by
  intro m n w s v live base
  refine ⟨fun hr => ?flip, fun hr => ?log, fun ht => ?tested, fun ht b => ?untested, fun hr ht => ?tripped,
    fun hr => ?cal, fun hr hn => ?ctrSel, fun hr => ?ctrClear, fun hr => ?td, fun hr => ?trcClear, fun hr => ?trcMark,
    fun hr => ?dbg, fun off size ho => ?outside, fun off size ho hs hr => ?malformed,
    fun off size ho hr hm hd hp hv => ?doze, fun off ha ho hr => ?plain⟩
  case flip =>
    exact ⟨fun ha hw => next_asWrite_of_reaches _ hr (flipCtlSet_armed ha hw),
      fun hw => next_asWrite_of_reaches _ hr (flipCtlSet_disarm s hw),
      fun ha hw => ⟨_, next_asWrite_of_reaches _ hr rfl, flipCtlSet_arm ha hw⟩⟩
  case log =>
    exact ⟨next_asWrite_of_reaches _ hr rfl, fun hf => next_asWrite_of_reaches _ hr (clearGasp_failed hf),
      fun hf => ⟨_, next_asWrite_of_reaches _ hr rfl, clearGasp_works hf⟩⟩
  case tested => exact ⟨execLogTestDone_pass ht, execLogTestDone_fail ht⟩
  case untested => exact execLogTestDone_idle ht b
  case tripped =>
    exact ⟨fun hj => ⟨_, next_asWrite_of_reaches _ hr rfl, trippedClear_cool ht hj⟩,
      fun hj => next_asWrite_of_reaches _ hr (trippedClear_hot hj)⟩
  case cal =>
    exact ⟨_, next_asWrite_of_reaches _ hr rfl, getF_calReset_cal s,
      fun b hb => ⟨getF_calReset_k s hb, getF_calReset_windows s hb⟩⟩
  case ctrSel =>
    refine ⟨_, (execCtrSelWrite_of_lt m w s hn).trans (next_asWrite_of_reaches _ hr rfl), ?_⟩
    rw [ctrSelSet_of_lt _ s hn]
    exact ⟨Sparse.find_del_same _ _, fun k hk => Sparse.find_del_other _ hk⟩
  case ctrClear => exact next_asWrite_of_reaches _ hr rfl
  case td =>
    exact ⟨next_asWrite_of_reaches _ hr rfl, next_asWrite_of_reaches _ hr rfl, next_asWrite_of_reaches _ hr rfl⟩
  case trcClear => exact ⟨_, next_asWrite_of_reaches _ hr rfl, rfl, getF_clearTrace_full s⟩
  case trcMark => exact next_asWrite_of_reaches _ hr (markTrace_word w s)
  case dbg =>
    exact ⟨fun h => next_asWrite_of_reaches _ hr (dbgCtlSet_barred _ h),
      fun hm hl => next_asWrite_of_reaches _ hr (dbgCtlSet_open _ hm hl)⟩
  case outside => exact congrArg _ (busWrite_outside m size _ s ho)
  case malformed => exact congrArg _ ((busWrite_malformed m _ s ho hs).trans (if_pos hr))
  case doze =>
    subst hm
    exact congrArg _ ((busWrite_unreached _ size _ ho hr).trans (unreached_doze hd hp hv))
  case plain =>
    exact (congrArg _ (busWrite_word m _ s ho ha)).trans (next_asWrite_of_reaches _ hr rfl)

end Sys2Proof.Machine
end

section
/-! SUPPORT. A request packet that a lane accepts at once: the checks of R173 that it passes, one rule per stage of its way from
the packet to its acceptance. Settles O20. -/

namespace Sys2Proof.Machine

-- ## From the packet to the checks (R142, R177)

theorem reachesLane_iff {op : Nat} {p : LanePkt} {s : State} :
    reachesLane op p s = true ↔ p.lane < 64 ∧ p.ch < 3 ∧ 1 ≤ p.flits ∧ ofRow op p = true ∧ chanUp s p.lane p.ch = true
      ∧ arrayRuns s = true ∧ portsHeld s = false := by
  simp [reachesLane, and_assoc]

theorem firstSending_iff {p : LanePkt} {s : State} :
    firstSending p s = true ↔ dropCause s p (beatsIn (decodeHdr p.hdr)) = none ∧ (decodeHdr p.hdr).retry = false
      ∧ tagOf (enteredLane p s) (p.lane * 3 + p.ch) (decodeHdr p.hdr).tag = .free := by
  simp [firstSending, and_assoc]

/-- A first sending on a FREE tag is checked as a new request, and its tag is no blind one any more (R604). -/
theorem checkTag_of_first {p : LanePkt} {s : State} {h : Hdr} (hfirst : h.retry = false)
    (htag : tagOf s (p.lane * 3 + p.ch) h.tag = .free) :
    checkTag s p h
      = newRequest { s with blind := s.blind.filter (fun k => k != (p.lane * 3 + p.ch) * 4096 + h.tag) } p h := by
  have hfree : tagOf { s with blind := s.blind.filter (fun k => k != (p.lane * 3 + p.ch) * 4096 + h.tag) }
      (p.lane * 3 + p.ch) h.tag = .free := htag
  simp [checkTag, hfirst, hfree]

/-- A first sending that reaches its lane is checked as a new request. -/
theorem lanePacket_of_firstSending {op : Nat} {p : LanePkt} {s : State} (hr : reachesLane op p s = true)
    (hf : firstSending p s = true) : lanePacket op p s = newRequest (enteredLane p s) p (decodeHdr p.hdr) := by
  obtain ⟨hlane, hch, hflits, hrow, hup, hruns, hports⟩ := reachesLane_iff.1 hr
  obtain ⟨hdrop, hretry, htag⟩ := firstSending_iff.1 hf
  have hgoes : (decide (64 ≤ p.lane) || decide (3 ≤ p.ch) || p.flits == 0 || !ofRow op p || !chanUp s p.lane p.ch
      || !arrayRuns s || portsHeld s) = false := by
    simp [hrow, hup, hruns, hports]
    omega
  rw [lanePacket, if_neg (ne_true_of_eq_false hgoes), hdrop]
  exact checkTag_of_first hretry htag

-- ## Checks 4 to 10 and the hold point (R173, R473)

/-- A request that passes checks 8 to 10 comes back with what its target resolved to, and is otherwise as it was. -/
theorem checks8_ok {s t : State} {r q : Request} {up : Upset} (h : checks8 s r up = (.ok q, t)) :
    ∃ base mirror accs aux bib, q = { r with base := base, mirror := mirror, accs := accs, aux := aux, bib := bib } := by
  unfold checks8 at h
  split at h
  · cases h
  · extract_lets res at h
    split at h
    · cases h
    · extract_lets at h
      split at h
      · cases h
      · split at h
        · cases h
        · cases h
          exact ⟨_, _, _, _, _, rfl⟩

/-- A request is presented when checks 4 to 10 pass and the hold point lets it through. -/
theorem presented_inv {p : LanePkt} {s t : State} {r : Request} (h : presented? p s = some (r, t)) :
    check4 p.hdr (decodeHdr p.hdr) p.ch (beatsOf p) (lateLaunch p s) = none
    ∧ badTarget (listed p s) (decodeHdr p.hdr) = false
    ∧ bound (listed p s) p.lane (decodeHdr p.hdr).core (decodeHdr p.hdr).part = true
    ∧ partCreated (listed p s) (decodeHdr p.hdr).part = true
    ∧ (newcomer p s).isRemote = false
    ∧ r.isRemote = false
    ∧ ∃ u, checks8 (listed p s) (newcomer p s) p.up = (.ok r, u) ∧ holdTest (putReq u r) r = (.pass, t) := by
  unfold presented? at h
  dsimp only at h
  split at h
  · cases h
  · rename_i hchecks
    simp only [Bool.or_eq_true, not_or, Bool.not_eq_true, Option.isSome_eq_false_iff, Option.isNone_iff_eq_none,
      Bool.not_eq_false'] at hchecks
    obtain ⟨⟨⟨⟨h4, htarget⟩, hbound⟩, hpart⟩, hlocal⟩ := hchecks
    split at h
    · cases h
    · rename_i u h8
      split at h
      · rename_i hhold
        split at h
        · cases h
        · rename_i hrem
          cases h
          exact ⟨h4, htarget, hbound, hpart, hlocal, Bool.eq_false_of_not_eq_true hrem, u, h8, hhold⟩
      · cases h

/-- The request that is presented has the header and the lane of its packet. -/
theorem presented_keeps_packet {p : LanePkt} {s t : State} {r : Request} (h : presented? p s = some (r, t)) :
    r.org = .lane p.lane p.ch ∧ r.h = decodeHdr p.hdr := by
  obtain ⟨-, -, -, -, -, -, u, h8, -⟩ := presented_inv h
  obtain ⟨base, mirror, accs, aux, bib, rfl⟩ := checks8_ok h8
  exact ⟨rfl, rfl⟩

/-- A new request that is presented and let through goes to check 11. -/
theorem newRequest_of_presented {p : LanePkt} {s t : State} {r : Request} (h : presented? p s = some (r, t)) :
    newRequest s p (decodeHdr p.hdr) = check11 t r := by
  obtain ⟨h4, htarget, hbound, hpart, hlocal, hrem, u, h8, hhold⟩ := presented_inv h
  have hnew : newRequest s p (decodeHdr p.hdr) = presentNew (putReq u r) r p.lane := by
    unfold newRequest
    extract_lets id bs r0 r1 s1 blk late
    -- `r1` is `newcomer p s`, `s1` is `listed p s` and `late` is `lateLaunch p s`
    replace h4 : check4 p.hdr (decodeHdr p.hdr) p.ch bs late = none := h4
    replace htarget : badTarget s1 (decodeHdr p.hdr) = false := htarget
    replace hbound : bound s1 p.lane (decodeHdr p.hdr).core (decodeHdr p.hdr).part = true := hbound
    replace hpart : partCreated s1 (decodeHdr p.hdr).part = true := hpart
    replace hlocal : r1.isRemote = false := hlocal
    replace h8 : checks8 s1 r1 p.up = (.ok r, u) := h8
    simp [h4, htarget, hbound, hpart, hlocal, h8]
  rw [hnew, presentNew, hhold]
  simp [passHold, hrem]

-- ## Check 11 (R247)

/-- A request that check 11 admits is accepted, with its header and its origin. -/
theorem check11_of_admitted {s t : State} {r0 r : Request} {pl : Place} (h : admitted? r0 s = some (r, pl, t)) :
    check11 s r0 = accept t r pl ∧ r.org = r0.org ∧ r.h = r0.h := by
  unfold admitted? at h
  dsimp only at h
  split at h
  · cases h
  · rename_i hno
    simp only [Bool.or_eq_true, not_or, Bool.not_eq_true, Option.isSome_eq_false_iff, Option.isNone_iff_eq_none,
      beq_eq_false_iff_ne] at hno
    obtain ⟨⟨⟨⟨hatt, hop⟩, hres⟩, hpause⟩, hroom⟩ := hno
    split at h
    · rename_i hadm
      cases h
      refine ⟨?_, rfl, rfl⟩
      simp [check11, hatt, hop, hres, hpause, hroom, hadm]
    · cases h

-- ## From the packet to acceptance

/-- A packet that is accepted at once is a first sending that is presented and admitted. -/
theorem accepts_inv {p : LanePkt} {s u : State} {r : Request} {pl : Place} (h : accepts p s = some (r, pl, u)) :
    firstSending p s = true
    ∧ ∃ r0 t, presented? p (enteredLane p s) = some (r0, t) ∧ admitted? r0 t = some (r, pl, u) := by
  unfold accepts at h
  split at h
  · rename_i hfirst
    obtain ⟨⟨r0, t⟩, hpres, hadm⟩ := Option.bind_eq_some_iff.1 h
    exact ⟨hfirst, r0, t, hpres, hadm⟩
  · cases h

/-- The request that is accepted has the lane and the header of its packet. -/
theorem accepts_keeps_packet {p : LanePkt} {s u : State} {r : Request} {pl : Place} (h : accepts p s = some (r, pl, u)) :
    r.org = .lane p.lane p.ch ∧ r.h = decodeHdr p.hdr := by
  obtain ⟨-, r0, t, hpres, hadm⟩ := accepts_inv h
  obtain ⟨horg0, hhdr0⟩ := presented_keeps_packet hpres
  obtain ⟨-, horg, hhdr⟩ := check11_of_admitted hadm
  exact ⟨horg.trans horg0, hhdr.trans hhdr0⟩

/-- A packet that `accepts` answers for, and that reaches its lane, is accepted. -/
theorem lanePacket_of_accepts {op : Nat} {p : LanePkt} {s u : State} {r : Request} {pl : Place}
    (hr : reachesLane op p s = true) (h : accepts p s = some (r, pl, u)) : lanePacket op p s = accept u r pl := by
  obtain ⟨hfirst, r0, t, hpres, hadm⟩ := accepts_inv h
  rw [lanePacket_of_firstSending hr hfirst, newRequest_of_presented hpres, (check11_of_admitted hadm).1]

-- ## The row of an accepted packet (R142, R151)

/-- A packet that is not dropped is a request packet or a credit packet (R142). -/
theorem ptype_of_not_dropped {s : State} {p : LanePkt} {n : Nat} (h : dropCause s p n = none) :
    bits p.hdr.toNat 0 4 = 0 ∨ bits p.hdr.toNat 0 4 = 5 := by
  by_contra! hpt
  simp only [dropCause, bne_iff_ne.2 hpt.1, bne_iff_ne.2 hpt.2, Bool.and_true, if_true] at h
  split at h <;> cases h

/-- A request that check 4 lets through has an OP that R151 lists. -/
theorem opKnown_of_check4 {hw : BitVec 256} {h : Hdr} {ch : Nat} {beats : List Beat} {late : Bool}
    (h4 : check4 hw h ch beats late = none) : opKnown h.op = true := by
  by_contra hk
  have henc : badEncoding h beats = true := by
    rw [badEncoding, Bool.eq_false_of_not_eq_true hk]
    rfl
  rw [check4, henc] at h4
  split at h4 <;> cases h4

/-- An accepted packet of a row has the row's OP: the packets of no row, which READ's row takes too, are not accepted. -/
theorem op_of_accepts {op : Nat} {p : LanePkt} {s u : State} {r : Request} {pl : Place} (hr : reachesLane op p s = true)
    (h : accepts p s = some (r, pl, u)) : r.h.op = op := by
  obtain ⟨hfirst, r0, t, hpres, -⟩ := accepts_inv h
  obtain ⟨h4, -, -, -, -, -, -⟩ := presented_inv hpres
  have hknown : opKnown (bits p.hdr.toNat 4 5) = true := opKnown_of_check4 h4
  obtain ⟨-, -, -, hrow, -, -, -⟩ := reachesLane_iff.1 hr
  obtain ⟨hdrop, -, -⟩ := firstSending_iff.1 hfirst
  have hop : bits p.hdr.toNat 4 5 = op := by
    rcases ptype_of_not_dropped hdrop with hpt | hpt
    · simpa [ofRow, hpt, hknown] using hrow
    · simp [ofRow, hpt] at hrow
  rw [(accepts_keeps_packet h).2]
  exact hop

-- ## Acceptance (R16, R171, R316)

/-- A request of a lane that is no launch goes on at once when it is accepted: no journal entry is owed for it (R579). -/
theorem accept_of_lane {s : State} {r : Request} {l c : Nat} (pl : Place) (horg : r.org = .lane l c) (hop : r.h.op ≠ 0x16) :
    accept s r pl = proceed (acceptedIn s r l c) (acceptedAs s r pl) := by
  unfold accept
  extract_lets b r1 s1 s2 go
  have hcredits : s2 = acceptedIn s r l c := by simp only [s2, s1, acceptedIn, horg, reqId]
  split
  · rename_i hmesh
    exact absurd (horg.symm.trans hmesh) nofun
  · rw [if_neg hop, hcredits]
    rfl

/-- An accepted data operation waits for its release (R257). -/
theorem proceed_of_data {s : State} {r : Request} (hd : isData r.h.op = true) :
    proceed s r = putReq s { r with stage := .admitted } := by simp [proceed, hd]

/-- An accepted packet of the row of a data operation leaves its request admitted. -/
theorem lanePacket_of_data {op : Nat} {p : LanePkt} {s u : State} {r : Request} {pl : Place} (hd : isData op = true)
    (hr : reachesLane op p s = true) (h : accepts p s = some (r, pl, u)) :
    lanePacket op p s = putReq (acceptedIn u r p.lane p.ch) { acceptedAs u r pl with stage := .admitted } := by
  have hdata : isData r.h.op = true := (op_of_accepts hr h).symm ▸ hd
  have hlaunch : r.h.op ≠ 0x16 := fun e => by simp [e, isData, isRead, isWrite, isAtomic] at hdata
  rw [lanePacket_of_accepts hr h, accept_of_lane pl (accepts_keeps_packet h).1 hlaunch]
  exact proceed_of_data hdata

/-- Settles O20, the one rule of the data operations for each of their rows. -/
theorem dataRequestIsAccepted : Obligations.DataRequestIsAccepted := by
  intro p s u r pl h t
  have hnext : ∀ op, isData op = true → reachesLane op p s = true →
      (.next (lanePacket op p s) : Host.Outcome State Fault Refusal) = .next t :=
    fun _ hd hr => congrArg _ (lanePacket_of_data hd hr h)
  exact ⟨hnext 0x00 rfl, hnext 0x01 rfl, hnext 0x02 rfl, hnext 0x03 rfl, hnext 0x04 rfl, hnext 0x05 rfl, hnext 0x06 rfl,
    hnext 0x08 rfl, hnext 0x09 rfl, hnext 0x0A rfl, hnext 0x0B rfl, hnext 0x0C rfl⟩

end Sys2Proof.Machine
end

section
/-! SUPPORT. The passing of time: what a tick does to the cadence count and to the lock, one rule per branch (R34, R44, R49,
R806). Settles O2, O8 and O36. -/

namespace Sys2Proof.Machine

-- ## What a noted event leaves of the cadence unit

/-- The notes of an event leave the cadence unit. -/
theorem Noted.cad {s t : State} (h : Noted s t) : t.cad = s.cad := by
  have hsame := congrArg (fun u : State => u.cad) h.2
  exact hsame

@[simp] theorem irqIf_cad (s : State) (en : Fld) (n : Nat) : (irqIf s en n).cad = s.cad := (irqIf_noted s en n).cad

@[simp] theorem ctrEvent_cad (s : State) (ev u n : Nat) (c : EvCtx) : (ctrEvent s ev u n c).cad = s.cad :=
  (ctrEvent_noted s ev u n c).cad

@[simp] theorem setF_cad (s : State) (f : Fld) (v : Nat) : (setF s f v).cad = s.cad := rfl

-- ## The loss of LOCKED (R44, R48)

/-- The cadence unit after the loss of LOCKED, but for the lock state that it goes to. -/
def lostCad (s : State) : Cadence :=
  { s.cad with loaded := none, slow := 0, links := Sparse.del s.cad.links s.cad.src, refOk := false }

theorem loseLock_no_limit {s : State} (h : getF s F.CPM_CAD_CTL_HOLD_LIMIT = 0) :
    loseLock s = { irqIf s F.CPM_CAD_CTL_IRQ_EN 0 with cad := { lostCad s with st := .unlocked } } := by
  rw [loseLock, if_pos h]
  rfl

theorem loseLock_limit {s : State} (h : getF s F.CPM_CAD_CTL_HOLD_LIMIT ≠ 0) :
    loseLock s = { irqIf s F.CPM_CAD_CTL_IRQ_EN 0 with cad := { lostCad s with st := .holdover, holdEntry := now s } } := by
  rw [loseLock, if_neg h]
  rfl

/-- Whatever the limit, the loss of LOCKED ends a slow advance and leaves the count and its phase. -/
theorem loseLock_cad (s : State) : ∃ entry, (loseLock s).cad = { lostCad s with
    st := if getF s F.CPM_CAD_CTL_HOLD_LIMIT = 0 then .unlocked else .holdover, holdEntry := entry } := by
  by_cases h : getF s F.CPM_CAD_CTL_HOLD_LIMIT = 0
  · exact ⟨s.cad.holdEntry, by rw [loseLock_no_limit h, if_pos h]; rfl⟩
  · exact ⟨now s, by rw [loseLock_limit h, if_neg h]⟩

theorem checkSource_lost {s : State} (hst : s.cad.st = .locked) (hl : srcLost s = true) : checkSource s = loseLock s := by
  simp [checkSource, hst, hl]

theorem checkSource_kept {s : State} (h : s.cad.st ≠ .locked ∨ srcLost s = false) : checkSource s = s := by
  rcases h with h | h <;> simp [checkSource, h]

/-- The check of the source leaves the count and its phase, and a slow advance unless LOCKED is lost. -/
theorem checkSource_cad (s : State) : (checkSource s).cad.count = s.cad.count ∧ (checkSource s).cad.phase = s.cad.phase
    ∧ (checkSource s).cad.passed = s.cad.passed ∧ (s.cad.st ≠ .locked → (checkSource s).cad.slow = s.cad.slow) := by
  by_cases h : s.cad.st = .locked ∧ srcLost s = true
  · obtain ⟨hst, hl⟩ := h
    obtain ⟨entry, hcad⟩ := loseLock_cad s
    rw [checkSource_lost hst hl, hcad]
    exact ⟨rfl, rfl, rfl, fun hno => absurd hst hno⟩
  · rw [checkSource_kept (by simpa [imp_iff_not_or] using h)]
    exact ⟨rfl, rfl, rfl, fun _ => rfl⟩

-- ## One tick (R34, R49)

/-- The state after a tick that the count takes, before the source is checked. -/
def ticked (s : State) : State :=
  { s with cad := { s.cad with phase := (s.cad.phase + 1) % 16, passed := s.cad.passed + 1, count := s.cad.count + 1 } }

/-- A slow advance loses the last tick of a reference period. -/
theorem advanceCount_loses {s : State} (hs : s.cad.slow ≠ 0) (hp : (s.cad.phase + 1) % 16 = 0) :
    advanceCount s
      = { s with cad := { s.cad with phase := 0, passed := s.cad.passed + 1, slow := s.cad.slow - 1 } } := by
  simp [advanceCount, hs, hp]

/-- Every other tick advances the count and checks the source. -/
theorem advanceCount_counts {s : State} (h : ¬ (s.cad.slow ≠ 0 ∧ (s.cad.phase + 1) % 16 = 0)) :
    (advanceCount s).cad = (checkSource (ticked s)).cad := by
  have hkept : ((s.cad.phase + 1) % 16 == 0 && s.cad.slow != 0) = false := by
    simpa using fun hp hs => h ⟨hs, hp⟩
  unfold advanceCount
  dsimp only
  rw [hkept, if_neg Bool.false_ne_true]
  split
  · exact ctrEvent_cad _ _ _ _ _
  · rfl

/-- The array cycles of a tick are all that its last part sets. -/
theorem cyclesOfTick_cad (s : State) : ∃ frac left, (cyclesOfTick s).cad = { s.cad with cycFrac := frac, left := left } := by
  unfold cyclesOfTick
  split <;> exact ⟨_, _, rfl⟩

theorem tick_of_cycle {s : State} (hl : s.cad.left ≠ 0) (hr : arrayRuns s = true) :
    tick s = oneCycle { s with cad := { s.cad with left := s.cad.left - 1 } } := by
  simp [tick, hl, hr]

theorem tick_of_noCycle {s : State} (h : s.cad.left = 0 ∨ arrayRuns s = false) :
    tick s = if ticksRun s = true then cyclesOfTick (advanceCount s) else s := by
  rcases h with h | h <;> simp [tick, h]

theorem step_of_empty {s : State} (h : s.pending = []) : step s = .next (tick s) := by rw [step, h]

/-- What a tick leaves of the count, its phase and a slow advance. -/
theorem advanceCount_cad (s : State) :
    (advanceCount s).cad.phase = (s.cad.phase + 1) % 16 ∧ (advanceCount s).cad.passed = s.cad.passed + 1
    ∧ if s.cad.slow ≠ 0 ∧ (s.cad.phase + 1) % 16 = 0
      then (advanceCount s).cad.count = s.cad.count ∧ (advanceCount s).cad.slow = s.cad.slow - 1
      else (advanceCount s).cad.count = s.cad.count + 1
        ∧ (s.cad.st ≠ .locked → (advanceCount s).cad.slow = s.cad.slow) := by
  split
  · rename_i h
    obtain ⟨hslow, hphase⟩ := h
    rw [advanceCount_loses hslow hphase]
    exact ⟨hphase.symm, rfl, rfl, rfl⟩
  · rename_i h
    obtain ⟨hcount, hphase, hpassed, hslow⟩ := checkSource_cad (ticked s)
    rw [advanceCount_counts h]
    exact ⟨hphase, hpassed, hcount, hslow⟩

/-- Settles O2: the three branches of the passing of time. -/
theorem emptyQueuePassesOneTick : Obligations.EmptyQueuePassesOneTick := by
  intro s hq
  refine ⟨tick s, step_of_empty hq, (held_pending (tick_held s)).trans hq, held_mem (tick_held s), tick_of_cycle,
    fun hno => ?_⟩
  rw [tick_of_noCycle hno]
  refine ⟨fun hstop => if_neg (by simp [hstop]), fun hrun => ?_⟩
  obtain ⟨frac, left, hcad⟩ := cyclesOfTick_cad (advanceCount s)
  rw [if_pos hrun, hcad]
  exact advanceCount_cad s

-- ## A cold start (R64, R102, R122, R806)

/-- After a cold start no register field is listed. -/
theorem unlisted_reset (f : Fld) : Unlisted State.reset f := rfl

theorem getF_reset (f : Fld) : getF State.reset f = f.rst % 2 ^ f.w := getF_of_unlisted (unlisted_reset f)

theorem refReady_reset : getF State.reset F.CPM_CLK_STAT_REF_READY = 0 := getF_reset _

/-- Before REF_READY the count is held. -/
theorem ticksRun_of_no_reference {s : State} (h : getF s F.CPM_CLK_STAT_REF_READY = 0) : ticksRun s = false := by
  simp [ticksRun, flagF, h]

/-- A partition but 15 has the reset value of one that is not created. -/
theorem partState_reset {p : Nat} (h : p ≠ 15) : getF State.reset (F.PART_STAT_STATE p) = 0 := by
  simp [getF_reset, F.PART_STAT_STATE, h]

/-- Settles O8: nothing is listed after a cold start, and without REF_READY the count is held. -/
theorem resetValues : Obligations.ResetValues :=
  ⟨rfl, rfl, refReady_reset, ticksRun_of_no_reference refReady_reset, fun _ => rfl, fun _ => rfl, getF_reset _,
    getF_reset _, getF_reset _, fun _ => partState_reset, fun _ => getF_reset _, fun _ => getF_reset _,
    fun f hf => (getF_reset f).trans (Nat.mod_eq_of_lt hf), rfl, rfl⟩

-- ## Holdover (R44, R47, R48)

theorem execSourceLoss_unlocked {s : State} (h : s.cad.st ≠ .locked) : execSourceLoss s = .next s := by
  simp [execSourceLoss, h]

theorem execSourceLoss_locked {s : State} (h : s.cad.st = .locked) (ha : aonState s = 0) :
    execSourceLoss s = .next (loseLock s) := by
  simp [execSourceLoss, h, ha]

/-- Before its limit HOLDOVER goes on. -/
theorem execHoldoverExpiry_early {s : State} (h : now s < s.cad.holdEntry + 65536 * getF s F.CPM_CAD_CTL_HOLD_LIMIT) :
    execHoldoverExpiry s = .next s := by
  simp [execHoldoverExpiry, Nat.not_le.2 h]

theorem execHoldoverExpiry_due {s : State} (hst : s.cad.st = .holdover)
    (h : s.cad.holdEntry + 65536 * getF s F.CPM_CAD_CTL_HOLD_LIMIT ≤ now s) :
    execHoldoverExpiry s = .next (setF { irqIf s F.CPM_CAD_CTL_IRQ_EN 0 with
      cad := { s.cad with st := .unlocked, loaded := none, slow := 0, holdEntry := 0 } } F.CPM_CAD_STAT_HOLD_EXPIRED 1) := by
  simp [execHoldoverExpiry, hst, h]

/-- A source whose last mark edge is known has missed two frames past the second due tick and its 64 ticks. -/
theorem srcLost_iff {s : State} {r : LinkRec} (h : Sparse.find s.cad.links s.cad.src = some r) :
    srcLost s = true ↔ r.mark + 131136 < now s := by
  simp [srcLost, h]

/-- The lock state after a tick in LOCKED (log entry 39). -/
theorem advanceCount_st {s : State} {r : LinkRec} (hst : s.cad.st = .locked) (hslow : s.cad.slow = 0)
    (hr : Sparse.find s.cad.links s.cad.src = some r) :
    (now s < r.mark + 131136 → (advanceCount s).cad.st = .locked)
    ∧ (r.mark + 131136 ≤ now s →
        (advanceCount s).cad.st = if getF s F.CPM_CAD_CTL_HOLD_LIMIT = 0 then .unlocked else .holdover) := by
  rw [advanceCount_counts (fun h => h.1 hslow)]
  have hlost : srcLost (ticked s) = true ↔ r.mark + 131136 < now s + 1 := srcLost_iff (s := ticked s) hr
  constructor
  · intro h
    have hkept : srcLost (ticked s) = false := by
      rw [Bool.eq_false_iff, ne_eq, hlost]
      omega
    rw [checkSource_kept (.inr hkept)]
    exact hst
  · intro h
    obtain ⟨entry, hcad⟩ := loseLock_cad (ticked s)
    rw [checkSource_lost (s := ticked s) hst (hlost.2 (Nat.lt_succ_of_le h)), hcad]
    rfl

/-- Settles O36: the loss by command, the expiry of HOLDOVER, and the loss at the tick of the second missed frame. -/
theorem lossOfLockHoldsOver : Obligations.LossOfLockHoldsOver := by
  intro s c u limit
  refine ⟨execSourceLoss_unlocked, fun hst ha hl => ?_, fun hst ha hl => ?_, fun _ => execHoldoverExpiry_early,
    execHoldoverExpiry_due, fun r hq hleft hrun hst hslow hr => ?_⟩
  · exact (execSourceLoss_locked hst ha).trans (congrArg _ (loseLock_no_limit hl))
  · exact (execSourceLoss_locked hst ha).trans (congrArg _ (loseLock_limit hl))
  · obtain ⟨frac, left, hcad⟩ := cyclesOfTick_cad (advanceCount s)
    refine ⟨tick s, step_of_empty hq, ?_⟩
    rw [tick_of_noCycle (.inl hleft), if_pos hrun, hcad]
    exact advanceCount_st hst hslow hr

end Sys2Proof.Machine
end

section
/-! SUPPORT. The count frames that LOCKED follows and that lead to LOCKED: one rule per way of taking a frame (R42, R43, R49,
R807). Settles O34 and O35. -/

namespace Sys2Proof.Machine

-- ## Forwarding (R40)

theorem sendFrames_noted (s : State) (notOn : Nat) (f : Frame) : Noted s (sendFrames s notOn f) :=
  .foldl (fun t _ => .ite (emit_noted t _) (.refl t)) _ _

theorem forwardFrame_noted (s : State) (link : Nat) (f : Frame) : Noted s (forwardFrame s link f) :=
  .ite (sendFrames_noted _ _ _) (.refl s)

-- ## Resolving a difference (R49, R68, R807)

/-- C − L saturates within the 32 bits of its register. -/
theorem jumpWord_lt (c l : Nat) : jumpWord c l < 2 ^ 32 := by
  unfold jumpWord
  split <;> omega

/-- A count that is not behind steps the local count forward to it and ends a slow advance. -/
theorem resolveCount_cad_forward {s : State} {c d : Nat} (bound : Nat) (h : now s - d ≤ c) :
    (resolveCount s c d bound).cad = { s.cad with
      count := now s + (c - (now s - d)), slow := 0, links := stepMarks s.cad.links (c - (now s - d)) } := by
  rw [resolveCount, if_pos h]
  simp only [ctrEvent_cad, setF_cad]

/-- A count that is behind leaves the local count, which then loses the difference. -/
theorem resolveCount_cad_back {s : State} {c d : Nat} (bound : Nat) (h : c < now s - d) :
    (resolveCount s c d bound).cad = { s.cad with slow := now s - d - c } := by
  rw [resolveCount, if_neg (Nat.not_le.2 h)]
  dsimp only
  split <;> rfl

/-- Either way the lock state and the source stay. -/
theorem resolveCount_lock (s : State) (c d bound : Nat) :
    (resolveCount s c d bound).cad.st = s.cad.st ∧ (resolveCount s c d bound).cad.src = s.cad.src := by
  rcases Nat.lt_or_ge c (now s - d) with h | h
  · rw [resolveCount_cad_back bound h]
    exact ⟨rfl, rfl⟩
  · rw [resolveCount_cad_forward bound h]
    exact ⟨rfl, rfl⟩

/-- A step forward writes C − L and otherwise notes its ticks. -/
theorem getF_resolveCount_forward {s : State} {c d : Nat} (bound : Nat) (h : now s - d ≤ c) {f : Fld}
    (hf : f.key ∉ noteKeys) :
    getF (resolveCount s c d bound) f = getF (setF s F.CPM_JUMP_TICKS_VAL (jumpWord c (now s - d))) f := by
  rw [resolveCount, if_pos h]
  exact (ctrEvent_noted _ _ _ _ _).1 f hf

/-- A slow advance writes C − L, and JUMP where the difference exceeds the bound. -/
theorem getF_resolveCount_back {s : State} {c d : Nat} (bound : Nat) (h : c < now s - d) (f : Fld) :
    getF (resolveCount s c d bound) f
      = if bound < now s - d - c
        then getF (setF (setF s F.CPM_JUMP_TICKS_VAL (jumpWord c (now s - d))) F.CPM_CAD_STAT_JUMP 1) f
        else getF (setF s F.CPM_JUMP_TICKS_VAL (jumpWord c (now s - d))) f := by
  rw [resolveCount, if_neg (Nat.not_le.2 h)]
  dsimp only
  split <;> rfl

theorem getF_resolveCount_jumpTicks (s : State) (c d bound : Nat) :
    getF (resolveCount s c d bound) F.CPM_JUMP_TICKS_VAL = jumpWord c (now s - d) := by
  have hword : getF (setF s F.CPM_JUMP_TICKS_VAL (jumpWord c (now s - d))) F.CPM_JUMP_TICKS_VAL = jumpWord c (now s - d) :=
    (getF_setF_same _ _ _).trans (Nat.mod_eq_of_lt (jumpWord_lt _ _))
  rcases Nat.lt_or_ge c (now s - d) with h | h
  · rw [getF_resolveCount_back bound h, getF_setF_other _ _ (by decide), hword, ite_self]
  · rw [getF_resolveCount_forward bound h (by decide), hword]

theorem getF_resolveCount_jump_forward {s : State} {c d : Nat} (bound : Nat) (h : now s - d ≤ c) :
    getF (resolveCount s c d bound) F.CPM_CAD_STAT_JUMP = getF s F.CPM_CAD_STAT_JUMP := by
  rw [getF_resolveCount_forward bound h (by decide), getF_setF_other _ _ (by decide)]

theorem getF_resolveCount_jump_back {s : State} {c d : Nat} (bound : Nat) (h : c < now s - d) :
    getF (resolveCount s c d bound) F.CPM_CAD_STAT_JUMP
      = if bound < now s - d - c then 1 else getF s F.CPM_CAD_STAT_JUMP := by
  rw [getF_resolveCount_back bound h, getF_setF_same, getF_setF_other _ _ (by decide)]
  rfl

-- ## A count frame that is taken (R40, R42, R43)

/-- A count frame taken while awake and with the reference: beside what LOCKED or ACQUIRING makes of it, `u`, it is
forwarded. -/
theorem countFrame_taken {link : Nat} {f : BitVec 128} {fr : Frame} {s u : State}
    (h : takeFrame s link 0 f = (some fr, s)) (ha : aonState s = 0) (hr : getF s F.CPM_CLK_STAT_REF_READY = 1)
    (hu : s.cad.st = .locked ∧ u = lockedFrame (noteLink s link fr.hop fr.pay (linkDelay s link)) link fr.hop fr.pay
        (linkDelay s link) (srcMissed s)
      ∨ s.cad.st = .acquiring
        ∧ u = acquireFrame (noteLink s link fr.hop fr.pay (linkDelay s link)) link fr.hop fr.pay (linkDelay s link)) :
    ∃ t, exec (.countFrame link f) s = .next t ∧ Noted u t := by
  have hnote : (noteLink s link fr.hop fr.pay (linkDelay s link)).cad.st = s.cad.st := rfl
  change ∃ t, execCountFrame link f s = _ ∧ _
  rw [execCountFrame, h]
  dsimp only
  rw [if_neg (by simp [ha, flagF, hr]), hnote]
  obtain ⟨hst, rfl⟩ | ⟨hst, rfl⟩ := hu <;> rw [hst] <;> exact ⟨_, rfl, forwardFrame_noted _ _ _⟩

-- ## A count frame while LOCKED (R43, R807)

theorem forcedAway_of_no_force {s : State} (h : flagF s F.CPM_CAD_CTL_FORCE_SRC = false) (k : Nat) :
    forcedAway s k = false := by simp [forcedAway, h]

/-- A differing frame of the source is resolved, JUMP from a slow advance of more than 2 ticks. -/
theorem lockedFrame_source {s : State} {link c d : Nat} (hop : Nat) (missed : Bool)
    (hforce : flagF s F.CPM_CAD_CTL_FORCE_SRC = false) (hsrc : link = s.cad.src) (hc : c ≠ now s - d) :
    lockedFrame s link hop c d missed = resolveCount (takeSource s link hop) c d 2 := by
  simp [lockedFrame, forcedAway_of_no_force hforce, hsrc, hc]

/-- A differing frame of another link is not used. -/
theorem lockedFrame_foreign {s : State} {link c d : Nat} (hop : Nat) (missed : Bool)
    (hforce : flagF s F.CPM_CAD_CTL_FORCE_SRC = false) (hsrc : link ≠ s.cad.src) (hc : c ≠ now s - d) :
    lockedFrame s link hop c d missed = s := by
  simp [lockedFrame, forcedAway_of_no_force hforce, hforce, hsrc, hc]

/-- Settles O34: the frame of the source steps the count or slows it, another link's changes neither. -/
theorem lockedCountFollowsItsSource : Obligations.LockedCountFollowsItsSource := by
  intro link f fr s htake ha hr hst hforce l hne
  obtain ⟨t, hexec, hnoted⟩ := countFrame_taken htake ha hr (.inl ⟨hst, rfl⟩)
  set u := noteLink s link fr.hop fr.pay (linkDelay s link)
  constructor
  · intro hsrc
    rw [lockedFrame_source (s := u) _ _ hforce hsrc hne] at hnoted
    set v := takeSource u link fr.hop
    obtain ⟨hlock, hlink⟩ := resolveCount_lock v fr.pay (linkDelay s link) 2
    refine ⟨t, hexec, ?_, ?_, ?_, fun hlt => ?_, fun hlt => ?_⟩
    · rw [hnoted.cad, hlock]
      exact hst
    · rw [hnoted.cad, hlink]
      rfl
    · rw [hnoted.1 _ (by decide), getF_resolveCount_jumpTicks]
      rfl
    · have hle : now v - linkDelay s link ≤ fr.pay := Nat.le_of_lt hlt
      rw [hnoted.cad, hnoted.1 _ (by decide), resolveCount_cad_forward 2 hle, getF_resolveCount_jump_forward 2 hle]
      exact ⟨rfl, rfl, rfl⟩
    · replace hlt : fr.pay < now v - linkDelay s link := hlt
      rw [hnoted.cad, hnoted.1 _ (by decide), resolveCount_cad_back 2 hlt, getF_resolveCount_jump_back 2 hlt]
      exact ⟨rfl, rfl, rfl⟩
  · intro hsrc
    rw [lockedFrame_foreign (s := u) _ _ hforce hsrc hne] at hnoted
    refine ⟨t, hexec, ?_⟩
    rw [hnoted.cad]
    exact ⟨hst, rfl, rfl, rfl⟩

-- ## A count frame while ACQUIRING (R42, R49)

/-- The lock takes the link as source and leaves the count. -/
theorem lockCad_cad (s : State) (link hop c : Nat) :
    (lockCad s link hop c).cad = { (takeSource s link hop).cad with
      st := .locked, loaded := none, holdEntry := 0, sleepPend := false } := by
  unfold lockCad
  extract_lets s0 c0 s1 n t c1 s2
  have hcad : s2.cad = { s0.cad with st := .locked, loaded := none, holdEntry := 0, sleepPend := false } := by
    simp only [s2]
    split
    · rfl
    · rename_i hpend
      have hno : s0.cad.sleepPend = false := Bool.eq_false_of_not_eq_true hpend
      rw [← hno]
  split
  · exact hcad
  · exact hcad

/-- The second frame, a count interval later and equal to the local count, locks. -/
theorem acquireFrame_locks {s : State} {link hop c d : Nat} (hsel : selectedLink s link = true)
    (hload : s.cad.loaded = some (c - 65536)) (hlate : 65536 ≤ c) (hc : c = now s - d)
    (href : (takeSource s link hop).cad.refOk = true) (hslow : s.cad.slow = 0) :
    acquireFrame s link hop c d = lockCad s link hop c := by
  have hequal : (c == now s - d) = true := beq_iff_eq.2 hc
  simp only [acquireFrame, hsel, hload, hlate, hequal, href, hslow, Bool.not_true, Bool.false_eq_true, if_false,
    beq_self_eq_true, decide_true, Bool.and_self, if_true]

/-- The state after the first frame of an attempt: the difference resolved, and the count loaded. -/
def restarted (s : State) (link hop c d : Nat) : State :=
  let s1 := resolveCount (takeSource s link hop) c d (holdErrBound s)
  { s1 with cad := { s1.cad with loaded := some c } }

/-- A frame with none before it, and one that differs from the local count, is the first of an attempt. -/
theorem acquireFrame_restarts {s : State} {link c d : Nat} (hop : Nat) (hsel : selectedLink s link = true)
    (h : s.cad.loaded = none ∨ c ≠ now s - d) : acquireFrame s link hop c d = restarted s link hop c d := by
  unfold acquireFrame
  rw [if_neg (by simp [hsel])]
  dsimp only
  rw [if_neg]
  · rfl
  · rcases h with h | h <;> simp [h]

/-- Settles O35: the second equal frame locks, any other is the first of an attempt. -/
theorem secondEqualFrameLocks : Obligations.SecondEqualFrameLocks := by
  intro link f fr s htake ha hr hst _ u l hsel
  obtain ⟨t, hexec, hnoted⟩ := countFrame_taken htake ha hr (.inr ⟨hst, rfl⟩)
  constructor
  · intro hload hlate hc href hslow
    have hlocks : acquireFrame u link fr.hop fr.pay (linkDelay s link) = lockCad u link fr.hop fr.pay :=
      acquireFrame_locks hsel hload hlate hc href hslow
    have hcad := hnoted.cad
    rw [hlocks, lockCad_cad] at hcad
    refine ⟨t, hexec, ?_⟩
    rw [hcad]
    exact ⟨rfl, rfl, rfl, rfl, rfl⟩
  · intro h
    have hrestarts : acquireFrame u link fr.hop fr.pay (linkDelay s link) = restarted u link fr.hop fr.pay (linkDelay s link) :=
      acquireFrame_restarts fr.hop hsel h
    rw [hrestarts] at hnoted
    obtain ⟨hlock, hlink⟩ := resolveCount_lock (takeSource u link fr.hop) fr.pay (linkDelay s link) (holdErrBound u)
    refine ⟨t, hexec, ?_, ?_, ?_, ?_⟩
    · rw [hnoted.cad]
      exact hlock.trans hst
    · rw [hnoted.cad]
      rfl
    · rw [hnoted.cad]
      exact hlink
    · rw [hnoted.1 _ (by decide)]
      exact getF_resolveCount_jumpTicks _ _ _ _

end Sys2Proof.Machine
end

section
/-! SUPPORT. Announced step changes: an announcement that is repeated, taken or rejected, and the step change at its effective
tick, one rule per case (R57, R58, R60, R684). Settles O37 and O38. -/

namespace Sys2Proof.Machine

-- ## The standby PLL and the switch (R684, R688)

/-- The register fields that a retune writes. -/
def retuneKeys : List Nat := [F.CPM_STEP_PEND_STEP.key, F.CPM_STEP_VREQ_CUR.key, F.CPM_STEP_VREQ_HI.key]

/-- A retune writes the standby's step, and the voltage requests that follow the steps. -/
theorem retuneTo_eq (s : State) (step : Nat) : ∃ cur hi, retuneTo s step
    = setF (setF (setF s F.CPM_STEP_PEND_STEP step) F.CPM_STEP_VREQ_CUR cur) F.CPM_STEP_VREQ_HI hi := by
  unfold retuneTo noteV
  exact ⟨_, _, rfl⟩

@[simp] theorem retuneTo_cad (s : State) (step : Nat) : (retuneTo s step).cad = s.cad := by
  obtain ⟨cur, hi, h⟩ := retuneTo_eq s step
  simp [h]

/-- A retune leaves every other field. -/
theorem getF_retuneTo_other (s : State) (step : Nat) {f : Fld} (hf : f.key ∉ retuneKeys) :
    getF (retuneTo s step) f = getF s f := by
  simp only [retuneKeys, List.mem_cons, List.not_mem_nil, or_false, not_or] at hf
  obtain ⟨hpend, hcur, hhi⟩ := hf
  obtain ⟨cur, hi, h⟩ := retuneTo_eq s step
  rw [h, getF_setF_other _ _ hhi, getF_setF_other _ _ hcur, getF_setF_other _ _ hpend]

theorem getF_retuneTo_pendStep (s : State) (step : Nat) : getF (retuneTo s step) F.CPM_STEP_PEND_STEP = step % 16 := by
  obtain ⟨cur, hi, h⟩ := retuneTo_eq s step
  rw [h, getF_setF_other _ _ (by decide), getF_setF_other _ _ (by decide), getF_setF_same]
  rfl

/-- A switch of the clock ends the change that was due, a trip's divider and the faults of a late switch. -/
def switchOver (s : State) : State :=
  faultEnd { s with clk := { s.clk with sw := none, div := 1, retune := false }, est := { s.est with taint := true } } 2

theorem switchOver_cad (s : State) : (switchOver s).cad = s.cad := rfl

theorem getF_switchOver (s : State) (f : Fld) : getF (switchOver s) f = getF s f := rfl

/-- The clock takes `step` and the PLLs exchange roles; the standby is not retuned yet. -/
def newStep (s : State) (step : Nat) : State :=
  setF (setF (setF s F.CPM_STEP_CUR_STEP step) F.CPM_CLK_STAT_ACT_PLL (1 - getF s F.CPM_CLK_STAT_ACT_PLL))
    F.CPM_PWR_MODE_BOOST_ACT (b2n (step == 8))

theorem newStep_cad (s : State) (step : Nat) : (newStep s step).cad = s.cad := rfl

theorem curStep_newStep (s : State) (step : Nat) : curStep (newStep s step) = step % 16 := by
  rw [curStep, newStep, getF_setF_other _ _ (by decide), getF_setF_other _ _ (by decide), getF_setF_same]
  rfl

/-- The state after a switch of the clock, without its trace record. -/
def switched (s : State) (step : Nat) : State := switchOver (retuneTo (newStep s step) (curStep s))

theorem doSwitch_noted (s : State) (step cause : Nat) : Noted (switched s step) (doSwitch s step cause) :=
  .ite (trcPush_noted _ _) (.refl _)

theorem switched_cad (s : State) (step : Nat) : (switched s step).cad = s.cad := by
  rw [switched, switchOver_cad, retuneTo_cad, newStep_cad]

theorem curStep_switched (s : State) (step : Nat) : curStep (switched s step) = step % 16 := by
  rw [curStep, switched, getF_switchOver, getF_retuneTo_other _ _ (by decide)]
  exact curStep_newStep s step

theorem doSwitch_cad (s : State) (step cause : Nat) : (doSwitch s step cause).cad = s.cad :=
  (doSwitch_noted s step cause).cad.trans (switched_cad s step)

theorem curStep_doSwitch (s : State) (step cause : Nat) : curStep (doSwitch s step cause) = step % 16 :=
  ((doSwitch_noted s step cause).1 _ (by decide)).trans (curStep_switched s step)

/-- The PLLs exchange their roles: the standby holds the step before the switch. -/
theorem pendStep_doSwitch (s : State) (step cause : Nat) :
    getF (doSwitch s step cause) F.CPM_STEP_PEND_STEP = curStep s % 16 := by
  rw [(doSwitch_noted s step cause).1 _ (by decide), switched, getF_switchOver, getF_retuneTo_pendStep]

theorem stepDue_cad (s : State) (step cause tick : Nat) (cal : Bool) : (stepDue s step cause tick cal).cad = s.cad := by
  unfold stepDue
  split <;> rfl

theorem stepDue_sw (s : State) (step cause tick : Nat) (cal : Bool) :
    (stepDue s step cause tick cal).clk.sw = some ⟨step, cause, tick, cal, false⟩ := by
  unfold stepDue
  split <;> rfl

theorem curStep_stepDue (s : State) (step cause tick : Nat) (cal : Bool) :
    curStep (stepDue s step cause tick cal) = curStep s := by
  unfold stepDue
  split <;> rfl

-- ## The effective tick (R60, R684)

/-- The announcement stops being pending. -/
def annOver (s : State) : State := { s with cad := { s.cad with ann := none } }

theorem execEffectiveTick_early {s : State} {a : Ann} (ha : s.cad.ann = some a) (h : now s < a.tick) :
    execEffectiveTick s = .next s := by
  simp [execEffectiveTick, ha, h]

/-- At the effective tick the target step decides: no change, a switch down at once, or a switch up that is due. -/
theorem execEffectiveTick_due {s : State} {a : Ann} (ha : s.cad.ann = some a) (hsw : s.clk.sw = none) (h : a.tick ≤ now s) :
    execEffectiveTick s = .next (
      if targetStep s a.step = curStep s then annOver s
      else if targetStep s a.step < curStep s then
        doSwitch { annOver s with swBucket := fineOf a.tick, swLow := targetStep s a.step } (targetStep s a.step) 0
      else stepDue (annOver s) (targetStep s a.step) 0 a.tick true) := by
  unfold execEffectiveTick
  simp only [ha, hsw, Nat.not_lt.2 h, if_false]
  split
  · rfl
  · split <;> rfl

/-- Settles O38: the target step is the present one, below it or above it. -/
theorem effectiveTickBeginsTheChange : Obligations.EffectiveTickBeginsTheChange := by
  intro a s ha _ hsw st
  refine ⟨execEffectiveTick_early ha, fun hdue => ⟨_, execEffectiveTick_due ha hsw hdue, ?_⟩⟩
  obtain heq | hdown | hup : st = curStep s ∨ st < curStep s ∨ curStep s < st := by omega
  · rw [if_pos heq]
    exact ⟨rfl, rfl, fun _ => rfl, fun h => absurd heq (Nat.ne_of_lt h), fun h => absurd heq (Nat.ne_of_gt h)⟩
  · rw [if_neg (Nat.ne_of_lt hdown), if_pos hdown]
    have hwide : st < 16 := Nat.lt_trans hdown (getF_lt s F.CPM_STEP_CUR_STEP)
    refine ⟨?_, ?_, fun h => absurd h (Nat.ne_of_lt hdown), fun _ => ⟨?_, pendStep_doSwitch _ _ _⟩,
      fun h => absurd h (Nat.lt_asymm hdown)⟩
    · rw [doSwitch_cad]
      rfl
    · rw [doSwitch_cad]
      rfl
    · rw [curStep_doSwitch]
      exact Nat.mod_eq_of_lt hwide
  · rw [if_neg (Nat.ne_of_gt hup), if_neg (Nat.lt_asymm hup)]
    refine ⟨?_, ?_, fun h => absurd h (Nat.ne_of_gt hup), fun h => absurd h (Nat.lt_asymm hup),
      fun _ => ⟨curStep_stepDue _ _ _ _ _, stepDue_sw _ _ _ _ _⟩⟩
    · rw [stepDue_cad]
      rfl
    · rw [stepDue_cad]
      rfl

-- ## Announcements (R57, R58)

/-- What R57 asks of an announcement. -/
theorem annBad_eq_false_iff (s : State) (a : Ann) (mark : Nat) : annBad s a mark = false ↔
    a.step ≤ 7 ∧ a.tick % 65536 = 0 ∧ mark + 65536 ≤ a.tick ∧ a.tick ≤ mark + 67108864 ∧ s.cad.st = .locked := by
  simp [annBad, and_assoc]

theorem rejectAnn_cad (s : State) : (rejectAnn s).cad = s.cad := rfl

theorem getF_rejectAnn (s : State) : getF (rejectAnn s) F.CPM_CAD_STAT_ANN_REJ = 1 := getF_setF_same _ _ _

theorem acceptAnn_cad (s : State) (a : Ann) : (acceptAnn s a).cad = { s.cad with ann := some a } := by
  unfold acceptAnn
  dsimp only
  split <;> rfl

/-- Beside the retune, an accepted announcement writes its effective tick. -/
theorem getF_acceptAnn (s : State) (a : Ann) {f : Fld} (h : f.key ∉ retuneKeys) : getF (acceptAnn s a) f
    = getF (setF (setF s F.CPM_ANN_TICK_LO_VAL a.tick) F.CPM_ANN_TICK_HI_VAL (a.tick / 2 ^ 32)) f := by
  unfold acceptAnn
  dsimp only
  split
  · rfl
  · exact getF_retuneTo_other _ _ h

theorem annTickLo_acceptAnn (s : State) (a : Ann) : getF (acceptAnn s a) F.CPM_ANN_TICK_LO_VAL = a.tick % 2 ^ 32 := by
  rw [getF_acceptAnn s a (by decide), getF_setF_other _ _ (by decide), getF_setF_same]
  rfl

theorem annTickHi_acceptAnn (s : State) (a : Ann) :
    getF (acceptAnn s a) F.CPM_ANN_TICK_HI_VAL = a.tick / 2 ^ 32 % 2 ^ 32 := by
  rw [getF_acceptAnn s a (by decide), getF_setF_same]
  rfl

theorem takeAnn_repeat {s : State} {a : Ann} (mark : Nat) (h : s.cad.ann = some a) : takeAnn s a mark = s := by
  simp [takeAnn, h]

theorem takeAnn_accepts {s : State} {a : Ann} {mark : Nat} (hv : annBad s a mark = false)
    (h : s.cad.ann = none ∨ ∃ p, s.cad.ann = some p ∧ a.tick = p.tick ∧ a.step < p.step) :
    takeAnn s a mark = acceptAnn s a := by
  rcases h with hnone | ⟨p, hp, htick, hstep⟩
  · simp [takeAnn, hnone, hv]
  · have hne : p ≠ a := fun e => Nat.ne_of_gt hstep (congrArg Ann.step e)
    simp [takeAnn, hp, hne, hv, htick, hstep]

theorem takeAnn_rejects {s : State} {a : Ann} {mark : Nat} (hne : s.cad.ann ≠ some a)
    (h : annBad s a mark = true ∨ ∃ p, s.cad.ann = some p ∧ (a.tick ≠ p.tick ∨ p.step ≤ a.step)) :
    takeAnn s a mark = rejectAnn s := by
  cases hann : s.cad.ann with
  | none =>
    have hbad : annBad s a mark = true := by simpa [hann] using h
    simp [takeAnn, hann, hbad]
  | some p =>
    have hpa : p ≠ a := fun e => hne (hann.trans (congrArg some e))
    have hor : annBad s a mark = true ∨ (a.tick ≠ p.tick ∨ p.step ≤ a.step) := by simpa [hann] using h
    have hno : annBad s a mark = true ∨ ¬ (a.tick = p.tick ∧ a.step < p.step) := hor.imp_right (fun h => by omega)
    rcases hno with hbad | hno
    · simp [takeAnn, hann, hpa, hbad]
    · simp only [takeAnn, hann, beq_eq_false_iff_ne.2 hpa, Bool.false_eq_true, if_false, Bool.and_eq_true, decide_eq_true_eq,
        if_neg hno, ite_self]

/-- An announcement is ignored, accepted or rejected. -/
theorem takeAnn_cases (s : State) (a : Ann) (mark : Nat) :
    takeAnn s a mark = s ∨ takeAnn s a mark = acceptAnn s a ∨ takeAnn s a mark = rejectAnn s := by
  unfold takeAnn
  repeat' split
  all_goals simp

/-- Handling an announcement leaves the count. -/
theorem takeAnn_count (s : State) (a : Ann) (mark : Nat) : (takeAnn s a mark).cad.count = s.cad.count := by
  obtain h | h | h := takeAnn_cases s a mark <;> rw [h]
  · rw [acceptAnn_cad]
  · rw [rejectAnn_cad]

/-- An announcement frame taken while awake: beside its handling it is forwarded. -/
theorem announcementFrame_taken {link : Nat} {f : BitVec 128} {fr : Frame} {s : State}
    (h : takeFrame s link 1 f = (some fr, s)) (ha : aonState s = 0) :
    ∃ t, exec (.announcementFrame link f) s = .next t
      ∧ Noted (takeAnn s ⟨bits fr.pay 0 4, bits fr.pay 8 8, absTick (now s - linkDelay s link) (bits fr.pay 32 32)⟩
          (now s - linkDelay s link)) t := by
  refine ⟨?t, ?exec, ?noted⟩
  case exec =>
    change execAnnouncementFrame link f s = _
    rw [execAnnouncementFrame, h]
    dsimp only
    rw [if_neg (by simp [ha])]
  case noted => exact forwardFrame_noted _ _ _

/-- Settles O37: an announcement is repeated, accepted or rejected. -/
theorem announcementsAreTakenOrRejected : Obligations.AnnouncementsAreTakenOrRejected := by
  intro link f fr s htake ha mark a valid
  have hvalid : annBad s a mark = false ↔ valid := annBad_eq_false_iff s a mark
  obtain ⟨t, hexec, hnoted⟩ := announcementFrame_taken htake ha
  replace hnoted : Noted (takeAnn s a mark) t := hnoted
  refine ⟨t, hexec, ?_, fun hsame => ?_, fun hv hfits => ?_, fun hne hno => ?_⟩
  · rw [hnoted.cad, takeAnn_count]
  · rw [takeAnn_repeat mark hsame] at hnoted
    exact ⟨(congrArg Cadence.ann hnoted.cad).trans hsame, hnoted.1 _ (by decide)⟩
  · rw [takeAnn_accepts (hvalid.2 hv) hfits] at hnoted
    refine ⟨?_, ?_, ?_⟩
    · rw [hnoted.cad, acceptAnn_cad]
    · rw [hnoted.1 _ (by decide), annTickLo_acceptAnn]
    · rw [hnoted.1 _ (by decide), annTickHi_acceptAnn]
  · have hbad : annBad s a mark = true ∨ ∃ p, s.cad.ann = some p ∧ (a.tick ≠ p.tick ∨ p.step ≤ a.step) :=
      hno.imp_left (fun h => by simpa [← hvalid] using h)
    rw [takeAnn_rejects hne hbad] at hnoted
    exact ⟨congrArg Cadence.ann (hnoted.cad.trans (rejectAnn_cad s)), (hnoted.1 _ (by decide)).trans (getF_rejectAnn s)⟩

end Sys2Proof.Machine
end

section
/-! SUPPORT. The frames that R38 discards, and the register fields that the other frames can change. Settles O33. -/

namespace Sys2Proof.Machine

-- ## Discarded frames (R37, R38, R53, R699)

/-- The cases of R38: SYNC, CRC, a reserved TYPE, a reserved field of the frame, a count that is no multiple of 65,536, and
the reserved fields of an announcement (R53) and of a wake pattern (R699). -/
def badFrame (x : Nat) : Prop :=
  bits x 0 8 ≠ 0x5A ∨ crc16 112 (x % 2 ^ 112) ≠ bits x 112 16 ∨ 2 < bits x 8 4 ∨ bits x 18 6 ≠ 0 ∨ bits x 96 16 ≠ 0
  ∨ (bits x 8 4 = 0 ∧ bits x 32 16 ≠ 0) ∨ (bits x 8 4 = 1 ∧ (bits x 36 4 ≠ 0 ∨ bits x 48 16 ≠ 0))
  ∨ (bits x 8 4 = 2 ∧ (bits x 47 1 ≠ 0 ∨ bits x 52 44 ≠ 0 ∨ 7 < bits x 48 4))

/-- The fields of a frame (R37). -/
def frameRead (x : Nat) : Frame := ⟨bits x 8 4, bits x 12 6, bits x 24 8, bits x 32 64⟩

/-- The payload of a defined type is bad by the reserved fields of that type. -/
theorem badPayload_iff {ty : Nat} (x : Nat) (h : ty ≤ 2) : badPayload ty x = true ↔
    (ty = 0 ∧ bits x 32 16 ≠ 0) ∨ (ty = 1 ∧ (bits x 36 4 ≠ 0 ∨ bits x 48 16 ≠ 0))
    ∨ (ty = 2 ∧ (bits x 47 1 ≠ 0 ∨ bits x 52 44 ≠ 0 ∨ 7 < bits x 48 4)) := by
  obtain rfl | rfl | rfl : ty = 0 ∨ ty = 1 ∨ ty = 2 := by omega
  all_goals simp [badPayload, or_assoc]

theorem parseFrame_of_bad {x : Nat} (h : badFrame x) : parseFrame x = none := by
  unfold badFrame at h
  unfold parseFrame
  dsimp only
  refine if_pos ?_
  simp only [Bool.or_eq_true, bne_iff_ne, decide_eq_true_eq, or_assoc]
  by_cases hty : bits x 8 4 ≤ 2
  · rwa [badPayload_iff x hty]
  · exact .inr (.inr (.inl (Nat.lt_of_not_le hty)))

theorem parseFrame_of_good {x : Nat} (h : ¬ badFrame x) : parseFrame x = some (frameRead x) := by
  unfold badFrame at h
  have hty : bits x 8 4 ≤ 2 := Nat.le_of_not_lt (fun hlt => h (.inr (.inr (.inl hlt))))
  unfold parseFrame
  dsimp only
  refine if_neg ?_
  simp only [Bool.or_eq_true, bne_iff_ne, decide_eq_true_eq, or_assoc]
  rwa [badPayload_iff x hty]

/-- The count of a discarded frame (R38, R66). -/
def errCounted (s : State) : State := incF (setF s F.CPM_CAD_STAT_FRAME_ERR 1) F.CPM_CAD_ERR_FRAME_ERR_CNT 1

theorem takeFrame_of_bad {s : State} {link : Nat} (ty : Nat) {f : BitVec 128} (hen : linkEn s link = true)
    (ha : aonState s ≠ 3) (h : badFrame f.toNat) : takeFrame s link ty f = (none, errCounted s) := by
  rw [takeFrame, if_neg (by simp [hen, ha]), parseFrame_of_bad h]
  rfl

theorem takeFrame_of_good {s : State} {link : Nat} (ty : Nat) {f : BitVec 128} (hen : linkEn s link = true)
    (ha : aonState s ≠ 3) (h : ¬ badFrame f.toNat) :
    takeFrame s link ty f = (if bits f.toNat 8 4 = ty then some (frameRead f.toNat) else none, s) := by
  rw [takeFrame, if_neg (by simp [hen, ha]), parseFrame_of_good h]
  rfl

theorem takeFrame_of_type {s : State} {link ty : Nat} {f : BitVec 128} (hen : linkEn s link = true)
    (ha : aonState s ≠ 3) (h : ¬ badFrame f.toNat) (hty : bits f.toNat 8 4 = ty) :
    takeFrame s link ty f = (some (frameRead f.toNat), s) := by rw [takeFrame_of_good ty hen ha h, if_pos hty]

theorem takeFrame_of_other_type {s : State} {link ty : Nat} {f : BitVec 128} (hen : linkEn s link = true)
    (ha : aonState s ≠ 3) (h : ¬ badFrame f.toNat) (hty : bits f.toNat 8 4 ≠ ty) :
    takeFrame s link ty f = (none, s) := by rw [takeFrame_of_good ty hen ha h, if_neg hty]

/-- A count frame that is not taken leaves what `takeFrame` left, and so do the frames of the two other rows. -/
theorem countFrame_not_taken {link : Nat} {f : BitVec 128} {s t : State} (h : takeFrame s link 0 f = (none, t)) :
    exec (.countFrame link f) s = .next t := by
  change execCountFrame link f s = _
  rw [execCountFrame, h]

theorem announcementFrame_not_taken {link : Nat} {f : BitVec 128} {s t : State} (h : takeFrame s link 1 f = (none, t)) :
    exec (.announcementFrame link f) s = .next t := by
  change execAnnouncementFrame link f s = _
  rw [execAnnouncementFrame, h]

theorem wakePattern_not_taken {link : Nat} {f : BitVec 128} {s t : State} (h : takeFrame s link 2 f = (none, t)) :
    exec (.wakePattern link f) s = .next t := by
  change execWakePattern link f s = _
  rw [execWakePattern, h]

-- ## What a valid frame can change

/-- The register fields that a valid timing-lane frame can change, beside those of a noted event and of a retune: by a count
that is resolved (R49), by the lock (R61, R668), by an announcement (R57, R58), and by a wake (R695, R698, R701). -/
def frameKeys : List Nat := noteKeys ++ retuneKeys ++
  [F.CPM_JUMP_TICKS_VAL.key, F.CPM_CAD_STAT_JUMP.key, F.CPM_SLEEP_TICKS_LO_VAL.key, F.CPM_SLEEP_TICKS_HI_VAL.key,
   F.MSH_BOOT_STAGE.key, F.REG_CTL_OPEN.key, F.CPM_CAD_STAT_ANN_REJ.key, F.CPM_ANN_TICK_LO_VAL.key, F.CPM_ANN_TICK_HI_VAL.key,
   F.CPM_AON_LAST_SOURCE.key, F.CPM_AON_LAST_LANE.key, F.CPM_AON_LAST_LINK.key, F.CPM_AON_LAST_RAILS_OFF.key,
   F.CPM_AON_LAST_RET_LOST.key, F.CPM_AON_CNT_WAKES.key, F.GLB_RST_CAUSE_IGNORED.key, F.CPM_AON_STAT_AON_STATE.key,
   F.CPM_STEP_CUR_STEP.key]

/-- Every other register field reads in `t` as in `s`. -/
def Framed (s t : State) : Prop := ∀ f : Fld, f.key ∉ frameKeys → getF t f = getF s f

theorem Framed.refl (s : State) : Framed s s := fun _ _ => rfl

theorem Framed.trans {s t u : State} (h : Framed s t) (g : Framed t u) : Framed s u := fun f k => (g f k).trans (h f k)

theorem Framed.ite {s a b : State} {c : Prop} [Decidable c] (h : Framed s a) (g : Framed s b) :
    Framed s (if c then a else b) := by split <;> assumption

/-- An update of no register field. -/
theorem Framed.of_regs {s t : State} (h : t.regs = s.regs) : Framed s t := fun f _ => by unfold getF; rw [h]

theorem Framed.of_noted {s t : State} (h : Noted s t) : Framed s t :=
  fun f k => h.1 f (fun hk => k (List.mem_append_left _ (List.mem_append_left _ hk)))

theorem setF_framed (s : State) (f : Fld) (v : Nat) (h : f.key ∈ frameKeys) : Framed s (setF s f v) :=
  fun _ hg => getF_setF_other s v (fun e => hg (e ▸ h))

theorem incF_framed (s : State) (f : Fld) (n : Nat) (h : f.key ∈ frameKeys) : Framed s (incF s f n) := setF_framed _ _ _ h

theorem retuneTo_framed (s : State) (step : Nat) : Framed s (retuneTo s step) :=
  fun _ k => getF_retuneTo_other s step (fun hk => k (List.mem_append_left _ (List.mem_append_right _ hk)))

-- ## Count frames

theorem noteLink_framed (s : State) (k hop c d : Nat) : Framed s (noteLink s k hop c d) := .of_regs rfl

theorem takeSource_framed (s : State) (k hop : Nat) : Framed s (takeSource s k hop) := .of_regs rfl

theorem takeEqual_framed (s : State) (k hop : Nat) : Framed s (takeEqual s k hop) := .of_regs rfl

theorem resolveCount_framed (s : State) (c d bound : Nat) : Framed s (resolveCount s c d bound) := by
  have hticks := setF_framed s F.CPM_JUMP_TICKS_VAL (jumpWord c (now s - d)) (by decide)
  intro f hf
  rcases Nat.lt_or_ge c (now s - d) with h | h
  · rw [getF_resolveCount_back bound h, setF_framed _ F.CPM_CAD_STAT_JUMP 1 (by decide) f hf, ite_self]
    exact hticks f hf
  · rw [getF_resolveCount_forward bound h (fun hk => hf (List.mem_append_left _ (List.mem_append_left _ hk)))]
    exact hticks f hf

theorem lockCad_framed (s : State) (link hop c : Nat) : Framed s (lockCad s link hop c) := by
  unfold lockCad
  extract_lets s0 c0 s1 n t c1 s2 s3
  have h1 : Framed s s1 := .of_regs rfl
  have ht : Framed s t := h1.trans ((setF_framed _ F.CPM_SLEEP_TICKS_LO_VAL _ (by decide)).trans
    (setF_framed _ F.CPM_SLEEP_TICKS_HI_VAL _ (by decide)))
  have h2 : Framed s s2 := .ite (ht.trans (.of_regs rfl)) h1
  have h3 : Framed s s3 := h2.trans ((setF_framed _ F.MSH_BOOT_STAGE _ (by decide)).trans
    (setF_framed _ F.REG_CTL_OPEN _ (by decide)))
  exact .ite (h3.trans (.of_regs rfl)) h2

theorem acquireFrame_framed (s : State) (link hop c d : Nat) : Framed s (acquireFrame s link hop c d) :=
  .ite (.refl s) (.ite (lockCad_framed _ _ _ _)
    ((takeSource_framed s link hop).trans ((resolveCount_framed _ _ _ _).trans (.of_regs rfl))))

theorem lockedFrame_framed (s : State) (link hop c d : Nat) (missed : Bool) :
    Framed s (lockedFrame s link hop c d missed) :=
  .ite (.refl s) (.ite
    (.ite (takeEqual_framed _ _ _) ((takeSource_framed s link hop).trans (resolveCount_framed _ _ _ _)))
    (.ite (takeEqual_framed _ _ _) (.refl s)))

theorem countFrame_framed {link : Nat} {f : BitVec 128} {fr : Frame} {s : State}
    (h : takeFrame s link 0 f = (some fr, s)) : ∃ t, exec (.countFrame link f) s = .next t ∧ Framed s t := by
  change ∃ t, execCountFrame link f s = _ ∧ _
  rw [execCountFrame, h]
  dsimp only
  split
  · exact ⟨s, rfl, .refl s⟩
  · refine ⟨_, rfl, .trans ?_ (.of_noted (forwardFrame_noted _ _ _))⟩
    refine (noteLink_framed s link fr.hop fr.pay (linkDelay s link)).trans ?_
    split
    · exact .ite (.trans (.of_regs rfl) (acquireFrame_framed _ _ _ _ _)) (.refl _)
    · exact acquireFrame_framed _ _ _ _ _
    · exact acquireFrame_framed _ _ _ _ _
    · exact lockedFrame_framed _ _ _ _ _ _

-- ## Announcements

theorem rejectAnn_framed (s : State) : Framed s (rejectAnn s) := setF_framed _ _ _ (by decide)

theorem acceptAnn_framed (s : State) (a : Ann) : Framed s (acceptAnn s a) := by
  unfold acceptAnn
  extract_lets c s1
  have h1 : Framed s s1 := .trans (.of_regs rfl) ((setF_framed _ F.CPM_ANN_TICK_LO_VAL _ (by decide)).trans
    (setF_framed _ F.CPM_ANN_TICK_HI_VAL _ (by decide)))
  exact .ite h1 (h1.trans (retuneTo_framed _ _))

theorem takeAnn_framed (s : State) (a : Ann) (mark : Nat) : Framed s (takeAnn s a mark) := by
  obtain h | h | h := takeAnn_cases s a mark <;> rw [h]
  · exact .refl s
  · exact acceptAnn_framed s a
  · exact rejectAnn_framed s

theorem announcementFrame_framed {link : Nat} {f : BitVec 128} {fr : Frame} {s : State}
    (h : takeFrame s link 1 f = (some fr, s)) : ∃ t, exec (.announcementFrame link f) s = .next t ∧ Framed s t := by
  change ∃ t, execAnnouncementFrame link f s = _ ∧ _
  rw [execAnnouncementFrame, h]
  dsimp only
  split
  · exact ⟨s, rfl, .refl s⟩
  · exact ⟨_, rfl, (takeAnn_framed _ _ _).trans (.of_noted (forwardFrame_noted _ _ _))⟩

-- ## Wake patterns

theorem triggerCold_framed (s : State) (cause : Nat) : Framed s (triggerCold s cause) :=
  .ite (incF_framed _ _ _ (by decide)) (.of_regs rfl)

theorem startWake_framed (s : State) (w : WakeReq) : Framed s (startWake s w) :=
  .trans (.of_regs rfl) ((setF_framed _ F.CPM_STEP_CUR_STEP _ (by decide)).trans (retuneTo_framed _ _))

theorem wakeTo_framed (s : State) (w : WakeReq) : Framed s (wakeTo s w) := by
  unfold wakeTo
  extract_lets lost s1 s2 c s3
  have h1 : Framed s s1 := (setF_framed s F.CPM_AON_LAST_SOURCE _ (by decide)).trans
    ((setF_framed _ F.CPM_AON_LAST_LANE _ (by decide)).trans (setF_framed _ F.CPM_AON_LAST_LINK _ (by decide)))
  have h2 : Framed s s2 := h1.trans ((setF_framed _ F.CPM_AON_LAST_RAILS_OFF _ (by decide)).trans
    ((setF_framed _ F.CPM_AON_LAST_RET_LOST _ (by decide)).trans (incF_framed _ F.CPM_AON_CNT_WAKES _ (by decide))))
  have h3 : Framed s s3 := h2.trans (.trans (.of_regs rfl) (setF_framed _ F.CPM_AON_STAT_AON_STATE _ (by decide)))
  exact .ite (h2.trans (triggerCold_framed _ _)) (.ite (h3.trans (startWake_framed _ _)) h3)

/-- The state after a wake pattern is forwarded, unless it was already or has come too far (R700). -/
def wakeForwarded (s : State) (link : Nat) (f : Frame) : State :=
  if s.clk.wakeSeq == some f.seq || decide (63 ≤ f.hop) then s
  else sendFrames { s with clk := { s.clk with wakeSeq := some f.seq } } link { f with hop := f.hop + 1 }

theorem wakeForwarded_framed (s : State) (link : Nat) (f : Frame) : Framed s (wakeForwarded s link f) :=
  have hseq : Framed s { s with clk := { s.clk with wakeSeq := some f.seq } } := .of_regs rfl
  .ite (.refl s) (hseq.trans (.of_noted (sendFrames_noted _ _ _)))

/-- A wake pattern that is taken is forwarded, and wakes the block where it names it. -/
theorem wakePattern_taken {link : Nat} {f : BitVec 128} {fr : Frame} {s : State}
    (h : takeFrame s link 2 f = (some fr, s)) :
    exec (.wakePattern link f) s = .next (
      if namesMe (wakeForwarded s link fr) fr.pay && aonState (wakeForwarded s link fr) == 1 then
        wakeTo (wakeForwarded s link fr) ⟨0, 0, link, bits fr.pay 16 4⟩
      else wakeForwarded s link fr) := by
  change execWakePattern link f s = _
  rw [execWakePattern, h]
  exact (apply_ite _ _ _ _).symm

theorem wakePattern_framed {link : Nat} {f : BitVec 128} {fr : Frame} {s : State}
    (h : takeFrame s link 2 f = (some fr, s)) : ∃ t, exec (.wakePattern link f) s = .next t ∧ Framed s t :=
  have hforward := wakeForwarded_framed s link fr
  ⟨_, wakePattern_taken h, .ite (hforward.trans (wakeTo_framed _ _)) hforward⟩

/-- A command that changes only such fields leaves the count of discarded frames. -/
theorem frameErrCnt_of_framed {c : Instr} {s : State} (h : ∃ t, exec c s = .next t ∧ Framed s t) :
    ∃ t, exec c s = .next t ∧ getF t F.CPM_CAD_ERR_FRAME_ERR_CNT = getF s F.CPM_CAD_ERR_FRAME_ERR_CNT := by
  obtain ⟨t, hexec, hframed⟩ := h
  exact ⟨t, hexec, hframed _ (by decide)⟩

/-- Settles O33: R38 decides between the count of a discarded frame and a frame that its row takes or leaves. -/
theorem badFramesAreDiscardedAndCounted : Obligations.BadFramesAreDiscardedAndCounted := by
  intro link f s hen ha x ty bad counted
  refine ⟨fun hbad => ⟨?_, ?_, ?_⟩, fun hgood => ⟨fun hty => ?_, fun hty => ?_, fun hty => ?_, fun hty => ?_, fun hty => ?_,
    fun hty => ?_⟩⟩
  · exact countFrame_not_taken (takeFrame_of_bad 0 hen ha hbad)
  · exact announcementFrame_not_taken (takeFrame_of_bad 1 hen ha hbad)
  · exact wakePattern_not_taken (takeFrame_of_bad 2 hen ha hbad)
  · exact countFrame_not_taken (takeFrame_of_other_type hen ha hgood hty)
  · exact announcementFrame_not_taken (takeFrame_of_other_type hen ha hgood hty)
  · exact wakePattern_not_taken (takeFrame_of_other_type hen ha hgood hty)
  · exact frameErrCnt_of_framed (countFrame_framed (takeFrame_of_type hen ha hgood hty))
  · exact frameErrCnt_of_framed (announcementFrame_framed (takeFrame_of_type hen ha hgood hty))
  · exact frameErrCnt_of_framed (wakePattern_framed (takeFrame_of_type hen ha hgood hty))

end Sys2Proof.Machine
end

section
/-! SUPPORT. The granule hash (R71, R73): how a granule's row, its place in the row and its bank determine one another.
Settles O9, O10 and O11. -/

namespace Sys2Proof.Machine

-- ## Track and bank in track (R71)

theorem trackOf_eq_xor (g : Nat) : trackOf g = bits g 5 4 ^^^ bits g 9 4 ^^^ bits g 13 4 ^^^ bits g 17 3 :=
  (Nat.xor_assoc _ _ _).symm

theorem binOf_eq_xor (g : Nat) : binOf g = bits g 0 5 ^^^ bits g 9 5 ^^^ bits g 14 5 ^^^ bits g 19 1 :=
  (Nat.xor_assoc _ _ _).symm

theorem toNat_extractLsb'_eq_bits {n : Nat} (g : BitVec n) (lo w : Nat) :
    (g.extractLsb' lo w).toNat = bits g.toNat lo w := by
  rw [BitVec.extractLsb'_toNat, Nat.shiftRight_eq_div_pow, bits]

/-- Settles O9: the model's bit fields are those of the bit vector. -/
theorem granuleHashIsTheSpecs : Obligations.GranuleHashIsTheSpecs := by
  intro g
  refine ⟨?_, ?_, rfl, (toNat_extractLsb'_eq_bits g 9 11).symm⟩
  · simp only [trackOf_eq_xor, BitVec.toNat_xor, BitVec.toNat_setWidth_of_le (show 3 ≤ 4 by decide),
      toNat_extractLsb'_eq_bits]
  · simp only [binOf_eq_xor, BitVec.toNat_xor, BitVec.toNat_setWidth_of_le (show 1 ≤ 5 by decide),
      toNat_extractLsb'_eq_bits]

theorem bits_lt (x lo w : Nat) : bits x lo w < 2 ^ w := Nat.mod_lt _ (Nat.two_pow_pos w)

theorem trackOf_lt (g : Nat) : trackOf g < 16 := by
  have h3 : bits g 17 3 < 2 ^ 4 := Nat.lt_trans (bits_lt g 17 3) (by decide)
  rw [trackOf_eq_xor]
  exact Nat.xor_lt_two_pow (Nat.xor_lt_two_pow (Nat.xor_lt_two_pow (bits_lt ..) (bits_lt ..)) (bits_lt ..)) h3

theorem binOf_lt (g : Nat) : binOf g < 32 := by
  have h1 : bits g 19 1 < 2 ^ 5 := Nat.lt_trans (bits_lt g 19 1) (by decide)
  rw [binOf_eq_xor]
  exact Nat.xor_lt_two_pow (Nat.xor_lt_two_pow (Nat.xor_lt_two_pow (bits_lt ..) (bits_lt ..)) (bits_lt ..)) h1

@[simp] theorem bankOf_div (g : Nat) : bankOf g / 32 = trackOf g := by
  have := binOf_lt g
  unfold bankOf
  omega

@[simp] theorem bankOf_mod (g : Nat) : bankOf g % 32 = binOf g := by
  have := binOf_lt g
  unfold bankOf
  omega

theorem bankOf_lt (g : Nat) : bankOf g < 512 := by
  have := trackOf_lt g
  have := binOf_lt g
  unfold bankOf
  omega

theorem rowOf_eq_div {g : Nat} (h : g < 2 ^ 20) : rowOf g = g / 512 := by
  simp only [rowOf, bits]
  omega

-- ## A row shifts the tracks and banks of its granules by one pattern (R73)

/-- The first granule of a row has the row's bits and no other. -/
theorem bits_rowStart (g : Nat) {lo : Nat} (w : Nat) (h : 9 ≤ lo) : bits (g / 512 * 512) lo w = bits g lo w := by
  obtain ⟨j, rfl⟩ := Nat.exists_eq_add_of_le h
  simp [bits, Nat.pow_add, ← Nat.div_div_eq_div_mul]

theorem trackOf_eq_xor_rowStart (g : Nat) : trackOf g = g / 32 % 16 ^^^ trackOf (g / 512 * 512) := by
  have hlow : bits (g / 512 * 512) 5 4 = 0 := by
    simp only [bits]
    omega
  simp only [trackOf_eq_xor, hlow, bits_rowStart, Nat.reduceLeDiff, Nat.zero_xor, Nat.xor_assoc]
  rfl

theorem binOf_eq_xor_rowStart (g : Nat) : binOf g = g % 32 ^^^ binOf (g / 512 * 512) := by
  have hlow : bits (g / 512 * 512) 0 5 = 0 := by
    simp only [bits]
    omega
  have hbin : bits g 0 5 = g % 32 := by simp [bits]
  simp only [binOf_eq_xor, hlow, hbin, bits_rowStart, Nat.reduceLeDiff, Nat.zero_xor, Nat.xor_assoc]

/-- The granules of a track block (an aligned run of 32) lie in one track. -/
theorem trackOf_eq_of_block {g h : Nat} (e : g / 32 = h / 32) : trackOf g = trackOf h := by
  have hrow : g / 512 = h / 512 := by omega
  rw [trackOf_eq_xor_rowStart g, trackOf_eq_xor_rowStart h, e, hrow]

theorem trackOf_of_run {k g : Nat} (hlo : 32 * k ≤ g) (hhi : g < 32 * (k + 1)) : trackOf g = trackOf (32 * k) :=
  trackOf_eq_of_block (by omega)

-- ## The granule at a row of a bank

theorem granAt_eq (b r : Nat) :
    granAt b r = r * 512 + 32 * (b / 32 ^^^ trackOf (r * 512)) + (b % 32 ^^^ binOf (r * 512)) := rfl

/-- The digits of `granAt`: its row, its track block in the row and its place in the block. -/
theorem granAt_digits {b : Nat} (r : Nat) (hb : b < 512) :
    granAt b r / 512 = r ∧ granAt b r / 32 % 16 = b / 32 ^^^ trackOf (r * 512)
      ∧ granAt b r % 32 = b % 32 ^^^ binOf (r * 512) := by
  have hblock : b / 32 ^^^ trackOf (r * 512) < 2 ^ 4 := Nat.xor_lt_two_pow (by omega) (trackOf_lt _)
  have hplace : b % 32 ^^^ binOf (r * 512) < 2 ^ 5 := Nat.xor_lt_two_pow (by omega) (binOf_lt _)
  rw [granAt_eq]
  omega

theorem trackOf_granAt {b : Nat} (r : Nat) (hb : b < 512) : trackOf (granAt b r) = b / 32 := by
  obtain ⟨hrow, hblock, -⟩ := granAt_digits r hb
  rw [trackOf_eq_xor_rowStart, hrow, hblock, Nat.xor_xor_cancel_right]

theorem binOf_granAt {b : Nat} (r : Nat) (hb : b < 512) : binOf (granAt b r) = b % 32 := by
  obtain ⟨hrow, -, hplace⟩ := granAt_digits r hb
  rw [binOf_eq_xor_rowStart, hrow, hplace, Nat.xor_xor_cancel_right]

theorem bankOf_granAt {b : Nat} (r : Nat) (hb : b < 512) : bankOf (granAt b r) = b := by
  rw [bankOf, trackOf_granAt r hb, binOf_granAt r hb]
  omega

theorem granAt_lt {b r : Nat} (hb : b < 512) (hr : r < 2048) : granAt b r < 2 ^ 20 := by
  obtain ⟨hrow, -, -⟩ := granAt_digits r hb
  omega

theorem rowOf_granAt {b r : Nat} (hb : b < 512) (hr : r < 2048) : rowOf (granAt b r) = r :=
  (rowOf_eq_div (granAt_lt hb hr)).trans (granAt_digits r hb).1

theorem granAt_bankOf_rowOf {g : Nat} (h : g < 2 ^ 20) : granAt (bankOf g) (rowOf g) = g := by
  rw [granAt_eq, rowOf_eq_div h, bankOf_div, bankOf_mod, trackOf_eq_xor_rowStart g, binOf_eq_xor_rowStart g,
    Nat.xor_xor_cancel_right, Nat.xor_xor_cancel_right]
  omega

/-- Settles O11: `granAt` is the inverse of the hash, on either side. -/
theorem bankAndRowNameOneGranule : Obligations.BankAndRowNameOneGranule :=
  ⟨fun g h => ⟨bankOf_lt g, (by rw [rowOf_eq_div h]; omega), granAt_bankOf_rowOf h⟩,
    fun _ hb _ hr => ⟨granAt_lt hb hr, bankOf_granAt _ hb, rowOf_granAt hb hr⟩⟩

-- ## Aligned runs (R73)

/-- A row and a bank name at most one granule. -/
theorem eq_of_bankOf_of_row {g h : Nat} (hg : g < 2 ^ 20) (hh : h < 2 ^ 20) (hrow : g / 512 = h / 512)
    (hbank : bankOf g = bankOf h) : g = h := by
  rw [← granAt_bankOf_rowOf hg, ← granAt_bankOf_rowOf hh, rowOf_eq_div hg, rowOf_eq_div hh, hrow, hbank]

/-- The track block of a granule within its row is given by the row and the track. -/
theorem block_eq_of_trackOf {g h : Nat} (hrow : g / 512 = h / 512) (htrack : trackOf g = trackOf h) :
    g / 32 = h / 32 := by
  rw [trackOf_eq_xor_rowStart g, trackOf_eq_xor_rowStart h, hrow, Nat.xor_left_inj] at htrack
  omega

theorem existsUnique_bank_of_row {k b : Nat} (hk : k < 2048) (hb : b < 512) :
    ∃! g, 512 * k ≤ g ∧ g < 512 * (k + 1) ∧ bankOf g = b := by
  obtain ⟨hrow, -, -⟩ := granAt_digits k hb
  refine ⟨granAt b k, ⟨by omega, by omega, bankOf_granAt k hb⟩, ?_⟩
  rintro h ⟨hlo, hhi, rfl⟩
  exact eq_of_bankOf_of_row (by omega) (granAt_lt hb hk) (by omega) (bankOf_granAt k hb).symm

theorem existsUnique_bank_of_block {k b : Nat} (hk : k < 32768) (hb : b < 32) :
    ∃! g, 32 * k ≤ g ∧ g < 32 * (k + 1) ∧ bankOf g = 32 * trackOf (32 * k) + b := by
  have hbank : 32 * trackOf (32 * k) + b < 512 := by
    have := trackOf_lt (32 * k)
    omega
  obtain ⟨g, ⟨hlo, hhi, hg⟩, huniq⟩ := existsUnique_bank_of_row (show k / 16 < 2048 by omega) hbank
  have htrack : trackOf g = trackOf (32 * k) := by
    rw [← bankOf_div, hg]
    omega
  have hblock := block_eq_of_trackOf (h := 32 * k) (by omega) htrack
  refine ⟨g, ⟨by omega, by omega, hg⟩, ?_⟩
  rintro h ⟨hlo', hhi', hh⟩
  exact huniq h ⟨by omega, by omega, hh⟩

/-- Settles O10: a run lies in one row, so that the banks of its granules tell them apart. -/
theorem alignedRunsTouchEachBankOnce : Obligations.AlignedRunsTouchEachBankOnce := by
  refine ⟨fun k hk => ⟨fun g hlo hhi => ?_, fun b hb => existsUnique_bank_of_row hk hb⟩,
    fun k hk => ⟨_, trackOf_lt (32 * k), fun g => trackOf_of_run, fun b hb => existsUnique_bank_of_block hk hb⟩,
    fun k hk => ⟨_, trackOf_lt (32 * (k / 2)), fun g hlo hhi => ?_, fun g h hg hg' hh hh' => ?_⟩⟩
  · rw [rowOf_eq_div (by omega)]
    omega
  · rw [bankOf_div]
    exact and_self_iff.2 (trackOf_of_run (by omega) (by omega))
  · exact eq_of_bankOf_of_row (by omega) (by omega) (by omega)

end Sys2Proof.Machine
end

section
/-! SUPPORT. What the commands that write the registers of the regulator, partitions, tracks, lanes, rings, journal and mesh
do, one rule per operation. Settles O55. -/

namespace Sys2Proof.Machine

-- ## What a write to the fields of a register leaves alone

/-- `next_asWrite_of_reaches` where the command masks its index. -/
theorem next_asWrite_of_reaches_at {m : Master} {off off' : Nat} (w : Nat) {f : State → State} {s u : State}
    (e : off' = off) (hr : reaches m off s = true) (hf : f s = u) :
    (.next (asWrite m off' w f s) : Host.Outcome State Fault Refusal) = .next (debugMark m off w u) := by
  subst e
  exact next_asWrite_of_reaches w hr hf

/-- A field of no place that the register lists reads as before. -/
theorem getF_writeFields_other {off : Nat} (w : Nat) (s : State) {g : Fld} (h : ∀ f ∈ fieldsAt off, g.key ≠ f.key) :
    getF (writeFields off w s) g = getF s g := getF_foldl_writeF_other w _ s h

/-- What the hardware's own write to a field keeps, a write to the fields of a register keeps too. -/
theorem writeFields_keeps {α : Type} {p : State → α} (hp : ∀ t f v, p (setF t f v) = p t) (off w : Nat) (s : State) :
    p (writeFields off w s) = p s := by
  unfold writeFields
  induction fieldsAt off generalizing s with
  | nil => rfl
  | cons f l ih =>
    rw [List.foldl_cons, ih]
    obtain e | ⟨v, e⟩ := writeF_cases w s f
    · rw [e]
    · rw [e, hp]

@[simp] theorem writeFields_comb (off w : Nat) (s : State) : (writeFields off w s).comb = s.comb :=
  writeFields_keeps (p := State.comb) (fun _ _ _ => rfl) off w s

@[simp] theorem writeFields_jnl (off w : Nat) (s : State) : (writeFields off w s).jnl = s.jnl :=
  writeFields_keeps (p := State.jnl) (fun _ _ _ => rfl) off w s

@[simp] theorem writeFields_msh (off w : Nat) (s : State) : (writeFields off w s).msh = s.msh :=
  writeFields_keeps (p := State.msh) (fun _ _ _ => rfl) off w s

@[simp] theorem writeFields_activeM (off w : Nat) (s : State) : (writeFields off w s).activeM = s.activeM :=
  writeFields_keeps (p := State.activeM) (fun _ _ _ => rfl) off w s

/-- A field takes any encoding when all are defined. -/
theorem getF_writeFields_total {off w : Nat} (s : State) {l r : List Fld} {f : Fld} (hat : fieldsAt off = l ++ f :: r)
    (hr : ∀ g ∈ r, f.key ≠ g.key) (ha : f.acc = .rw ∨ f.acc = .rws) (hmn : f.mn = 0) (hmx : f.mx = 2 ^ f.w - 1) :
    getF (writeFields off w s) f = bits w f.lo f.w :=
  getF_writeFields_defined s hat hr ha (hmn ▸ Nat.zero_le _)
    (hmx ▸ Nat.le_sub_one_of_lt (bits_lt ..))

-- ## Partitions and the regulator (R86, R245, R272, R276)

theorem partRangeWrite_of_lt {n k : Nat} (w : Nat) (s : State) (hn : n < 16) (hk : k < 7) :
    partRangeWrite n k w s = if getF s (F.PART_STAT_STATE n) = 0 then writeFields (partRangeOff n k) w s
      else setF s (F.PART_STAT_WR_IGN n) 1 := by
  rw [partRangeWrite, if_neg (by simp [hn, hk])]
  by_cases h : getF s (F.PART_STAT_STATE n) = 0 <;> simp [partTaken, h]

theorem partQosSet_kept {n w : Nat} {s : State} (hn : n < 16) (h : qosOk (writeFields (0x4020 + 1024 * n) w s) = true) :
    partQosSet n w s = writeFields (0x4020 + 1024 * n) w s := by
  rw [partQosSet, if_neg (Nat.not_le.2 hn)]
  exact if_pos h

theorem partQosSet_rejected {n w : Nat} {s : State} (hn : n < 16)
    (h : qosOk (writeFields (0x4020 + 1024 * n) w s) = false) : partQosSet n w s = setF s F.REG_STAT_QOS_REJ 1 := by
  rw [partQosSet, if_neg (Nat.not_le.2 hn)]
  exact if_neg (by simp [h])

theorem fieldsAt_partQos {n : Nat} (hn : n < 16) : fieldsAt (0x4020 + 1024 * n) =
    [F.PART_QOS_SHARE n, F.PART_QOS_DL_RES n, F.PART_QOS_CLASS_EN n, F.PART_QOS_CLASS_EN7 n] := by
  interval_cases n <;> rfl

theorem getF_writeFields_share {n : Nat} (w : Nat) (s : State) (hn : n < 16) :
    getF (writeFields (0x4020 + 1024 * n) w s) (F.PART_QOS_SHARE n) = bits w 0 8 :=
  getF_writeFields_total s (l := []) (fieldsAt_partQos hn) (by simp [Fld.key, F.PART_QOS_SHARE, F.PART_QOS_DL_RES,
    F.PART_QOS_CLASS_EN, F.PART_QOS_CLASS_EN7]) (.inr rfl) rfl rfl

theorem getF_writeFields_dlRes {n : Nat} (w : Nat) (s : State) (hn : n < 16) :
    getF (writeFields (0x4020 + 1024 * n) w s) (F.PART_QOS_DL_RES n) = bits w 8 8 :=
  getF_writeFields_total s (l := [F.PART_QOS_SHARE n]) (fieldsAt_partQos hn) (by simp [Fld.key, F.PART_QOS_DL_RES,
    F.PART_QOS_CLASS_EN, F.PART_QOS_CLASS_EN7]) (.inr rfl) rfl rfl

theorem regSplitSet_rejected {q w : Nat} (s : State) (hq : q < 16) (h : 16 < bits w 0 4 + bits w 4 4 + bits w 8 4) :
    regSplitSet q w s = setF s F.REG_STAT_QOS_REJ 1 := by
  rw [regSplitSet, if_neg (Nat.not_le.2 hq), if_pos h]

theorem fieldsAt_regSplit {q : Nat} (hq : q < 16) :
    fieldsAt (0x2080 + 4 * q) = [F.REG_SPLIT_RD q, F.REG_SPLIT_WR q, F.REG_SPLIT_RM q] := by
  interval_cases q <;> rfl

/-- A split of at most 16 sets all three fields. -/
theorem regSplitSet_kept {q w : Nat} (s : State) (hq : q < 16) (h : bits w 0 4 + bits w 4 4 + bits w 8 4 ≤ 16) :
    getF (regSplitSet q w s) (F.REG_SPLIT_RD q) = bits w 0 4 ∧ getF (regSplitSet q w s) (F.REG_SPLIT_WR q) = bits w 4 4
      ∧ getF (regSplitSet q w s) (F.REG_SPLIT_RM q) = bits w 8 4 := by
  have hat := fieldsAt_regSplit hq
  rw [regSplitSet, if_neg (Nat.not_le.2 hq), if_neg (Nat.not_lt.2 h)]
  refine ⟨getF_writeFields_total s (l := []) hat ?_ (.inr rfl) rfl rfl,
    getF_writeFields_total s (l := [_]) hat ?_ (.inr rfl) rfl rfl,
    getF_writeFields_total s (l := [_, _]) hat ?_ (.inr rfl) rfl rfl⟩
  all_goals simp [Fld.key, F.REG_SPLIT_RD, F.REG_SPLIT_WR, F.REG_SPLIT_RM]

/-- OPEN takes the bit written, whether or not the write also ends the pause of a warm reset. -/
theorem getF_regCtlSet_open (m : Master) (w : Nat) (s : State) : getF (regCtlSet m w s) F.REG_CTL_OPEN = bits w 0 1 := by
  have hopen : getF (writeFields 0x2000 w s) F.REG_CTL_OPEN = bits w 0 1 :=
    getF_writeFields_total s (l := []) rfl (by decide) (.inr rfl) rfl rfl
  unfold regCtlSet
  dsimp only
  split <;> exact hopen

-- ## Tracks and lanes (R128, R482)

theorem trkRepairSet_of_lt {n : Nat} (w : Nat) (s : State) (hn : n < 16) : trkRepairSet n w s =
    if flagF s F.REG_CTL_OPEN then s else noteRepair n (writeFields (0x8008 + 1024 * n) w s) := by
  simp [trkRepairSet, Nat.not_le.2 hn]

theorem laneCombSet_of_lt {n : Nat} (w : Nat) (s : State) (hn : n < 64) : laneCombSet n w s =
    if bits w 0 1 = 1 then writeFields (0x10080 + 1024 * n) w s
    else (s.comb.filter (fun e => e.lane == n)).foldl closeComb (writeFields (0x10080 + 1024 * n) w s) := by
  simp only [laneCombSet, if_neg (Nat.not_le.2 hn), writeFields_comb, bits_eq_one_iff]

-- ## Rings and tiers (R504, R524)

/-- A field above the bib registers is none of an entry. -/
theorem bibE_setF_above {f : Fld} (v : Nat) (s : State) {b : Nat} (hf : 0x200000 ≤ f.key) (hb : b < 4096) :
    bibE (setF s f v) b = bibE s b := by
  have hbelow : ∀ g : Fld, g.key < 0x200000 → getF (setF s f v) g = getF s g :=
    fun g hg => getF_setF_other s v (by omega)
  simp (disch := (simp only [Fld.key, F.BIB_CTL_VALID, F.BIB_CTL_PLACE, F.BIB_CTL_PART, F.BIB_CTL_FORMAT, F.BIB_CTL_LAYOUT,
    F.BIB_CTL_SPREAD, F.BIB_CTL_MIRROR, F.BIB_CTL_CHAINED, F.BIB_CTL_PIN, F.BIB_CTL_NEXT, F.BIB_LOC_LOC, F.BIB_LEN_LEN,
    F.BIB_AUX_MIRROR_G]; omega)) only [bibE, flagF, hbelow]

theorem bibValid_eq (s : State) (b : Nat) : bibValid s b = ((bibE s b).valid && !s.bibBad.contains b) := rfl

theorem ringBibOk_setF_above {f : Fld} (v : Nat) (s : State) (p : Nat) {b : Nat} (hf : 0x200000 ≤ f.key)
    (hb : b < 4096) : ringBibOk (setF s f v) p b = ringBibOk s p b := by
  simp only [ringBibOk, bibValid_eq, bibE_setF_above v s hf hb]
  rfl

/-- Whether a bib suits a ring is read after BIB is written, which changes no entry. -/
theorem ringBibOk_after_bib (s : State) (p w : Nat) :
    ringBibOk (setF s (F.SPL_RING_CFG_BIB p) (bits w 1 12)) p (bits w 1 12) = ringBibOk s p (bits w 1 12) :=
  ringBibOk_setF_above _ s p (by simp only [Fld.key, F.SPL_RING_CFG_BIB]; omega) (bits_lt w 1 12)

/-- EN is written 0. -/
theorem splRingSet_off {p w : Nat} (s : State) (hp : p < 16) (hw : bits w 0 1 = 0) :
    splRingSet p w s = setF (setF s (F.SPL_RING_CFG_BIB p) (bits w 1 12)) (F.SPL_RING_CFG_EN p) 0 := by
  simp [splRingSet, ringCfgSet, Nat.not_le.2 hp, (bits_eq_zero_iff w 0).1 hw]

/-- EN is written 1 over a bib that does not suit the ring. -/
theorem splRingSet_unsuited {p w : Nat} {s : State} (hp : p < 16) (hw : bits w 0 1 = 1)
    (hok : ringBibOk s p (bits w 1 12) = false) : splRingSet p w s =
      setF (setF (setF s (F.SPL_RING_CFG_BIB p) (bits w 1 12)) (F.SPL_RING_CFG_EN p) 0) F.SPL_STAT_RING_ERR 1 := by
  simp [splRingSet, ringCfgSet, Nat.not_le.2 hp, (bits_eq_one_iff w 0).1 hw, ringBibOk_after_bib, hok]

/-- EN is written 1 where it is 1. -/
theorem splRingSet_kept {p w : Nat} {s : State} (hp : p < 16) (hw : bits w 0 1 = 1)
    (hok : ringBibOk s p (bits w 1 12) = true) (hen : flagF s (F.SPL_RING_CFG_EN p) = true) :
    splRingSet p w s = setF s (F.SPL_RING_CFG_BIB p) (bits w 1 12) := by
  simp [splRingSet, ringCfgSet, Nat.not_le.2 hp, (bits_eq_one_iff w 0).1 hw, ringBibOk_after_bib, hok, hen]

/-- The state after BIB is written and the ring's place is put back to its start. -/
def ringEmptied (s : State) (p w : Nat) : State :=
  { setF s (F.SPL_RING_CFG_BIB p) (bits w 1 12) with ringTaken := Sparse.del s.ringTaken p }

@[simp] theorem ringTaken_setF (s : State) (f : Fld) (v : Nat) : (setF s f v).ringTaken = s.ringTaken := rfl

@[simp] theorem ringTaken_ringEmptied (s : State) (p w : Nat) : Sparse.at (ringEmptied s p w).ringTaken p 0 = 0 :=
  congrArg (Option.getD · 0) (Sparse.find_del_same _ p)

theorem getF_ringEmptied (s : State) (p w : Nat) (f : Fld) :
    getF (ringEmptied s p w) f = getF (setF s (F.SPL_RING_CFG_BIB p) (bits w 1 12)) f := rfl

/-- EN is written 1 where it is 0: the ring starts empty. -/
theorem splRingSet_started {p w : Nat} {s : State} (hp : p < 16) (hw : bits w 0 1 = 1)
    (hok : ringBibOk s p (bits w 1 12) = true) (hen : flagF s (F.SPL_RING_CFG_EN p) = false) : splRingSet p w s =
      setF (setF (ringEmptied s p w) (F.SPL_RING_CFG_EN p) 1) (F.SPL_RING_POS_TAKEN p) 0 := by
  simp [splRingSet, ringCfgSet, Nat.not_le.2 hp, (bits_eq_one_iff w 0).1 hw, ringBibOk_after_bib, hok, hen, ringEmptied]

@[simp] theorem ringBib_width (p : Nat) : (F.SPL_RING_CFG_BIB p).w = 12 := rfl

@[simp] theorem ringEn_width (p : Nat) : (F.SPL_RING_CFG_EN p).w = 1 := rfl

@[simp] theorem ringErr_width : F.SPL_STAT_RING_ERR.w = 1 := rfl

/-- The fields that such a write can change lie at different places. -/
theorem ring_keys_pairwise (p : Nat) :
    [F.SPL_STAT_RING_ERR, F.SPL_RING_CFG_EN p, F.SPL_RING_CFG_BIB p, F.SPL_RING_POS_TAKEN p].Pairwise
      (fun f g => f.key ≠ g.key ∧ g.key ≠ f.key) := by
  simp only [List.pairwise_cons, List.forall_mem_cons, List.not_mem_nil, List.Pairwise.nil, IsEmpty.forall_iff, implies_true,
    and_true, Fld.key, F.SPL_RING_CFG_BIB, F.SPL_RING_CFG_EN, F.SPL_STAT_RING_ERR, F.SPL_RING_POS_TAKEN]
  omega

/-- What BIB, EN, RING_ERR and the ring's place hold after a write to a ring's CFG. -/
theorem splRingSet_fields {p w : Nat} (s : State) (hp : p < 16) :
    let u := splRingSet p w s
    let en := F.SPL_RING_CFG_EN p
    let b := bits w 1 12
    getF u (F.SPL_RING_CFG_BIB p) = b
      ∧ (bits w 0 1 = 0 → getF u en = 0 ∧ getF u F.SPL_STAT_RING_ERR = getF s F.SPL_STAT_RING_ERR)
      ∧ (bits w 0 1 = 1 → ringBibOk s p b = false → getF u en = 0 ∧ getF u F.SPL_STAT_RING_ERR = 1)
      ∧ (bits w 0 1 = 1 → ringBibOk s p b = true → getF u en = 1 ∧ getF u F.SPL_STAT_RING_ERR = getF s F.SPL_STAT_RING_ERR
          ∧ (flagF s en = false → getF u (F.SPL_RING_POS_TAKEN p) = 0 ∧ Sparse.at u.ringTaken p 0 = 0)) := by
  dsimp only
  have hb : bits w 1 12 < 4096 := bits_lt w 1 12
  have hkeys := ring_keys_pairwise p
  simp only [List.pairwise_cons, List.forall_mem_cons, List.not_mem_nil, List.Pairwise.nil] at hkeys
  obtain ⟨⟨hre, hrb, hrp, -⟩, ⟨heb, hep, -⟩, ⟨hbp, -⟩, -⟩ := hkeys
  obtain hw | hw : bits w 0 1 = 0 ∨ bits w 0 1 = 1 := Nat.mod_two_eq_zero_or_one _
  · rw [splRingSet_off s hp hw]
    simp [hw, hb, getF_setF_other, hre, hrb, heb]
  cases hok : ringBibOk s p (bits w 1 12) with
  | false =>
    rw [splRingSet_unsuited hp hw hok]
    simp [hw, hb, getF_setF_other, hre, hrb, heb]
  | true =>
    cases hen : flagF s (F.SPL_RING_CFG_EN p) with
    | true =>
      have hset : getF s (F.SPL_RING_CFG_EN p) = 1 := beq_iff_eq.1 hen
      rw [splRingSet_kept hp hw hok hen]
      simp [hw, hb, hset, getF_setF_other, hrb, heb]
    | false =>
      rw [splRingSet_started hp hw hok hen]
      simp [hw, hb, getF_ringEmptied, getF_setF_other, hre, hrb, hrp, heb, hep, hbp]

/-- A tier's base or page count is written unless a move uses the tier. -/
theorem splTierSet_of_lt {t k : Nat} (w : Nat) (s : State) (ht : t < 3) (hk : k < 2) : splTierSet t k w s =
    if s.moves.any (fun x => !x.ended && x.tl.contains t) then s else writeFields (0x63020 + 16 * t + 4 * k) w s := by
  have hcfg : k ≠ 2 := Nat.ne_of_lt hk
  simp [splTierSet, hcfg, Nat.not_le.2 ht, Nat.not_le.2 (Nat.lt_succ_of_lt hk)]

-- ## Journal and marshals (R584, R591, R592, R613, R615)

theorem copyEntry_noted (s : State) (e : JEntry) : Noted s (copyEntry s e) := emit_noted _ _

theorem Noted.jnl {s t : State} (h : Noted s t) : t.jnl = s.jnl := by
  have hsame := congrArg (fun u : State => u.jnl) h.2
  exact hsame

theorem shadowLost_after_buddy (w : Nat) (s : State) :
    flagF (writeFields 0x6200C w s) F.JNL_STAT_SHADOW_LOST = flagF s F.JNL_STAT_SHADOW_LOST :=
  congrArg (· == 1) (getF_writeFields_other w s (by decide))

theorem jnlBuddySet_kept (w : Nat) {s : State} (h : flagF s F.JNL_STAT_SHADOW_LOST = false) :
    jnlBuddySet w s = writeFields 0x6200C w s := by simp [jnlBuddySet, shadowLost_after_buddy, h]

/-- The state after the open entries are copied to a new buddy. -/
def buddyCopied (s : State) : State :=
  if flagF s F.JNL_CTL_SHADOW_EN then (s.jnl.filter (fun (e : JEntry) => decide (e.state ≤ 2))).foldl copyEntry s else s

theorem buddyCopied_noted (s : State) : Noted s (buddyCopied s) := .ite (.foldl copyEntry_noted _ _) (.refl s)

/-- A new buddy takes copies of the open entries: the entries stay, and SHADOW_LOST clears. -/
theorem jnlBuddySet_renewed {w : Nat} {s : State} (h : flagF s F.JNL_STAT_SHADOW_LOST = true)
    (hset : flagF (writeFields 0x6200C w s) F.JNL_BUDDY_SET = true) :
    getF (jnlBuddySet w s) F.JNL_STAT_SHADOW_LOST = 0 ∧ (jnlBuddySet w s).jnl = s.jnl := by
  have hcopied : jnlBuddySet w s = setF (buddyCopied (writeFields 0x6200C w s)) F.JNL_STAT_SHADOW_LOST 0 :=
    if_pos (by simp [shadowLost_after_buddy, h, hset])
  rw [hcopied]
  exact ⟨getF_setF_same _ _ _, (buddyCopied_noted _).jnl.trans (writeFields_jnl _ _ _)⟩

/-- The marshal's write is its heartbeat. -/
theorem jnlHbSet_hb (m : Master) (w : Nat) (s : State) :
    (jnlHbSet m w s).msh.hb = if m = .marshal then now s else s.msh.hb := by
  unfold jnlHbSet
  split <;> simp

/-- A copy within the 128 KiB of the standby begins. -/
theorem startCopy_begins {s : State} {a : Nat} (ha : s.activeM = some a) (hc : s.msh.copy = none)
    (hs : flagF s F.MSH_STAT_STBY_OK = true)
    (hfits : getF s F.JNL_CKPT_CMD_SRC_KB + getF s F.JNL_CKPT_CMD_LEN_KB ≤ 128)
    (hne : getF s F.JNL_CKPT_CMD_LEN_KB ≠ 0) :
    ∃ c, (startCopy s).msh.copy = some c ∧ c.src = getF s F.JNL_CKPT_CMD_SRC_KB ∧ c.len = getF s F.JNL_CKPT_CMD_LEN_KB
      ∧ getF (startCopy s) F.JNL_CKPT_CMD_BUSY = 1 ∧ (s.msh.run = none → c.jseq = s.msh.lastSeq) := by
  have hgo : ¬ (s.msh.copy.isSome || !flagF s F.MSH_STAT_STBY_OK
      || decide (128 < getF s F.JNL_CKPT_CMD_SRC_KB + getF s F.JNL_CKPT_CMD_LEN_KB)
      || getF s F.JNL_CKPT_CMD_LEN_KB == 0) = true := by simp [hc, hs, hfits, hne]
  unfold startCopy
  dsimp only
  split
  · rw [if_neg hgo]
    exact ⟨_, rfl, rfl, rfl, getF_setF_same _ _ _, fun hrun => by rw [hrun]⟩
  · next hnone => exact absurd (ha.symm.trans hnone) (Option.some_ne_none a)

/-- One that does not fit, or is of no length, comes to nothing (R593). -/
theorem startCopy_refused {s : State}
    (h : 128 < getF s F.JNL_CKPT_CMD_SRC_KB + getF s F.JNL_CKPT_CMD_LEN_KB ∨ getF s F.JNL_CKPT_CMD_LEN_KB = 0) :
    startCopy s = s := by
  unfold startCopy
  cases s.activeM with
  | none => rfl
  | some a => exact if_pos (by simpa [or_assoc] using .inr (.inr h))

theorem ckptSet_start {w : Nat} (s : State) (hw : bits w 0 1 = 1) : ckptSet w s = startCopy (writeFields 0x6201C w s) :=
  if_pos ((bits_eq_one_iff w 0).1 hw)

theorem standbyOk_after_ckpt (w : Nat) (s : State) :
    flagF (writeFields 0x6201C w s) F.MSH_STAT_STBY_OK = flagF s F.MSH_STAT_STBY_OK :=
  congrArg (· == 1) (getF_writeFields_other w s (by decide))

/-- START is written as 1. -/
theorem execStart_of_start {m : Master} {w : Word} (s : State) (hw : bits w.toNat 0 1 = 1) :
    execStart m w s = .next (asWrite m 0x6201C w.toNat (ckptSet w.toNat) s) := by
  have hodd : w.toNat / 2 * 2 + 1 = w.toNat := by
    simp only [bits] at hw
    omega
  rw [execStart, hodd]

-- ## Mesh (R801) and the windows of a marshal (R221)

theorem meshCtlSet_eq (w : Nat) (s : State) : meshCtlSet w s =
    if flagF s F.MESH_CTL_WILGUS_EN ∧ bits w 1 4 ≠ getF s F.MESH_CTL_W_LINKS then s else writeFields 0x64000 w s := by
  simp [meshCtlSet]

theorem execMshLmapWrite_runs {n : Nat} {w : Word} {s : State} (h : marshalRuns n s = true) :
    execMshLmapWrite n w s = .next (lmapSet n w.toNat s) := by rw [execMshLmapWrite, if_pos h]

theorem remap_lmapSet (n w : Nat) (s : State) : Sparse.at (lmapSet n w s).msh.remap n 0 = bits w 0 1 := by
  simp [lmapSet, bits]

-- ## The statement

/-- Settles O55, one rule of an operation per clause. -/
theorem unitWritesTakeEffect : Obligations.UnitWritesTakeEffect := by
  intro m n w s v
  refine ⟨fun k hr hn hk => ?region, fun hr hn => ?qos, fun hr hn => ?split, fun hr => ?regCtl, fun hr hn => ?repair,
    fun hr => ?cadCtl, fun hr hn => ?comb, fun hr hn => ?ring, fun k hr hn hk => ?tier, fun hr hl => ?buddy,
    fun hr hl hset => ?newBuddy, fun hr => ?heartbeat, fun hr => ?failover, fun a hr ha hc hs hw => ?start,
    fun hr => ?mesh, fun hn hon hf => ?lmap⟩
  case region => exact next_asWrite_of_reaches _ hr (partRangeWrite_of_lt v s hn hk)
  case qos =>
    have hoff : 0x4020 + 1024 * (n % 16) = 0x4020 + 1024 * n := by omega
    exact ⟨fun h => ⟨next_asWrite_of_reaches_at _ hoff hr (partQosSet_kept hn h), getF_writeFields_share v s hn,
        getF_writeFields_dlRes v s hn⟩,
      fun h => next_asWrite_of_reaches_at _ hoff hr (partQosSet_rejected hn h)⟩
  case split =>
    have hoff : 0x2080 + 4 * (n % 16) = 0x2080 + 4 * n := by omega
    exact ⟨fun h => next_asWrite_of_reaches_at _ hoff hr (regSplitSet_rejected s hn h),
      fun h => ⟨_, next_asWrite_of_reaches_at _ hoff hr rfl, regSplitSet_kept s hn h⟩⟩
  case regCtl => exact ⟨_, next_asWrite_of_reaches _ hr rfl, getF_regCtlSet_open m v s⟩
  case repair => exact next_asWrite_of_reaches_at _ (by omega) hr (trkRepairSet_of_lt v s hn)
  case cadCtl => exact next_asWrite_of_reaches _ hr rfl
  case comb => exact next_asWrite_of_reaches_at _ (by omega) hr (laneCombSet_of_lt v s hn)
  case ring => exact ⟨_, next_asWrite_of_reaches_at _ (by omega) hr rfl, splRingSet_fields s hn⟩
  case tier => exact next_asWrite_of_reaches_at _ (by omega) hr (splTierSet_of_lt v s hn hk)
  case buddy => exact next_asWrite_of_reaches _ hr (jnlBuddySet_kept v hl)
  case newBuddy => exact ⟨_, next_asWrite_of_reaches _ hr rfl, jnlBuddySet_renewed hl hset⟩
  case heartbeat => exact ⟨_, next_asWrite_of_reaches _ hr rfl, jnlHbSet_hb m v s⟩
  case failover => exact next_asWrite_of_reaches _ hr rfl
  case start =>
    intro u src len
    have hexec : ∀ {t}, startCopy u = t → exec (.start m w) s = .next (debugMark m 0x6201C v t) :=
      fun h => (execStart_of_start s hw).trans (next_asWrite_of_reaches _ hr ((ckptSet_start s hw).trans h))
    refine ⟨fun hfits hne => ?_, fun h => hexec (startCopy_refused h)⟩
    obtain ⟨c, hcopy, hsrc, hlen, hbusy, hseq⟩ := startCopy_begins (s := u) ((writeFields_activeM ..).trans ha)
      (by rwa [writeFields_msh]) ((standbyOk_after_ckpt v s).trans hs) hfits hne
    rw [writeFields_msh] at hseq
    exact ⟨_, c, hexec rfl, hcopy, hsrc, hlen, hbusy, hseq⟩
  case mesh => exact next_asWrite_of_reaches _ hr (meshCtlSet_eq v s)
  case lmap =>
    have hruns : marshalRuns n s = true := by simp [marshalRuns, hn, hon, hf]
    exact ⟨_, execMshLmapWrite_runs hruns, remap_lmapSet n v s, rfl⟩

end Sys2Proof.Machine
end

section
/-! SUPPORT. The state after reset, and the commands that leave the bytes of the bank arrays alone. Settles O5 and O7. -/

namespace Sys2Proof.Machine

/-- Settles O5: after reset memory and the queue are empty. -/
theorem resetMeetsInvariant : Obligations.ResetMeetsInvariant := ⟨rfl, rfl⟩

/-- A re-form makes every row UNWRITTEN, but the bytes under it stay (R647). -/
@[simp] theorem reformState_held (s : State) : held (reformState s) = held s := by
  unfold reformState
  dsimp only
  split
  · rw [bootFail_held, startMarshals_held, noteReset_held]
    rfl
  · rw [setF_held, startMarshals_held, noteReset_held]
    rfl

@[simp] theorem execReformRestart_held (s : State) : keepsHeld s (execReformRestart s) := by
  unfold execReformRestart
  split
  · split
    · rw [keepsHeld_next, reformState_held, held_foldl reformKill_held]
    · exact (keepsHeld_next s s).2 rfl
  · exact (keepsHeld_next s s).2 rfl

/-- Every row but those that `storesMemory` lists leaves the queue and the bytes of the arrays, each by the law of its own
meaning (`exec…_held`). -/
theorem exec_keepsHeld {c : Instr} (s : State) (h : storesMemory c = false) : keepsHeld s (exec c s) := by
  cases c
  case accessCommit | bistDone | endOfPass | coldReset | supplyReset | vaonApplied | vaonRemoved => cases h
  all_goals
    dsimp only [exec]
    simp

theorem readByte_of_held {s t : State} (h : held t = held s) (a : Nat) : readByte t a = readByte s a := by
  rw [readByte, readByte, held_mem h]

/-- Settles O7. -/
theorem otherCommandsLeaveMemory : Obligations.OtherCommandsLeaveMemory :=
  fun _ s t hc ht => readByte_of_held (exec_keepsHeld s hc t ht)

end Sys2Proof.Machine
end

section
/-! SUPPORT. The bytes of a row: what a write to a row stores in it, and that it leaves every other row (R101, R117). -/

namespace Sys2Proof.Machine

-- ## Words made of bytes

/-- The word whose byte `i` is `v i`, below `n`. -/
def bytesWord (v : Nat → Nat) (n : Nat) : Nat := fieldsWord ((List.range n).map (fun i => (8 * i, v i)))

theorem bytesWord_succ (v : Nat → Nat) (n : Nat) : bytesWord v (n + 1) = bytesWord v n + v n * 2 ^ (8 * n) := by
  simp [bytesWord, List.range_succ, fieldsWord]

theorem bytesWord_lt {v : Nat → Nat} (hv : ∀ i, v i < 2 ^ 8) (n : Nat) : bytesWord v n < 2 ^ (8 * n) := by
  induction n with
  | zero => simp [bytesWord, fieldsWord]
  | succ n ih =>
    have hpow : 2 ^ (8 * (n + 1)) = 2 ^ 8 * 2 ^ (8 * n) := by rw [← Nat.pow_add]; congr 1; omega
    have hle : v n * 2 ^ (8 * n) ≤ (2 ^ 8 - 1) * 2 ^ (8 * n) := Nat.mul_le_mul_right _ (Nat.le_pred_of_lt (hv n))
    rw [bytesWord_succ, hpow]
    omega

theorem toNat_ofNat_bytesWord {v : Nat → Nat} (hv : ∀ i, v i < 2 ^ 8) (n : Nat) :
    (BitVec.ofNat (8 * n) (bytesWord v n)).toNat = bytesWord v n :=
  (BitVec.toNat_ofNat _ _).trans (Nat.mod_eq_of_lt (bytesWord_lt hv n))

/-- Byte `j` of the word is `v j`. -/
theorem bits_bytesWord {v : Nat → Nat} (hv : ∀ i, v i < 2 ^ 8) {j n : Nat} (h : j < n) :
    bits (bytesWord v n) (8 * j) 8 = v j := by
  induction n with
  | zero => exact absurd h (Nat.not_lt_zero j)
  | succ n ih =>
    rw [bytesWord_succ]
    obtain hj | rfl := Nat.lt_succ_iff_lt_or_eq.1 h
    · have hpow : v n * 2 ^ (8 * n) = 2 ^ (8 * j) * (2 ^ 8 * (v n * 2 ^ (8 * (n - j - 1)))) := by
        have hexp : 8 * n = 8 * j + 8 + 8 * (n - j - 1) := by omega
        rw [hexp, Nat.pow_add, Nat.pow_add]
        ring
      rw [← ih hj, bits, bits, hpow, Nat.add_mul_div_left _ _ (Nat.two_pow_pos _), Nat.add_mul_mod_self_left]
    · rw [bits, Nat.add_mul_div_right _ _ (Nat.two_pow_pos _), Nat.div_eq_of_lt (bytesWord_lt hv j), Nat.zero_add,
        Nat.mod_eq_of_lt (hv j)]

/-- The bytes that `keepBytes` keeps stay, and the others are 0. -/
theorem beatByte_keepBytes (d : Beat) (be : Nat) {i : Nat} (h : i < 64) :
    beatByte (BitVec.ofNat 512 (keepBytes d.toNat be)) i = if bitAt be i then beatByte d i else 0 := by
  have hv : ∀ j, (if bitAt be j then bits d.toNat (8 * j) 8 else 0) < 2 ^ 8 := by
    intro j
    split
    · exact bits_lt _ _ _
    · decide
  have hnat : (BitVec.ofNat 512 (keepBytes d.toNat be)).toNat = _ := toNat_ofNat_bytesWord hv 64
  rw [beatByte, hnat, bits_bytesWord hv h]
  split <;> rfl

theorem bitAt_allBytes {i : Nat} (h : i < 64) : bitAt allBytes i = true := by
  rw [bitAt_eq_testBit, allBytes, Nat.testBit_two_pow_sub_one, decide_eq_true h]

-- ## Every row but one

/-- Steps that each relate the state before to the one after, by a relation that is reflexive and transitive. -/
theorem foldl_related {α : Type} {R : State → State → Prop} (hrefl : ∀ s, R s s) (htrans : ∀ {s t u}, R s t → R t u → R s u)
    {g : State → α → State} (h : ∀ t y, R t (g t y)) (l : List α) (s : State) : R s (l.foldl g s) :=
  List.foldlRecOn (motive := R s) l g (hrefl s) (fun t ht y _ => htrans ht (h t y))

/-- Every byte outside row `pg` reads in `t` as in `s`. -/
def SameOutside (pg : Nat) (s t : State) : Prop := ∀ x, x / 64 ≠ pg → readByte t x = readByte s x

theorem SameOutside.of_held {pg : Nat} {s t : State} (h : held t = held s) : SameOutside pg s t :=
  fun x _ => readByte_of_held h x

theorem SameOutside.trans {pg : Nat} {s t u : State} (h : SameOutside pg s t) (g : SameOutside pg t u) :
    SameOutside pg s u := fun x hx => (g x hx).trans (h x hx)

/-- A change of what is not held, before or after, does not matter. -/
theorem SameOutside.congr {pg : Nat} {s s' t t' : State} (h : SameOutside pg s t) (hs : held s = held s')
    (ht : held t' = held t) : SameOutside pg s' t' := (SameOutside.of_held hs).trans (h.trans (.of_held ht))

theorem SameOutside.foldl {α : Type} {pg : Nat} {g : State → α → State} (h : ∀ t y, SameOutside pg t (g t y)) (l : List α)
    (s : State) : SameOutside pg s (l.foldl g s) := foldl_related (fun _ => .of_held rfl) .trans h l s

theorem writeByte_sameOutside (s : State) {pg a : Nat} (v : Byte) (h : a / 64 = pg) :
    SameOutside pg s (writeByte s a v) := fun _ hx => readByte_writeByte_other s v (fun e => hx (e ▸ h))

/-- Bits that flip at rest flip in their own row. -/
theorem damageRow_sameOutside (s : State) (pg : Nat) (flips : List Nat) : SameOutside pg s (damageRow s pg flips) := by
  refine .foldl (fun t f => ?_) flips s
  split
  · exact (writeByte_sameOutside t _ (by omega)).congr rfl (setPar_held _ _ _)
  · exact .of_held (setPar_held _ _ _)

-- ## A write to a row

/-- The first `n` bytes of a write to a row. -/
theorem readByte_foldl_writeRow (s : State) (pg : Nat) (d : Beat) (be x : Nat) {n : Nat} (hn : n ≤ 64) :
    readByte ((List.range n).foldl (fun t i => if bitAt be i then writeByte t (pg * 64 + i) (beatByte d i) else t) s) x
      = if x / 64 = pg ∧ x % 64 < n ∧ bitAt be (x % 64) = true then beatByte d (x % 64) else readByte s x := by
  induction n with
  | zero => simp
  | succ n ih =>
    have hrest := ih (by omega)
    rw [List.range_succ, List.foldl_append, List.foldl_cons, List.foldl_nil]
    generalize (List.range n).foldl (fun t i => if bitAt be i then writeByte t (pg * 64 + i) (beatByte d i) else t) s = t
      at hrest
    by_cases hx : x = pg * 64 + n
    · have hdiv : x / 64 = pg := by omega
      have hmod : x % 64 = n := by omega
      by_cases hb : bitAt be n = true
      · rw [if_pos hb, hmod, if_pos ⟨hdiv, n.lt_succ_self, hb⟩, hx, readByte_writeByte_same]
      · rw [if_neg hb, hrest, hmod, if_neg (fun h => hb h.2.2), if_neg (fun h => hb h.2.2)]
    · have hlt : x / 64 = pg → (x % 64 < n ↔ x % 64 < n + 1) := by omega
      have hkept : readByte (if bitAt be n then writeByte t (pg * 64 + n) (beatByte d n) else t) x = readByte t x := by
        split
        · exact readByte_writeByte_other t _ hx
        · rfl
      rw [hkept, hrest]
      exact if_congr (and_congr_right (fun hdiv => and_congr_left' (hlt hdiv))) rfl rfl

/-- A write to a row stores the bytes that `be` enables, and no other byte changes. -/
theorem readByte_writeRow (s : State) (pg : Nat) (d : Beat) (be x : Nat) : readByte (writeRow s pg d be) x
    = if x / 64 = pg ∧ bitAt be (x % 64) = true then beatByte d (x % 64) else readByte s x := by
  have hmod : x % 64 < 64 := Nat.mod_lt _ (by decide)
  rw [writeRow, readByte_foldl_writeRow s pg d be x (Nat.le_refl 64)]
  simp only [hmod, true_and]

theorem writeRow_sameOutside (s : State) (pg : Nat) (d : Beat) (be : Nat) : SameOutside pg s (writeRow s pg d be) :=
  fun x hx => by rw [readByte_writeRow, if_neg (fun h => hx h.1)]

/-- Parity aside, storing a row is writing it. -/
theorem storeRow_held (s : State) (pg : Nat) (d : Beat) (be m fl : Nat) :
    held (storeRow s pg d be m fl) = held (writeRow s pg d be) := by simp only [storeRow, setFlip_held, setPar_held]

theorem storeRow_sameOutside (s : State) (pg : Nat) (d : Beat) (be m fl : Nat) :
    SameOutside pg s (storeRow s pg d be m fl) := (writeRow_sameOutside s pg d be).congr rfl (storeRow_held s pg d be m fl)

end Sys2Proof.Machine
end

section
/-! SUPPORT. One access at its bank: it leaves the repair registers, by which physical row serves a granule, so it stores to
the one row that it found; a WRITE stores the bytes that its enables name (R101, R102, R110, R117). Settles O27 and O28. -/

namespace Sys2Proof.Machine

-- ## The spares in use (R120, R123, R127)

theorem getF_of_regs {s t : State} (h : t.regs = s.regs) (f : Fld) : getF t f = getF s f := by rw [getF, getF, h]

/-- A field of a register at the place of TRKn_REPAIR in a block of 1 KiB. -/
def inRepair (f : Fld) : Prop := f.key / 32 % 256 = 2

/-- Every field of the repair registers reads in `t` as in `s`. -/
def SameRepair (s t : State) : Prop := ∀ f : Fld, inRepair f → getF t f = getF s f

/-- The fields of TRKn_REPAIR lie there. -/
theorem inRepair_of_key {f : Fld} {n : Nat} (lo : Nat) (h : f.key = 8 * (0x8008 + 1024 * n) + lo) (hlo : lo < 32) :
    inRepair f := by
  unfold inRepair
  omega

/-- The same registers leave the same spares in use, and so the same physical rows. -/
theorem SameRepair.physG {s t : State} (h : SameRepair s t) (g : Nat) : physG t g = physG s g := by
  have hspare (n : Nat) : spareFor t n = spareFor s n := by
    unfold spareFor flagF
    rw [h (F.TRK_REPAIR_OTP_EN n) (inRepair_of_key 5 rfl (by decide)),
      h (F.TRK_REPAIR_OTP_BANK n) (inRepair_of_key 0 rfl (by decide)),
      h (F.TRK_REPAIR_SOFT_EN n) (inRepair_of_key 13 rfl (by decide)),
      h (F.TRK_REPAIR_SOFT_BANK n) (inRepair_of_key 8 rfl (by decide))]
  rw [Machine.physG, Machine.physG, portOf, portOf, hspare]

theorem SameRepair.refl (s : State) : SameRepair s s := fun _ _ => rfl

theorem SameRepair.trans {s t u : State} (h : SameRepair s t) (g : SameRepair t u) : SameRepair s u :=
  fun f hf => (g f hf).trans (h f hf)

theorem SameRepair.ite {s a b : State} {c : Prop} [Decidable c] (h : SameRepair s a) (g : SameRepair s b) :
    SameRepair s (if c then a else b) := by split <;> assumption

theorem SameRepair.foldl {α : Type} {g : State → α → State} (h : ∀ t y, SameRepair t (g t y)) (l : List α) (s : State) :
    SameRepair s (l.foldl g s) := foldl_related .refl .trans h l s

/-- An update of no register field. -/
theorem SameRepair.of_regs {s t : State} (h : t.regs = s.regs) : SameRepair s t := fun f _ => getF_of_regs h f

theorem SameRepair.of_noted {s t : State} (h : Noted s t) : SameRepair s t := fun f hf =>
  have hkeys : ∀ k ∈ noteKeys, k / 32 % 256 ≠ 2 := by decide
  h.1 f (fun hk => hkeys _ hk hf)

/-- A field at another place in its block of 1 KiB. -/
theorem setF_sameRepair (s : State) {f : Fld} (v : Nat) {o n : Nat} (lo : Nat) (hkey : f.key = 8 * (o + 1024 * n) + lo)
    (ho : (8 * o + lo) / 32 % 256 ≠ 2) : SameRepair s (setF s f v) := by
  refine fun g hg => getF_setF_other s v (fun e => ho ?_)
  unfold inRepair at hg
  omega

theorem incF_sameRepair (s : State) {f : Fld} (v : Nat) {o n : Nat} (lo : Nat) (hkey : f.key = 8 * (o + 1024 * n) + lo)
    (ho : (8 * o + lo) / 32 % 256 ≠ 2) : SameRepair s (incF s f v) := setF_sameRepair s _ lo hkey ho

-- ## What an access notes

theorem noteSlot_sameRepair (s : State) (r : Request) (g : Nat) (w : Bool) : SameRepair s (noteSlot s r g w) := by
  have hnoted : SameRepair s (energyEvt (ctrEvent s (if w then 0x0A else 0x09) (trackOf g) 1 (accCtx r g)) 0 r.h.part
      (energyCls r) 1) := .of_noted ((ctrEvent_noted _ _ _ _ _).trans (energyEvt_noted _ _ _ _ _))
  unfold noteSlot
  exact hnoted.trans (.ite (.of_regs rfl) (.of_regs rfl))

theorem noteAdder_sameRepair (s : State) (r : Request) (g : Nat) : SameRepair s (noteAdder s r g) :=
  .of_noted ((ctrEvent_noted _ _ _ _ _).trans (energyEvt_noted _ _ _ _ _))

theorem logGran_noted (s : State) (r : Request) (src sev g info : Nat) : Noted s (logGran s r src sev g info) :=
  logEvt_noted _ _ _ _ _ _ _ _ _

theorem flipAt_sameRepair (s : State) (r : Request) (point : Nat) : SameRepair s (flipAt s r point).2 := by
  unfold flipAt
  split
  · exact .ite (.trans (.of_regs rfl) (setF_sameRepair _ _ (n := 0) 0 rfl (by decide))) (.of_regs rfl)
  · exact .refl s

theorem makeState_sameRepair (s : State) (g : Nat) (n : GState) : SameRepair s (makeState s g n) :=
  .trans (.of_regs (t := setState s (physG s g) n) rfl) (.ite (incF_sameRepair _ _ 16 rfl (by decide)) (.refl _))

theorem noteParity_sameRepair (s : State) (r : Request) (w : Bool) (g m : Nat) (flip log : Bool) :
    SameRepair s (noteParity s r w g m flip log) := by
  unfold noteParity
  extract_lets t s1 s2 s3 s4
  have h1 : SameRepair s s1 := by
    cases w
    · exact incF_sameRepair _ _ 0 rfl (by decide)
    · exact incF_sameRepair _ _ 16 rfl (by decide)
  have h2 : SameRepair s1 s2 := (setF_sameRepair _ _ 6 rfl (by decide)).trans (setF_sameRepair _ _ 0 rfl (by decide))
  have h3 : SameRepair s2 s3 := (setF_sameRepair _ _ 11 rfl (by decide)).trans (setF_sameRepair _ _ 17 rfl (by decide))
  have h4 : SameRepair s3 s4 := .of_noted ((irqIf_noted _ _ _).trans (ctrEvent_noted _ _ _ _ _))
  have h := h1.trans (h2.trans (h3.trans h4))
  exact .ite (h.trans (.of_noted (logGran_noted _ _ _ _ _ _))) h

theorem noteXf_sameRepair (s : State) (t sat nan : Nat) : SameRepair s (noteXf s t sat nan) := by
  unfold noteXf
  extract_lets s1
  have h1 : SameRepair s s1 :=
    .ite (.refl s) ((incF_sameRepair _ _ 0 rfl (by decide)).trans (setF_sameRepair _ _ 1 rfl (by decide)))
  exact .ite h1 (h1.trans ((incF_sameRepair _ _ 0 rfl (by decide)).trans (setF_sameRepair _ _ 2 rfl (by decide))))

theorem operandP2_sameRepair (s : State) (r : Request) (g be : Nat) (ph : Phys) :
    SameRepair s (operandP2 s r g be ph).2 :=
  .ite (flipAt_sameRepair s r 0) ((flipAt_sameRepair s r 0).trans (noteParity_sameRepair _ _ _ _ _ _ _))

theorem readStateWord_sameRepair (s : State) (r : Request) (g : Nat) (u : Upset) :
    SameRepair s (readStateWord s r g u) := by
  have hfree : SameRepair s (resolveUpset s u).2 := by
    unfold resolveUpset
    split
    · exact .of_regs rfl
    · exact .refl s
  unfold readStateWord
  dsimp only
  split <;> rename_i s1 hu <;> rw [hu] at hfree <;> refine hfree.trans ?_
  case h_1 =>
    exact ((incF_sameRepair _ _ 0 rfl (by decide)).trans (setF_sameRepair _ _ 7 rfl (by decide))).trans
      (.of_noted (logGran_noted _ _ _ _ _ _))
  case h_2 =>
    have hword := SameRepair.foldl (fun t k => makeState_sameRepair t k .lost) (wordGrans g) s1
    have hcnt := hword.trans ((incF_sameRepair _ 1 (f := F.TRK_SS_CNT_UE_CNT (trackOf g)) 16 rfl (by decide)).trans
      (setF_sameRepair _ 1 (f := F.TRK_STAT_SS_UE (trackOf g)) 8 rfl (by decide)))
    exact hcnt.trans (((setF_sameRepair _ _ 0 rfl (by decide)).trans (setF_sameRepair _ _ 8 rfl (by decide))).trans
      (.of_noted ((irqIf_noted _ _ _).trans (logGran_noted _ _ _ _ _ _))))
  case h_3 => exact .refl _

/-- Damage at rest lies in bytes and parity. -/
theorem damageRow_sameRepair (s : State) (pg : Nat) (flips : List Nat) : SameRepair s (damageRow s pg flips) := by
  refine .foldl (fun t f => ?_) flips s
  split <;> exact .of_regs rfl

-- ## The read slot

/-- A read slot changes no byte but those damaged at rest. -/
theorem readSlot_held (s : State) (r : Request) (g : Nat) (ph : Phys) :
    held (readSlot s r g ph).2 = held (damageRow s (physG s g) ph.flips) := by
  unfold readSlot
  dsimp only
  split
  · simp only [noteSlot_held, readStateWord_held]
  split
  · simp only [noteSlot_held, readStateWord_held]
  split <;> simp only [makeState_held, noteParity_held, noteSlot_held, readStateWord_held]

theorem readSlot_sameOutside (s : State) (r : Request) (g : Nat) (ph : Phys) :
    SameOutside (physG s g) s (readSlot s r g ph).2 := (damageRow_sameOutside s _ _).congr rfl (readSlot_held s r g ph)

theorem readSlot_sameRepair (s : State) (r : Request) (g : Nat) (ph : Phys) : SameRepair s (readSlot s r g ph).2 := by
  unfold readSlot
  extract_lets pg s1 st s2 d m s3
  have h2 : SameRepair s s2 := ((damageRow_sameRepair _ _ _).trans (readStateWord_sameRepair _ _ _ _)).trans
    (noteSlot_sameRepair _ _ _ _)
  have h3 : SameRepair s2 s3 := noteParity_sameRepair _ _ _ _ _ _ _
  split
  · exact h2
  split
  · exact h2
  exact (h2.trans h3).trans (.ite (makeState_sameRepair _ _ _) (.refl _))

theorem readAccess_held (s : State) (r : Request) (a : GAcc) (ph : Phys) :
    held (readAccess s r a ph).2 = held (damageRow s (physG s a.gran) ph.flips) := by
  unfold readAccess
  dsimp only
  split <;> simp only [energyEvt_held, ctrEvent_held, spillP6_held, readP4_held, readSlot_held]

-- ## The write slot

/-- The bytes of a row that a write does not name become 0: it writes the whole row, or the row reads as zeros (R110). -/
def zeroesRow (s : State) (r : Request) (a : GAcc) (ph : Phys) : Bool :=
  a.be == allBytes || vZero (stateOf (readStateWord (damageRow s (physG s a.gran) ph.flips) r a.gran ph.sw) (physG s a.gran))

/-- A write slot that is no fill of an empty granule stores the bytes that its enables name. -/
theorem readByte_writeSlot (s : State) (r : Request) (a : GAcc) (ph : Phys) (hu : a.fset ≠ some .unwritten)
    (hl : a.fset ≠ some .lost) (x : Nat) : readByte (writeSlot s r a ph) x
      = if x / 64 = physG s a.gran then
          if bitAt a.be (x % 64) then beatByte a.data (x % 64)
          else if zeroesRow s r a ph then 0 else readByte (damageRow s (physG s a.gran) ph.flips) x
        else readByte (damageRow s (physG s a.gran) ph.flips) x := by
  have hmod : x % 64 < 64 := Nat.mod_lt _ (by decide)
  unfold writeSlot
  extract_lets g pg s1 st s2 fi m s3 fs full zero d s4
  have hz : zero = zeroesRow s r a ph := rfl
  have h2 : held s2 = held (damageRow s pg ph.flips) := by simp only [s2, s1, noteSlot_held, readStateWord_held]
  have h3 : held s3 = held s2 := by
    have hfi : held fi.2 = held s2 := by
      simp only [fi]
      split
      · rfl
      · exact flipAt_held _ _ _
    simp only [s3]
    split
    · exact hfi
    · rw [noteParity_held, hfi]
  have hfs : held fs.2 = held (damageRow s pg ph.flips) := (flipAt_held _ _ _).trans (h3.trans h2)
  have h4 : readByte s4 x = if x / 64 = pg ∧ bitAt (if zero then allBytes else a.be) (x % 64) = true
      then beatByte d (x % 64) else readByte (damageRow s pg ph.flips) x := by
    rw [readByte_of_held (storeRow_held _ _ _ _ _ _), readByte_writeRow, readByte_of_held hfs]
  split
  · exact absurd ‹_› hu
  · exact absurd ‹_› hl
  rw [readByte_of_held (makeState_held _ _ _), h4, ← hz]
  by_cases hpg : x / 64 = pg
  · rw [if_pos hpg]
    cases hzero : zero
    · simp only [hpg, d, hzero, true_and, Bool.false_eq_true, if_false]
      rfl
    · simp [hpg, d, hzero, bitAt_allBytes hmod, beatByte_keepBytes _ _ hmod]
  · rw [if_neg hpg, if_neg (fun h => hpg h.1)]

theorem writeSlot_sameOutside (s : State) (r : Request) (a : GAcc) (ph : Phys) :
    SameOutside (physG s a.gran) s (writeSlot s r a ph) := by
  have hdamage := damageRow_sameOutside s (physG s a.gran) ph.flips
  by_cases hu : a.fset = some .unwritten
  · refine hdamage.congr rfl ?_
    simp only [writeSlot, hu, makeState_held, noteSlot_held, readStateWord_held]
  by_cases hl : a.fset = some .lost
  · refine hdamage.congr rfl ?_
    simp only [writeSlot, hl, makeState_held, noteSlot_held, readStateWord_held]
  · intro x hx
    rw [readByte_writeSlot s r a ph hu hl, if_neg hx]
    exact hdamage x hx

theorem bleachSlot_sameOutside (s : State) (r : Request) (g : Nat) (ph : Phys) :
    SameOutside (physG s g) s (bleachSlot s r g ph) := by
  unfold bleachSlot
  extract_lets pg s1 p2 fs s2
  have hp2 : SameOutside pg s p2.2 := (damageRow_sameOutside s pg ph.flips).congr rfl (by
    simp only [p2, s1, operandP2_held, noteSlot_held, readStateWord_held])
  have h2 : SameOutside pg s s2 := hp2.trans ((storeRow_sameOutside _ _ _ _ _ _).congr (flipAt_held _ _ _) rfl)
  split
  · split
    · exact h2
    · exact h2.congr rfl (makeState_held _ _ _)
  · exact hp2

-- ## The bank-local adder

theorem adderStore_sameOutside (s : State) (r : Request) (g d : Nat) (st : Bool) :
    SameOutside (physG s g) s (adderStore s r g d st) := by
  unfold adderStore
  dsimp only
  refine (writeRow_sameOutside _ _ (BitVec.ofNat 512 d) allBytes).congr (flipAt_held s r 2) ?_
  simp only [makeState_held, setFlip_held, setPar_held]

/-- The write slot of an ACCUM or atomic, after changes that leave the rows of the banks in place. -/
theorem SameOutside.adderStore {s t : State} {g : Nat} (h : SameOutside (physG s g) s t) (hr : SameRepair s t) (r : Request)
    (d : Nat) (st : Bool) : SameOutside (physG s g) s (adderStore t r g d st) := by
  have hstore := adderStore_sameOutside t r g d st
  rw [hr.physG] at hstore
  exact h.trans hstore

theorem accumSlots_sameOutside (s : State) (r : Request) (a : GAcc) (ph : Phys) :
    SameOutside (physG s a.gran) s (accumSlots s r a ph) := by
  unfold accumSlots
  extract_lets g p2 rd s1 x
  have hp2 : SameRepair s p2.2 := operandP2_sameRepair _ _ _ _ _
  have hread := readSlot_sameOutside p2.2 r g ph
  rw [hp2.physG] at hread
  refine (hread.congr (operandP2_held _ _ _ _ _) ?_).adderStore ?_ _ _ _
  · simp only [noteXf_held, s1, noteAdder_held, noteSlot_held, rd]
  · exact (hp2.trans (readSlot_sameRepair _ _ _ _)).trans
      (((noteSlot_sameRepair _ _ _ _).trans (noteAdder_sameRepair _ _ _)).trans (noteXf_sameRepair _ _ _ _))

theorem atomSlots_sameOutside (s : State) (r : Request) (a : GAcc) (ph : Phys) :
    SameOutside (physG s a.gran) s (atomSlots s r a ph).2.2 := by
  unfold atomSlots
  extract_lets g w o p2 rd old x s1
  have hp2 : SameRepair s p2.2 := operandP2_sameRepair _ _ _ _ _
  have hread := readSlot_sameOutside p2.2 r g ph
  rw [hp2.physG] at hread
  have h1 : SameOutside (physG s g) s s1 := hread.congr (operandP2_held _ _ _ _ _) (by
    simp only [s1, noteAdder_held, noteSlot_held, rd])
  have hr1 : SameRepair s s1 := (hp2.trans (readSlot_sameRepair _ _ _ _)).trans
    ((noteSlot_sameRepair _ _ _ _).trans (noteAdder_sameRepair _ _ _))
  clear_value s1
  split
  · exact h1
  · exact h1.adderStore hr1 _ _ _

-- ## One access

/-- An access changes bytes of its own row only. -/
theorem doAccess_sameOutside (s : State) (r : Request) (a : GAcc) (ph : Phys) :
    SameOutside (physG s a.gran) s (doAccess s r a ph).2.2 := by
  unfold doAccess
  split
  · split <;> exact .of_held rfl
  split
  · exact (damageRow_sameOutside s _ _).congr rfl (readAccess_held s r a ph)
  split
  · dsimp only
    split
    · exact bleachSlot_sameOutside s r a.gran ph
    · exact writeSlot_sameOutside s r a ph
  split
  · exact accumSlots_sameOutside s r a ph
  · dsimp only
    split <;> exact atomSlots_sameOutside s r a ph

/-- An access that reads an undamaged row changes no byte. -/
theorem doAccess_held_of_reads {s : State} {r : Request} {a : GAcc} {ph : Phys} (hr : accReads r a = true)
    (hf : ph.flips = []) : held (doAccess s r a ph).2.2 = held s := by
  unfold doAccess
  split
  · rfl
  · exact (readAccess_held s r a ph).trans (by rw [hf]; rfl)

/-- A WRITE that no scrub makes, on a bank that has not failed, is its write slot. -/
theorem doAccess_write {s : State} {r : Request} {a : GAcc} {ph : Phys} (hop : r.h.op = 4) (horg : r.org ≠ .scrub)
    (hbank : s.failedBanks.contains (bankOf a.gran) = false) : (doAccess s r a ph).2.2 = writeSlot s r a ph := by
  have hreads : accReads r a = false := by simp [accReads, hop, horg, isRead]
  simp only [doAccess, hbank, hreads, hop, horg, Bool.false_eq_true, if_false, true_or, if_true, false_and]

/-- What follows the access changes no byte: the request, the ports and the answer. -/
theorem commitAccess_held (s : State) (i : TInput) (r : Request) (a : GAcc) (ph : Phys) :
    held (commitAccess s i r a ph) = held (doAccess s r a ph).2.2 := by
  unfold commitAccess
  dsimp only
  rw [finishReq_held, pushRet_held, notePort_held, passInput_held, logReadback_held]
  split <;> simp only [bumpGen_held, putReq_held]

theorem exec_accessCommit {bank : Nat} {i : TInput} {r : Request} {a : GAcc} {s : State} (ph : Phys)
    (hrun : arrayRuns s = true) (hi : level2 s bank = some i) (hh : inputHead s i = some (r, a)) :
    exec (.accessCommit bank ph) s = .next (commitAccess s i r a ph) := by
  change execAccessCommit bank ph s = _
  simp only [execAccessCommit, hrun, hi, hh, Bool.not_true, Bool.false_eq_true, if_false]

/-- Settles O28. -/
theorem accessTouchesOneRow : Obligations.AccessTouchesOneRow := by
  intro bank ph i r a s hrun hi hh
  have hheld := commitAccess_held s i r a ph
  refine ⟨_, exec_accessCommit ph hrun hi hh, fun x hx => ?_, fun hr hf x => ?_⟩
  · exact (readByte_of_held hheld x).trans (doAccess_sameOutside s r a ph x hx)
  · exact readByte_of_held (hheld.trans (doAccess_held_of_reads hr hf)) x

/-- Settles O27: of a sound bank and an undamaged state word, the write slot sees the row as it stands. -/
theorem writeAccessStoresItsBytes : Obligations.WriteAccessStoresItsBytes := by
  intro bank ph i r a s hrun hi hh hop horg hset hbank _ hsw hflips
  have hplain : a.fset ≠ some .unwritten ∧ a.fset ≠ some .lost := by simp [hset]
  have hmod (x : Nat) : x % 64 < 64 := Nat.mod_lt _ (by decide)
  have hzero : zeroesRow s r a ph = (a.be == allBytes || vZero (stateOf s (physG s a.gran))) := by
    simp only [zeroesRow, hflips, hsw]
    rfl
  refine ⟨_, exec_accessCommit ph hrun hi hh, fun x => ?_⟩
  have hdamage : damageRow s (physG s a.gran) ph.flips = s := by rw [hflips]; rfl
  rw [readByte_of_held (commitAccess_held s i r a ph), doAccess_write hop horg hbank,
    readByte_writeSlot s r a ph hplain.1 hplain.2, hdamage, hzero]
  have hbit : (a.be / 2 ^ (x % 64) % 2 = 1) ↔ bitAt a.be (x % 64) = true := by simp [bitAt]
  simp only [hbit]
  by_cases hb : bitAt a.be (x % 64) = true
  · simp only [hb, if_true]
  · have hpart : (a.be == allBytes) = false := by
      simpa using fun h => hb (by rw [h]; exact bitAt_allBytes (hmod x))
    simp only [hb, hpart, vZero, Bool.false_or, Bool.or_eq_true, beq_iff_eq, if_false, Bool.false_eq_true]

end Sys2Proof.Machine
end

section
/-! SUPPORT. The stages of the cold boot from BIST to IMAGE: the self-test and the OTP generation, the reference and the PLL,
and the choice of a slot (R122, R123, R618, R625, R640, R676, R683). -/

namespace Sys2Proof.Machine

/-- With the supplies present, boot stands in the stage that MSH_BOOT shows. -/
theorem bootAt_eq {s : State} (hp : s.clk.powerOk = true) (hr : s.clk.rails = true) (hv : s.clk.vaon = true)
    (ha : aonState s = 0) (g : Nat) : bootAt s g = (getF s F.MSH_BOOT_STAGE == g) := by simp [bootAt, hp, hr, hv, ha]

theorem getF_bootFail_stage (s : State) (cause : Nat) : getF (bootFail s cause) F.MSH_BOOT_STAGE = 15 :=
  (getF_setF_other _ _ (by decide)).trans (getF_setF_same _ _ _)

theorem getF_bootFail_cause (s : State) (cause : Nat) : getF (bootFail s cause) F.MSH_BOOT_CAUSE = cause % 16 :=
  getF_setF_same _ _ _

-- ## The self-test (R122)

/-- A track's result marks the test of that track as done, and leaves the mark of another. -/
theorem getF_noteBist_done (r : BistResult) (s : State) (t k : Nat) : getF (noteBist r s t) (F.TRK_STAT_BIST_DONE k)
    = if k = t then 1 else getF s (F.TRK_STAT_BIST_DONE k) := by
  have hfail : (F.TRK_STAT_BIST_DONE k).key ≠ (F.TRK_STAT_BIST_FAIL t).key := by
    simp only [Fld.key, F.TRK_STAT_BIST_DONE, F.TRK_STAT_BIST_FAIL]; omega
  have hspare : (F.TRK_STAT_BIST_DONE k).key ≠ (F.TRK_STAT_SPARE_FAIL t).key := by
    simp only [Fld.key, F.TRK_STAT_BIST_DONE, F.TRK_STAT_SPARE_FAIL]; omega
  have hbanks : (F.TRK_STAT_BIST_DONE k).key ≠ (F.TRK_BIST_FAIL_FAIL t).key := by
    simp only [Fld.key, F.TRK_STAT_BIST_DONE, F.TRK_BIST_FAIL_FAIL]; omega
  unfold noteBist
  dsimp only
  rw [getF_setF_other _ _ hbanks, getF_setF_other _ _ hspare, getF_setF_other _ _ hfail]
  split
  · next h => rw [h, getF_setF_same]; rfl
  · next h =>
    refine getF_setF_other _ _ ?_
    simp only [Fld.key, F.TRK_STAT_BIST_DONE]
    omega

theorem getF_foldl_noteBist_done (r : BistResult) (l : List Nat) (s : State) (k : Nat)
    (h : k ∈ l ∨ getF s (F.TRK_STAT_BIST_DONE k) = 1) : getF (l.foldl (noteBist r) s) (F.TRK_STAT_BIST_DONE k) = 1 := by
  induction l generalizing s with
  | nil => simpa using h
  | cons t l ih =>
    rw [List.foldl_cons]
    refine ih (noteBist r s t) ?_
    rw [getF_noteBist_done]
    by_cases hk : k = t
    · exact .inr (if_pos hk)
    · rw [if_neg hk]
      simpa [hk] using h

/-- BIST is done in every track. -/
theorem getF_runBist_done (s : State) (r : BistResult) {k : Nat} (hk : k < 16) :
    getF (runBist s r) (F.TRK_STAT_BIST_DONE k) = 1 :=
  getF_foldl_noteBist_done r _ _ k (.inl (List.mem_range.2 hk))

-- ## What the stages after the self-test leave of it

/-- The granule states, the active marshal and the marks of the self-test are in `t` as in `s`. -/
structure KeepsBist (s t : State) : Prop where
  gst : t.gst = s.gst
  active : t.activeM = s.activeM
  done : ∀ k < 16, getF t (F.TRK_STAT_BIST_DONE k) = getF s (F.TRK_STAT_BIST_DONE k)

theorem KeepsBist.refl (s : State) : KeepsBist s s := ⟨rfl, rfl, fun _ _ => rfl⟩

theorem KeepsBist.trans {s t u : State} (h : KeepsBist s t) (g : KeepsBist t u) : KeepsBist s u :=
  ⟨g.gst.trans h.gst, g.active.trans h.active, fun k hk => (g.done k hk).trans (h.done k hk)⟩

theorem KeepsBist.ite {s a b : State} {c : Prop} [Decidable c] (h : KeepsBist s a) (g : KeepsBist s b) :
    KeepsBist s (if c then a else b) := by split <;> assumption

theorem KeepsBist.foldl {α : Type} {g : State → α → State} (h : ∀ t y, KeepsBist t (g t y)) (l : List α) (s : State) :
    KeepsBist s (l.foldl g s) := foldl_related .refl .trans h l s

/-- A field that is no mark of the self-test. -/
theorem setF_keepsBist (s : State) {f : Fld} (v : Nat) (h : ∀ k < 16, (F.TRK_STAT_BIST_DONE k).key ≠ f.key) :
    KeepsBist s (setF s f v) := ⟨rfl, rfl, fun k hk => getF_setF_other s v (h k hk)⟩

/-- Another field of a track. -/
theorem setTrack_keepsBist (s : State) {f : Fld} (v : Nat) {o n : Nat} (lo : Nat) (hkey : f.key = 8 * (o + 1024 * n) + lo)
    (ho : (8 * o + lo) % 8192 ≠ 32) : KeepsBist s (setF s f v) := by
  refine setF_keepsBist s v (fun k _ => ?_)
  simp only [F.TRK_STAT_BIST_DONE, Fld.key] at hkey ⊢
  omega

/-- The self-test makes every row UNWRITTEN, and what it notes of the tracks is in registers. -/
theorem runBist_keeps (s : State) (r : BistResult) : (runBist s r).gst = [] ∧ (runBist s r).activeM = s.activeM := by
  have hnote (l : List Nat) (t : State) :
      (l.foldl (noteBist r) t).gst = t.gst ∧ (l.foldl (noteBist r) t).activeM = t.activeM := by
    induction l generalizing t with
    | nil => exact ⟨rfl, rfl⟩
    | cons k l ih =>
      rw [List.foldl_cons]
      simpa only [noteBist, setF] using ih (noteBist r t k)
  exact hnote (List.range 16) { s with mem := [], gst := [], par := [], parFlip := [] }

-- ## Stage OTP (R123, R640)

theorem noteOtp_keepsBist (s : State) : KeepsBist s (noteOtp s) :=
  ((setF_keepsBist _ _ (by decide)).trans (setF_keepsBist _ _ (by decide))).trans (setF_keepsBist _ _ (by decide))

theorem setShadows_keepsBist (c : Nat) (l : List Nat) (s : State) :
    KeepsBist s (l.foldl (fun t i => setF t (F.MSH_OTP_SH_SHADOW i) (bits c (32 * i) 32)) s) :=
  .foldl (fun t i => setF_keepsBist t _ (fun k hk => by
    simp only [Fld.key, F.TRK_STAT_BIST_DONE, F.MSH_OTP_SH_SHADOW]
    omega)) l s

theorem loadOtp_keepsBist (s : State) (g : Nat) : KeepsBist s (loadOtp s g) := by
  unfold loadOtp
  extract_lets w c s1 s2 s3
  have hburn : KeepsBist s (burnGen s g c) := ⟨rfl, rfl, fun _ _ => rfl⟩
  have h1 : KeepsBist s s1 := (KeepsBist.ite (.refl s) hburn).trans (noteOtp_keepsBist _)
  have h2 : KeepsBist s1 s2 := (setF_keepsBist s1 g (by decide)).trans (setShadows_keepsBist c _ _)
  have h3 : KeepsBist s2 s3 := (setF_keepsBist s2 _ (by decide)).trans (setF_keepsBist _ _ (by decide))
  exact ((h1.trans h2).trans h3).trans (.foldl (fun t k => (setTrack_keepsBist t _ 0 rfl (by decide)).trans
    (setTrack_keepsBist _ _ 5 rfl (by decide))) _ _)

theorem noteRepair_keepsBist (n : Nat) (s : State) : KeepsBist s (noteRepair n s) :=
  ((setTrack_keepsBist _ _ 3 rfl (by decide)).trans (setTrack_keepsBist _ _ 5 rfl (by decide))).trans
    (setTrack_keepsBist _ _ 4 rfl (by decide))

theorem repairTrack_keepsBist (s : State) (n : Nat) : KeepsBist s (repairTrack s n) := by
  unfold repairTrack
  extract_lets fails left s1
  have h1 : KeepsBist s s1 := by
    clear_value left
    simp only [s1]
    split
    · exact .ite (.refl s) ((setTrack_keepsBist s _ 8 rfl (by decide)).trans (setTrack_keepsBist _ _ 13 rfl (by decide)))
    · exact .refl s
  exact h1.trans (noteRepair_keepsBist _ _)

theorem retuneTo_keepsBist (s : State) (step : Nat) : KeepsBist s (retuneTo s step) := by
  obtain ⟨cur, hi, h⟩ := retuneTo_eq s step
  rw [h]
  exact ((setF_keepsBist _ _ (by decide)).trans (setF_keepsBist _ _ (by decide))).trans (setF_keepsBist _ _ (by decide))

theorem bootFail_keepsBist (s : State) (cause : Nat) : KeepsBist s (bootFail s cause) :=
  ((setF_keepsBist s 15 (by decide)).trans (setF_keepsBist _ cause (by decide))).trans ⟨rfl, rfl, fun _ _ => rfl⟩

/-- Stage OTP ends in REFCLK, or in FAILED for want of a valid generation or of a repair; the self-test's results stay. -/
theorem bootOtp_cases (s : State) : ∃ u, KeepsBist s u
    ∧ (bootOtp s = setF u F.MSH_BOOT_STAGE 3 ∨ bootOtp s = bootFail u 9 ∨ bootOtp s = bootFail u 10) := by
  unfold bootOtp
  extract_lets bad s1
  have h1 : KeepsBist s s1 := setF_keepsBist s _ (by decide)
  split
  · exact ⟨s1, h1, .inr (.inl rfl)⟩
  · next g _ =>
    extract_lets s2 s3
    have h2 : KeepsBist s1 s2 := (loadOtp_keepsBist s1 g).trans (.foldl repairTrack_keepsBist _ _)
    have h3 : KeepsBist s2 s3 := (setF_keepsBist s2 _ (by decide)).trans (retuneTo_keepsBist _ _)
    refine ⟨s3, (h1.trans h2).trans h3, ?_⟩
    split
    · exact .inr (.inr rfl)
    · exact .inl rfl

theorem bootOtp_keepsBist (s : State) : KeepsBist s (bootOtp s) := by
  obtain ⟨u, hu, h | h | h⟩ := bootOtp_cases s <;> rw [h]
  · exact hu.trans (setF_keepsBist u 3 (by decide))
  · exact hu.trans (bootFail_keepsBist u 9)
  · exact hu.trans (bootFail_keepsBist u 10)

theorem bootOtp_stage (s : State) : getF (bootOtp s) F.MSH_BOOT_STAGE = 3
    ∨ (getF (bootOtp s) F.MSH_BOOT_STAGE = 15 ∧ getF (bootOtp s) F.MSH_BOOT_CAUSE ∈ [9, 10]) := by
  obtain ⟨u, -, h | h | h⟩ := bootOtp_cases s <;> rw [h]
  · exact .inl (getF_setF_same _ _ _)
  · exact .inr ⟨getF_bootFail_stage u 9, by rw [getF_bootFail_cause]; decide⟩
  · exact .inr ⟨getF_bootFail_stage u 10, by rw [getF_bootFail_cause]; decide⟩

-- ## BIST_DONE (R122, R618)

/-- Where both pass the self-test, marshal 0 is the active one. -/
theorem startMarshals_activeM {s : State} (h : flagF s F.MSH_STAT_M0_FAIL = false) :
    (startMarshals s []).activeM = some 0 := by simp [startMarshals, failBit, h, setF]

theorem execBistDone_at {s : State} (r : BistResult) (hat : bootAt s 0 = true) (hc : s.rst.coldRun = true)
    (hm : r.marshals = []) (hf : flagF s F.MSH_STAT_M0_FAIL = false) :
    execBistDone r s = .next (bootOtp (runBist (startMarshals s []) r)) := by
  simp [execBistDone, hat, hc, hm, startMarshals_activeM hf]

/-- The self-test empties the arrays, whatever follows it. -/
theorem bist_bootOtp (s : State) (r : BistResult) : (bootOtp (runBist s r)).gst = [] ∧ (bootOtp (runBist s r)).mem = []
    ∧ (bootOtp (runBist s r)).activeM = s.activeM
    ∧ ∀ k, k < 16 → getF (bootOtp (runBist s r)) (F.TRK_STAT_BIST_DONE k) = 1 := by
  obtain ⟨hgst, hactive, hdone⟩ := bootOtp_keepsBist (runBist s r)
  obtain ⟨hempty, hmarshal⟩ := runBist_keeps s r
  have hmem : (runBist s r).mem = [] :=
    held_mem (held_foldl (fun t k => noteBist_held r t k) (List.range 16)
      { s with mem := [], gst := [], par := [], parFlip := [] })
  exact ⟨hgst.trans hempty, (held_mem (bootOtp_held _)).trans hmem, hactive.trans hmarshal,
    fun k hk => (hdone k hk).trans (getF_runBist_done s r hk)⟩

end Sys2Proof.Machine
end

section
/-! SUPPORT. The stages of the cold boot from IMAGE to ROLLCALL: the boot stream, the image and its checks, and the end of
APPLY (R625, R626, R636, R637, R638); with the stages before them they settle O48. -/

namespace Sys2Proof.Machine

-- ## The choice of a slot (R625)

/-- Eligibility depends on the directory and the registers only. -/
theorem imageOk_congr {s t : State} (hdir : t.boot.dir = s.boot.dir) (hregs : t.regs = s.regs) (i : Nat) :
    imageOk t i = imageOk s i := by
  simp only [imageOk, hdir, getF_of_regs hregs]

theorem mem_slotsIn {s : State} {st i : Nat} (h : i ∈ slotsIn s st) : i < 2 ∧ imageOk s i = true := by
  simp only [slotsIn, List.mem_filter, Bool.and_eq_true, List.mem_cons, List.not_mem_nil, or_false] at h
  obtain ⟨⟨hi, hok, -⟩, -⟩ := h
  exact ⟨by omega, hok⟩

/-- Of the eligible slots of a state, one has the largest IMG_SEQ. -/
theorem slotsIn_ne_nil {s : State} {st i : Nat} (hi : i < 2) (hok : imageOk s i = true)
    (hst : slotState (s.boot.dir.getD i 0) = st) : slotsIn s st ≠ [] := by
  unfold slotsIn
  extract_lets e
  have hmem : i ∈ e := by
    simp only [e, List.mem_filter, List.mem_cons, List.not_mem_nil, or_false, hok, hst, beq_self_eq_true, Bool.and_self,
      and_true]
    omega
  obtain ⟨m, hm, hmax⟩ := e.toFinset.exists_max_image (fun j => slotSeq (s.boot.dir.getD j 0))
    ⟨i, List.mem_toFinset.2 hmem⟩
  refine List.ne_nil_of_mem (a := m) (List.mem_filter.2 ⟨List.mem_toFinset.1 hm, ?_⟩)
  exact List.all_eq_true.2 (fun j hj => decide_eq_true (hmax j (List.mem_toFinset.2 hj)))

/-- The slots that the choice is among: none exactly when no slot is eligible. -/
def candidates (s : State) : List Nat := if slotsIn s 3 = [] then slotsIn s 4 else slotsIn s 3

theorem mem_candidates {s : State} {i : Nat} (h : i ∈ candidates s) : i < 2 ∧ imageOk s i = true := by
  unfold candidates at h
  split at h <;> exact mem_slotsIn h

theorem candidates_ne_nil {s : State} {i : Nat} (hi : i < 2) (hok : imageOk s i = true) : candidates s ≠ [] := by
  have hst : slotState (s.boot.dir.getD i 0) = 4 ∨ slotState (s.boot.dir.getD i 0) = 3 := by
    simp only [imageOk, Bool.and_eq_true, Bool.or_eq_true, beq_iff_eq] at hok
    exact hok.2.imp_right And.left
  unfold candidates
  split
  · next hnone => exact slotsIn_ne_nil hi hok (hst.resolve_right (fun h3 => slotsIn_ne_nil hi hok h3 hnone))
  · assumption

theorem chooseFrom_of_ne_nil (s : State) {l : List Nat} (h : l ≠ []) :
    ∃ i ∈ l, chooseFrom s l = (some i, { s with free := s.free + 1 }) := by
  have hlen : Config.freeNat s.free % max l.length 1 < l.length := by
    have hpos := List.length_pos_iff.2 h
    exact Nat.lt_of_lt_of_le (Nat.mod_lt _ (by omega)) (by omega)
  exact ⟨_, List.getElem_mem hlen, by simp [chooseFrom, takeFree, h, List.getElem?_eq_getElem hlen]⟩

/-- The state in which the slot is chosen: the block's records are the directory. -/
def dirRead (s : State) (b : Block) : State :=
  let l := padBytes 1024 b.payload
  { s with boot := { s.boot with dir := [leBytes (l.take 64), leBytes ((l.drop 64).take 64)], gap := false } }

/-- The state after the choice of slot `i`: another slot than before begins anew (R625, R626). -/
def slotChosen (s : State) (b : Block) (i : Nat) : State :=
  let s3 := if s.boot.sel && getF s F.MSH_BOOT_SLOT == i then s
    else setF { s with boot := { s.boot with sel := true, img := [] } } F.MSH_BOOT_PASSES 0
  setF (setF { s3 with boot := { s3.boot with on := blockSlot b == i } } F.MSH_BOOT_SLOT i) F.MSH_BOOT_SLOT_WAIT
    (b2n (!(blockSlot b == i)))

theorem takeDirectory_none {s : State} {b : Block} (h : candidates (dirRead s b) = []) :
    takeDirectory s b = bootFail (dirRead s b) 1 := by
  have hpick : pickImage (dirRead s b) = (none, dirRead s b) := if_pos h
  unfold dirRead at hpick
  rw [takeDirectory, hpick]
  rfl

theorem takeDirectory_some {s : State} {b : Block} (h : candidates (dirRead s b) ≠ []) :
    ∃ i ∈ candidates (dirRead s b), takeDirectory s b = slotChosen { dirRead s b with free := s.free + 1 } b i := by
  obtain ⟨i, hi, hchosen⟩ := chooseFrom_of_ne_nil (dirRead s b) h
  have hpick : pickImage (dirRead s b) = (some i, { dirRead s b with free := s.free + 1 }) := hchosen
  unfold dirRead at hpick
  refine ⟨i, hi, ?_⟩
  rw [takeDirectory, hpick]
  rfl

/-- What the choice of a slot shows. -/
theorem slotChosen_shows (s : State) (b : Block) {i : Nat} (hi : i < 2) :
    getF (slotChosen s b i) F.MSH_BOOT_STAGE = getF s F.MSH_BOOT_STAGE ∧ getF (slotChosen s b i) F.MSH_BOOT_SLOT = i
      ∧ (slotChosen s b i).boot.on = (blockSlot b == i) ∧ (slotChosen s b i).boot.dir = s.boot.dir := by
  unfold slotChosen
  extract_lets boot s3
  have hregs (f : Fld) (hf : f.key ≠ F.MSH_BOOT_PASSES.key) : getF s3 f = getF s f := by
    simp only [s3]
    split
    · rfl
    · exact getF_setF_other { s with boot := { s.boot with sel := true, img := [] } } 0 hf
  have hdir : s3.boot.dir = s.boot.dir := by
    simp only [s3]
    split <;> rfl
  clear_value s3
  refine ⟨?_, ?_, rfl, hdir⟩
  · rw [getF_setF_other _ _ (by decide), getF_setF_other _ _ (by decide)]
    exact hregs F.MSH_BOOT_STAGE (by decide)
  · rw [getF_setF_other _ _ (by decide), getF_setF_same]
    exact Nat.mod_eq_of_lt hi

/-- Whichever slot is chosen, the directory is that of the block. -/
theorem takeDirectory_dir (s : State) (b : Block) : (takeDirectory s b).boot.dir = (dirRead s b).boot.dir := by
  by_cases hnone : candidates (dirRead s b) = []
  · rw [takeDirectory_none hnone]
    rfl
  · obtain ⟨i, hi, ht⟩ := takeDirectory_some hnone
    obtain ⟨-, -, -, hdir⟩ := slotChosen_shows { dirRead s b with free := s.free + 1 } b (mem_candidates hi).1
    rw [ht]
    exact hdir

/-- So a slot is eligible after the block as it was when the choice was made. -/
theorem imageOk_takeDirectory (s : State) (b : Block) (i : Nat) :
    imageOk { s with boot := (takeDirectory s b).boot } i = imageOk (dirRead s b) i :=
  imageOk_congr (t := { s with boot := (takeDirectory s b).boot }) (takeDirectory_dir s b) rfl i

/-- With no eligible slot boot fails with cause 1. -/
theorem takeDirectory_fails {s : State} {b : Block}
    (h : ∀ i, i < 2 → imageOk { s with boot := (takeDirectory s b).boot } i = false) :
    getF (takeDirectory s b) F.MSH_BOOT_STAGE = 15 ∧ getF (takeDirectory s b) F.MSH_BOOT_CAUSE = 1 := by
  have hnone : candidates (dirRead s b) = [] := by
    refine List.eq_nil_iff_forall_not_mem.2 (fun i hi => ?_)
    obtain ⟨hlt, helig⟩ := mem_candidates hi
    rw [← imageOk_takeDirectory, h i hlt] at helig
    exact absurd helig Bool.false_ne_true
  rw [takeDirectory_none hnone]
  exact ⟨getF_bootFail_stage _ 1, getF_bootFail_cause _ 1⟩

/-- With one, boot stays in stage IMAGE and an eligible slot is selected. -/
theorem takeDirectory_selects {s : State} {b : Block} (hstage : getF s F.MSH_BOOT_STAGE = 5)
    (h : ∃ i, i < 2 ∧ imageOk { s with boot := (takeDirectory s b).boot } i = true) :
    getF (takeDirectory s b) F.MSH_BOOT_STAGE = 5
    ∧ imageOk { s with boot := (takeDirectory s b).boot } (getF (takeDirectory s b) F.MSH_BOOT_SLOT) = true
    ∧ (takeDirectory s b).boot.on = (blockSlot b == getF (takeDirectory s b) F.MSH_BOOT_SLOT) := by
  obtain ⟨j, hj, hjok⟩ := h
  rw [imageOk_takeDirectory] at hjok
  obtain ⟨i, hi, ht⟩ := takeDirectory_some (candidates_ne_nil hj hjok)
  obtain ⟨hlt, helig⟩ := mem_candidates hi
  obtain ⟨hst, hslot, hon, -⟩ := slotChosen_shows { dirRead s b with free := s.free + 1 } b hlt
  rw [imageOk_takeDirectory, ht, hslot]
  exact ⟨hst.trans hstage, helig, hon⟩

-- ## A slot that fails (R637)

/-- What a failure of the selected slot writes to MSH_BOOT. -/
def slotMarked (s : State) (cause : Nat) : State :=
  setF (setF (setF (orF s F.MSH_BOOT_BAD (getF s F.MSH_BOOT_SLOT)) F.MSH_BOOT_CAUSE cause) F.MSH_BOOT_PASSES 0)
    F.MSH_BOOT_STAGE 5

theorem getF_failSlot (s : State) (cause : Nat) (f : Fld) : getF (failSlot s cause) f = getF (slotMarked s cause) f :=
  getF_of_regs rfl f

theorem getF_failSlot_stage (s : State) (cause : Nat) : getF (failSlot s cause) F.MSH_BOOT_STAGE = 5 := by
  rw [getF_failSlot, slotMarked, getF_setF_same]
  rfl

theorem getF_failSlot_cause (s : State) (cause : Nat) : getF (failSlot s cause) F.MSH_BOOT_CAUSE = cause % 16 := by
  rw [getF_failSlot, slotMarked, getF_setF_other _ _ (by decide), getF_setF_other _ _ (by decide), getF_setF_same]
  rfl

/-- The selected slot is marked bad. -/
theorem bitAt_failSlot_bad (s : State) (cause : Nat) :
    bitAt (getF (failSlot s cause) F.MSH_BOOT_BAD) (getF s F.MSH_BOOT_SLOT) = true := by
  have hslot : getF s F.MSH_BOOT_SLOT < 2 := getF_lt s F.MSH_BOOT_SLOT
  have hbad : getF (failSlot s cause) F.MSH_BOOT_BAD = (getF s F.MSH_BOOT_BAD ||| 2 ^ getF s F.MSH_BOOT_SLOT) % 2 ^ 2 := by
    rw [getF_failSlot, slotMarked, getF_setF_other _ _ (by decide), getF_setF_other _ _ (by decide),
      getF_setF_other _ _ (by decide)]
    exact getF_setF_same _ _ _
  rw [hbad, bitAt_eq_testBit, Nat.testBit_mod_two_pow, Nat.testBit_or, Nat.testBit_two_pow_self, Bool.or_true,
    decide_eq_true hslot, Bool.and_self]

-- ## DATA (R626, R636)

theorem execData_at {s : State} {b : Block} (hat : bootAt s 5 = true) (hb : blockOk b 1 = true) (hon : s.boot.on = true)
    (hslot : blockSlot b = getF s F.MSH_BOOT_SLOT) (hgap : s.boot.gap = false) :
    execData b s = if bits b.hdr.toNat 16 24 < nextBlock s then .next s
      else if bits b.hdr.toNat 16 24 = nextBlock s then .next (takeBytes s b)
      else .next { s with boot := { s.boot with gap := true } } := by
  simp [execData, hat, hb, hon, hslot, hgap]

-- ## END_OF_PASS (R626, R637)

/-- The state at the end of a pass, with the pass counted. -/
def passCounted (s : State) : State :=
  setF { s with boot := { s.boot with on := false } } F.MSH_BOOT_PASSES (getF s F.MSH_BOOT_PASSES + 1)

theorem selRecord_passCounted (s : State) : selRecord (passCounted s) = selRecord s := by
  have hslot : getF (passCounted s) F.MSH_BOOT_SLOT = getF s F.MSH_BOOT_SLOT := getF_setF_other _ _ (by decide)
  unfold selRecord
  rw [hslot]
  rfl

theorem execEndOfPass_at {s : State} {b : Block} (hat : bootAt s 5 = true) (hb : blockOk b 2 = true) (hon : s.boot.on = true)
    (hslot : blockSlot b = getF s F.MSH_BOOT_SLOT) : execEndOfPass b s = .next (endPass s) := by
  simp [execEndOfPass, hat, hb, hon, hslot]

theorem endPass_short {s : State} (h : s.boot.img.length < slotLen (selRecord s)) :
    endPass s = if 4 ≤ getF s F.MSH_BOOT_PASSES + 1 then failSlot (passCounted s) 2 else passCounted s := by
  rw [← selRecord_passCounted] at h
  exact if_pos h

/-- The bytes of a section leave the image and the rest of the stream as they are. -/
theorem putByte_boot (s : State) (a : Nat) (v : Byte) : (putByte s a v).boot = s.boot := by
  have hrow (pg : Nat) : (writeRow s pg 0 allBytes).boot = s.boot := by
    unfold writeRow
    refine List.foldlRecOn (motive := fun t : State => t.boot = s.boot) _ _ rfl (fun t ht i _ => ?_)
    split
    · simpa only [writeByte] using ht
    · exact ht
  unfold putByte
  dsimp only
  split
  · simp only [writeByte, setFlip, setPar, setState, hrow]
  · rfl

theorem putBytes_boot (s : State) (a : Nat) (l : List Byte) : (putBytes s a l).boot = s.boot := by
  induction l generalizing s a with
  | nil => rfl
  | cons v l ih => exact (ih _ _).trans (putByte_boot s a v)

theorem putSram_boot (s : State) (a : Nat) (l : List Byte) : (putSram s a l).boot = s.boot := by
  induction l generalizing s a with
  | nil => rfl
  | cons v l ih => exact ih _ _

theorem placeSections_boot (s : State) : (placeSections s).boot = s.boot := by
  unfold placeSections
  dsimp only
  refine (putBytes_boot _ _ _).trans ?_
  refine List.foldlRecOn (motive := fun t : State => t.boot = s.boot) _ _ rfl (fun t ht x _ => ?_)
  split
  · exact (putSram_boot _ _ _).trans ht
  · split
    · exact (putBytes_boot _ _ _).trans ht
    · exact ht

/-- A complete image reaches its places, and its CRC decides. -/
theorem endPass_complete {s : State} (h : ¬ s.boot.img.length < slotLen (selRecord s)) (hl : 256 ≤ s.boot.img.length) :
    endPass s = if imageCrc s.boot.img = imgNat s.boot.img 0x18 4
      then setF (placeSections (passCounted s)) F.MSH_BOOT_STAGE 6 else failSlot (placeSections (passCounted s)) 4 := by
  have himg : (placeSections (passCounted s)).boot.img = s.boot.img := by rw [placeSections_boot]; rfl
  rw [← selRecord_passCounted] at h
  unfold endPass
  dsimp only
  refine (if_neg h).trans ((if_neg (Nat.not_lt.2 hl)).trans ?_)
  change (if imageCrc (placeSections (passCounted s)).boot.img = imgNat (placeSections (passCounted s)).boot.img 0x18 4
    then _ else _) = _
  rw [himg]
  rfl

-- ## APPLY (R638)

theorem leBytes_lt (l : List Byte) : leBytes l < 256 ^ l.length := by
  induction l with
  | nil => exact Nat.one_pos
  | cons b l ih =>
    have hb : b.toNat < 256 := b.isLt
    rw [leBytes, List.length_cons, Nat.pow_succ]
    omega

theorem imgNat_lt (l : List Byte) (o n : Nat) : imgNat l o n < 256 ^ n :=
  Nat.lt_of_lt_of_le (leBytes_lt _) (Nat.pow_le_pow_right (by decide) (List.length_take_le _ _))

/-- The firmware starts at ENTRY and roll-call begins; the reset is not noted yet (R619). -/
def firmwareStarted (s : State) : State :=
  setF { s with msh := { s.msh with entry := imgNat s.boot.img 0x14 4, hb := now s },
                boot := { s.boot with img := [], on := false } } F.GLB_RC_STAT_STEP 1

/-- The start of the firmware notes the reset after a cold start and does no more. -/
theorem startFirmware_noted (s : State) : Noted (firmwareStarted s) (startFirmware s) :=
  .ite ((logEvt_noted _ _ _ _ _ _ _ _ _).trans (trcPush_noted _ _)) (.refl _)

theorem getF_startFirmware_step (s : State) : getF (startFirmware s) F.GLB_RC_STAT_STEP = 1 :=
  ((startFirmware_noted s).1 _ (by decide)).trans (getF_setF_same _ _ _)

theorem getF_startFirmware_other (s : State) {f : Fld} (hf : f.key ∉ noteKeys) (hstep : f.key ≠ F.GLB_RC_STAT_STEP.key) :
    getF (startFirmware s) f = getF s f := ((startFirmware_noted s).1 f hf).trans (getF_setF_other _ _ hstep)

theorem endApply_shows (s : State) : getF (endApply s) F.MSH_BOOT_STAGE = 8 ∧ getF (endApply s) F.GLB_RC_STAT_STEP = 1
    ∧ getF (endApply s) F.MSH_IMG_IMG_SEQ = imgNat s.boot.img 0x10 4 := by
  unfold endApply
  extract_lets s1 s2
  refine ⟨?_, getF_startFirmware_step _, ?_⟩
  · rw [getF_startFirmware_other _ (by decide) (by decide), getF_setF_same]
    rfl
  · rw [getF_startFirmware_other _ (by decide) (by decide), getF_setF_other _ _ (by decide)]
    refine (getF_setF_other _ _ (by decide)).trans ((getF_setF_same _ _ _).trans ?_)
    exact Nat.mod_eq_of_lt (imgNat_lt _ _ 4)

-- ## The statement

/-- From stage ROLLCALL on, boot stands in none of the stages before it. -/
theorem bootAt_of_later {s : State} (h : 8 ≤ getF s F.MSH_BOOT_STAGE) {g : Nat} (hg : g < 8) : bootAt s g = false := by
  have hne : (getF s F.MSH_BOOT_STAGE == g) = false := beq_false_of_ne (by omega)
  simp [bootAt, hne]

/-- Settles O48, one clause per stage. -/
theorem bootStagesAdvance : Obligations.BootStagesAdvance := by
  intro s hp hr hv ha stage
  have hat {g : Nat} (h : stage = g) : bootAt s g = true := (bootAt_eq hp hr hv ha g).trans (beq_iff_eq.2 h)
  refine ⟨fun r h hc hm hf => ?bist, fun h => ⟨if_pos (hat h), if_pos (hat h)⟩, fun h => if_pos (hat h),
    fun b h hb => ?directory, fun b h hb hon hslot hgap => ?data, fun b h hb hon hslot => ?pass, fun h => ?auth,
    fun h => ?apply, fun h b r => ?later⟩
  case bist =>
    obtain ⟨hgst, hmem, hactive, hdone⟩ := bist_bootOtp (startMarshals s []) r
    exact ⟨_, execBistDone_at r (hat h) hc hm hf, hgst, hmem, hactive.trans (startMarshals_activeM hf), hdone,
      bootOtp_stage _⟩
  case directory =>
    exact ⟨_, if_pos (by rw [hat h, hb]; rfl), takeDirectory_fails, takeDirectory_selects h⟩
  case data =>
    intro k l
    have hexec : exec (.data b) s = _ := execData_at (hat h) hb hon hslot hgap
    rw [hexec]
    refine ⟨fun hk hgood => ?_, fun hk hbad => ?_, fun hk => ?_, fun hk => if_pos hk⟩
    · rw [if_neg (Nat.not_lt.2 hk.ge), if_pos hk, takeBytes, if_neg (by rw [hgood]; decide)]
    · rw [if_neg (Nat.not_lt.2 hk.ge), if_pos hk, takeBytes, if_pos hbad]
    · rw [if_neg (Nat.not_lt.2 hk.le), if_neg hk.ne']
  case pass =>
    intro n short
    have hexec : exec (.endOfPass b) s = .next (endPass s) := execEndOfPass_at (hat h) hb hon hslot
    rw [hexec]
    refine ⟨fun hs hn => ?_, fun hs hn => ⟨_, rfl, ?_⟩, fun hs hl hcrc => ⟨_, rfl, ?_⟩, fun hs hl hcrc => ⟨_, rfl, ?_⟩⟩
    · rw [endPass_short hs, if_neg (Nat.not_le.2 hn)]
      rfl
    · have hsame : getF (passCounted s) F.MSH_BOOT_SLOT = getF s F.MSH_BOOT_SLOT := getF_setF_other _ _ (by decide)
      rw [endPass_short hs, if_pos hn, ← hsame]
      exact ⟨getF_failSlot_cause _ 2, bitAt_failSlot_bad _ 2, getF_failSlot_stage _ 2⟩
    · rw [endPass_complete hs hl, if_pos hcrc]
      exact getF_setF_same _ _ _
    · rw [endPass_complete hs hl, if_neg hcrc]
      exact ⟨getF_failSlot_stage _ 4, getF_failSlot_cause _ 4⟩
  case auth =>
    have hexec : exec .authDone s = execAuthDone s := rfl
    rw [hexec, execAuthDone, hat h]
    refine ⟨fun hk => ?_, fun hk hs => ?_, fun hk hs => ⟨fun harb => ?_, fun harb hrole => ?_⟩⟩
    · simp [hk]
    · simp [hk, hs]
    · simp [hk, hs, harb]
    · simp [hk, hs, Nat.not_lt.2 harb, hrole]
  case apply =>
    have hexec : exec .applyDone s = .next (if (applyAll s).1 then endApply (applyAll s).2 else failSlot (applyAll s).2 8) :=
      if_neg (by rw [hat h]; decide)
    rw [hexec]
    refine ⟨fun hok => ⟨_, rfl, ?_⟩, fun hbad => ?_⟩
    · rw [if_pos hok]
      exact endApply_shows _
    · rw [if_neg (by rw [hbad]; decide)]
  case later =>
    have hno {g : Nat} (hg : g < 8) : bootAt s g = false := bootAt_of_later h hg
    simp [exec, execBistDone, execRefReady, execRefclkTimeout, execPllLock, execDirectory, execData, execEndOfPass,
      execAuthDone, execApplyDone, hno]

end Sys2Proof.Machine
end

section
/-! SUPPORT. A packet at a lane: where each row of a request packet leads, and what is done with a packet that does not reach
its lane or that check 1 or 2 drops (R142, R170, R171). Settles O24. -/

namespace Sys2Proof.Machine

-- ## The rows of request packets (R151)

theorem exec_of_dataRow {op : Nat} {p : LanePkt} {c : Instr} (s : State) (h : dataRow p op = some c) :
    exec c s = .next (lanePacket op p s) := by
  unfold dataRow at h
  split at h <;> cases h <;> rfl

theorem exec_of_otherRow {op : Nat} {p : LanePkt} {c : Instr} (s : State) (h : otherRow p op = some c) :
    exec c s = .next (lanePacket op p s) := by
  unfold otherRow at h
  split at h <;> cases h <;> rfl

/-- Every row of a request packet is that packet at its lane. -/
theorem exec_of_requestRow {op : Nat} {p : LanePkt} {c : Instr} (s : State)
    (h : dataRow p op = some c ∨ otherRow p op = some c ∨ (op = 0x16 ∧ c = .paceLaunch p)) :
    exec c s = .next (lanePacket op p s) := by
  rcases h with h | h | ⟨rfl, rfl⟩
  · exact exec_of_dataRow s h
  · exact exec_of_otherRow s h
  · rfl

-- ## Packets that no check of R173 sees

/-- What a lane turns away is what `reachesLane` leaves out. -/
theorem lanePacket_guard (op : Nat) (p : LanePkt) (s : State) :
    (decide (64 ≤ p.lane) || decide (3 ≤ p.ch) || p.flits == 0 || !ofRow op p || !chanUp s p.lane p.ch || !arrayRuns s
      || portsHeld s) = !reachesLane op p s := by
  simp [reachesLane, Bool.not_and, ← decide_not, beq_eq_decide]

theorem lanePacket_of_not_reaches {op : Nat} {p : LanePkt} {s : State} (hr : reachesLane op p s = false) :
    lanePacket op p s = s := by
  rw [lanePacket, lanePacket_guard, hr]
  rfl

/-- A packet that exceeds its credits is dropped and leaves the credits of its channel as they were (R170). -/
theorem lanePacket_of_overdrawn {op : Nat} {p : LanePkt} {s : State} (hr : reachesLane op p s = true)
    (hd : dropCause s p (beatsIn (decodeHdr p.hdr)) = some 3) :
    lanePacket op p s = setChan (dropPacket s p 3) (p.lane * 3 + p.ch)
      { chanOf (dropPacket s p 3) (p.lane * 3 + p.ch) with
        hAvail := (chanOf s (p.lane * 3 + p.ch)).hAvail, dAvail := (chanOf s (p.lane * 3 + p.ch)).dAvail } := by
  rw [lanePacket, lanePacket_guard, hr, hd]
  rfl

/-- A packet with any other fault takes its credits, and its drop returns them. -/
theorem lanePacket_of_dropped {op k : Nat} {p : LanePkt} {s : State} (hr : reachesLane op p s = true)
    (hd : dropCause s p (beatsIn (decodeHdr p.hdr)) = some k) (hk : k ≠ 3) :
    lanePacket op p s = dropPacket (creditsIn s p) p k := by
  rw [lanePacket, lanePacket_guard, hr, hd]
  simp

/-- Settles O24, one rule of a lane per clause. -/
theorem badPacketsAreDropped : Obligations.BadPacketsAreDropped := by
  intro op p c s hrow id
  rw [exec_of_requestRow s hrow]
  refine ⟨fun hr => ?notReached, fun hr => ⟨fun k hd hk => ?dropped, fun hd => ?overdrawn⟩⟩
  case notReached => exact congrArg _ (lanePacket_of_not_reaches hr)
  case dropped => exact congrArg _ (lanePacket_of_dropped hr hd hk)
  case overdrawn => exact congrArg _ (lanePacket_of_overdrawn hr hd)

end Sys2Proof.Machine
end

section
/-! SUPPORT. The channels of a lane and their credits: the state of one channel after it is replaced, a link that trains or is
lost, and credits that return (R167, R169, R172, R183, R401, R402). Settles O25. -/

namespace Sys2Proof.Machine

-- ## One channel of the list

@[simp] theorem chanOf_setChan_same (s : State) (id : Nat) (c : Chan) : chanOf (setChan s id c) id = c :=
  Sparse.at_set_same _ _ _ _

theorem chanOf_setChan_other (s : State) {id k : Nat} (c : Chan) (h : k ≠ id) : chanOf (setChan s id c) k = chanOf s k :=
  Sparse.at_set_other _ _ _ _ h

@[simp] theorem getF_setChan (s : State) (id : Nat) (c : Chan) (f : Fld) : getF (setChan s id c) f = getF s f := rfl

/-- A channel whose link has trained is up when its CH_EN is 1 (R169). -/
theorem chanUp_setChan_trained {s : State} {lane ch : Nat} {c : Chan} (hc : c.linkUp = true) :
    chanUp (setChan s (lane * 3 + ch) c) lane ch = bitAt (getF s (F.LANE_CTL_CH_EN lane)) ch := by
  simp [chanUp, hc]

-- ## A link that is lost (R169, R183)

/-- A channel whose link is lost: no credits at the core, and what waited for its WAKE_LEAD held (R163). -/
theorem chanOf_channelDown_same (s : State) (lane ch : Nat) :
    chanOf (channelDown s lane ch) (lane * 3 + ch) =
      { chanOf s (lane * 3 + ch) with
        linkUp := false, hAvail := 0, dAvail := 0, owed := 0, lead := [],
        heldOut := (chanOf s (lane * 3 + ch)).heldOut ++ (chanOf s (lane * 3 + ch)).lead.map (fun x => x.2) } := by
  simp [channelDown, channelOff]

theorem chanOf_channelDown_other (s : State) {lane ch k : Nat} (h : k ≠ lane * 3 + ch) :
    chanOf (channelDown s lane ch) k = chanOf s k := by
  rw [channelDown, channelOff, chanOf_setChan_other _ _ h, chanOf_setChan_other _ _ h]

theorem channelDown_regs (s : State) (lane ch : Nat) : (channelDown s lane ch).regs = s.regs := rfl

theorem exec_channelDown_up {lane ch : Nat} {s : State} (hl : lane < 64) (hc : ch < 3)
    (hup : (chanOf s (lane * 3 + ch)).linkUp = true) : exec (.channelDown lane ch) s = .next (channelDown s lane ch) :=
  if_neg (by simp [hl, hc, hup])

theorem exec_channelDown_down {lane ch : Nat} {s : State} (hdown : (chanOf s (lane * 3 + ch)).linkUp = false) :
    exec (.channelDown lane ch) s = .next s :=
  if_pos (by simp [hdown])

-- ## A link that trains (R167, R169)

theorem exec_channelUp_up {lane ch : Nat} {s : State} (hup : (chanOf s (lane * 3 + ch)).linkUp = true) :
    exec (.channelUp lane ch) s = .next s :=
  if_pos (by simp [hup])

/-- In Doze and Off no link trains. -/
theorem exec_channelUp_asleep (lane ch : Nat) {s : State} (h : aonState s = 1 ∨ aonState s = 3) :
    exec (.channelUp lane ch) s = .next s :=
  if_pos (by simp only [Bool.or_eq_true, beq_iff_eq]; tauto)

/-- A link that trains starts the expiry of its lane's records; where no record is a lane's, the list stays. -/
theorem map_expiry_of_no_lane {l : List Dedup} {lane t : Nat} (h : ∀ d ∈ l, d.lane = false) :
    l.map (fun d => if d.lane && d.req / 3 == lane && d.expiry == never then { d with expiry := t } else d) = l := by
  refine (List.map_congr_left fun d hd => ?_).trans (List.map_id l)
  simp [h d hd]

/-- A link that trains brings its channel up, with its INIT packet where CH_EN is 1 (R167). -/
theorem exec_channelUp_trains {lane ch : Nat} {s : State} (hl : lane < 64) (hc : ch < 3)
    (hdown : (chanOf s (lane * 3 + ch)).linkUp = false) (hdoze : aonState s ≠ 1) (hoff : aonState s ≠ 3)
    (hd : ∀ d ∈ s.dedup, d.lane = false) :
    let u := setChan s (lane * 3 + ch) { chanOf s (lane * 3 + ch) with linkUp := true }
    exec (.channelUp lane ch) s
      = .next (if bitAt (getF s (F.LANE_CTL_CH_EN lane)) ch = true then channelInit u lane ch else u) := by
  intro u
  have hgoes : (decide (64 ≤ lane) || decide (3 ≤ ch) || (chanOf s (lane * 3 + ch)).linkUp || aonState s == 1
      || aonState s == 3) = false := by
    simp [hl, hc, hdown, hdoze, hoff]
  have hup : chanUp u lane ch = bitAt (getF s (F.LANE_CTL_CH_EN lane)) ch := chanUp_setChan_trained rfl
  have hexec : exec (.channelUp lane ch) s = execChannelUp lane ch s := rfl
  simp only [hexec, execChannelUp, hgoes, Bool.false_eq_true, if_false, map_expiry_of_no_lane hd]
  rw [← hup]

-- ## Credits that no header has carried (R172)

theorem exec_creditReturnTimeout_due {lane ch : Nat} {s : State} (hruns : arrayRuns s = true) (hl : lane < 64) (hc : ch < 3)
    (hup : chanUp s lane ch = true) (howed : (chanOf s (lane * 3 + ch)).owed ≠ 0)
    (hdue : (chanOf s (lane * 3 + ch)).owed + 63 ≤ s.cad.cycles) :
    exec (.creditReturnTimeout lane ch) s = .next (launchLane s ⟨lane, ch, 5, []⟩) := by
  have hexec : exec (.creditReturnTimeout lane ch) s = execCreditReturnTimeout lane ch s := rfl
  simp [hexec, execCreditReturnTimeout, hruns, hl, hc, hup, howed, hdue]

/-- Nothing leaves while no return is owed, or before its 64 array cycles. -/
theorem exec_creditReturnTimeout_early {lane ch : Nat} {s : State}
    (h : (chanOf s (lane * 3 + ch)).owed = 0 ∨ s.cad.cycles < (chanOf s (lane * 3 + ch)).owed + 63) :
    exec (.creditReturnTimeout lane ch) s = .next s := by
  have hexec : exec (.creditReturnTimeout lane ch) s = execCreditReturnTimeout lane ch s := rfl
  rw [hexec, execCreditReturnTimeout]
  rcases h with h | h
  · simp [h]
  · simp [Nat.not_le.2 h]

-- ## A CREDIT packet of a core (R401, R402)

/-- A CREDIT packet that no check drops takes its credit and has it returned; only on the D channel does it reach a stream. -/
theorem exec_coreCreditPacket_taken {p : LanePkt} {s : State} (hruns : arrayRuns s = true) (hl : p.lane < 64) (hc : p.ch < 3)
    (hf : 1 ≤ p.flits) (hports : portsHeld s = false) (hup : chanUp s p.lane p.ch = true)
    (hpt : bits p.hdr.toNat 0 4 = 5) (hdrop : dropCause s p 0 = none) :
    let q := bits p.hdr.toNat 4 4
    let u := giveCredits (creditsIn s p) (p.lane * 3 + p.ch) 1 0
    exec (.coreCreditPacket p) s = .next (if p.ch = 2
      then takeCredit u p.lane q (bits p.hdr.toNat 8 2) (bits p.hdr.toNat 10 16)
      else incF u (F.PACER_CRD_ERR_CRD_ERR_CNT q) 1) := by
  intro q u
  have hexec : exec (.coreCreditPacket p) s = execCoreCreditPacket p s := rfl
  have hflits : p.flits ≠ 0 := Nat.one_le_iff_ne_zero.1 hf
  have hgoes : (decide (64 ≤ p.lane) || decide (3 ≤ p.ch) || p.flits == 0 || bits p.hdr.toNat 0 4 != 5
      || !chanUp s p.lane p.ch || portsHeld s) = false := by
    simp [hl, hc, hflits, hpt, hup, hports]
  simp only [hexec, execCoreCreditPacket, hruns, hgoes, hdrop, Bool.not_true, Bool.false_eq_true, if_false, bne_iff_ne, ne_eq,
    ite_not, q, u]
  exact (apply_ite _ _ _ _).symm

/-- Settles O25, one rule of a channel per clause. -/
theorem channelsAndTheirCredits : Obligations.ChannelsAndTheirCredits := by
  refine ⟨?links, ?timeout, ?credit⟩
  case links =>
    intro lane ch s hl hc id c
    refine ⟨fun hup => ?lost, exec_channelDown_down, fun _ => exec_channelUp_asleep lane ch,
      fun hdown hdoze hoff hd => ?trains⟩
    case lost =>
      exact ⟨exec_channelUp_up hup, _, exec_channelDown_up hl hc hup, fun _ => chanOf_channelDown_other s,
        channelDown_regs s lane ch, chanOf_channelDown_same s lane ch⟩
    case trains =>
      have hexec := exec_channelUp_trains hl hc hdown hdoze hoff hd
      refine ⟨fun h => hexec.trans (congrArg _ (if_neg ?_)), fun h => hexec.trans (congrArg _ (if_pos ?_))⟩
      · exact ne_true_of_eq_false ((bits_eq_zero_iff _ _).1 h)
      · exact (bits_eq_one_iff _ _).1 h
  case timeout =>
    intro lane ch s hruns hl hc hup since
    exact ⟨exec_creditReturnTimeout_due hruns hl hc hup, exec_creditReturnTimeout_early⟩
  case credit =>
    intro p s hruns hl hc hf hports hup hpt hdrop q u
    have hexec := exec_coreCreditPacket_taken hruns hl hc hf hports hup hpt hdrop
    exact ⟨fun h => hexec.trans (congrArg _ (if_pos h)), fun h => hexec.trans (congrArg _ (if_neg h))⟩

end Sys2Proof.Machine
end

section
/-! SUPPORT. A PACE_LAUNCH at check 11: what its stream, its pacer, the journal and the buckets of its window let through
(R265, R380, R381, R575). Settles O23. -/

namespace Sys2Proof.Machine

-- ## The row of a launch (R142, R151)

/-- Every row but READ's takes request packets of its own OP alone. -/
theorem op_of_ofRow {op : Nat} {p : LanePkt} (hop : op ≠ 0) (h : ofRow op p = true) : (decodeHdr p.hdr).op = op := by
  have hbits : bits p.hdr.toNat 4 5 = op := by
    by_cases hpt : bits p.hdr.toNat 0 4 = 0
    · simpa [ofRow, hpt, hop] using h
    · simp [ofRow, hpt, hop] at h
  exact hbits

/-- A presented packet of the row of PACE_LAUNCH is a launch. -/
theorem op_of_presented_launch {p : LanePkt} {s t u : State} {r : Request} (hr : reachesLane 0x16 p s = true)
    (h : presented? p t = some (r, u)) : r.h.op = 0x16 := by
  obtain ⟨-, -, -, hrow, -, -, -⟩ := reachesLane_iff.1 hr
  rw [(presented_keeps_packet h).2]
  exact op_of_ofRow (by decide) hrow

-- ## Check 11 of a launch (R247, R265)

/-- Where no pause stands, a launch without an attached signal meets the checks of its stream, with its promised time. -/
theorem check11_of_launch {s : State} {r : Request} (hop : r.h.op = 0x16) (hatt : r.h.attEn = false)
    (hpause : pauseOf s r.h.cls = none) :
    check11 s r = launchCheck s { r with promise := promiseOf s r.h r.trx } := by
  simp [check11, hop, hatt, hpause]

/-- A launch of a free stream of an enabled pacer, with room in the journal, is accepted once its window is charged. -/
theorem launchCheck_of_admitted {s t : State} {r : Request} {bf n : Nat}
    (hfree : findTask s (bits r.h.arg 0 4) (bits r.h.arg 4 2) = none)
    (hen : getF s (F.PACER_CTL_EN (bits r.h.arg 0 4)) = 1) (hroom : jnlRoom s 4 = true)
    (hadm : decideTask s (r.beats.headD 0).toNat (bits r.h.arg 0 4) r.h.part r.trx
        (launchEnd (r.beats.headD 0).toNat r.trx r.promise) = (.admitted (.task bf n), t)) :
    launchCheck s r = accept (loadTask t r (r.beats.headD 0).toNat bf n) r (.task bf n) := by
  have hon : flagF s (F.PACER_CTL_EN (bits r.h.arg 0 4)) = true := by simp [flagF, hen]
  simp only [launchCheck, hfree, hon, hroom, hadm, Bool.not_true, Bool.false_eq_true, if_false]

/-- Settles O23: the packet is presented, check 11 meets no pause, and the stream takes the task. -/
theorem paceLaunchIsAccepted : Obligations.PaceLaunchIsAccepted := by
  intro p s u w r0 bf n hr hf hpres r b q hatt hpause hfree hen hroom hadm
  have hlane : lanePacket 0x16 p s = check11 u r0 :=
    (lanePacket_of_firstSending hr hf).trans (newRequest_of_presented hpres)
  have hcheck : check11 u r0 = launchCheck u r := check11_of_launch (op_of_presented_launch hr hpres) hatt hpause
  have hexec : exec (.paceLaunch p) s = .next (lanePacket 0x16 p s) := exec_of_requestRow s (.inr (.inr ⟨rfl, rfl⟩))
  rw [hexec, hlane, hcheck, launchCheck_of_admitted hfree hen hroom hadm]

end Sys2Proof.Machine
end

section
/-! SUPPORT. What a command's result writes: the marshal's part of the state that it leaves alone (every part but the command
that runs and the list of those that have ended), and the words of the mailbox (R576, R580, R644). -/

namespace Sys2Proof.Machine

-- ## Operations that leave the marshal's part of the state alone

@[simp] theorem putReq_msh (s : State) (r : Request) : (putReq s r).msh = s.msh := rfl

/-- The notes of an event leave the marshal. -/
theorem Noted.msh {s t : State} (h : Noted s t) : t.msh = s.msh := by
  have hsame := congrArg (fun u : State => u.msh) h.2
  exact hsame

@[simp] theorem irqIf_msh (s : State) (en : Fld) (n : Nat) : (irqIf s en n).msh = s.msh := (irqIf_noted s en n).msh

@[simp] theorem ctrEvent_msh (s : State) (ev u n : Nat) (c : EvCtx) : (ctrEvent s ev u n c).msh = s.msh :=
  (ctrEvent_noted s ev u n c).msh

theorem foldl_msh {α : Type} {g : State → α → State} (h : ∀ t x, (g t x).msh = t.msh) (l : List α) (s : State) :
    (l.foldl g s).msh = s.msh :=
  foldl_related (R := fun s t => t.msh = s.msh) (fun _ => rfl) (fun h g => g.trans h) h l s

-- ## Admission of the marshal's accesses (R247, R254)

@[simp] theorem bookCoarse_msh (s : State) (step k : Nat) (c : Charge) : (bookCoarse s step k c).msh = s.msh := rfl

@[simp] theorem notePeak_msh (s : State) (b : Nat) (c : Charge) : (notePeak s b c).msh = s.msh :=
  foldl_msh (fun t _ => by dsimp only; split <;> rfl) c.tracks s

@[simp] theorem bookFine_msh (s : State) (step b : Nat) (c : Charge) : (bookFine s step b c).msh = s.msh :=
  (notePeak_msh _ b c).trans rfl

@[simp] theorem countRef_msh (s : State) (bf be : Nat) (c : Charge) : (countRef s bf be c).msh = s.msh := by
  unfold countRef
  dsimp only
  split <;> rfl

theorem decideAdm_msh (s : State) (trx promise : Nat) (c : Charge) : (decideAdm s trx promise c).2.msh = s.msh := by
  unfold decideAdm
  dsimp only
  repeat' split
  all_goals simp only [bookFine_msh, bookCoarse_msh, countRef_msh]

theorem admission_msh (s : State) (cls trx promise : Nat) (c : Charge) : (admission s cls trx promise c).2.msh = s.msh := by
  unfold admission
  split
  · rfl
  · split
    · rfl
    · exact decideAdm_msh s trx promise c

/-- An accepted access of the marshal waits for its release. -/
theorem accept_msh {r : Request} (s : State) (pl : Place) (horg : r.org = .marshal) (hdata : isData r.h.op = true) :
    (accept s r pl).msh = s.msh := by
  have hlaunch : r.h.op ≠ 0x16 := fun e => absurd (e ▸ hdata) (by decide)
  unfold accept
  dsimp only
  rw [horg]
  dsimp only
  rw [if_neg hlaunch, proceed, if_pos (by simp only [hdata, Bool.true_or]), putReq_msh, ctrEvent_msh]

theorem submitUnit_msh {s u : State} {r : Request} (horg : r.org = .marshal) (hdata : isData r.h.op = true)
    (h : submitUnit s r = some u) : u.msh = s.msh := by
  unfold submitUnit at h
  dsimp only at h
  split at h
  · rename_i pl s1 hadm
    cases h
    have hbook := admission_msh s r.h.cls (now s) (min (promisedTime s r.h.cls (now s) 0) (horizonEnd s)) (chargeOf r 0).1
    rw [hadm] at hbook
    refine (accept_msh s1 pl ?_ ?_).trans hbook
    · exact horg
    · exact hdata
  · cases h

theorem submitBridge_msh {r : Request} (s : State) (horg : r.org = .marshal) (hdata : isData r.h.op = true) :
    (submitBridge s r).msh = s.msh := by
  unfold submitBridge
  dsimp only
  split
  · cases hsub : submitUnit { s with reqs := s.reqs ++ [r], nextId := s.nextId + 1 } r with
    | none => rfl
    | some u => exact (submitUnit_msh horg hdata hsub).trans rfl
  · rfl

-- ## The journal entry of a command

@[simp] theorem jnlWrite_msh (s : State) (e : JEntry) (st : Nat) : (jnlWrite s e st).msh = s.msh := by
  unfold jnlWrite
  dsimp only
  split <;> rfl

/-- The entry found after it was replaced is the new one. -/
theorem findEntry_putEntry {s : State} {e x : JEntry} (h : findEntry (putEntry s e) e.seq = some x) : x = e := by
  obtain ⟨y, -, hy⟩ := List.mem_map.1 (List.mem_of_find?_eq_some h)
  have hseq : x.seq = e.seq := by simpa using List.find?_some h
  split at hy
  · exact hy.symm
  · rename_i hne
    exact absurd hseq (by simpa [← hy] using hne)

/-- An entry that was written keeps its answer. -/
theorem ans_of_findEntry_jnlWrite {s : State} {e x : JEntry} {st : Nat} (h : findEntry (jnlWrite s e st) e.seq = some x) :
    x.ans = e.ans := by
  unfold jnlWrite at h
  dsimp only at h
  split at h
  · rw [findEntry_putEntry (s := s) (e := { e with state := st, states := e.states ++ [(st, now s)] }) h]
  · rw [findEntry_putEntry (s := s) (e := { e with state := st }) h]

/-- The end of an entry that holds no answer. -/
theorem jnlFinish_msh (s : State) (e : JEntry) (code cause value sm : Nat) :
    (jnlFinish s e code cause value sm none).msh = s.msh := by
  have hcount : (if code = 6 then incF s F.JNL_CNT_ABANDONED 1 else s).msh = s.msh := by split <;> rfl
  unfold jnlFinish
  dsimp only
  split
  · rw [jnlWrite_msh, hcount]
  · split
    · rename_i x hx
      have hans := ans_of_findEntry_jnlWrite
        (e := { e with code := code, cause := cause, value := value, stainMap := sm, ans := none }) hx
      simp only [jnlClose, hans, dropEntry, jnlWrite_msh, hcount]
    · rw [jnlWrite_msh, hcount]

-- ## The result in a mailbox (R642, R644)

/-- The source whose results mailbox `m` shows. -/
def mailboxSrc (m : Nat) : CmdSrc := if m = 0 then .supervisor else .debug

/-- Mailbox `m` after the result words `w` have been written to it. -/
def mailed (m w : Nat) (s : State) : State :=
  setF (setF ((List.range 4).foldl (fun t i => setF t (F.MSH_MB_R_WORD m i) (bits w (32 * i) 32)) s) (F.MSH_MB_CTL_BUSY m) 0)
    (F.MSH_MB_CTL_DONE m) 1

theorem cmdResult_mailbox {m : Nat} (hm : m < 2) (s : State) (words idx code cause value : Nat) :
    cmdResult s (mailboxSrc m) words idx code cause value
      = irqIf (mailed m (resultWords words code cause value) s) (F.MSH_MB_CTL_IRQ_EN m) 9 := by
  obtain rfl | rfl : m = 0 ∨ m = 1 := by omega
  · rfl
  · rfl

theorem getF_mailed_busy (m w : Nat) (s : State) : getF (mailed m w s) (F.MSH_MB_CTL_BUSY m) = 0 := by
  rw [mailed, getF_setF_other _ _ (by simp [Fld.key, F.MSH_MB_CTL_BUSY, F.MSH_MB_CTL_DONE]), getF_setF_same, Nat.zero_mod]

theorem getF_mailed_done (m w : Nat) (s : State) : getF (mailed m w s) (F.MSH_MB_CTL_DONE m) = 1 := getF_setF_same _ _ _

/-- Fields of a family that lie at distinct places each read as the value stored in them. -/
theorem getF_foldl_setF {f : Nat → Fld} (hinj : ∀ i j, i ≠ j → (f i).key ≠ (f j).key) (v : Nat → Nat) {l : List Nat}
    {n : Nat} (hn : n ∈ l) (s : State) : getF (l.foldl (fun t i => setF t (f i) (v i)) s) (f n) = v n % 2 ^ (f n).w := by
  induction l using List.reverseRecOn with
  | nil => exact absurd hn List.not_mem_nil
  | append_singleton l i ih =>
    rw [List.foldl_append, List.foldl_cons, List.foldl_nil]
    by_cases hi : n = i
    · rw [hi, getF_setF_same]
    · rw [getF_setF_other _ _ (hinj n i hi)]
      exact ih (by simpa [hi] using hn)

/-- A field at another place than those of a family reads as before the family was written. -/
theorem getF_foldl_setF_other {f : Nat → Fld} {g : Fld} (h : ∀ i, g.key ≠ (f i).key) (v : Nat → Nat) (l : List Nat)
    (s : State) : getF (l.foldl (fun t i => setF t (f i) (v i)) s) g = getF s g :=
  foldl_related (R := fun s t => getF t g = getF s g) (fun _ => rfl) (fun h g => g.trans h)
    (fun t i => getF_setF_other t (v i) (h i)) l s

theorem getF_mailed_word (m w : Nat) (s : State) {i : Nat} (hi : i < 4) :
    getF (mailed m w s) (F.MSH_MB_R_WORD m i) = bits w (32 * i) 32 := by
  have hctl : ∀ f : Fld, f = F.MSH_MB_CTL_BUSY m ∨ f = F.MSH_MB_CTL_DONE m → (F.MSH_MB_R_WORD m i).key ≠ f.key := by
    rintro f (rfl | rfl) <;> simp only [Fld.key, F.MSH_MB_R_WORD, F.MSH_MB_CTL_BUSY, F.MSH_MB_CTL_DONE] <;> omega
  have hword : ∀ i j, i ≠ j → (F.MSH_MB_R_WORD m i).key ≠ (F.MSH_MB_R_WORD m j).key := by
    intro i j hij
    simp only [Fld.key, F.MSH_MB_R_WORD]
    omega
  rw [mailed, getF_setF_other _ _ (hctl _ (.inr rfl)), getF_setF_other _ _ (hctl _ (.inl rfl)),
    getF_foldl_setF hword (fun i => bits w (32 * i) 32) (List.mem_range.2 hi)]
  exact bits_mod _ _ _

/-- The interrupt of a mailbox leaves its registers. -/
theorem getF_irqIf {f : Fld} (hf : f.key ∉ noteKeys) (s : State) (en : Fld) (n : Nat) : getF (irqIf s en n) f = getF s f :=
  (irqIf_noted s en n).1 f hf

/-- The fields of the mailboxes lie behind those that a noted event changes. -/
theorem mailbox_not_noted {f : Fld} (h : 0x70240 ≤ f.off) : f.key ∉ noteKeys := by
  have hkeys : ∀ k ∈ noteKeys, k < 8 * 0x70240 := by decide
  intro hf
  have hlt := hkeys _ hf
  have hkey : f.key = 8 * f.off + f.lo := rfl
  omega

/-- Four fields of a word, the first at bit 0. -/
theorem fieldsWord_four (a b c d i j k : Nat) :
    fieldsWord [(0, a), (i, b), (j, c), (k, d)] = a + 2 ^ i * b + 2 ^ j * c + 2 ^ k * d := by
  simp only [fieldsWord, List.foldl_cons, List.foldl_nil, pow_zero, mul_one, Nat.zero_add, Nat.mul_comm]

theorem resultWords_eq (words code cause value : Nat) : resultWords words code cause value
    = code + 2 ^ 8 * cause + 2 ^ 16 * cmdUser words + 2 ^ 32 * (value % 2 ^ 64) := fieldsWord_four _ _ _ _ _ _ _

/-- R0: CODE, CAUSE and USER. -/
theorem bits_resultWords_0 {code cause : Nat} (words value : Nat) (hcode : code < 8) (hcause : cause < 256) :
    bits (resultWords words code cause value) 0 32 = code + 2 ^ 8 * cause + 2 ^ 16 * cmdUser words := by
  have huser : cmdUser words < 2 ^ 16 := bits_lt _ _ _
  rw [resultWords_eq, bits]
  omega

/-- R1: the low half of VALUE. -/
theorem bits_resultWords_1 {code cause : Nat} (words value : Nat) (hcode : code < 8) (hcause : cause < 256) :
    bits (resultWords words code cause value) 32 32 = value % 2 ^ 32 := by
  have huser : cmdUser words < 2 ^ 16 := bits_lt _ _ _
  rw [resultWords_eq, bits]
  omega

/-- R2: the high half of VALUE. -/
theorem bits_resultWords_2 {code cause value : Nat} (words : Nat) (hcode : code < 8) (hcause : cause < 256)
    (hvalue : value < 2 ^ 64) : bits (resultWords words code cause value) 64 32 = value / 2 ^ 32 := by
  have huser : cmdUser words < 2 ^ 16 := bits_lt _ _ _
  rw [resultWords_eq, bits]
  omega

-- ## The result of a command

@[simp] theorem mailed_msh (m w : Nat) (s : State) : (mailed m w s).msh = s.msh := rfl

theorem cmdResult_msh (s : State) (src : CmdSrc) (words idx code cause value : Nat) :
    (cmdResult s src words idx code cause value).msh = s.msh := by
  cases src with
  | supervisor => rw [show CmdSrc.supervisor = mailboxSrc 0 from rfl, cmdResult_mailbox (by decide), irqIf_msh, mailed_msh]
  | debug => rw [show CmdSrc.debug = mailboxSrc 1 from rfl, cmdResult_mailbox (by decide), irqIf_msh, mailed_msh]
  | ring p =>
    simp only [cmdResult]
    split
    · rfl
    · exact submitBridge_msh s rfl rfl

theorem closeCmd_msh (s : State) (e : JEntry) : (closeCmd s e).msh = { s.msh with done := s.msh.done ++ [e.seq] } := by
  unfold closeCmd
  dsimp only
  split
  · exact (cmdResult_msh _ _ _ _ _ _ _).trans rfl
  · rfl

/-- No command runs after a result; of the marshal's part, only the list of ended commands changes besides. -/
theorem finishCmd_msh (s : State) (r : CmdRun) (code cause value : Nat) :
    ∃ ended, (finishCmd s r code cause value).msh = { s.msh with run := none, done := ended } := by
  unfold finishCmd
  dsimp only
  split
  · split
    · exact ⟨s.msh.done, jnlFinish_msh _ _ _ _ _ _⟩
    · rw [closeCmd_msh, jnlFinish_msh]
      exact ⟨_, rfl⟩
  · exact ⟨s.msh.done, rfl⟩

theorem finishCmd_otp (s : State) (r : CmdRun) (code cause value : Nat) :
    (finishCmd s r code cause value).msh.otp = s.msh.otp := by
  obtain ⟨ended, h⟩ := finishCmd_msh s r code cause value
  rw [h]

theorem finishCmd_run (s : State) (r : CmdRun) (code cause value : Nat) :
    (finishCmd s r code cause value).msh.run = none := by
  obtain ⟨ended, h⟩ := finishCmd_msh s r code cause value
  rw [h]

/-- Without a shadow the result reaches the source of the command's entry at once (R580). -/
theorem finishCmd_answers {s : State} {r : CmdRun} {e : JEntry} {c : CmdSrc} (code cause value : Nat)
    (hshadow : shadowOn s = false) (hentry : findEntry s r.seq = some e) (hsrc : e.csrc = some c) :
    ∃ t, finishCmd s r code cause value = cmdResult t c (e.words.headD 0) e.addr code cause value := by
  have hfind : findEntry { s with msh := { s.msh with run := none } } r.seq = some e := hentry
  have hquiet : shadowOn { s with msh := { s.msh with run := none } } = false := hshadow
  simp only [finishCmd, hfind, hquiet, closeCmd, hsrc]
  exact ⟨_, rfl⟩

-- ## What a mailbox shows once its command has ended without a shadow

section

variable {s : State} {r : CmdRun} {e : JEntry} {m w : Nat} (code cause value : Nat) (hm : m < 2) (hshadow : shadowOn s = false)
  (hentry : findEntry s r.seq = some e) (hsrc : e.csrc = some (mailboxSrc m)) (hwords : e.words = [w])

include hm hshadow hentry hsrc hwords

/-- The registers of the mailboxes read as the result has written them. -/
theorem getF_finishCmd_mailbox {f : Fld} (hf : 0x70240 ≤ f.off) :
    ∃ t, getF (finishCmd s r code cause value) f = getF (mailed m (resultWords w code cause value) t) f := by
  obtain ⟨t, ht⟩ := finishCmd_answers code cause value hshadow hentry hsrc
  refine ⟨t, ?_⟩
  rw [ht, cmdResult_mailbox hm, getF_irqIf (mailbox_not_noted hf), hwords, List.headD_cons]

theorem getF_finishCmd_busy : getF (finishCmd s r code cause value) (F.MSH_MB_CTL_BUSY m) = 0 := by
  obtain ⟨t, ht⟩ := getF_finishCmd_mailbox code cause value hm hshadow hentry hsrc hwords (f := F.MSH_MB_CTL_BUSY m)
    (by simp only [F.MSH_MB_CTL_BUSY]; omega)
  rw [ht, getF_mailed_busy]

theorem getF_finishCmd_done : getF (finishCmd s r code cause value) (F.MSH_MB_CTL_DONE m) = 1 := by
  obtain ⟨t, ht⟩ := getF_finishCmd_mailbox code cause value hm hshadow hentry hsrc hwords (f := F.MSH_MB_CTL_DONE m)
    (by simp only [F.MSH_MB_CTL_DONE]; omega)
  rw [ht, getF_mailed_done]

theorem getF_finishCmd_word {i : Nat} (hi : i < 4) :
    getF (finishCmd s r code cause value) (F.MSH_MB_R_WORD m i) = bits (resultWords w code cause value) (32 * i) 32 := by
  obtain ⟨t, ht⟩ := getF_finishCmd_mailbox code cause value hm hshadow hentry hsrc hwords (f := F.MSH_MB_R_WORD m i)
    (by simp only [F.MSH_MB_R_WORD]; omega)
  rw [ht, getF_mailed_word m _ t hi]

end

end Sys2Proof.Machine
end

section
/-! SUPPORT. The marshal's commands on partitions, bibs, rounding, contexts and OTP, and the re-form: what each does once it is
taken (R331, R348, R350, R460, R551, R640, R641, R646). Settles O50. -/

namespace Sys2Proof.Machine

-- ## A command that is taken

/-- A row performs the command that it takes. -/
theorem exec_of_take {c : CmdSrc} {row : Nat → Bool} {f : State → CmdRun → State} {i : Instr} {r : CmdRun} {s u : State}
    (hrow : exec i s = .next (runCmd c row f s)) (htake : takeCmd s c row = some (r, u)) : exec i s = .next (f u r) := by
  rw [hrow, runCmd, htake]

/-- The same of a row for the mailboxes alone. -/
theorem exec_of_mailboxTake {c : CmdSrc} {row : Nat → Bool} {f : State → CmdRun → State} {i : Instr} {r : CmdRun}
    {s u : State} (hrow : exec i s = .next (runCmd c row (mailboxOnly f) s)) (hmail : fromMailbox r = true)
    (htake : takeCmd s c row = some (r, u)) : exec i s = .next (f u r) :=
  (exec_of_take hrow htake).trans (congrArg _ (if_pos hmail))

-- ## Partitions

theorem doPartCreate_unknown {s : State} {r : CmdRun} (h : knownCode (cmdCode r.words) = false) :
    doPartCreate s r = refuseCmd s r 2 := by simp [doPartCreate, h]

theorem doPartCreate_ring {s : State} {r : CmdRun} (h : knownCode (cmdCode r.words) = true) (hring : fromMailbox r = false) :
    doPartCreate s r = refusePart s r (cmdArg r.words 0) 1 := by simp [doPartCreate, h, hring]

theorem doPartCreate_creates {s : State} {r : CmdRun} (h : knownCode (cmdCode r.words) = true) (hmail : fromMailbox r = true)
    (hcause : createCause s (cmdArg r.words 0) = none) :
    doPartCreate s r = finishCmd (setF s (F.PART_STAT_STATE (cmdArg r.words 0)) 1) r 0 0 0 := by
  simp [doPartCreate, createPart, h, hmail, hcause]

theorem doPartCreate_refuses {s : State} {r : CmdRun} {k : Nat} (h : knownCode (cmdCode r.words) = true)
    (hmail : fromMailbox r = true) (hcause : createCause s (cmdArg r.words 0) = some k) :
    doPartCreate s r = refusePart s r (cmdArg r.words 0) k := by simp [doPartCreate, h, hmail, hcause]

theorem doPartKill_kills {s : State} {r : CmdRun} (hp : cmdArg r.words 0 < 15)
    (hcreated : partCreated s (cmdArg r.words 0) = true) :
    doPartKill s r = settleKill (keepRun (killStart s (cmdArg r.words 0)) r [cmdArg r.words 0]) := by
  have hrange : ¬ 15 < cmdArg r.words 0 := by omega
  have hne : cmdArg r.words 0 ≠ 15 := by omega
  simp [doPartKill, hrange, hne, hcreated]

theorem doPartKill_undefined {s : State} {r : CmdRun} (hp : 15 < cmdArg r.words 0) :
    doPartKill s r = refusePart s r (cmdArg r.words 0) 2 := by simp only [doPartKill, if_pos hp]

theorem doPartKill_refuses {s : State} {r : CmdRun} (hp : cmdArg r.words 0 ≤ 15)
    (h : cmdArg r.words 0 = 15 ∨ partCreated s (cmdArg r.words 0) = false) :
    doPartKill s r = refusePart s r (cmdArg r.words 0) 3 := by
  have hrange : ¬ 15 < cmdArg r.words 0 := by omega
  have hbad : (decide (cmdArg r.words 0 = 15) || !partCreated s (cmdArg r.words 0)) = true := by simpa using h
  simp only [doPartKill, if_neg hrange, if_pos hbad]

-- ## Bibs

/-- A free choice leaves the registers. -/
theorem chooseFrom_getF {s t : State} {l : List Nat} {o : Option Nat} (h : chooseFrom s l = (o, t)) (f : Fld) :
    getF t f = getF s f := by
  unfold chooseFrom at h
  split at h <;> cases h <;> rfl

theorem doBibAlloc_places {s s1 s2 : State} {r : CmdRun} {n : Nat} {e : BibE} (hright : mayActOn r (cmdArg r.words 0) = true)
    (hgood : allocBad r.words (allocEntry r.words) = false) (hcreated : partCreated s (cmdArg r.words 0) = true)
    (hfree : chooseFrom s ((List.range 4096).filter (fun k => !flagF s (F.BIB_CTL_VALID k))) = (some n, s1))
    (hplace : placeBib s1 (cmdArg r.words 0) (allocEntry r.words) = some (e, s2))
    (hlines : bibNoLines s2 n (bibE s2 n) e = false) :
    doBibAlloc s r = finishCmd (setBib s2 n (bibE s2 n) e) r 0 0 n := by
  have hstill : partCreated s1 (cmdArg r.words 0) = true :=
    (congrArg (· == 1) (chooseFrom_getF hfree _)).trans hcreated
  simp [doBibAlloc, hright, hgood, hfree, hstill, hplace, hlines]

theorem doBibFree_eq {s : State} {r : CmdRun} (hb : cmdArg r.words 0 ≤ 4095)
    (hvalid : flagF s (F.BIB_CTL_VALID (cmdArg r.words 0)) = true)
    (hright : mayActOn r (getF s (F.BIB_CTL_PART (cmdArg r.words 0))) = true) :
    doBibFree s r = if bibHeld s (cmdArg r.words 0) then refuseCmd s r 3
      else finishCmd (dropBib s (cmdArg r.words 0)) r 0 0 0 := by
  have hrange : ¬ 4095 < cmdArg r.words 0 := by omega
  simp [doBibFree, hrange, hvalid, hright]

theorem doBibLink_eq {s : State} {r : CmdRun} (ht : cmdArg r.words 0 ≤ 4095) (hn : cmdArg r.words 1 ≤ 4095)
    (htValid : flagF s (F.BIB_CTL_VALID (cmdArg r.words 0)) = true)
    (hnValid : flagF s (F.BIB_CTL_VALID (cmdArg r.words 1)) = true)
    (hsame : getF s (F.BIB_CTL_PART (cmdArg r.words 0)) = getF s (F.BIB_CTL_PART (cmdArg r.words 1)))
    (hright : mayActOn r (getF s (F.BIB_CTL_PART (cmdArg r.words 0))) = true)
    (hend : flagF s (F.BIB_CTL_CHAINED (cmdArg r.words 0)) = false) :
    doBibLink s r = if chainReaches s (cmdArg r.words 0) 4096 (cmdArg r.words 1) then refuseCmd s r 7
      else finishCmd
        (setF (setF s (F.BIB_CTL_CHAINED (cmdArg r.words 0)) 1) (F.BIB_CTL_NEXT (cmdArg r.words 0)) (cmdArg r.words 1)) r 0 0 0 := by
  have htRange : ¬ 4095 < cmdArg r.words 0 := by omega
  have hnRange : ¬ 4095 < cmdArg r.words 1 := by omega
  rw [hsame] at hright
  simp [doBibLink, htRange, hnRange, htValid, hnValid, hsame, hright, hend]

-- ## Stochastic rounding and contexts

theorem doSrSet_sets {s : State} {r : CmdRun} (hright : mayActOn r (cmdArg r.words 0) = true) (hp : cmdArg r.words 0 ≤ 15) :
    doSrSet s r = finishCmd (setF (setF (setF s (F.PART_SR_KEY_LO_KEY_LO (cmdArg r.words 0)) (cmdArg r.words 1))
      (F.PART_SR_KEY_HI_KEY_HI (cmdArg r.words 0)) (cmdArg r.words 2)) (F.PART_SR_STEP_STEP (cmdArg r.words 0))
      (cmdArg r.words 3)) r 0 0 0 := by
  have hrange : ¬ 15 < cmdArg r.words 0 := by omega
  simp [doSrSet, hright, hrange]

/-- The state in which CTX_SAVE reads its records: the batons are parked and the tapes disabled. -/
def ctxParked (s : State) (w : Nat) : State :=
  (ctxTapes w).foldl (fun t n => setF t (F.TAPE_CFG_EN n) 0) ((ctxBatons w).foldl (fun t n => setF t (F.BTN_CTL_PARKED n) 1) s)

/-- The records of CTX_SAVE. -/
def ctxRecords (s : State) (w : Nat) : Nat :=
  leBytes ((ctxBatons w).flatMap (fun n => toBytes 8 (batonRecord s n))
    ++ (ctxTapes w).flatMap (fun n => toBytes 16 (tapeRecord s n)))

/-- Every baton that the command names is parked; a tape's EN lies at no baton's place. -/
theorem getF_ctxParked (s : State) {w n : Nat} (hn : n ∈ ctxBatons w) : getF (ctxParked s w) (F.BTN_CTL_PARKED n) = 1 := by
  have htape : ∀ i, (F.BTN_CTL_PARKED n).key ≠ (F.TAPE_CFG_EN i).key := by
    intro i
    simp only [Fld.key, F.BTN_CTL_PARKED, F.TAPE_CFG_EN]
    omega
  have hbaton : ∀ i j, i ≠ j → (F.BTN_CTL_PARKED i).key ≠ (F.BTN_CTL_PARKED j).key := by
    intro i j hij
    simp only [Fld.key, F.BTN_CTL_PARKED]
    omega
  rw [ctxParked, getF_foldl_setF_other htape (fun _ => 0), getF_foldl_setF hbaton (fun _ => 1) hn]
  rfl

theorem doCtxSave_saves {s : State} {r : CmdRun} (hcause : ctxCause s r.words false = none) (hbytes : 0 < ctxBytes r.words) :
    doCtxSave s r = ctxAccesses 4 22 (cmdArg r.words 5) (ctxBytes r.words) (ctxRecords (ctxParked s r.words) r.words)
      (keepRun (ctxParked s r.words) r [ctxBytes r.words]) := by
  simp only [doCtxSave, hcause]
  exact if_neg hbytes.ne'

theorem doCtxSave_refuses {s : State} {r : CmdRun} {k : Nat} (hcause : ctxCause s r.words false = some k) :
    doCtxSave s r = refusePart s r (cmdArg r.words 0) k := by simp only [doCtxSave, hcause]

theorem doCtxRestore_reads {s : State} {r : CmdRun} (hcause : ctxCause s r.words true = none) (hbytes : 0 < ctxBytes r.words) :
    doCtxRestore s r = ctxAccesses 0 23 (cmdArg r.words 5) (ctxBytes r.words) 0 (keepRun s r [0, 0]) := by
  simp only [doCtxRestore, hcause]
  exact if_neg hbytes.ne'

theorem doCtxRestore_refuses {s : State} {r : CmdRun} {k : Nat} (hcause : ctxCause s r.words true = some k) :
    doCtxRestore s r = refusePart s r (cmdArg r.words 0) k := by simp only [doCtxRestore, hcause]

-- ## OTP

/-- A burned generation: 976 bits of content, their CRC, and the mark of R639. -/
def sealedGen (w : Nat) : Nat := w % 2 ^ 976 + 2 ^ 976 * otpCrc (w % 2 ^ 976) + 2 ^ 1016 * 0xC3

theorem doOtpBurn_open {s : State} (r : CmdRun) (hopen : flagF s F.REG_CTL_OPEN = true) : doOtpBurn s r = refuseCmd s r 3 :=
  if_pos hopen

/-- OTP_BURN burns the first blank generation and ends with a result; where the read-back matches, the generation is the
staged one. -/
theorem doOtpBurn_burns {s : State} (r : CmdRun) {g : Nat} (hopen : flagF s F.REG_CTL_OPEN = false)
    (hblank : (List.range 4).find? (fun g => otpGen s g == 0) = some g) :
    ∃ t v code cause value, doOtpBurn s r = finishCmd (noteOtp (burnGen t g v)) r code cause value ∧ t.msh = s.msh
      ∧ ((takeFree s 2).1 = 0 → v = sealedGen (stagedGen s)) := by
  by_cases hread : (takeFree s 2).1 = 0
  · refine ⟨(takeFree s 2).2, sealedGen (stagedGen s), 0, 0, g, ?_, rfl, fun _ => rfl⟩
    simp only [doOtpBurn, hopen, hblank, hread, if_true, Bool.false_eq_true, if_false]
    rfl
  · refine ⟨(takeFree (takeFree s 2).2 (2 ^ 1008)).2, (takeFree (takeFree s 2).2 (2 ^ 1008)).1, (causeCode 8).1, 8,
      (causeCode 8).2, ?_, rfl, fun h => absurd h hread⟩
    simp only [doOtpBurn, hopen, hblank, hread, Bool.false_eq_true, if_false]
    rfl

theorem otp_of_burn (s : State) (r : CmdRun) (g v code cause value : Nat) :
    (finishCmd (noteOtp (burnGen s g v)) r code cause value).msh.otp = Sparse.put s.msh.otp g v := finishCmd_otp _ _ _ _ _

-- ## The re-form (R646)

/-- A re-form whose work has ended restarts; before that it waits. -/
theorem exec_reformRestart_eq {s : State} {r : CmdRun} (hrun : s.msh.run = some r) (hcode : cmdCode r.words = 10)
    (hon : aonState s = 0) : exec .reformRestart s
      = .next (if reformDrained s then reformState ((List.range 15).foldl reformKill s) else s) := by
  have hrow : exec .reformRestart s = execReformRestart s := rfl
  cases hdrain : reformDrained s <;> simp [hrow, execReformRestart, hrun, hcode, hon, hdrain]

/-- Settles O50: each command by the rule of what it does once it is taken, and the result by what stands in the mailbox. -/
theorem marshalCommandsAct : Obligations.MarshalCommandsAct := by
  intro c r s u w a is mb
  refine ⟨?create, ?kill, ?alloc, ?free, ?link, ?rounding, ?save, ?restore, ?burn, ?reform, ?restart, ?result⟩
  case create =>
    intro htake
    have hexec : exec (.partCreate c) s = .next (doPartCreate u r) := exec_of_take rfl htake
    exact ⟨fun hcode => hexec.trans (congrArg _ (doPartCreate_unknown hcode)),
      fun hcode hring => hexec.trans (congrArg _ (doPartCreate_ring hcode (Bool.eq_false_of_not_eq_true hring))),
      fun hcode hmail hcause => hexec.trans (congrArg _ (doPartCreate_creates hcode hmail hcause)),
      fun _ hcode hmail hcause => hexec.trans (congrArg _ (doPartCreate_refuses hcode hmail hcause))⟩
  case kill =>
    intro htake hmail sw
    have hexec : exec (.partKill ⟨c, sw⟩) s = .next (doPartKill u { r with sw := sw }) :=
      exec_of_mailboxTake (f := fun t r => doPartKill t { r with sw := sw }) rfl hmail htake
    exact ⟨fun hcreated hp => hexec.trans (congrArg _ (doPartKill_kills hp hcreated)),
      fun hp => hexec.trans (congrArg _ (doPartKill_undefined hp)),
      fun hp h => hexec.trans (congrArg _ (doPartKill_refuses hp h))⟩
  case alloc =>
    intro htake hright hgood hcreated n e u1 u2 hfree hplace hlines
    have hexec : exec (.bibAlloc c) s = .next (doBibAlloc u r) := exec_of_take rfl htake
    exact hexec.trans (congrArg _ (doBibAlloc_places hright hgood hcreated hfree hplace hlines))
  case free =>
    intro htake hb hvalid hright
    have hexec : exec (.bibFree c) s = .next (doBibFree u r) := exec_of_take rfl htake
    rw [hexec, doBibFree_eq hb hvalid hright]
    exact ⟨fun hheld => congrArg _ (if_neg (ne_true_of_eq_false hheld)), fun hheld => congrArg _ (if_pos hheld)⟩
  case link =>
    rintro htake n rfl ht hn htValid hnValid hsame hright hend
    have hexec : exec (.bibLink c) s = .next (doBibLink u r) := exec_of_take rfl htake
    rw [hexec, doBibLink_eq ht hn htValid hnValid hsame hright hend]
    exact ⟨fun hreach => congrArg _ (if_neg (ne_true_of_eq_false hreach)), fun hreach => congrArg _ (if_pos hreach)⟩
  case rounding =>
    intro htake hright hp
    have hexec : exec (.srSet c) s = .next (doSrSet u r) := exec_of_take rfl htake
    exact hexec.trans (congrArg _ (doSrSet_sets hright hp))
  case save =>
    intro htake hmail
    have hexec : exec (.ctxSave c) s = .next (doCtxSave u r) := exec_of_mailboxTake rfl hmail htake
    exact ⟨fun hcause => ⟨fun _ hn => getF_ctxParked u hn,
        fun hbytes => hexec.trans (congrArg _ (doCtxSave_saves hcause hbytes))⟩,
      fun _ hcause => hexec.trans (congrArg _ (doCtxSave_refuses hcause))⟩
  case restore =>
    intro htake hmail
    have hexec : exec (.ctxRestore c) s = .next (doCtxRestore u r) := exec_of_mailboxTake rfl hmail htake
    exact ⟨fun hcause hbytes => hexec.trans (congrArg _ (doCtxRestore_reads hcause hbytes)),
      fun _ hcause => hexec.trans (congrArg _ (doCtxRestore_refuses hcause))⟩
  case burn =>
    intro htake hmail
    have hexec : exec (.otpBurn c) s = .next (doOtpBurn u r) := exec_of_mailboxTake rfl hmail htake
    refine ⟨fun hopen => hexec.trans (congrArg _ (doOtpBurn_open r hopen)), fun hopen g hblank => ?_⟩
    obtain ⟨t, v, code, cause, value, hburn, hmsh, hread⟩ := doOtpBurn_burns r hopen hblank
    have hotp : (doOtpBurn u r).msh.otp = Sparse.put u.msh.otp g v := by rw [hburn, otp_of_burn, hmsh]
    refine ⟨_, v, hexec, ?_, fun k hk => ?_, hread⟩
    · rw [hotp, Sparse.find_put_same]
    · rw [hotp, Sparse.find_put_other _ v hk]
  case reform =>
    intro htake hmail
    have hexec : exec (.reform c) s = .next (doReform u r) := exec_of_mailboxTake rfl hmail htake
    exact hexec
  case restart =>
    intro hrun hcode hon
    rw [exec_reformRestart_eq hrun hcode hon]
    exact ⟨fun hdrain => congrArg _ (if_pos hdrain), fun hdrain => congrArg _ (if_neg (ne_true_of_eq_false hdrain))⟩
  case result =>
    intro code cause value m e hm hsrc hshadow hentry hcsrc hwords hcode hcause hvalue t
    have hmailbox : e.csrc = some (mailboxSrc m) := by rw [hcsrc, hsrc]; rfl
    have hword : ∀ i, i < 4 → getF t (F.MSH_MB_R_WORD m i) = bits (resultWords w code cause value) (32 * i) 32 :=
      fun _ hi => getF_finishCmd_word code cause value hm hshadow hentry hmailbox hwords hi
    exact ⟨getF_finishCmd_busy code cause value hm hshadow hentry hmailbox hwords,
      getF_finishCmd_done code cause value hm hshadow hentry hmailbox hwords, finishCmd_run _ _ _ _ _,
      (hword 0 (by decide)).trans (bits_resultWords_0 w value hcode hcause),
      (hword 1 (by decide)).trans (bits_resultWords_1 w value hcode hcause),
      (hword 2 (by decide)).trans (bits_resultWords_2 w hcode hcause hvalue)⟩

end Sys2Proof.Machine
end

section
/-! SUPPORT. The requests that act as they are accepted: a FENCE, a HINT, the operations on relay queues and the arrival at a
tape, one rule per outcome (R362 to R364, R416, R443 to R446, R450, R473). Settles O22. -/

namespace Sys2Proof.Machine

/-- An accepted packet of a row whose operation has no bank charge acts at once (R253). -/
theorem lanePacket_of_actsNow {op : Nat} {p : LanePkt} {s u : State} {r : Request} {pl : Place} (hd : isData op = false)
    (hlaunch : op ≠ 0x16) (hr : reachesLane op p s = true) (h : accepts p s = some (r, pl, u)) : lanePacket op p s =
      actNow (putReq (acceptedIn u r p.lane p.ch) (acceptedAs u r pl)) (acceptedAs u r pl) := by
  have hop : r.h.op = op := op_of_accepts hr h
  rw [lanePacket_of_accepts hr h, accept_of_lane pl (accepts_keeps_packet h).1 (hop ▸ hlaunch), proceed]
  have hnow : (isData r.h.op || r.h.op == 0x16) = false := by simp [hop, hd, hlaunch]
  exact if_neg (ne_true_of_eq_false hnow)

section
variable {s : State} {r : Request}

theorem actNow_of_arrive (h : r.h.op = 0x13) : actNow s r = doArrive s r := by simp [actNow, h]

theorem actNow_of_fence (h : r.h.op = 0x14) : actNow s r = answer s r 0 0 := by simp [actNow, h]

theorem actNow_of_hint (h : r.h.op = 0x15) : actNow s r = answer (doHint s r.h.arg r.trx) r 0 0 := by simp [actNow, h]

theorem actNow_of_push (h : r.h.op = 0x17) : actNow s r = doPush s r := by simp [actNow, h]

theorem actNow_of_pop (h : r.h.op = 0x18) : actNow s r = doPop s r := by simp [actNow, h]

end

-- ## Relay queues (R362 to R364)

section
variable {s : State} {r : Request}

theorem doPush_enters (hroom : (relayQ s (bits r.h.arg 0 7)).length < 64)
    (hfirst : s.relayWait.any (fun w => w.queue == bits r.h.arg 0 7) = false) :
    doPush s r = answer (enterRelay s (bits r.h.arg 0 7) ⟨bits r.h.arg 16 12, false, none⟩) r 0 0 := by
  simp [doPush, hroom, hfirst]

/-- A push that may not enter its queue now waits in the pool, or is answered when the pool is full. -/
theorem doPush_not_enters (hno : 64 ≤ (relayQ s (bits r.h.arg 0 7)).length
      ∨ s.relayWait.any (fun w => w.queue == bits r.h.arg 0 7) = true) :
    doPush s r = if s.relayWait.length < 256 then
        putReq { s with relayWait := s.relayWait ++ [⟨bits r.h.arg 0 7, ⟨bits r.h.arg 16 12, false, none⟩, some r.id, none⟩] }
          { r with stage := .waiting }
      else answer (incF s (F.RLY_CNT_FULL_CNT (bits r.h.arg 0 7)) 1) r 6 0x03 := by
  have hshut : ((relayQ s (bits r.h.arg 0 7)).length < 64
      && !s.relayWait.any (fun w => w.queue == bits r.h.arg 0 7)) = false := by
    rcases hno with h | h
    · simp [Nat.not_lt.2 h]
    · simp [h]
  exact if_neg (ne_true_of_eq_false hshut)

theorem doPop_empty (h : relayQ s (bits r.h.arg 0 7) = []) : doPop s r = answer s r 0 (2 ^ 12) := by simp [doPop, popRelay, h]

theorem doPop_head {h : Handle} {l : List Handle} (hq : relayQ s (bits r.h.arg 0 7) = h :: l) :
    doPop s r = answer (popRelay s (bits r.h.arg 0 7)).2 r (if h.aborted then 1 else 0) h.bib := by
  simp [doPop, popRelay, hq]

end

-- ## The arrival at a tape (R443 to R446)

section
variable {s : State} {r : Request} {lane ch : Nat} (horg : r.org = .lane lane ch)
include horg

theorem doArrive_refused
    (hkind : arriveKind s (bits r.h.arg 0 8) (.engine lane r.h.core r.h.engine) (bits r.h.arg 16 1) = .refused) :
    doArrive s r = answer s r 6 0x06 := by
  simp [doArrive, horg, hkind]

theorem doArrive_faults {c : Nat}
    (hkind : arriveKind s (bits r.h.arg 0 8) (.engine lane r.h.core r.h.engine) (bits r.h.arg 16 1) = .fault c) :
    doArrive s r = answer (tapeFault s (bits r.h.arg 0 8) c 0x06 none) r 6 0x06 := by
  simp [doArrive, horg, hkind]

variable {early : Bool} (hkind : arriveKind s (bits r.h.arg 0 8) (.engine lane r.h.core r.h.engine) (bits r.h.arg 16 1)
  = if early then .early else .current)
include hkind

theorem doArrive_overflows (hfull : 4096 ≤ s.arrivals.length) : doArrive s r =
    answer (setF (setF s F.GLB_SYNC_STAT_ARR_OVF 1) F.GLB_SYNC_STAT_LAST_TAPE (bits r.h.arg 0 8)) r 6 0x05 := by
  cases early <;> simp [doArrive, horg, hkind, hfull]

/-- An arrival without NOTIFY is recorded and its request waits. -/
theorem doArrive_waits (hroom : s.arrivals.length < 4096) (hmod : bits r.h.mod 1 1 = 0) : doArrive s r =
    tapeRun 6 (putReq (takeArrival s (bits r.h.arg 0 8) early ⟨bits r.h.arg 0 8, .engine lane r.h.core r.h.engine, 0, false, false,
      bitAt r.h.mod 0, some r.id, r.org, r.h, r.trx⟩) { r with stage := .waiting }) (bits r.h.arg 0 8) := by
  have hnotify : bitAt r.h.mod 1 = false := (bits_eq_zero_iff ..).1 hmod
  cases early <;> simp [doArrive, horg, hkind, hnotify, Nat.not_le.2 hroom]

/-- An arrival with NOTIFY is recorded and its request answered. -/
theorem doArrive_notes (hroom : s.arrivals.length < 4096) (hmod : bits r.h.mod 1 1 = 1) : doArrive s r =
    tapeRun 6 (answer (takeArrival s (bits r.h.arg 0 8) early ⟨bits r.h.arg 0 8, .engine lane r.h.core r.h.engine, 0, false, true,
      bitAt r.h.mod 0, none, r.org, r.h, r.trx⟩) r 0 0) (bits r.h.arg 0 8) := by
  have hnotify : bitAt r.h.mod 1 = true := (bits_eq_one_iff ..).1 hmod
  cases early <;> simp [doArrive, horg, hkind, hnotify, Nat.not_le.2 hroom]

end

/-- Settles O22, one rule of an operation per clause. -/
theorem otherRequestsAct : Obligations.OtherRequestsAct := by
  intro p s u r pl h a v q hd waits n who
  have horg : a.org = .lane p.lane p.ch := (accepts_keeps_packet h).1
  have hnext {op : Nat} {i : Instr} {t : State} (hrow : otherRow p op = some i) (hdata : isData op = false)
      (hlaunch : op ≠ 0x16) (hr : reachesLane op p s = true) (hact : a.h.op = op → actNow v a = t) : exec i s = .next t := by
    rw [exec_of_otherRow s hrow, lanePacket_of_actsNow hdata hlaunch hr h]
    have hop : r.h.op = op := op_of_accepts hr h
    exact congrArg _ (hact hop)
  refine ⟨fun hr => ?fence, fun hr => ?hint, fun hr => ?push, fun hr => ?pop, fun hr => ?arrive⟩
  case fence => exact hnext rfl rfl (by decide) hr actNow_of_fence
  case hint => exact hnext rfl rfl (by decide) hr actNow_of_hint
  case push =>
    have hpush {t} (ht : doPush v a = t) := hnext rfl rfl (by decide) hr (fun hop => (actNow_of_push hop).trans ht)
    exact ⟨fun hroom hfirst => hpush (doPush_enters hroom hfirst),
      fun hno hroom => hpush ((doPush_not_enters (r := a) hno).trans (if_pos hroom)),
      fun hno hfull => hpush ((doPush_not_enters (r := a) hno).trans (if_neg (Nat.not_lt.2 hfull)))⟩
  case pop =>
    have hpop {t} (ht : doPop v a = t) := hnext rfl rfl (by decide) hr (fun hop => (actNow_of_pop hop).trans ht)
    exact ⟨fun hempty => hpop (doPop_empty hempty), fun _ _ hq => hpop (doPop_head hq)⟩
  case arrive =>
    have harrive {t} (ht : doArrive v a = t) := hnext rfl rfl (by decide) hr (fun hop => (actNow_of_arrive hop).trans ht)
    exact ⟨fun hkind => harrive (doArrive_refused horg hkind), fun c hkind => harrive (doArrive_faults horg hkind),
      fun early hkind => ⟨fun hfull => harrive (doArrive_overflows horg hkind hfull),
        fun hroom hmod => harrive (doArrive_waits horg hkind hroom hmod),
        fun hroom hmod => harrive (doArrive_notes horg hkind hroom hmod)⟩⟩

end Sys2Proof.Machine
end

section
/-! SUPPORT. The answer of a pacer's remote request, one rule per way it goes on, and its resend (R369, R399, R406, R422, R431).
Settles O19. -/

namespace Sys2Proof.Machine

-- ## The request that is answered

section
variable {a : MeshAns} {e : GwEntry} {t : Task} {q st : Nat} {s : State} (hrun : arrayRuns s = true)
  (hgw : findGw s a.seq = some e) (hrid : e.rid = none) (hstream : e.stream = some (q, st)) (htask : findTask s q st = some t)
  (hidle : e.retryAt = 0)
include hrun hgw hrid hstream htask hidle

/-- OK and STAINED end the request: a write's granules have moved, a push's handle is the task's no more. -/
theorem execPacerRemoteAnswer_done (hcode : a.code ≤ 1) : execPacerRemoteAnswer a s = .next (
    if bits e.hdr 4 5 = 4 then noteMoved (dropGw s a.seq) q st e.beats.length
    else if bits e.hdr 4 5 = 0x17 then
      putTask (dropGw s a.seq) { t with handles := dropHandle (bits e.hdr 152 12) t.handles }
    else dropGw s a.seq) := by
  simp [execPacerRemoteAnswer, hrun, hgw, hrid, hstream, htask, hidle, hcode]

/-- A refusal that names a tick before the remote deadline holds the request for that tick. -/
theorem execPacerRemoteAnswer_waits (hcode : a.code = 2 ∨ a.code = 3) (hvalue : a.value < remoteDl t) :
    execPacerRemoteAnswer a s = .next (putGw s { e with retryAt := max 1 a.value }) := by
  have hlate : ¬ a.code ≤ 1 := by omega
  simp [execPacerRemoteAnswer, hrun, hgw, hrid, hstream, htask, hidle, hlate, hcode, hvalue]

/-- Any other answer aborts the task. -/
theorem execPacerRemoteAnswer_aborts (hcode : 2 ≤ a.code) (hlast : a.code = 2 ∨ a.code = 3 → remoteDl t ≤ a.value) :
    execPacerRemoteAnswer a s =
      .next (abortTask (dropGw s a.seq) q st (if bits e.hdr 4 5 = 0x17 ∧ a.code = 6 then 0x0C else 9)) := by
  have hover : ¬ a.code ≤ 1 := by omega
  have hgone : ((a.code = 2 || a.code = 3) && decide (a.value < remoteDl t)) = false := by simpa using hlast
  simp [execPacerRemoteAnswer, hrun, hgw, hrid, hstream, htask, hidle, hover, hgone]

end

-- ## The request that waits for its tick

theorem execPacerRemoteResend_early {seq : Nat} {e : GwEntry} {s : State} (hgw : findGw s seq = some e)
    (hnow : now s < e.retryAt) : execPacerRemoteResend seq s = .next s := by
  simp [execPacerRemoteResend, hgw, Nat.not_le.2 hnow]

theorem execPacerRemoteResend_due {seq : Nat} {e : GwEntry} {x : Nat × Nat} {s : State} (hrun : arrayRuns s = true)
    (hgw : findGw s seq = some e) (hstream : e.stream = some x) (hheld : e.retryAt ≠ 0) (hnow : e.retryAt ≤ now s) :
    execPacerRemoteResend seq s = .next (gwAgain s e) := by
  simp [execPacerRemoteResend, hrun, hgw, hstream, hheld, hnow]

/-- Settles O19, one rule of an answer per clause. -/
theorem pacerRemoteAnswers : Obligations.PacerRemoteAnswers := by
  intro a e t q st s hrun hgw hrid hstream htask
  refine ⟨fun hidle => ?_, fun _ hnow => execPacerRemoteResend_early hgw hnow,
    fun hheld hnow => execPacerRemoteResend_due hrun hgw hstream hheld hnow⟩
  intro op gone
  have hdone := execPacerRemoteAnswer_done hrun hgw hrid hstream htask hidle
  have haborts := execPacerRemoteAnswer_aborts hrun hgw hrid hstream htask hidle
  refine ⟨fun hcode hwrite => ?write, fun hcode hpush => ?push, fun hcode hwrite hpush => ?other,
    execPacerRemoteAnswer_waits hrun hgw hrid hstream htask hidle, fun hcode hlate => ?late, fun hcode => ?fails⟩
  case write => exact (hdone hcode).trans (congrArg _ (if_pos hwrite))
  case push =>
    have hwrite : op ≠ 4 := fun h => absurd (hpush.symm.trans h) (by decide)
    exact (hdone hcode).trans (congrArg _ ((if_neg hwrite).trans (if_pos hpush)))
  case other => exact (hdone hcode).trans (congrArg _ ((if_neg hwrite).trans (if_neg hpush)))
  case late =>
    have hno : ¬ (op = 0x17 ∧ a.code = 6) := by omega
    exact (haborts (by omega) (fun _ => hlate)).trans (by rw [if_neg hno])
  case fails => exact haborts (by omega) (fun h => by omega)

end Sys2Proof.Machine
end

section
/-! SUPPORT. What the commands that write bibs, batons, tapes, relay queues and pacers do, one rule per operation, and what
becomes of a write that does not reach its register (R95, R333, R334, R373, R414, R419, R429, R451, R452, R462, R704).
Settles O54. -/

namespace Sys2Proof.Machine

-- ## Writes that do not reach their register (R95, R704)

/-- Above the registers of the always-on domain a master reaches all registers or none. -/
theorem reaches_above (m : Master) (s : State) {off off' : Nat} (h : 0x1094 < off) (h' : 0x1094 < off') :
    reaches m off s = reaches m off' s := by
  have hno : decide (off ≤ 0x1094) = decide (off' ≤ 0x1094) := by
    rw [decide_eq_false (Nat.not_le.2 h), decide_eq_false (Nat.not_le.2 h')]
  have hlo : decide (0x1080 ≤ off) = decide (0x1080 ≤ off') := by
    rw [decide_eq_true (by omega), decide_eq_true (by omega)]
  simp only [reaches, hno, hlo]

/-- In Doze no master reaches a register above those of the always-on domain. -/
theorem not_reaches_doze (m : Master) {s : State} (hd : aonState s = 1) {off : Nat} (h : 0x1094 < off) :
    reaches m off s = false := by simp [reaches, hd, Nat.not_le.2 h]

/-- A master that reaches no register at all is answered nothing: the supervisor that Doze answers reaches some. -/
theorem unreached_of_no_reach {m : Master} {s : State} (h : ∀ off, reaches m off s = false) : unreached m s = s := by
  refine if_neg fun hdoze => ?_
  simp only [Bool.and_eq_true, beq_iff_eq] at hdoze
  obtain ⟨⟨⟨hp, hv⟩, hm⟩, hd⟩ := hdoze
  have hsome : reaches m 0x1080 s = true := by simp [reaches, hp, hv, hm, hd]
  exact absurd ((h 0x1080).symm.trans hsome) Bool.false_ne_true

/-- The commands that write bibs, batons, tapes, relay queues and pacers. -/
def unitWrites (m : Master) (n k : Nat) (l : Bool) (w : Word) (up : Upset) : List Instr :=
  [.bibCommit m n w up, .bibStageWrite m n k w, .btnCntWrite m n w up, .btnCtlWrite m n w, .tapeHeatWrite m n w, .force m n,
    .tapeCfgWrite m n l w, .rlyLoad m n w, .flush m n, .abort m n w, .pmDataLoWrite m n w, .pmDataHiWrite m n w]

/-- Each of them is one write, above the registers of the always-on domain. -/
theorem exec_of_unitWrites {m : Master} {n k : Nat} {l : Bool} {w : Word} {up : Upset} {i : Instr}
    (hi : i ∈ unitWrites m n k l w up) (s : State) : ∃ off v f, 0x1094 < off ∧ exec i s = .next (asWrite m off v f s) := by
  simp only [unitWrites, List.mem_cons, List.not_mem_nil, or_false] at hi
  rcases hi with rfl | rfl | rfl | rfl | rfl | rfl | rfl | rfl | rfl | rfl | rfl | rfl <;> exact ⟨_, _, _, by omega, rfl⟩

/-- A write over the bus that does not reach its register is answered as any other. -/
theorem busWrite_of_no_reach {m : Master} (off size w : Nat) {s : State} (h : ∀ off, reaches m off s = false) :
    busWrite m off size w s = s := by
  by_cases hoff : off < 2 ^ 20
  · rw [busWrite_unreached m size w hoff (h off), unreached_of_no_reach h]
  · exact busWrite_outside m size w s (Nat.not_lt.1 hoff)

-- ## Bibs (R333, R334)

theorem bibStageWord_staged (m : Master) {n k : Nat} {w : Word} (s : State) (hn : n < 4096)
    (hk : k = 1 ∨ (k = 2 ∧ 1 ≤ bits w.toNat 0 23 ∧ bits w.toNat 0 23 ≤ 4194304)) : bibStageWord m n k w.toNat s =
      { s with bibStage := Sparse.put s.bibStage (stageKey m n k) (if k = 1 then w.toNat else bits w.toNat 0 23) } := by
  rcases hk with rfl | ⟨rfl, hlo, hhi⟩
  · have hword : bits w.toNat 0 32 = w.toNat := by rw [bits, Nat.pow_zero, Nat.div_one, Nat.mod_eq_of_lt w.isLt]
    simp [bibStageWord, Nat.not_le.2 hn, hword]
  · simp [bibStageWord, Nat.not_le.2 hn, Nat.not_lt.2 hhi, Nat.ne_of_gt hlo]

/-- A field below the bib registers is none of an entry. -/
theorem bibE_setF_below {f : Fld} (v : Nat) (s : State) (b : Nat) (hf : f.key < 0x180000) :
    bibE (setF s f v) b = bibE s b := by
  have habove : ∀ g : Fld, 0x180000 ≤ g.key → getF (setF s f v) g = getF s g :=
    fun g hg => getF_setF_other s v (by omega)
  simp (disch := (simp only [Fld.key, F.BIB_CTL_VALID, F.BIB_CTL_PLACE, F.BIB_CTL_PART, F.BIB_CTL_FORMAT, F.BIB_CTL_LAYOUT,
    F.BIB_CTL_SPREAD, F.BIB_CTL_MIRROR, F.BIB_CTL_CHAINED, F.BIB_CTL_PIN, F.BIB_CTL_NEXT, F.BIB_LOC_LOC, F.BIB_LEN_LEN,
    F.BIB_AUX_MIRROR_G]; omega)) only [bibE, flagF, habove]

/-- The state in which the words of an entry are written. -/
def entryWritten (s : State) (n : Nat) (e : BibE) : State :=
  [(F.BIB_CTL_VALID n, b2n e.valid), (F.BIB_CTL_PLACE n, e.place), (F.BIB_CTL_PART n, e.part), (F.BIB_CTL_FORMAT n, e.fmt),
    (F.BIB_CTL_LAYOUT n, e.layout), (F.BIB_CTL_SPREAD n, e.spread), (F.BIB_CTL_MIRROR n, b2n e.mirror),
    (F.BIB_CTL_CHAINED n, b2n e.chained), (F.BIB_CTL_PIN n, b2n e.pin), (F.BIB_CTL_NEXT n, e.next), (F.BIB_LOC_LOC n, e.loc),
    (F.BIB_LEN_LEN n, e.len), (F.BIB_AUX_MIRROR_G n, e.mirG)].foldl (fun t p => setF t p.1 p.2) s

theorem setBib_regs (s : State) (n : Nat) (old e : BibE) : (setBib s n old e).regs = (entryWritten s n e).regs := by
  unfold setBib
  dsimp only
  split <;> rfl

/-- The fields of an entry that is given its value. -/
theorem setBib_fields (s : State) (n : Nat) (old e : BibE) :
    getF (setBib s n old e) (F.BIB_CTL_VALID n) = b2n e.valid % 2
      ∧ getF (setBib s n old e) (F.BIB_CTL_PART n) = e.part % 2 ^ 4
      ∧ getF (setBib s n old e) (F.BIB_CTL_NEXT n) = e.next % 2 ^ 12
      ∧ getF (setBib s n old e) (F.BIB_LEN_LEN n) = e.len % 2 ^ 23
      ∧ getF (setBib s n old e) (F.BIB_LOC_LOC n) = e.loc % 2 ^ 32 := by
  have hregs := getF_of_regs (setBib_regs s n old e)
  simp only [hregs, entryWritten, List.foldl_cons, List.foldl_nil]
  refine ⟨?_, ?_, ?_, ?_, ?_⟩
  all_goals
    simp (disch := (simp only [Fld.key, F.BIB_CTL_VALID, F.BIB_CTL_PLACE, F.BIB_CTL_PART, F.BIB_CTL_FORMAT, F.BIB_CTL_LAYOUT,
      F.BIB_CTL_SPREAD, F.BIB_CTL_MIRROR, F.BIB_CTL_CHAINED, F.BIB_CTL_PIN, F.BIB_CTL_NEXT, F.BIB_LOC_LOC, F.BIB_LEN_LEN,
      F.BIB_AUX_MIRROR_G]; omega)) only [getF_setF_same, getF_setF_other]
    rfl

/-- A commit to an entry whose code is sound. -/
theorem bibCommitWrite_sound (m : Master) {n : Nat} (w : Nat) {s : State} (hn : n < 4096)
    (hgood : s.bibBad.contains n = false) : bibCommitWrite m n w .none s =
      let r := commitBib s n (bibE s n) (bibMerge s m n w (bibE s n))
      if r.1 then { r.2 with bibStage := Sparse.keep r.2.bibStage (fun k => k / 4 != stageKey m n 0 / 4) } else r.2 := by
  have hread : (readBibEntry s n .none).2 = s := rfl
  have hcur : bibCurrent s n = bibE s n := if_neg (ne_true_of_eq_false hgood)
  rw [bibCommitWrite, if_neg (Nat.not_le.2 hn)]
  dsimp only
  rw [hread, hcur]

/-- A commit that is ignored is counted, and the entry and the staged words stay (R334). -/
theorem bibCommitWrite_ignored {m : Master} {n w : Nat} {s : State} (hn : n < 4096) (hgood : s.bibBad.contains n = false)
    (hign : bibIgnored s n (bibE s n) (bibMerge s m n w (bibE s n)) = true) :
    let u := bibCommitWrite m n w .none s
    getF u F.GLB_BIB_STAT_WR_IGN = 1 ∧ getF u F.GLB_BIB_STAT_LAST_BIB = n ∧ bibE u n = bibE s n ∧ u.bibStage = s.bibStage := by
  intro u
  have hu : u = setF (setF (incF s F.GLB_BIB_CNT_IGN_CNT 1) F.GLB_BIB_STAT_WR_IGN 1) F.GLB_BIB_STAT_LAST_BIB n := by
    simp [u, bibCommitWrite_sound m w hn hgood, commitBib, hign]
  rw [hu]
  refine ⟨?_, ?_, ?_, rfl⟩
  · rw [getF_setF_other _ _ (by decide), getF_setF_same]
    rfl
  · rw [getF_setF_same]
    exact Nat.mod_eq_of_lt hn
  · rw [bibE_setF_below _ _ _ (by decide), bibE_setF_below _ _ _ (by decide), incF, bibE_setF_below _ _ _ (by decide)]

theorem b2n_bitAt (x i : Nat) : b2n (bitAt x i) = bits x i 1 := by
  obtain h | h : bits x i 1 = 0 ∨ bits x i 1 = 1 := Nat.mod_two_eq_zero_or_one _
  · rw [h, (bits_eq_zero_iff x i).1 h, b2n]
    rfl
  · rw [h, (bits_eq_one_iff x i).1 h, b2n]
    rfl

/-- A commit that takes effect gives the entry the CTL word and the staged words (R333). -/
theorem bibCommitWrite_commits {m : Master} {n w : Nat} {s : State} (hn : n < 4096) (hgood : s.bibBad.contains n = false)
    (hok : bibIgnored s n (bibE s n) (bibMerge s m n w (bibE s n)) = false) :
    let u := bibCommitWrite m n w .none s
    getF u (F.BIB_CTL_VALID n) = bits w 0 1 ∧ getF u (F.BIB_CTL_PART n) = bits w 4 4 ∧ getF u (F.BIB_CTL_NEXT n) = bits w 20 12
      ∧ getF u (F.BIB_LEN_LEN n) = Sparse.at s.bibStage (stageKey m n 2) (getF s (F.BIB_LEN_LEN n)) % 2 ^ 23
      ∧ getF u (F.BIB_LOC_LOC n) = Sparse.at s.bibStage (stageKey m n 1) (getF s (F.BIB_LOC_LOC n)) % 2 ^ 32 := by
  intro u
  have hu : u.regs = (setBib s n (bibE s n) (bibMerge s m n w (bibE s n))).regs := by
    simp [u, bibCommitWrite_sound m w hn hgood, commitBib, hok]
  obtain ⟨hvalid, hpart, hnext, hlen, hloc⟩ := setBib_fields s n (bibE s n) (bibMerge s m n w (bibE s n))
  simp only [getF_of_regs hu]
  refine ⟨hvalid.trans ?_, hpart.trans (bits_mod ..), hnext.trans (bits_mod ..), hlen, hloc⟩
  rw [bibMerge, b2n_bitAt]
  exact bits_mod w 0 1

-- ## Batons (R429, R462)

theorem btnCountWrite_sound {n : Nat} (w : Nat) (s : State) (hn : n < 16384) : btnCountWrite n w .none s =
    testWaiters (setF (setF s (F.BTN_CNT_COUNT n) w) (F.BTN_CTL_BROKEN n) 0) n := by
  have hread : readBatonWord s n .none = s := rfl
  rw [btnCountWrite, if_neg (Nat.not_le.2 hn)]
  simp [hread]

/-- The fields that a write of a baton's CTL can change lie at different places. -/
theorem baton_keys_pairwise (n : Nat) :
    [F.GLB_SYNC_STAT_WR_IGN, F.BTN_CTL_PARKED n, F.BTN_CTL_PART n, F.BTN_CNT_COUNT n].Pairwise
      (fun f g => f.key ≠ g.key ∧ g.key ≠ f.key) := by
  simp only [List.pairwise_cons, List.forall_mem_cons, List.not_mem_nil, List.Pairwise.nil, IsEmpty.forall_iff, implies_true,
    and_true, Fld.key, F.GLB_SYNC_STAT_WR_IGN, F.BTN_CTL_PARKED, F.BTN_CTL_PART, F.BTN_CNT_COUNT]
  omega

/-- PARKED takes the bit written, COUNT stays, and PART changes only while nothing waits on the baton. -/
theorem btnControlWrite_fields {n : Nat} (w : Nat) (s : State) (hn : n < 16384) :
    let u := btnControlWrite n w s
    getF u (F.BTN_CTL_PARKED n) = bits w 4 1 ∧ getF u (F.BTN_CNT_COUNT n) = getF s (F.BTN_CNT_COUNT n)
      ∧ getF u (F.BTN_CTL_PART n) = (if s.waiters.any (fun x => x.baton == n) then getF s (F.BTN_CTL_PART n) else bits w 0 4)
      ∧ (s.waiters.any (fun x => x.baton == n) = true → bits w 0 4 ≠ getF s (F.BTN_CTL_PART n) →
          getF u F.GLB_SYNC_STAT_WR_IGN = 1) := by
  intro u
  have hu : u = if bits w 0 4 = getF s (F.BTN_CTL_PART n) then setF s (F.BTN_CTL_PARKED n) (bits w 4 1)
      else if s.waiters.any (fun x => x.baton == n) then syncIgnored (setF s (F.BTN_CTL_PARKED n) (bits w 4 1))
      else setF (setF s (F.BTN_CTL_PARKED n) (bits w 4 1)) (F.BTN_CTL_PART n) (bits w 0 4) := if_neg (Nat.not_le.2 hn)
  have hparked : bits w 4 1 % 2 ^ (F.BTN_CTL_PARKED n).w = bits w 4 1 := bits_mod w 4 1
  have hpart : bits w 0 4 % 2 ^ (F.BTN_CTL_PART n).w = bits w 0 4 := bits_mod w 0 4
  have hone : 1 % 2 ^ F.GLB_SYNC_STAT_WR_IGN.w = 1 := rfl
  have hkeys := baton_keys_pairwise n
  simp only [List.pairwise_cons, List.forall_mem_cons, List.not_mem_nil, List.Pairwise.nil] at hkeys
  obtain ⟨⟨hik, hip, hic, -⟩, ⟨hkp, hkc, -⟩, ⟨hpc, -⟩, -⟩ := hkeys
  rw [hu]
  by_cases hsame : bits w 0 4 = getF s (F.BTN_CTL_PART n)
  · simp [hsame, hparked, getF_setF_other, hkp, hkc]
  · cases hwait : s.waiters.any (fun x => x.baton == n)
    · simp [hsame, hparked, hpart, getF_setF_other, hkp, hkc, hpc]
    · simp [hsame, hparked, hone, syncIgnored, getF_setF_other, hik, hip, hic, hkp, hkc]

-- ## Tapes (R451, R452, R462)

/-- A restarted tape is FILLING its heat, with no arrival counted. -/
theorem restartTape_fields (s : State) (n heat : Nat) :
    let u := restartTape s n heat
    heatOf u n = heat % 2 ^ 32 ∧ tapeState u n = 0 ∧ getF u (F.TAPE_STAT_ARRIVED n) = 0 ∧ getF u (F.TAPE_STAT_CHILD_ARR n) = 0
      ∧ getF u (F.TAPE_STAT_FAULT_CAUSE n) = 0 := by
  intro u
  simp only [u, restartTape, heatOf, tapeState]
  refine ⟨?_, ?_, ?_, ?_, ?_⟩
  all_goals
    simp (disch := (simp only [Fld.key, F.TAPE_HEAT_HEAT, F.TAPE_STAT_STATE, F.TAPE_STAT_ARRIVED, F.TAPE_STAT_CHILD_ARR,
      F.TAPE_STAT_FAULT_CAUSE]; omega)) only [getF_setF_same, getF_setF_other, Nat.zero_mod]
  rfl

theorem tapeHeatSet_word {n : Nat} (w : Word) (s : State) (hn : n < 256) :
    tapeHeatSet n w.toNat s = restartTape s n w.toNat := by
  rw [tapeHeatSet, if_neg (Nat.not_le.2 hn), Nat.mod_eq_of_lt w.isLt]

theorem forceTape_of_lt {n : Nat} (s : State) (hn : n < 256) :
    forceTape n s = if tapeState s n = 0 then tapeRun 6 (completeHeat s n) n else s := by
  by_cases h : tapeState s n = 0 <;> simp [forceTape, Nat.not_le.2 hn, h]

theorem tapeCfgSet_disabled {n : Nat} (w : Nat) {s : State} (hn : n < 256) (hen : flagF s (F.TAPE_CFG_EN n) = false) :
    tapeCfgSet n w s = writeFields (0x60000 + 16 * n) w s := by
  rw [tapeCfgSet, if_neg (Nat.not_le.2 hn)]
  exact if_neg (ne_true_of_eq_false hen)

/-- The fields that a write of the CFG of an enabled tape can change, and those it leaves, lie at different places. -/
theorem tape_keys_pairwise (n : Nat) :
    [F.GLB_SYNC_STAT_WR_IGN, F.TAPE_CFG_EN n, F.TAPE_CFG_EXPECT n, F.TAPE_CFG_PART n].Pairwise
      (fun f g => f.key ≠ g.key ∧ g.key ≠ f.key) := by
  simp only [List.pairwise_cons, List.forall_mem_cons, List.not_mem_nil, List.Pairwise.nil, IsEmpty.forall_iff, implies_true,
    and_true, Fld.key, F.GLB_SYNC_STAT_WR_IGN, F.TAPE_CFG_EN, F.TAPE_CFG_EXPECT, F.TAPE_CFG_PART]
  omega

/-- Of the CFG of an enabled tape only EN is written; another PART is ignored with WR_IGN. -/
theorem tapeCfgSet_enabled {n : Nat} (w : Nat) {s : State} (hn : n < 256) (hen : flagF s (F.TAPE_CFG_EN n) = true) :
    let u := tapeCfgSet n w s
    getF u (F.TAPE_CFG_EN n) = bits w 0 1 ∧ getF u (F.TAPE_CFG_EXPECT n) = getF s (F.TAPE_CFG_EXPECT n)
      ∧ getF u (F.TAPE_CFG_PART n) = getF s (F.TAPE_CFG_PART n)
      ∧ (bits w 1 4 ≠ getF s (F.TAPE_CFG_PART n) → getF u F.GLB_SYNC_STAT_WR_IGN = 1) := by
  intro u
  have hkeys := tape_keys_pairwise n
  simp only [List.pairwise_cons, List.forall_mem_cons, List.not_mem_nil, List.Pairwise.nil] at hkeys
  obtain ⟨⟨hie, hix, hip, -⟩, ⟨hex, hep, -⟩, -⟩ := hkeys
  have hbit : bits w 0 1 < 2 := bits_lt w 0 1
  have hwritten : getF (writeF w s (F.TAPE_CFG_EN n)) (F.TAPE_CFG_EN n) = bits w 0 1 :=
    getF_writeF_defined s (.inr rfl) (Nat.zero_le _) (Nat.le_of_lt_succ hbit)
  have hexpect := getF_writeF_other w s hex.2
  have hpart := getF_writeF_other w s hep.2
  obtain ⟨locked, hu, hlocked⟩ : ∃ c : Bool, u = (if c then syncIgnored (writeF w s (F.TAPE_CFG_EN n))
      else writeF w s (F.TAPE_CFG_EN n)) ∧ (bits w 1 4 ≠ getF s (F.TAPE_CFG_PART n) → c = true) := by
    refine ⟨_, (if_neg (Nat.not_le.2 hn)).trans (if_pos hen), fun hne => ?_⟩
    have hmax : bits w 1 4 ≤ 15 := Nat.le_of_lt_succ (bits_lt w 1 4)
    exact List.any_eq_true.2 ⟨F.TAPE_CFG_PART n, by simp, by simpa using ⟨hne, hmax⟩⟩
  rw [hu]
  cases locked
  · exact ⟨hwritten, hexpect, hpart, fun hne => absurd (hlocked hne) Bool.false_ne_true⟩
  · have hone : 1 % 2 ^ F.GLB_SYNC_STAT_WR_IGN.w = 1 := rfl
    simp [syncIgnored, getF_setF_other, hie, hix, hip, hwritten, hexpect, hpart, hone]

theorem tapeLinkSet_of_lt {n : Nat} (w : Nat) (s : State) (hn : n < 256) : tapeLinkSet n w s =
    if flagF s (F.TAPE_CFG_EN n) then setF s F.GLB_SYNC_STAT_WR_IGN 1 else writeFields (0x60004 + 16 * n) w s :=
  if_neg (Nat.not_le.2 hn)

-- ## Relay queues and pacers (R373, R414, R419)

theorem relayLoad_enters {n : Nat} (w : Nat) {s : State} (hn : n < 128) (hroom : (relayQ s n).length < 64) :
    relayLoad n w s = enterRelay s n ⟨w % 4096, false, none⟩ := by
  rw [relayLoad, if_neg (Nat.not_le.2 hn), if_neg (Nat.not_le.2 hroom)]

theorem relayLoad_full {n : Nat} (w : Nat) {s : State} (hn : n < 128) (hfull : 64 ≤ (relayQ s n).length) :
    relayLoad n w s = incF s (F.RLY_CNT_FULL_CNT n) 1 := by
  rw [relayLoad, if_neg (Nat.not_le.2 hn), if_pos hfull]

theorem pmStage_word {q : Nat} (w : Word) (s : State) (hq : q < 16) :
    pmStage q w.toNat s = { s with pmLo := Sparse.set s.pmLo q w.toNat 0 } := by
  rw [pmStage, if_neg (Nat.not_le.2 hq), Nat.mod_eq_of_lt w.isLt]

theorem pmWrite_busy {q : Nat} (w : Nat) {s : State} (hq : q < 16) (hbusy : pacerIdle s q = false) :
    pmWrite q w s = setF s (F.PACER_STAT_PM_IGN q) 1 := by simp [pmWrite, Nat.not_le.2 hq, hbusy]

/-- The program word of an idle pacer is written, and AUTOINC moves the address on. -/
theorem pmWrite_idle {q : Nat} (w : Word) {s : State} (hq : q < 16) (hidle : pacerIdle s q = true) :
    let a := getF s (F.PACER_PM_ADDR_ADDR q)
    let u := pmWrite q w.toNat s
    Sparse.at u.pm (q * 256 + a) 0 = Sparse.at s.pmLo q 0 + 2 ^ 32 * w.toNat
      ∧ getF u (F.PACER_PM_ADDR_ADDR q) = (if flagF s (F.PACER_PM_ADDR_AUTOINC q) then (a + 1) % 256 else a) := by
  intro a u
  have hword : w.toNat % 2 ^ 32 = w.toNat := Nat.mod_eq_of_lt w.isLt
  have hu : u = let t := { s with pm := Sparse.set s.pm (q * 256 + a) (Sparse.at s.pmLo q 0 + 2 ^ 32 * w.toNat) 0 }
      if flagF s (F.PACER_PM_ADDR_AUTOINC q) then setF t (F.PACER_PM_ADDR_ADDR q) (a + 1) else t := by
    simp only [u, a, pmWrite, if_neg (Nat.not_le.2 hq), hidle, hword]
    rfl
  rw [hu]
  dsimp only
  split
  · exact ⟨Sparse.at_set_same _ _ _ _, getF_setF_same _ _ _⟩
  · exact ⟨Sparse.at_set_same _ _ _ _, rfl⟩

-- ## The statement

/-- Settles O54, one rule of an operation per clause. -/
theorem syncAndPacerWritesTakeEffect : Obligations.SyncAndPacerWritesTakeEffect := by
  intro m n w s v
  refine ⟨fun hr hn => ?bib, fun hr hn => ?count, fun hr hn => ?control, fun hr hn => ?heat, fun hr hn => ?force,
    fun hr hn => ?cfg, fun hr hn => ?link, fun hr hn => ?load, fun hr hn => ?flush, fun hr hn => ?abort, fun hr hn => ?low,
    fun hr hn => ?high, fun k l x up i hno hi => ?unreached, fun k l up i hm hd hp hv hi => ?doze⟩
  case bib =>
    refine ⟨fun k hk => ?_, fun hgood => ?_⟩
    · have hreach : reaches m (0x30000 + 16 * n + 4 * k) s = true :=
        (reaches_above m s (by omega) (by omega)).trans hr
      exact next_asWrite_of_reaches_at _ (by omega) hreach (bibStageWord_staged m s hn hk)
    · intro e
      exact ⟨fun hign => ⟨_, next_asWrite_of_reaches_at _ (by omega) hr rfl, bibCommitWrite_ignored hn hgood hign⟩,
        fun hok => ⟨_, next_asWrite_of_reaches_at _ (by omega) hr rfl, bibCommitWrite_commits hn hgood hok⟩⟩
  case count => exact next_asWrite_of_reaches_at _ (by omega) hr (btnCountWrite_sound v s hn)
  case control => exact ⟨_, next_asWrite_of_reaches_at _ (by omega) hr rfl, btnControlWrite_fields v s hn⟩
  case heat =>
    have hfields := restartTape_fields s n v
    rw [Nat.mod_eq_of_lt w.isLt] at hfields
    exact ⟨_, next_asWrite_of_reaches_at _ (by omega) hr (tapeHeatSet_word w s hn), hfields⟩
  case force => exact next_asWrite_of_reaches_at _ (by omega) hr (forceTape_of_lt s hn)
  case cfg =>
    have hoff : 0x60000 + 16 * (n % 256) + 4 * b2n false = 0x60000 + 16 * n := by
      rw [Nat.mod_eq_of_lt hn]
      rfl
    exact ⟨fun hen => next_asWrite_of_reaches_at _ hoff hr (tapeCfgSet_disabled v hn hen),
      fun hen => ⟨_, next_asWrite_of_reaches_at _ hoff hr rfl, tapeCfgSet_enabled v hn hen⟩⟩
  case link =>
    have hoff : 0x60000 + 16 * (n % 256) + 4 * b2n true = 0x60004 + 16 * n := by
      rw [Nat.mod_eq_of_lt hn]
      exact Nat.add_right_comm _ _ _
    exact next_asWrite_of_reaches_at _ hoff hr (tapeLinkSet_of_lt v s hn)
  case load =>
    have hoff : 0x24014 + 128 * (n % 128) = 0x24014 + 128 * n := by omega
    exact ⟨fun hroom => next_asWrite_of_reaches_at _ hoff hr (relayLoad_enters v hn hroom),
      fun hfull => next_asWrite_of_reaches_at _ hoff hr (relayLoad_full v hn hfull)⟩
  case flush => exact next_asWrite_of_reaches_at _ (by omega) hr (if_pos hn)
  case abort => exact next_asWrite_of_reaches_at _ (by omega) hr (if_neg (Nat.not_le.2 hn))
  case low => exact next_asWrite_of_reaches_at _ (by omega) hr (pmStage_word w s hn)
  case high =>
    have hoff : 0x20010 + 1024 * (n % 16) = 0x20010 + 1024 * n := by omega
    exact ⟨fun hbusy => next_asWrite_of_reaches_at _ hoff hr (pmWrite_busy v hn hbusy),
      fun hidle => ⟨_, next_asWrite_of_reaches_at _ hoff hr rfl, pmWrite_idle w hn hidle⟩⟩
  case unreached =>
    obtain hunit | hbus : i ∈ unitWrites m n k l w up ∨ i ∈ [Instr.registerWrite (.port m) k x w] := List.mem_append.1 hi
    · obtain ⟨off, z, f, -, hexec⟩ := exec_of_unitWrites hunit s
      rw [hexec, asWrite_of_not_reaches z f (hno off), unreached_of_no_reach hno]
    · rw [List.mem_singleton.1 hbus]
      exact congrArg _ (busWrite_of_no_reach k x v hno)
  case doze =>
    subst hm
    obtain ⟨off, z, f, hoff, hexec⟩ := exec_of_unitWrites (k := k) (l := l) (up := up) hi s
    rw [hexec, asWrite_of_not_reaches z f (not_reaches_doze _ hd hoff), unreached_doze hd hp hv]

end Sys2Proof.Machine
end

section
/-! SUPPORT. What the pacer instructions stand on: an instruction that is executed, the task of a stream and its program counter,
the registers of a stream, and what a noted event leaves alone (R374, R385, R387). -/

namespace Sys2Proof.Machine

-- ## The instruction and its task

/-- An instruction that is executed is fetched by its stream for its task, and its row does its work. -/
theorem executes_iff {op q st ins : Nat} {t : Task} {ups : InsUps} {s : State} : executes op q st ins t ups s = true ↔
    findTask s q st = some t ∧ decoding s t = true ∧ fetched s q st = ins ∧ bits ins 0 6 = op ∧ insBad ins = false
      ∧ ups.perr = false := by
  simp [executes, and_assoc]

theorem runIns_of_executes {op q st ins : Nat} {t : Task} {ups : InsUps} {s : State}
    (h : executes op q st ins t ups s = true) (f : State → Task → Nat → State) : runIns op q st ups f s = f s t ins := by
  obtain ⟨htask, hdec, hfetch, hop, hgood, hperr⟩ := executes_iff.1 h
  simp [runIns, htask, hdec, hfetch, hop, hgood, hperr]

theorem stream_of_findTask {s : State} {q st : Nat} {t : Task} (h : findTask s q st = some t) : t.q = q ∧ t.st = st := by
  simpa using List.find?_some h

/-- The task of a stream that has one is the one put there. -/
theorem findTask_putTask {s : State} {t u : Task} {q st : Nat} (h : findTask s q st = some u) (hq : t.q = q) (hst : t.st = st) :
    findTask (putTask s t) q st = some t := by
  subst hq hst
  have hu : (u.q == t.q && u.st == t.st) = true := by simpa using stream_of_findTask h
  have hkey : ∀ x : Task, ((if x.q == t.q && x.st == t.st then t else x).q == t.q
      && (if x.q == t.q && x.st == t.st then t else x).st == t.st) = (x.q == t.q && x.st == t.st) := by
    intro x
    split
    · next hx => simp [hx]
    · rfl
  have hfind : s.tasks.find? (fun x => x.q == t.q && x.st == t.st) = some u := h
  simp only [findTask, putTask, List.find?_map, Function.comp_def, hkey, hfind, Option.map_some, hu, if_true]

-- ## The program counter (R387)

theorem advance_of_lt {s : State} {t : Task} (h : pcOf s t.q t.st < 255) : advance s t = setPc s t (pcOf s t.q t.st + 1) :=
  if_neg (Nat.ne_of_lt h)

theorem pcOf_advance {s : State} {t : Task} (h : pcOf s t.q t.st < 255) :
    pcOf (advance s t) t.q t.st = pcOf s t.q t.st + 1 := by
  rw [advance_of_lt h]
  exact (getF_setF_same _ _ _).trans (Nat.mod_eq_of_lt (Nat.succ_lt_succ h))

-- ## The registers of a stream, and noted events

/-- The registers of the pacers lie apart from those that a noted event changes. -/
theorem pacer_not_noted {f : Fld} (hlo : 8 * 0x20000 ≤ f.key) (hhi : f.key < 8 * 0x24000) : f.key ∉ noteKeys := by
  have hkeys : ∀ k ∈ noteKeys, k < 8 * 0x20000 ∨ 8 * 0x24000 ≤ k := by decide
  intro hf
  have hkey := hkeys _ hf
  omega

theorem Noted.pcOf {s u : State} (h : Noted s u) {q st : Nat} (hq : q < 16) (hst : st < 4) :
    pcOf u q st = pcOf s q st :=
  h.1 _ (pacer_not_noted (by simp only [Fld.key, F.PACER_S_STAT_PC]; omega)
    (by simp only [Fld.key, F.PACER_S_STAT_PC]; omega))

theorem Noted.relays {s u : State} (h : Noted s u) : u.relays = s.relays := by
  have hsame := congrArg State.relays h.2
  exact hsame

theorem Noted.relayWait {s u : State} (h : Noted s u) : u.relayWait = s.relayWait := by
  have hsame := congrArg State.relayWait h.2
  exact hsame

theorem Noted.tasks {s u : State} (h : Noted s u) : u.tasks = s.tasks := by
  have hsame := congrArg State.tasks h.2
  exact hsame

theorem Noted.conc {s u : State} (h : Noted s u) : u.conc = s.conc := by
  have hsame := congrArg State.conc h.2
  exact hsame

end Sys2Proof.Machine
end

section
/-! SUPPORT. RPOP and RPUSH: the queue after a pop and after a push where no push waits, and what becomes of the stream
(R363, R364, R366, R398, R399). Settles O16. -/

namespace Sys2Proof.Machine

-- ## Queues where no push waits (R363, R366)

@[simp] theorem relayQ_setRelay (s : State) (n : Nat) (l : List Handle) : relayQ (setRelay s n l) n = l :=
  Sparse.at_set_same _ _ _ _

/-- With no push waiting for a queue, room in it lets none in. -/
theorem drainRelay_of_none {s : State} {n : Nat} (h : ∀ w ∈ s.relayWait, w.queue ≠ n) (k : Nat) : drainRelay k s n = s := by
  have hfind : s.relayWait.find? (fun w => w.queue == n) = none := List.find?_eq_none.2 (by simpa using h)
  cases k with
  | zero => rfl
  | succ k => simp [drainRelay, hfind]

/-- The state after queue `n` becomes `l`, with the event counted and, where enabled, the queue's signal made (R366). -/
def relayChanged (s : State) (n : Nat) (l : List Handle) (ev : Nat) (en : Bool) (b : Nat) : State :=
  let u := ctrEvent (setRelay s n l) ev n 1 noCtx
  if en then makeSig u b (getF s (F.RLY_CTL_PART n)) else u

section
variable (s : State) (n : Nat) (l : List Handle) (ev : Nat) (en : Bool) (b : Nat)

theorem relayChanged_eq : ∃ u, Noted (setRelay s n l) u
    ∧ relayChanged s n l ev en b = if en then makeSig u b (getF s (F.RLY_CTL_PART n)) else u :=
  ⟨_, ctrEvent_noted _ _ _ _ _, rfl⟩

theorem relays_relayChanged : (relayChanged s n l ev en b).relays = (setRelay s n l).relays := by
  obtain ⟨u, hu, he⟩ := relayChanged_eq s n l ev en b
  rw [he, ← hu.relays]
  cases en <;> rfl

theorem relayWait_relayChanged : (relayChanged s n l ev en b).relayWait = s.relayWait := by
  obtain ⟨u, hu, he⟩ := relayChanged_eq s n l ev en b
  rw [he, show s.relayWait = u.relayWait from hu.relayWait.symm]
  cases en <;> rfl

theorem findTask_relayChanged (q st : Nat) : findTask (relayChanged s n l ev en b) q st = findTask s q st := by
  obtain ⟨u, hu, he⟩ := relayChanged_eq s n l ev en b
  have htasks : (relayChanged s n l ev en b).tasks = s.tasks := by
    rw [he, show s.tasks = u.tasks from hu.tasks.symm]
    cases en <;> rfl
  rw [findTask, findTask, htasks]

theorem sigs_relayChanged : (relayChanged s n l ev en b).conc.sigs.length = s.conc.sigs.length + if en then 1 else 0 := by
  obtain ⟨u, hu, he⟩ := relayChanged_eq s n l ev en b
  rw [he, show s.conc = u.conc from hu.conc.symm]
  cases en
  · rfl
  · exact List.length_append

theorem pcOf_relayChanged {q st : Nat} (hq : q < 16) (hst : st < 4) : pcOf (relayChanged s n l ev en b) q st = pcOf s q st := by
  obtain ⟨u, hu, he⟩ := relayChanged_eq s n l ev en b
  rw [he, show pcOf s q st = pcOf u q st from (hu.pcOf hq hst).symm]
  cases en <;> rfl

end

/-- A pop of a queue that no push waits for. -/
theorem popRelay_of_none {s : State} {n : Nat} {h : Handle} {l : List Handle} (hq : relayQ s n = h :: l)
    (hw : ∀ w ∈ s.relayWait, w.queue ≠ n) : popRelay s n =
      (some h, relayChanged s n l 0x1E (flagF s (F.RLY_NOTIFY_POP_SIG_EN n)) (getF s (F.RLY_NOTIFY_POP_BATON n))) := by
  have hdrain := drainRelay_of_none (s := relayChanged s n l 0x1E (flagF s (F.RLY_NOTIFY_POP_SIG_EN n))
    (getF s (F.RLY_NOTIFY_POP_BATON n))) (by rwa [relayWait_relayChanged]) 64
  rw [popRelay, hq]
  exact congrArg _ hdrain

/-- A push into a queue that wakes nothing. -/
theorem enterRelay_of_no_wake {s : State} {n : Nat} (h : Handle) (hwake : getF s (F.RLY_CTL_WAKE_EN n) = 0) :
    enterRelay s n h = relayChanged s n (relayQ s n ++ [h]) 0x1D (flagF s (F.RLY_NOTIFY_PUSH_SIG_EN n))
      (getF s (F.RLY_NOTIFY_PUSH_BATON n)) := by
  have hflag : flagF s (F.RLY_CTL_WAKE_EN n) = false := by rw [flagF, hwake]; rfl
  exact if_neg (by simp [hflag])

-- ## The stream's task after a queue change

/-- The stream of a task goes on after a queue change: the queue, the program counter, the signals and the task. -/
theorem advance_relayChanged {s : State} {t u : Task} {n ev b : Nat} {l : List Handle} {en : Bool} (hq : t.q < 16)
    (hst : t.st < 4) (hpc : pcOf s t.q t.st < 255) (htask : findTask s t.q t.st = some t) (huq : u.q = t.q) (hust : u.st = t.st) :
    let v := advance (putTask (relayChanged s n l ev en b) u) t
    relayQ v n = l ∧ pcOf v t.q t.st = pcOf s t.q t.st + 1
      ∧ v.conc.sigs.length = s.conc.sigs.length + (if en then 1 else 0) ∧ findTask v t.q t.st = some u := by
  intro v
  have hsame : pcOf (putTask (relayChanged s n l ev en b) u) t.q t.st = pcOf s t.q t.st := pcOf_relayChanged s n l ev en b hq hst
  have hpc' : pcOf (putTask (relayChanged s n l ev en b) u) t.q t.st < 255 := hsame ▸ hpc
  have hv : v = setPc (putTask (relayChanged s n l ev en b) u) t _ := advance_of_lt hpc'
  refine ⟨?_, (pcOf_advance hpc').trans (by rw [hsame]), ?_, ?_⟩
  · rw [hv]
    exact (congrArg (Sparse.at · n []) (relays_relayChanged s n l ev en b)).trans (relayQ_setRelay s n l)
  · rw [hv]
    exact sigs_relayChanged s n l ev en b
  · rw [hv]
    exact findTask_putTask ((findTask_relayChanged s n l ev en b _ _).trans htask) huq hust

-- ## RPOP (R398)

section
variable {s : State} {t : Task} {ins : Nat}

theorem doRpop_barred (h : relayAllows s (bits ins 16 7) t.h.part = false) : doRpop s t ins = abortTask s t.q t.st 0x03 := by
  simp [doRpop, h]

theorem doRpop_empty (h : relayAllows s (bits ins 16 7) t.h.part = true) (hempty : relayQ s (bits ins 16 7) = []) :
    doRpop s t ins = s := by simp [doRpop, h, popRelay, hempty]

theorem doRpop_pops {h : Handle} {l : List Handle} (hallow : relayAllows s (bits ins 16 7) t.h.part = true)
    (hqueue : relayQ s (bits ins 16 7) = h :: l) (hgood : h.aborted = false)
    (hw : ∀ w ∈ s.relayWait, w.queue ≠ bits ins 16 7) (htask : findTask s t.q t.st = some t) :
    doRpop s t ins = advance (putTask (relayChanged s (bits ins 16 7) l 0x1E (flagF s (F.RLY_NOTIFY_POP_SIG_EN (bits ins 16 7)))
      (getF s (F.RLY_NOTIFY_POP_BATON (bits ins 16 7))))
        (withX { t with handles := t.handles ++ [(bits ins 16 7, h)] } (bits ins 6 3) h.bib)) t := by
  simp only [doRpop, hallow, popRelay_of_none hqueue hw, findTask_relayChanged, htask, hgood]
  rfl

-- ## RPUSH (R363, R399)

/-- The handle that RPUSH names. -/
def rpushHandle (t : Task) (ins : Nat) : Handle := ⟨xReg t (bits ins 9 3) % 2 ^ 12, false, some t.rid⟩

/-- The task after its handle is pushed: the oldest record of it goes (R369). -/
def rpushed (t : Task) (ins : Nat) : Task :=
  { t with handles := dropHandle (rpushHandle t ins).bib t.handles, pwait := false }

section
variable (hwait : t.pwait = false) (hready : rpushReady s t = true) (hlocal : bits ins 23 1 = 0)
include hwait hready hlocal

theorem doRpush_barred (hno : relayAllows s (bits ins 16 7) t.h.part = false) : doRpush s t ins = abortTask s t.q t.st 0x03 := by
  simp [doRpush, hwait, hready, (bits_eq_zero_iff ins 23).1 hlocal, hno]

variable (hallow : relayAllows s (bits ins 16 7) t.h.part = true)
include hallow

theorem doRpush_enters (hroom : (relayQ s (bits ins 16 7)).length < 64)
    (hfirst : s.relayWait.any (fun w => w.queue == bits ins 16 7) = false)
    (hwake : getF s (F.RLY_CTL_WAKE_EN (bits ins 16 7)) = 0) (htask : findTask s t.q t.st = some t) :
    doRpush s t ins = advance (putTask (relayChanged s (bits ins 16 7) (relayQ s (bits ins 16 7) ++ [rpushHandle t ins]) 0x1D
      (flagF s (F.RLY_NOTIFY_PUSH_SIG_EN (bits ins 16 7))) (getF s (F.RLY_NOTIFY_PUSH_BATON (bits ins 16 7))))
        (rpushed t ins)) t := by
  simp only [doRpush, hwait, hready, (bits_eq_zero_iff ins 23).1 hlocal, hallow, hroom, hfirst, enterRelay_of_no_wake _ hwake,
    findTask_relayChanged, htask]
  rfl

/-- A push that may not enter its queue now waits in the pool, or aborts its task when the pool is full. -/
theorem doRpush_not_enters (hno : 64 ≤ (relayQ s (bits ins 16 7)).length
      ∨ s.relayWait.any (fun w => w.queue == bits ins 16 7) = true) :
    doRpush s t ins = if s.relayWait.length < 256 then
        putTask { s with relayWait := s.relayWait ++ [⟨bits ins 16 7, rpushHandle t ins, none, some (t.q, t.st)⟩] }
          { t with pwait := true }
      else abortTask (incF s (F.RLY_CNT_FULL_CNT (bits ins 16 7)) 1) t.q t.st 0x0C := by
  have hshut : (decide ((relayQ s (bits ins 16 7)).length < 64)
      && !s.relayWait.any (fun w => w.queue == bits ins 16 7)) = false := by
    rcases hno with h | h
    · rw [decide_eq_false (Nat.not_lt.2 h), Bool.false_and]
    · rw [h, Bool.not_true, Bool.and_false]
  simp only [doRpush, hwait, hready, (bits_eq_zero_iff ins 23).1 hlocal, hallow, hshut]
  rfl

end

end

/-- Settles O16, one rule of an instruction per clause. -/
theorem rpopAndRpushUseRelayQueues : Obligations.RpopAndRpushUseRelayQueues := by
  refine ⟨fun q st ins t ups s hq hst hex => ?pop, fun q st ins t ups s hq hst hex hwait hready hlocal => ?push⟩
  case pop =>
    obtain ⟨htask, -⟩ := executes_iff.1 hex
    obtain ⟨rfl, rfl⟩ := stream_of_findTask htask
    have hexec : exec (.rpop t.q t.st ups) s = .next (doRpop s t ins) := congrArg _ (runIns_of_executes hex doRpop)
    rw [hexec]
    intro n
    refine ⟨fun hno => congrArg _ (doRpop_barred hno), fun hallow hempty => congrArg _ (doRpop_empty hallow hempty),
      fun h l hallow hqueue hgood hpc hw => ⟨_, congrArg _ (doRpop_pops hallow hqueue hgood hw htask), ?_⟩⟩
    exact advance_relayChanged hq hst hpc htask rfl rfl
  case push =>
    obtain ⟨htask, -⟩ := executes_iff.1 hex
    obtain ⟨rfl, rfl⟩ := stream_of_findTask htask
    have hexec : exec (.rpush t.q t.st ups) s = .next (doRpush s t ins) := congrArg _ (runIns_of_executes hex doRpush)
    rw [hexec]
    intro n h waits
    refine ⟨fun hno => congrArg _ (doRpush_barred hwait hready hlocal hno), fun hallow hroom hfirst hpc hwake =>
        ⟨_, congrArg _ (doRpush_enters hwait hready hlocal hallow hroom hfirst hwake htask), ?_⟩,
      fun hallow hno hpool => congrArg _ ((doRpush_not_enters hwait hready hlocal hallow hno).trans (if_pos hpool)),
      fun hallow hno hpool => congrArg _ ((doRpush_not_enters hwait hready hlocal hallow hno).trans
        (if_neg (Nat.not_lt.2 hpool)))⟩
    exact (advance_relayChanged (u := rpushed t ins) hq hst hpc htask rfl rfl).imp_right And.left

end Sys2Proof.Machine
end

section
/-! SUPPORT. MOV: the check of sound bib entries, the access that stands at the scoreboard, and what the issue of a MOV leaves
and changes (R336, R354, R391 to R395, R401, R403, R408, R411). Settles O14. -/

namespace Sys2Proof.Machine

-- ## Sound bib entries (R336)

/-- Entries without an upset are read without an effect. -/
theorem readBibs_sound (l : List Nat) (s : State) : readBibs [] l s = s := by
  induction l with
  | nil => rfl
  | cons b l ih =>
    have hread : (readBibEntry s b (bibUpset [] b)).2 = s := rfl
    rw [readBibs, hread, ih, ite_self]

theorem doMovChecked_sound (s : State) (t : Task) (ins : Nat) : doMovChecked [] s t ins = doMov s t ins := by
  simp only [doMovChecked, readBibs_sound]

-- ## What the issue of an access leaves alone

/-- A field of the pacers' registers. -/
def InPacers (f : Fld) : Prop := 8 * 0x20000 ≤ f.key ∧ f.key < 8 * 0x24000

/-- `u` has the stores of `s`, its waits, its relay queues and its pacers' registers. -/
structure IssueKeeps (s u : State) : Prop where
  mem : u.mem = s.mem
  gst : u.gst = s.gst
  waiters : u.waiters = s.waiters
  relays : u.relays = s.relays
  pacers : ∀ f, InPacers f → getF u f = getF s f

theorem IssueKeeps.of_regs {s u : State} (hregs : u.regs = s.regs) (hmem : u.mem = s.mem) (hgst : u.gst = s.gst)
    (hwaiters : u.waiters = s.waiters) (hrelays : u.relays = s.relays) : IssueKeeps s u :=
  ⟨hmem, hgst, hwaiters, hrelays, fun f _ => getF_of_regs hregs f⟩

theorem IssueKeeps.refl (s : State) : IssueKeeps s s := .of_regs rfl rfl rfl rfl rfl

theorem IssueKeeps.trans {s u v : State} (h : IssueKeeps s u) (g : IssueKeeps u v) : IssueKeeps s v :=
  ⟨g.mem.trans h.mem, g.gst.trans h.gst, g.waiters.trans h.waiters, g.relays.trans h.relays,
    fun f hf => (g.pacers f hf).trans (h.pacers f hf)⟩

theorem IssueKeeps.of_noted {s u : State} (h : Noted s u) : IssueKeeps s u where
  mem := show (unnoted u).mem = (unnoted s).mem by rw [h.2]
  gst := show (unnoted u).gst = (unnoted s).gst by rw [h.2]
  waiters := show (unnoted u).waiters = (unnoted s).waiters by rw [h.2]
  relays := show (unnoted u).relays = (unnoted s).relays by rw [h.2]
  pacers f hf := h.1 f (pacer_not_noted hf.1 hf.2)

theorem numbered_issueKeeps (s : State) (n : Nat) : IssueKeeps s { s with nextId := n } := .of_regs rfl rfl rfl rfl rfl

theorem putTask_issueKeeps (s : State) (t : Task) : IssueKeeps s (putTask s t) := .of_regs rfl rfl rfl rfl rfl

theorem useCharge_issueKeeps (s : State) (t : Task) (need : List Nat) : IssueKeeps s (useCharge s t need).1 :=
  .of_regs rfl rfl rfl rfl rfl

theorem setF_issueKeeps (s : State) {f : Fld} (v : Nat) (h : f.key < 8 * 0x20000) : IssueKeeps s (setF s f v) :=
  ⟨rfl, rfl, rfl, rfl, fun _ hg => getF_setF_other s v (Nat.ne_of_gt (Nat.lt_of_lt_of_le h hg.1))⟩

theorem Noted.reqs {s u : State} (h : Noted s u) : u.reqs = s.reqs := by
  have hsame := congrArg State.reqs h.2
  exact hsame

theorem Noted.nextId {s u : State} (h : Noted s u) : u.nextId = s.nextId := by
  have hsame := congrArg State.nextId h.2
  exact hsame

-- ## The access at the scoreboard (R354)

/-- A request as it stands at the scoreboard; `c`: its hold has been counted. -/
def atScoreboard (s : State) (r : Request) (c : Bool) : Request :=
  { r with stage := .stage3, order := s.orderNo, bucket := fineOf (now s), counted := c }

/-- A request of a task that enters at stage 3 stands there, and nothing else of note changes. -/
theorem issueNew_of_task {s : State} {r : Request} {b n : Nat} (hplace : r.place = .task b n) :
    ∃ u c, IssueKeeps s u ∧ u.nextId = s.nextId ∧ u.reqs = s.reqs ++ [r] ∧ issueNew s r = putReq u (atScoreboard s r c) := by
  have hmove (x : State) : moveCharged x r = x := by simp only [moveCharged, hplace]
  unfold issueNew enterStage3
  rw [hmove]
  extract_lets r1 s1
  have hs1 : IssueKeeps s s1 := .of_regs rfl rfl rfl rfl rfl
  split
  · have hnoted := ctrEvent_noted (incF s1 F.GLB_SB_HOLD_HOLD_CNT 1) 0x14 0 1 (ctxOf r)
    exact ⟨_, true, (hs1.trans (setF_issueKeeps _ _ (by decide))).trans (.of_noted hnoted), hnoted.nextId, hnoted.reqs, rfl⟩
  · refine ⟨_, false, ?_, ?_, ?_, rfl⟩
    all_goals split
    · exact hs1.trans (setF_issueKeeps _ _ (by decide))
    · exact hs1
    all_goals rfl

/-- What stands after a task's request has entered at stage 3: the request, and every request of another number. -/
theorem issueNew_spec {s : State} {r : Request} {b n : Nat} (hplace : r.place = .task b n) :
    IssueKeeps s (issueNew s r) ∧ (issueNew s r).nextId = s.nextId ∧ (∃ c, atScoreboard s r c ∈ (issueNew s r).reqs)
      ∧ ∀ x ∈ s.reqs, x.id ≠ r.id → x ∈ (issueNew s r).reqs := by
  obtain ⟨u, c, hkeeps, hnext, hreqs, he⟩ := issueNew_of_task hplace
  rw [he]
  refine ⟨hkeeps.trans (.of_regs rfl rfl rfl rfl rfl), hnext, ⟨c, ?_⟩, fun x hx hne => ?_⟩
  · exact List.mem_map.2 ⟨r, by simp [hreqs], by simp [atScoreboard]⟩
  · exact List.mem_map.2 ⟨x, by simp [hreqs, hx], by simp [atScoreboard, hne]⟩

-- ## The issue of a MOV (R391 to R395, R401, R403)

/-- The MOV pushes to the consumer. -/
def isPush (t : Task) (g : MovGo) : Bool := g.dst.isNone && (match t.dst with | some m => m.mode == 0 | none => false)

/-- The state with the accesses of a MOV at the scoreboard. -/
structure MovIssued (s u : State) (t : Task) (g : MovGo) : Prop where
  keeps : IssueKeeps s u
  read : ∃ r ∈ u.reqs, r.id = s.nextId ∧ r.org = .pacer t.q t.st ∧ r.stage = .stage3 ∧ r.accs = g.src.accs ∧ r.h = g.src.h
  write : ∀ d, g.dst = some d → u.nextId = s.nextId + 2 ∧ ∃ r ∈ u.reqs, r.id = s.nextId + 1 ∧ r.org = .pacer t.q t.st
    ∧ r.stage = .stage3 ∧ r.accs = d.accs ∧ r.needs = some s.nextId

/-- With its read at the scoreboard, a MOV with a sink of this block puts its write there too, which waits for the read. -/
theorem movIssued_of_write {s u : State} {t : Task} {g : MovGo} {d : Side} {r : Request} (hdst : g.dst = some d)
    (hkeeps : IssueKeeps s u) (hnext : u.nextId = s.nextId + 1) (hr : r ∈ u.reqs) (hread : r.id = s.nextId
      ∧ r.org = .pacer t.q t.st ∧ r.stage = .stage3 ∧ r.accs = g.src.accs ∧ r.h = g.src.h) :
    MovIssued s (issueNew { u with nextId := u.nextId + 1 } (pacerReq u t d .none (some s.nextId))) t g := by
  obtain ⟨hissue, hnextId, ⟨c, hwrite⟩, hothers⟩ :=
    issueNew_spec (s := { u with nextId := u.nextId + 1 }) (r := pacerReq u t d .none (some s.nextId)) rfl
  have hdiff : r.id ≠ (pacerReq u t d .none (some s.nextId)).id := by
    rw [hread.1, show (pacerReq u t d .none (some s.nextId)).id = s.nextId + 1 from hnext]
    exact Nat.ne_of_lt (Nat.lt_succ_self _)
  refine ⟨hkeeps.trans ((numbered_issueKeeps u _).trans hissue), ⟨r, hothers r hr hdiff, hread⟩, fun e he => ?_⟩
  obtain rfl : d = e := Option.some.inj (hdst.symm.trans he)
  exact ⟨hnextId.trans (congrArg (· + 1) hnext), _, hwrite, hnext, rfl, rfl, rfl, rfl⟩

/-- The credits and the sequence numbers of a stream after a MOV (R401, R403). -/
def pushCounted (s u : State) (t : Task) (g : MovGo) : State :=
  if isPush t g then
    setF (setF u (F.PACER_S_CRED_AVAIL t.q t.st) (getF s (F.PACER_S_CRED_AVAIL t.q t.st) - g.rg))
      (F.PACER_S_PUSHSEQ_SEQ t.q t.st) (getF s (F.PACER_S_PUSHSEQ_SEQ t.q t.st) + g.rg)
  else u

/-- A MOV that issues puts its accesses at the scoreboard, counts its push, and its stream goes on. -/
theorem issueMov_issues (s : State) (t : Task) (ins : Nat) (g : MovGo) :
    ∃ u v, MovIssued s u t g ∧ Noted (pushCounted s u t g) v ∧ issueMov s t ins g = advance v t := by
  unfold issueMov
  extract_lets a b cnt pa pb charge id push sink u2 t1 t2 t3 seq t4 rd u1 s1 s2 s3 s4 c
  have h1 : IssueKeeps s s1 := (useCharge_issueKeeps s t _).trans ((numbered_issueKeeps u1 _).trans (putTask_issueKeeps _ t4))
  obtain ⟨h2, hnext, ⟨c2, hread⟩, -⟩ := issueNew_spec (s := s1) (r := rd) rfl
  have h12 : IssueKeeps s s2 := h1.trans h2
  suffices hissued : MovIssued s s3 t g from ⟨s3, _, hissued, ctrEvent_noted _ _ _ _ _, rfl⟩
  rcases hdst : g.dst with _ | d
  · have hs3 : s3 = s2 := by simp only [s3, hdst]
    rw [hs3]
    exact ⟨h12, ⟨_, hread, rfl, rfl, rfl, rfl, rfl⟩, fun d hd => absurd (hdst.symm.trans hd) nofun⟩
  · have hs3 : s3 = issueNew { s2 with nextId := s2.nextId + 1 } (pacerReq s2 t d .none (some id)) := by simp only [s3, hdst]
    rw [hs3]
    exact movIssued_of_write hdst h12 hnext hread ⟨rfl, rfl, rfl, rfl, rfl⟩

-- ## The stream after a MOV (R387, R401, R403)

/-- The credits and the sequence numbers of a push are those of a stream, apart from its program counter. -/
theorem stream_keys_pairwise (q st : Nat) :
    [F.PACER_S_STAT_PC q st, F.PACER_S_CRED_AVAIL q st, F.PACER_S_PUSHSEQ_SEQ q st].Pairwise
      (fun f g => f.key ≠ g.key ∧ g.key ≠ f.key) := by
  simp only [List.pairwise_cons, List.forall_mem_cons, List.not_mem_nil, List.Pairwise.nil, IsEmpty.forall_iff, implies_true,
    and_true, Fld.key, F.PACER_S_STAT_PC, F.PACER_S_CRED_AVAIL, F.PACER_S_PUSHSEQ_SEQ]
  omega

theorem stream_inPacers {q st : Nat} (hq : q < 16) (hst : st < 4) :
    InPacers (F.PACER_S_STAT_PC q st) ∧ InPacers (F.PACER_S_CRED_AVAIL q st) ∧ InPacers (F.PACER_S_PUSHSEQ_SEQ q st) := by
  simp only [InPacers, Fld.key, F.PACER_S_STAT_PC, F.PACER_S_CRED_AVAIL, F.PACER_S_PUSHSEQ_SEQ]
  omega

/-- Only registers change with the credits and the sequence numbers. -/
theorem pushCounted_eq (s u : State) (t : Task) (g : MovGo) : ∃ r, pushCounted s u t g = { u with regs := r } := by
  unfold pushCounted
  split <;> exact ⟨_, rfl⟩

section
variable {s u v : State} {t : Task} {g : MovGo} (hq : t.q < 16) (hst : t.st < 4) (hissued : MovIssued s u t g)
  (hnoted : Noted (pushCounted s u t g) v)
include hq hst hissued hnoted

theorem pcOf_of_issued : pcOf v t.q t.st = pcOf s t.q t.st := by
  have hkeys := stream_keys_pairwise t.q t.st
  simp only [List.pairwise_cons, List.forall_mem_cons, List.not_mem_nil, List.Pairwise.nil] at hkeys
  obtain ⟨⟨hpa, hps, -⟩, -⟩ := hkeys
  have hcounted : pcOf (pushCounted s u t g) t.q t.st = pcOf u t.q t.st := by
    rw [pushCounted]
    split
    · exact (getF_setF_other _ _ hps.1).trans (getF_setF_other _ _ hpa.1)
    · rfl
  rw [hnoted.pcOf hq hst, hcounted]
  exact hissued.keeps.pacers _ (stream_inPacers hq hst).1

variable (hpc : pcOf s t.q t.st < 255)
include hpc

theorem advance_of_issued : advance v t = setPc v t (pcOf s t.q t.st + 1) := by
  have hsame := pcOf_of_issued hq hst hissued hnoted
  rw [advance_of_lt (hsame ▸ hpc), hsame]

/-- The stream goes on, and what else the MOV issued stands. -/
theorem advance_keeps_issued : pcOf (advance v t) t.q t.st = pcOf s t.q t.st + 1 ∧ (advance v t).reqs = u.reqs
    ∧ (advance v t).nextId = u.nextId ∧ (advance v t).mem = s.mem ∧ (advance v t).waiters = s.waiters
    ∧ (advance v t).relays = s.relays ∧ (advance v t).gst = s.gst := by
  have hsame := pcOf_of_issued hq hst hissued hnoted
  obtain ⟨r, hcounted⟩ := pushCounted_eq s u t g
  rw [hcounted] at hnoted
  have hkeeps := IssueKeeps.of_noted hnoted
  refine ⟨(pcOf_advance (hsame ▸ hpc)).trans (by rw [hsame]), ?_⟩
  rw [advance_of_lt (hsame ▸ hpc)]
  exact ⟨hnoted.reqs, hnoted.nextId, hkeeps.mem.trans hissued.keeps.mem, hkeeps.waiters.trans hissued.keeps.waiters,
    hkeeps.relays.trans hissued.keeps.relays, hkeeps.gst.trans hissued.keeps.gst⟩

/-- A push takes its granules off the credits and moves the sequence numbers on. -/
theorem advance_counts_push (hpush : isPush t g = true) :
    getF (advance v t) (F.PACER_S_CRED_AVAIL t.q t.st) = (getF s (F.PACER_S_CRED_AVAIL t.q t.st) - g.rg) % 2 ^ 13
      ∧ getF (advance v t) (F.PACER_S_PUSHSEQ_SEQ t.q t.st) = (getF s (F.PACER_S_PUSHSEQ_SEQ t.q t.st) + g.rg) % 2 ^ 32 := by
  have hkeys := stream_keys_pairwise t.q t.st
  simp only [List.pairwise_cons, List.forall_mem_cons, List.not_mem_nil, List.Pairwise.nil] at hkeys
  obtain ⟨⟨hpa, hps, -⟩, ⟨has, -⟩, -⟩ := hkeys
  obtain ⟨-, havail, hseq⟩ := stream_inPacers hq hst
  have hkeeps := IssueKeeps.of_noted hnoted
  have hcounted : pushCounted s u t g = _ := if_pos hpush
  rw [advance_of_issued hq hst hissued hnoted hpc, setPc, getF_setF_other _ _ hpa.2, getF_setF_other _ _ hps.2,
    hkeeps.pacers _ havail, hkeeps.pacers _ hseq, hcounted, getF_setF_other _ _ has.1, getF_setF_same, getF_setF_same]
  exact ⟨rfl, rfl⟩

end

-- ## The statement

/-- Settles O14, the plan's four outcomes one by one. -/
theorem movIssuesAbortsOrStalls : Obligations.MovIssuesAbortsOrStalls := by
  intro q st ins t ups s hq hst hex hbibs
  obtain ⟨htask, -⟩ := executes_iff.1 hex
  obtain ⟨rfl, rfl⟩ := stream_of_findTask htask
  have hexec : exec (.mov t.q t.st ups) s = .next (doMov s t ins) := by
    have hrow : exec (.mov t.q t.st ups) s = .next (doMovChecked ups.bibs s t ins) := congrArg _ (runIns_of_executes hex _)
    rw [hrow, hbibs, doMovChecked_sound]
  rw [hexec, doMov]
  refine ⟨fun c hplan => ?abort, fun c hplan => ?stall, fun x hplan => ?part, fun g hplan hpc => ?go⟩
  case abort => rw [hplan]
  case stall => rw [hplan]
  case part => rw [hplan]
  case go =>
    rw [hplan]
    obtain ⟨u, v, hissued, hnoted, hmov⟩ := issueMov_issues s t ins g
    obtain ⟨hnext, hreqs, hid, hmem, hwaiters, hrelays, hgst⟩ := advance_keeps_issued hq hst hissued hnoted hpc
    refine ⟨_, congrArg _ hmov, hnext, hreqs ▸ hissued.read, fun d hd => ?_, fun m hd hm hmode => ?_,
      hmem, hwaiters, hrelays, hgst⟩
    · rw [hreqs, hid]
      exact hissued.write d hd
    · have hpush : isPush t g = true := by simp [isPush, hd, hm, hmode]
      exact advance_counts_push hq hst hissued hnoted hpc hpush

end Sys2Proof.Machine
end

section
/-! SUPPORT. The rows of the pacer instructions: what a row does with an instruction that faults by itself and with one that it
executes, and what the instructions on registers, the program counter and the modes leave (R385 to R388, R412, R414). Settles
O13 and O12. -/

namespace Sys2Proof.Machine

-- ## Faults of the fetched instruction (R412)

section
variable {op q st : Nat} {t : Task} {s : State} (ups : InsUps) (f : State → Task → Nat → State)
  (htask : findTask s q st = some t)
include htask

theorem runIns_of_not_decoding (hdec : decoding s t = false) : runIns op q st ups f s = s := by
  simp [runIns, htask, hdec]

variable (hmine : bits (fetched s q st) 0 6 = op ∨ (op = 0 ∧ insTop (bits (fetched s q st) 0 6) = none))
include hmine

/-- A decoding stream runs an instruction of the row, unless its parity or its encoding aborts the task. -/
theorem runIns_of_decoding (hdec : decoding s t = true) : runIns op q st ups f s =
    if ups.perr then
      abortTask (setF s (F.PACER_STAT_PM_PERR q) 1) q st (if insBad (fetched s q st) then 0x01 else 0x0E)
    else if insBad (fetched s q st) then abortTask s q st 0x01
    else f s t (fetched s q st) := by
  have hrow : (bits (fetched s q st) 0 6 == op || (op == 0 && (insTop (bits (fetched s q st) 0 6)).isNone)) = true := by
    simpa using hmine
  simp only [runIns, htask, hdec, hrow]
  rfl

end

/-- Every pacer operation runs its row on the fetched instruction; NOP's row only advances. -/
theorem exec_pacerRow {op q st : Nat} {ups : InsUps} {c : Instr} (hrow : pacerRow q st ups op = some c) :
    ∃ f, (op = 0 → ∀ s t ins, f s t ins = advance s t) ∧ ∀ s, exec c s = .next (runIns op q st ups f s) := by
  unfold pacerRow at hrow
  split at hrow <;> cases hrow
  case h_1 => exact ⟨_, fun _ _ _ _ => rfl, fun _ => rfl⟩
  all_goals exact ⟨_, fun h => absurd h (by decide), fun _ => rfl⟩

theorem advance_at_last {s : State} {t : Task} (h : pcOf s t.q t.st = 255) : advance s t = abortTask s t.q t.st 0x01 :=
  if_pos h

/-- Settles O13: every row decides the faults before its own work. -/
theorem badInstructionsAbortTheTask : Obligations.BadInstructionsAbortTheTask := by
  intro op q st ins t ups c s hrow htask hfetch hmine
  obtain ⟨f, hnop, hexec⟩ := exec_pacerRow hrow
  subst hfetch
  have hruns := runIns_of_decoding ups f htask hmine
  rw [hexec]
  refine ⟨fun hdec => ?idle, fun hdec hperr => ?parity, fun hdec hperr hbad => ?encoding,
    fun hdec hperr hgood hop hpc => ?past⟩
  case idle => rw [runIns_of_not_decoding ups f htask hdec]
  case parity => rw [hruns hdec, if_pos hperr]
  case encoding => rw [hruns hdec, hperr, if_neg Bool.false_ne_true, if_pos hbad]
  case past =>
    obtain ⟨rfl, rfl⟩ := stream_of_findTask htask
    rw [hruns hdec, hperr, hgood, if_neg Bool.false_ne_true, if_neg Bool.false_ne_true, hnop hop, advance_at_last hpc]

-- ## Instructions that are executed

/-- An instruction that is executed does the work of its row. -/
theorem exec_of_executes {op q st ins : Nat} {t : Task} {ups : InsUps} {s : State} {c : Instr}
    {f : State → Task → Nat → State}
    (hex : executes op q st ins t ups s = true) (hrow : exec c s = .next (runIns op q st ups f s)) :
    exec c s = .next (f s t ins) := hrow.trans (congrArg _ (runIns_of_executes hex f))

theorem stream_of_executes {op q st ins : Nat} {t : Task} {ups : InsUps} {s : State}
    (hex : executes op q st ins t ups s = true) : t.q = q ∧ t.st = st :=
  stream_of_findTask (executes_iff.1 hex).1

/-- A stream whose task has changed goes on to the next instruction. -/
theorem advance_putTask {s : State} {t : Task} (u : Task) (h : pcOf s t.q t.st < 255) :
    advance (putTask s u) t = atPc (putTask s u) t.q t.st (pcOf s t.q t.st + 1) := advance_of_lt (s := putTask s u) h

/-- A row that writes D sets it to the row's value, and the stream goes on. -/
theorem exec_of_writeReg {op q st ins : Nat} {t : Task} {ups : InsUps} {s : State} {c : Instr} {v : Task → Nat → Nat}
    (hex : executes op q st ins t ups s = true) (hpc : pcOf s q st < 255)
    (hrow : exec c s = .next (runIns op q st ups (writeReg v) s)) :
    exec c s = .next (atPc (putTask s (withX t (bits ins 6 3) (v t ins))) q st (pcOf s q st + 1)) := by
  obtain ⟨rfl, rfl⟩ := stream_of_executes hex
  exact (exec_of_executes hex hrow).trans (congrArg _ (advance_putTask _ hpc))

-- ## The numbers in an instruction (R385, R387)

/-- The sign extension of a field is that of its bit vector. -/
theorem sext64_eq_signExtend {w v : Nat} (hw : 0 < w) (hv : v < 2 ^ w) :
    sext64 w v = ((BitVec.ofNat w v).signExtend 64).toNat := by
  have hhalf : 2 ^ w = 2 * 2 ^ (w - 1) := by rw [← Nat.pow_succ', Nat.succ_eq_add_one, Nat.sub_add_cancel hw]
  have hsigned : signedOf w v = (BitVec.ofNat w v).toInt := by
    have hcond : v < 2 ^ (w - 1) ↔ 2 * v < 2 ^ w := by omega
    rw [BitVec.toInt_eq_toNat_cond, BitVec.toNat_ofNat, Nat.mod_eq_of_lt hv, signedOf]
    simp only [hcond]
    norm_cast
  rw [sext64, hsigned, BitVec.signExtend, BitVec.toNat_ofInt]
  rfl

theorem ite_bitAt {α : Sort*} (x i : Nat) (a b : α) : (if bitAt x i then a else b) = if bits x i 1 = 1 then a else b :=
  if_congr (bits_eq_one_iff x i).symm rfl rfl

theorem numOf_eq (t : Task) (ins breg lo w : Nat) :
    numOf t ins breg lo w = if bits ins breg 1 = 1 then t.x.getD (bits ins 12 3) 0 % 2 ^ w else bits ins lo w := ite_bitAt ..

/-- Settles O12, one row of an instruction per clause. -/
theorem pacerArithmeticBranchesAndModes : Obligations.PacerArithmeticBranchesAndModes := by
  refine ⟨fun q st ins t ups s hpc => ?registers, fun q st ins t ups s => ?branches, fun q st ins t ups s hpc => ?modes⟩
  case registers =>
    intro d a b done
    refine ⟨fun hex => ?nop, fun hex => ?li, fun hex => ?add, fun hex => ?addi, fun hex => ?muli, fun hex => ?shli,
      fun hex => ?shri, fun hex => ?andi⟩
    case nop =>
      obtain ⟨rfl, rfl⟩ := stream_of_executes hex
      exact (exec_of_executes hex rfl).trans (congrArg _ (advance_of_lt hpc))
    case li =>
      rw [exec_of_writeReg hex hpc (c := .li q st ups) rfl, sext64_eq_signExtend (by decide) (bits_lt ..)]
    case add => exact (exec_of_writeReg hex hpc (c := .add q st ups) rfl :)
    case addi =>
      rw [exec_of_writeReg hex hpc (c := .addi q st ups) rfl, sext64_eq_signExtend (by decide) (bits_lt ..)]
      rfl
    case muli => exact (exec_of_writeReg hex hpc (c := .muli q st ups) rfl :)
    case shli =>
      rw [Nat.shiftLeft_eq]
      exact (exec_of_writeReg hex hpc (c := .shli q st ups) rfl :)
    case shri =>
      rw [Nat.shiftRight_eq_div_pow]
      exact (exec_of_writeReg hex hpc (c := .shri q st ups) rfl :)
    case andi => exact (exec_of_writeReg hex hpc (c := .andi q st ups) rfl :)
  case branches =>
    intro a b k c l next
    refine ⟨fun hex => ?jmp, fun hex => ?bnz, fun hex => ?beq, fun hex => ?loop, fun hex => ?endl⟩
    all_goals obtain ⟨rfl, rfl⟩ := stream_of_executes hex
    case jmp => exact exec_of_executes hex (c := .jmp t.q t.st ups) rfl
    case bnz =>
      rw [exec_of_executes hex (c := .bnz t.q t.st ups) rfl]
      simp only [bne_iff_ne]
      exact ⟨fun h => congrArg _ (if_pos h),
        fun h hnext => congrArg _ ((if_neg (not_not_intro h)).trans (advance_of_lt (Nat.lt_of_succ_lt_succ hnext)))⟩
    case beq =>
      rw [exec_of_executes hex (c := .beq t.q t.st ups) rfl]
      exact ⟨fun h => congrArg _ (if_pos h),
        fun h hnext => congrArg _ ((if_neg h).trans (advance_of_lt (Nat.lt_of_succ_lt_succ hnext)))⟩
    case loop =>
      rw [exec_of_executes hex (c := .loop t.q t.st ups) rfl]
      simp only [ite_bitAt]
      exact ⟨fun h => congrArg _ (if_pos h),
        fun h hnext => congrArg _ ((if_neg h).trans (advance_putTask _ (Nat.lt_of_succ_lt_succ hnext)))⟩
    case endl =>
      rw [exec_of_executes hex (c := .endl t.q t.st ups) rfl]
      simp only [bne_iff_ne]
      exact ⟨fun h => congrArg _ (if_pos h),
        fun h hnext => congrArg _ ((if_neg (not_not_intro h)).trans (advance_putTask _ (Nat.lt_of_succ_lt_succ hnext)))⟩
  case modes =>
    intro b
    refine ⟨fun hex => ?src, fun hex => ?dst⟩
    all_goals obtain ⟨rfl, rfl⟩ := stream_of_executes hex
    case src => rw [exec_of_executes hex (c := .src t.q t.st ups) rfl, advance_putTask _ hpc, numOf_eq]
    case dst => rw [exec_of_executes hex (c := .dst t.q t.st ups) rfl, advance_putTask _ hpc, numOf_eq]

end Sys2Proof.Machine
end

section
/-! SUPPORT. SIG and WAITB on a baton whose word is sound, one rule per way they go on (R396, R397, R425, R429, R430). Settles
O15. -/

namespace Sys2Proof.Machine

section
variable {s : State} {t : Task}

/-- The word of a baton without an upset is read without an effect. -/
theorem batonChecked_sound (f : State → Task → Nat → State) (ins : Nat) (htask : findTask s t.q t.st = some t) :
    batonChecked .none f s t ins = f s t ins := by
  have hread : readBatonWord s (numOf t ins 30 16 14) .none = s := rfl
  simp only [batonChecked, hread, htask]

theorem sigChecked_sound (ins : Nat) (htask : findTask s t.q t.st = some t) : sigChecked .none s t ins = doSig s t ins := by
  rw [sigChecked, batonChecked_sound doSig ins htask, ite_self]

-- ## SIG (R396, R430)

variable {ins : Nat}

theorem doSig_waits (h : sigReady s t = false) : doSig s t ins = s := by simp [doSig, h]

/-- A signal that may be applied, and that is for a baton here. -/
theorem doSig_here (h : sigReady s t = true)
    (hhere : bits ins 47 1 = 0 ∨ namesSelf s (instAddr (xReg t (bits ins 9 3))) = true) :
    doSig s t ins = advance (signalAs s (numOf t ins 30 16 14) (bits ins 31 16) t.h.part) t := by
  rw [bits_eq_zero_iff] at hhere
  rcases hhere with hhere | hhere <;> simp [doSig, h, hhere]

/-- A signal that may be applied, and that is for a baton elsewhere. -/
theorem doSig_remote (h : sigReady s t = true) (hrmt : bits ins 47 1 = 1)
    (hself : namesSelf s (instAddr (xReg t (bits ins 9 3))) = false) : doSig s t ins =
      if badInstance s (instAddr (xReg t (bits ins 9 3))) then abortTask s t.q t.st 9
      else advance (sendRemote s t 0x10 0 (instAddr (xReg t (bits ins 9 3)))
        (numOf t ins 30 16 14 + bits ins 31 16 * 2 ^ 16) 0 []) t := by
  simp [doSig, h, (bits_eq_one_iff ins 47).1 hrmt, hself]

-- ## WAITB (R397, R425, R430)

theorem reached_iff (c x : Nat) : reached c x = true ↔ (c + 2 ^ 32 - x % 2 ^ 32) % 2 ^ 32 < 2 ^ 31 := decide_eq_true_iff

/-- WAITB on a baton that the task may use and that is neither PARKED nor BROKEN. -/
theorem doWaitb_allowed (hwait : t.pwait = false) (hallow : batonAllows s (numOf t ins 30 16 14) t.h.part = true)
    (hopen : batonShut s (numOf t ins 30 16 14) = false) : doWaitb s t ins =
      if reached (getF s (F.BTN_CNT_COUNT (numOf t ins 30 16 14))) (xReg t (bits ins 9 3) % 2 ^ 32)
      then advance (ctrEvent s 0x1B (numOf t ins 30 16 14 / 256) 1 noCtx) t
      else putTask { s with
          waiters := s.waiters ++ [⟨numOf t ins 30 16 14, xReg t (bits ins 9 3) % 2 ^ 32, none, some (t.q, t.st)⟩] }
        { t with pwait := true } := by
  simp [doWaitb, hwait, hallow, hopen]

end

/-- Settles O15, one rule of an instruction per clause. -/
theorem sigAndWaitbUseBatons : Obligations.SigAndWaitbUseBatons := by
  refine ⟨fun q st ins t ups s hex hsound => ?sig, fun q st ins t ups s hex hsound hwait => ?waitb⟩
  all_goals
    obtain ⟨htask, -⟩ := executes_iff.1 hex
    obtain ⟨rfl, rfl⟩ := stream_of_findTask htask
  case sig =>
    have hexec : exec (.sig t.q t.st ups) s = .next (doSig s t ins) := by
      rw [exec_of_executes hex (c := .sig t.q t.st ups) (f := sigChecked ups.store) rfl, hsound, sigChecked_sound ins htask]
    rw [hexec, ← numOf_eq]
    intro b dest
    refine ⟨fun h => congrArg _ (doSig_waits h), fun h hhere => congrArg _ (doSig_here h hhere), fun h hrmt hself => ?_⟩
    rw [doSig_remote h hrmt hself]
    exact ⟨fun hbad => congrArg _ (if_pos hbad), fun hgood => congrArg _ (if_neg (ne_true_of_eq_false hgood))⟩
  case waitb =>
    have hexec : exec (.waitb t.q t.st ups) s = .next (doWaitb s t ins) := by
      rw [exec_of_executes hex (c := .waitb t.q t.st ups) (f := batonChecked ups.store doWaitb) rfl, hsound,
        batonChecked_sound doWaitb ins htask]
    rw [hexec, ← numOf_eq]
    intro b target atLeast hallow hopen
    have hreached : reached (getF s (F.BTN_CNT_COUNT b)) target = true ↔ atLeast := by
      rw [reached_iff, Nat.mod_mod]
    rw [doWaitb_allowed hwait hallow hopen]
    exact ⟨fun h => congrArg _ (if_pos (hreached.2 h)), fun h => congrArg _ (if_neg (mt hreached.1 h))⟩

end Sys2Proof.Machine
end

section
/-! SUPPORT. SYNC and END, the end of a task and its cutoff, and the phase of a hint (R384, R387, R404, R409, R416). Settles O17
and O18. -/

namespace Sys2Proof.Machine

/-- A task without a consumer has no PUSH_LAST to send. -/
theorem sendLast_of_no_consumer {s : State} {q st : Nat} {t : Task} (htask : findTask s q st = some t)
    (hcons : blkConsEn t.blk = false) : sendLast s q st = s := by
  simp [sendLast, htask, hcons]

/-- Settles O17: SYNC asks whether the stream is quiet, END moves the stream on and then looks for the last push. -/
theorem syncWaitsAndEndEnds : Obligations.SyncWaitsAndEndEnds := by
  intro q st ins t ups s
  refine ⟨fun hex => ?sync, fun hex => ?ends⟩
  all_goals
    obtain ⟨htask, -⟩ := executes_iff.1 hex
    obtain ⟨rfl, rfl⟩ := stream_of_findTask htask
  case sync =>
    have hexec : exec (.sync t.q t.st ups) s = .next (doSync s t ins) := exec_of_executes hex rfl
    rw [hexec]
    exact ⟨fun hquiet hpc => congrArg _ ((if_pos hquiet).trans (advance_of_lt hpc)),
      fun hbusy => congrArg _ (if_neg (ne_true_of_eq_false hbusy))⟩
  case ends =>
    intro u
    have hexec : exec (.endTask t.q t.st ups) s = .next (sendLast u t.q t.st) := exec_of_executes hex (f := doEnd) rfl
    have hsame : findTask u t.q t.st = some t := htask
    exact ⟨hexec, fun hcons => hexec.trans (congrArg _ (sendLast_of_no_consumer hsame hcons))⟩

-- ## The end of a task (R384, R409)

section
variable {q st : Nat} {s : State} {t : Task} (htask : findTask s q st = some t) (hrun : arrayRuns s = true)
include htask hrun

theorem execTaskEnd_of_quiet (hend : streamState s q st = 2) (hquiet : streamQuiet s q st = true)
    (hlast : blkConsEn t.blk = false ∨ t.lastSent = true) : execTaskEnd q st s = .next (endTask s t) := by
  simp [execTaskEnd, hrun, htask, hend, hquiet, hlast]

theorem execTaskCutoff_due (hlive : streamState s q st = 1) (hcut : cutoff t ≤ now s) :
    execTaskCutoff q st s = .next (abortTask s q st 0x0D) := by
  simp [execTaskCutoff, hrun, htask, hlive, hcut]

end

-- ## Hints (R416)

section
variable {q a b : Nat} {s : State} (hhint : Sparse.find s.hints q = some (a, b))
include hhint

theorem execHintStart_in_phase (ha : a ≤ now s) (hb : now s < b) :
    execHintStart q s = .next (setF s (F.PACER_STAT_HINT_ACT q) 1) := by
  simp [execHintStart, hhint, ha, hb]

theorem execHintEnd_after_phase (hb : b ≤ now s) : execHintEnd q s =
    .next (setF { s with hints := Sparse.del s.hints q } (F.PACER_STAT_HINT_ACT q) 0) := by
  simp [execHintEnd, hhint, hb]

end

/-- Settles O18, one rule per clause. -/
theorem tasksAndHintsEnd : Obligations.TasksAndHintsEnd := fun _ _ _ =>
  ⟨fun _ htask hrun => ⟨execTaskEnd_of_quiet htask hrun, execTaskCutoff_due htask hrun⟩,
    fun _ _ hhint => ⟨execHintStart_in_phase hhint, execHintEnd_after_phase hhint⟩⟩

end Sys2Proof.Machine
end

section
/-! SUPPORT. The baton requests of a lane, which act as they are accepted, and the signal attached to a committed write, one rule
per outcome (R425, R429, R430, R432, R436, R437, R439). Settles O21 and O29. -/

namespace Sys2Proof.Machine

-- ## Baton requests (R425, R429, R432)

section
variable {s : State} {r : Request}

/-- A baton request acts on its baton. -/
theorem actNow_of_baton (hop : r.h.op = 0x10 ∨ r.h.op = 0x11 ∨ r.h.op = 0x12) : actNow s r = doBaton s r := by
  rcases hop with h | h | h <;> simp [actNow, h]

/-- A third wait of an engine is answered before its baton is looked at. -/
theorem doBaton_third_wait (hop : r.h.op = 0x11) (hwaits : 2 ≤ waitsOf s r) : doBaton s r =
    answer (setF (setF s F.GLB_SYNC_STAT_WAIT_OVF 1) F.GLB_SYNC_STAT_LAST_BATON (bits r.h.arg 0 14)) r 6 0x04 := by
  simp [doBaton, hop, hwaits]

section
variable (hshut : batonShut s (bits r.h.arg 0 14) = true)
include hshut

/-- A signal of a PARKED or BROKEN baton is refused and noted as not applied. -/
theorem doBaton_shut_signal (hop : r.h.op = 0x10) : doBaton s r = answer (noteNotApplied s (bits r.h.arg 0 14)) r
    (batonRefusal s (bits r.h.arg 0 14)).1 (batonRefusal s (bits r.h.arg 0 14)).2 := by simp [doBaton, hop, hshut]

theorem doBaton_shut_wait (hop : r.h.op = 0x11) (hfew : waitsOf s r < 2) : doBaton s r =
    answer s r (batonRefusal s (bits r.h.arg 0 14)).1 (batonRefusal s (bits r.h.arg 0 14)).2 := by
  simp [doBaton, hop, hshut, Nat.not_le.2 hfew]

theorem doBaton_shut_read (hop : r.h.op = 0x12) : doBaton s r =
    answer s r (batonRefusal s (bits r.h.arg 0 14)).1 (batonRefusal s (bits r.h.arg 0 14)).2 := by simp [doBaton, hop, hshut]

end

section
variable (hopen : batonShut s (bits r.h.arg 0 14) = false)
include hopen

theorem doBaton_open_signal (hop : r.h.op = 0x10) :
    doBaton s r = answer (signalBaton s (bits r.h.arg 0 14) (bits r.h.arg 16 16)) r 0 0 := by simp [doBaton, hop, hopen]

theorem doBaton_open_read (hop : r.h.op = 0x12) :
    doBaton s r = answer s r 0 (getF s (F.BTN_CNT_COUNT (bits r.h.arg 0 14))) := by simp [doBaton, hop, hopen]

theorem doBaton_open_wait (hop : r.h.op = 0x11) (hfew : waitsOf s r < 2) : doBaton s r =
    if reached (getF s (F.BTN_CNT_COUNT (bits r.h.arg 0 14))) (bits r.h.arg 32 32)
    then answer (ctrEvent s 0x1B (bits r.h.arg 0 14 / 256) 1 noCtx) r 0 (getF s (F.BTN_CNT_COUNT (bits r.h.arg 0 14)))
    else putReq { s with waiters := s.waiters ++ [⟨bits r.h.arg 0 14, bits r.h.arg 32 32, some r.id, none⟩] }
      { r with stage := .waiting } := by
  simp [doBaton, hop, hopen, Nat.not_le.2 hfew]

end

end

/-- The row of a baton request that the lane accepts: the operation acts on the baton. -/
theorem exec_of_batonRow {op : Nat} {p : LanePkt} {i : Instr} {s u t : State} {r : Request} {pl : Place}
    (h : accepts p s = some (r, pl, u)) (hbaton : op = 0x10 ∨ op = 0x11 ∨ op = 0x12) (hrow : otherRow p op = some i)
    (hr : reachesLane op p s = true) (hact : (acceptedAs u r pl).h.op = op →
      doBaton (putReq (acceptedIn u r p.lane p.ch) (acceptedAs u r pl)) (acceptedAs u r pl) = t) : exec i s = .next t := by
  have hop : (acceptedAs u r pl).h.op = op := (op_of_accepts hr h :)
  have hnow : isData op = false ∧ op ≠ 0x16 := by rcases hbaton with rfl | rfl | rfl <;> decide
  rw [exec_of_otherRow s hrow, lanePacket_of_actsNow hnow.1 hnow.2 hr h, actNow_of_baton (hop ▸ hbaton), hact hop]

/-- Settles O21, one rule of the operation per clause. -/
theorem batonRequestsAct : Obligations.BatonRequestsAct := by
  intro p s u r pl h a v b atLeast mine
  have hsignal {t} := exec_of_batonRow (t := t) h (.inl rfl) rfl
  have hwait {t} := exec_of_batonRow (t := t) h (.inr (.inl rfl)) rfl
  have hread {t} := exec_of_batonRow (t := t) h (.inr (.inr rfl)) rfl
  have hreached : reached (getF v (F.BTN_CNT_COUNT b)) (bits r.h.arg 32 32) = true ↔ atLeast := by
    rw [reached_iff, bits_mod]
  refine ⟨fun hthird hr => ?third, fun hshut => ⟨fun hr => ?shutSignal, fun hr hfew => ?shutWait, fun hr => ?shutRead⟩,
    fun hopen => ⟨fun hr => ?signal, fun hr hfew => ⟨fun hhere => ?reached, fun hbefore => ?waits⟩, fun hr => ?read⟩⟩
  case third => exact hwait hr fun hop => doBaton_third_wait hop hthird
  case shutSignal => exact hsignal hr (doBaton_shut_signal hshut)
  case shutWait => exact hwait hr fun hop => doBaton_shut_wait hshut hop hfew
  case shutRead => exact hread hr (doBaton_shut_read hshut)
  case signal => exact hsignal hr (doBaton_open_signal hopen)
  case reached => exact hwait hr fun hop => (doBaton_open_wait (r := a) hopen hop hfew).trans (if_pos (hreached.2 hhere))
  case waits => exact hwait hr fun hop => (doBaton_open_wait (r := a) hopen hop hfew).trans (if_neg (mt hreached.1 hbefore))
  case read => exact hread hr (doBaton_open_read hopen)

-- ## Attached signals (R430, R436, R437, R439)

section
variable {id : Nat} {r : Request} {s : State}

theorem attachedAs_of_owner {b i p : Nat} (h : getF s (F.BTN_CTL_PART b) = p ∨ getF s (F.BTN_CTL_PART b) = 15) :
    attachedAs s b i p = signalBaton s b i := if_pos (by simpa using h)

theorem attachedAs_of_foreign {b i p : Nat} (hown : getF s (F.BTN_CTL_PART b) ≠ p) (hall : getF s (F.BTN_CTL_PART b) ≠ 15) :
    attachedAs s b i p = noteNotApplied s b := if_neg (by simpa using ⟨hown, hall⟩)

variable (hrun : arrayRuns s = true) (hreq : findReq s id = some r) (hstage : r.stage = .signal) (hatt : r.h.attEn = true)
include hrun hreq hstage hatt

/-- A request that waits to apply its signal: it is answered when its write failed, waits behind earlier writes, and signals. -/
theorem exec_attachedSignalApply (up : Upset) : exec (.attachedSignalApply id up) s = .next
    (if r.verdict ≠ (0, 0) then answerDone s r else if earlierWrite s r then s
     else signalled (attachedAs (readBatonWord s r.h.attBaton up) r.h.attBaton r.h.attAdd r.h.part) r) := by
  change execAttachedSignalApply id up s = _
  simp only [execAttachedSignalApply, hrun, hreq, hstage, hatt, Bool.not_true, Bool.false_eq_true, if_false, bne_self_eq_false,
    Bool.or_self, bne_iff_ne, apply_ite Host.Outcome.next]

end

/-- Settles O29: the outcomes of a request that waits to apply its signal, by its verdict and the earlier writes. -/
theorem attachedSignalIsApplied : Obligations.AttachedSignalIsApplied := by
  intro id r s hrun hreq hstage hatt b owner
  have hexec := exec_attachedSignalApply hrun hreq hstage hatt
  refine ⟨fun hok hfirst => ?first, fun hok hearlier up => ?behind, fun hfail up => ?failed⟩
  case first =>
    have hsound : exec (.attachedSignalApply id .none) s = .next (signalled (attachedAs s b r.h.attAdd r.h.part) r) := by
      rw [hexec .none, if_neg (not_not_intro hok), if_neg (ne_true_of_eq_false hfirst)]
      rfl
    rw [hsound]
    exact ⟨fun hown => by rw [attachedAs_of_owner hown], fun hown hall => by rw [attachedAs_of_foreign hown hall]⟩
  case behind => rw [hexec up, if_neg (not_not_intro hok), if_pos hearlier]
  case failed => rw [hexec up, if_pos hfail]

end Sys2Proof.Machine
end

section
/-! SUPPORT. The tape messages and the release of a tape: one equation per command, what each outcome leaves of the tape's heat
and state, and when a tape moves on (R443, R444, R446 to R450, R453, R454, R811). Settles O42. -/

namespace Sys2Proof.Machine

-- ## The heat and the state of a tape

/-- The fields of the tapes lie between those that a noted event changes. -/
theorem tape_not_noted {f : Fld} (hlo : 8 * 0x60000 ≤ f.key) (hhi : f.key < 8 * 0x61000) : f.key ∉ noteKeys := by
  have hkeys : ∀ k ∈ noteKeys, k < 8 * 0x60000 ∨ 8 * 0x61000 ≤ k := by decide
  intro hf
  have hkey := hkeys _ hf
  omega

section
variable (s : State) (n v : Nat)

theorem tapeState_setF_below {f : Fld} (hf : f.key < 8 * 0x60000) : tapeState (setF s f v) n = tapeState s n :=
  getF_setF_other s v (by simp only [Fld.key, F.TAPE_STAT_STATE] at hf ⊢; omega)

theorem heatOf_setF_below {f : Fld} (hf : f.key < 8 * 0x60000) : heatOf (setF s f v) n = heatOf s n :=
  getF_setF_other s v (by simp only [Fld.key, F.TAPE_HEAT_HEAT] at hf ⊢; omega)

theorem tapeState_setF_childArr : tapeState (setF s (F.TAPE_STAT_CHILD_ARR n) v) n = tapeState s n :=
  getF_setF_other s v (by simp [Fld.key, F.TAPE_STAT_STATE, F.TAPE_STAT_CHILD_ARR])

theorem heatOf_setF_childArr : heatOf (setF s (F.TAPE_STAT_CHILD_ARR n) v) n = heatOf s n :=
  getF_setF_other s v (by simp only [Fld.key, F.TAPE_HEAT_HEAT, F.TAPE_STAT_CHILD_ARR]; omega)

theorem tapeState_setF_arrived : tapeState (setF s (F.TAPE_STAT_ARRIVED n) v) n = tapeState s n :=
  getF_setF_other s v (by simp [Fld.key, F.TAPE_STAT_STATE, F.TAPE_STAT_ARRIVED])

theorem heatOf_setF_arrived : heatOf (setF s (F.TAPE_STAT_ARRIVED n) v) n = heatOf s n :=
  getF_setF_other s v (by simp only [Fld.key, F.TAPE_HEAT_HEAT, F.TAPE_STAT_ARRIVED]; omega)

theorem heatOf_setF_state : heatOf (setF s (F.TAPE_STAT_STATE n) v) n = heatOf s n :=
  getF_setF_other s v (by simp only [Fld.key, F.TAPE_HEAT_HEAT, F.TAPE_STAT_STATE]; omega)

theorem tapeState_setF_state : tapeState (setF s (F.TAPE_STAT_STATE n) v) n = v % 4 := getF_setF_same _ _ _

theorem heatOf_setF_heat : heatOf (setF s (F.TAPE_HEAT_HEAT n) v) n = v % 2 ^ 32 := getF_setF_same _ _ _

end

-- ## The release of a heat (R448)

/-- The release ends with the fields of the tape's next heat, and an event. -/
theorem releaseHeat_eq (s : State) (n : Nat) : ∃ t a c x, releaseHeat s n =
    ctrEvent { setF (setF (setF (setF t (F.TAPE_HEAT_HEAT n) ((heatOf s n + 1) % 2 ^ 32)) (F.TAPE_STAT_STATE n) 0)
        (F.TAPE_STAT_ARRIVED n) a) (F.TAPE_STAT_CHILD_ARR n) c with tapeRel := x } 0x1C n 1 noCtx := by
  unfold releaseHeat
  extract_lets heat rel mine cur hasEarly s1 isLocal s2 s3 kept marked s4 nh nx s5 s6
  exact ⟨s4, _, _, _, rfl⟩

/-- A released tape is FILLING its next heat. -/
theorem releaseHeat_starts_next (s : State) {n : Nat} (hn : n < 256) :
    heatOf (releaseHeat s n) n = (heatOf s n + 1) % 2 ^ 32 ∧ tapeState (releaseHeat s n) n = 0 := by
  have hheat : (F.TAPE_HEAT_HEAT n).key ∉ noteKeys := by
    apply tape_not_noted <;> simp only [Fld.key, F.TAPE_HEAT_HEAT] <;> omega
  have hstate : (F.TAPE_STAT_STATE n).key ∉ noteKeys := by
    apply tape_not_noted <;> simp only [Fld.key, F.TAPE_STAT_STATE] <;> omega
  obtain ⟨t, a, c, x, hrel⟩ := releaseHeat_eq s n
  rw [hrel]
  constructor
  · refine ((ctrEvent_noted _ _ _ _ _).1 _ hheat).trans ((heatOf_setF_childArr _ n c).trans ?_)
    rw [heatOf_setF_arrived, heatOf_setF_state, heatOf_setF_heat, Nat.mod_mod]
  · refine ((ctrEvent_noted _ _ _ _ _).1 _ hstate).trans ((tapeState_setF_childArr _ n c).trans ?_)
    rw [tapeState_setF_arrived, tapeState_setF_state]

section
variable {s : State} {n : Nat}

theorem tapeRun_of_due (k : Nat) (hstate : tapeState s n = 2) (hdue : (Sparse.at s.tapeRel n (0, false)).1 ≤ now s) :
    tapeRun (k + 1) s n = tapeRun k (releaseHeat s n) n := by simp [tapeRun, hstate, hdue]

/-- A tape in RELEASING stands until its tick. -/
theorem tapeRun_of_early (k : Nat) (hstate : tapeState s n = 2) (hearly : now s < (Sparse.at s.tapeRel n (0, false)).1) :
    tapeRun k s n = s := by
  cases k with
  | zero => rfl
  | succ k => simp [tapeRun, heatComplete, hstate, Nat.not_le.2 hearly]

/-- A tape that is not in RELEASING stands until its heat is complete. -/
theorem tapeRun_of_incomplete (k : Nat) (hstate : tapeState s n ≠ 2) (hheat : heatComplete s n = false) : tapeRun k s n = s := by
  cases k with
  | zero => rfl
  | succ k => simp [tapeRun, hstate, hheat]

theorem exec_tapeRelease (hrun : arrayRuns s = true) : exec (.tapeRelease n) s = .next
    (if tapeState s n = 2 ∧ (Sparse.at s.tapeRel n (0, false)).1 ≤ now s then tapeRun 6 s n else s) := by
  change execTapeRelease n s = _
  simp [execTapeRelease, hrun, apply_ite Host.Outcome.next]

end

-- ## A refused message (R453, R454)

/-- What a refused message leaves: it is counted and marked, and the tape stands as it was. -/
theorem refuseTape_notes (s : State) (x n : Nat) (reply : Bool) :
    let t := refuseTape s x reply
    getF t F.GLB_SYNC_CNT_NA_CNT = getF (incF s F.GLB_SYNC_CNT_NA_CNT 1) F.GLB_SYNC_CNT_NA_CNT
      ∧ getF t F.GLB_SYNC_STAT_NOT_APPLIED = 1 ∧ t.arrivals = s.arrivals ∧ tapeState t n = tapeState s n
      ∧ heatOf t n = heatOf s n := by
  intro t
  have hregs : t.regs = (setF (incF s F.GLB_SYNC_CNT_NA_CNT 1) F.GLB_SYNC_STAT_NOT_APPLIED 1).regs := by cases reply <;> rfl
  have harrivals : t.arrivals = s.arrivals := by cases reply <;> rfl
  have hfields := getF_of_regs hregs
  refine ⟨(hfields _).trans (getF_setF_other _ _ (by decide)), (hfields _).trans (getF_setF_same _ _ _), harrivals,
    (hfields _).trans ?_, (hfields _).trans ?_⟩
  · exact (tapeState_setF_below _ _ _ (by decide)).trans (tapeState_setF_below _ _ _ (by decide))
  · exact (heatOf_setF_below _ _ _ (by decide)).trans (heatOf_setF_below _ _ _ (by decide))

-- ## ARRIVE messages (R443, R444, R446)

/-- The child that an ARRIVE message comes from. -/
def childOf (x : Nat) : Participant := .child (bits x 27 5) (bits x 18 9) (bits x 10 8)

/-- The record of a child's arrival, its heat still open. -/
def childArrival (s : State) (x : Nat) : Arrival :=
  ⟨bits x 2 8, childOf x, 0, false, false, false, none, .mesh 0 (bits x 27 5) (bits x 18 9) 0,
    ⟨0x13, 0, bits x 97 4, 0, 0, 0, false, false, 0, false, 0, 0, 0, 0, 0, 0, 0, false, 0⟩, now s⟩

/-- The state after an ARRIVE message that its tape does not refuse. -/
def childArrives (s : State) (x : Nat) : State :=
  match arriveKind s (bits x 2 8) (childOf x) (bits x 32 1) with
  | .refused => sendTape s (bits x 27 5) (bits x 18 9)
      (tapeMsg s 2 (bits x 10 8) (bits x 2 8) (heatOf s (bits x 2 8)) none (getF s (F.TAPE_CFG_PART (bits x 2 8))))
  | .fault c => tapeFault s (bits x 2 8) c 0x06 (if bits x 32 1 = heatOf s (bits x 2 8) % 2 then some (childOf x) else none)
  | .early =>
    if 4096 ≤ s.arrivals.length then tapeFault s (bits x 2 8) 4 0x06 none
    else takeArrival s (bits x 2 8) true (childArrival s x)
  | .current =>
    if 4096 ≤ s.arrivals.length then tapeFault s (bits x 2 8) 4 0x06 (some (childOf x))
    else tapeRun 6 (takeArrival s (bits x 2 8) false (childArrival s x)) (bits x 2 8)

theorem exec_tapeArriveMessage {m : BitVec 128} {s : State} (hrun : arrayRuns s = true) (hmsg : bits m.toNat 0 2 = 0) :
    exec (.tapeArriveMessage m) s =
      .next (if tapeRefuses s m.toNat true then refuseTape s m.toNat true else childArrives s m.toNat) := by
  change execTapeArriveMessage m s = _
  cases hrefuses : tapeRefuses s m.toNat true
  · simp only [execTapeArriveMessage, childArrives, childOf, childArrival, hrun, hmsg, hrefuses, Bool.not_true, Bool.false_eq_true,
      bne_self_eq_false, if_false]
    cases arriveKind s (bits m.toNat 2 8) (.child (bits m.toNat 27 5) (bits m.toNat 18 9) (bits m.toNat 10 8))
        (bits m.toNat 32 1) <;>
      simp only [apply_ite Host.Outcome.next]
  · simp [execTapeArriveMessage, hrun, hmsg, hrefuses]

section
variable {s : State} {x c : Nat}

theorem childArrives_refused (h : arriveKind s (bits x 2 8) (childOf x) (bits x 32 1) = .refused) : childArrives s x =
    sendTape s (bits x 27 5) (bits x 18 9)
      (tapeMsg s 2 (bits x 10 8) (bits x 2 8) (heatOf s (bits x 2 8)) none (getF s (F.TAPE_CFG_PART (bits x 2 8)))) := by
  simp only [childArrives, h]

theorem childArrives_fault (h : arriveKind s (bits x 2 8) (childOf x) (bits x 32 1) = .fault c) : childArrives s x =
    tapeFault s (bits x 2 8) c 0x06 (if bits x 32 1 = heatOf s (bits x 2 8) % 2 then some (childOf x) else none) := by
  simp only [childArrives, h]

theorem childArrives_early (h : arriveKind s (bits x 2 8) (childOf x) (bits x 32 1) = .early) : childArrives s x =
    if 4096 ≤ s.arrivals.length then tapeFault s (bits x 2 8) 4 0x06 none
    else takeArrival s (bits x 2 8) true (childArrival s x) := by
  simp only [childArrives, h]

theorem childArrives_current (h : arriveKind s (bits x 2 8) (childOf x) (bits x 32 1) = .current) : childArrives s x =
    if 4096 ≤ s.arrivals.length then tapeFault s (bits x 2 8) 4 0x06 (some (childOf x))
    else tapeRun 6 (takeArrival s (bits x 2 8) false (childArrival s x)) (bits x 2 8) := by
  simp only [childArrives, h]

end

/-- Only a FILLING tape takes an arrival for its current heat. -/
theorem tapeState_of_current {s : State} {n sense : Nat} {who : Participant} (h : arriveKind s n who sense = .current) :
    tapeState s n = 0 := by
  by_contra hstate
  simp only [arriveKind, if_neg hstate] at h
  split_ifs at h

/-- A child's arrival for the current heat counts in CHILD_ARR and leaves the heat and the state. -/
theorem takeArrival_child (s : State) (x : Nat) :
    let n := bits x 2 8
    let u := takeArrival s n false (childArrival s x)
    u.arrivals = s.arrivals ++ [{ childArrival s x with heat := heatOf s n }]
      ∧ getF u (F.TAPE_STAT_CHILD_ARR n) = (getF s (F.TAPE_STAT_CHILD_ARR n) + 1) % 256
      ∧ heatOf u n = heatOf s n ∧ tapeState u n = tapeState s n :=
  ⟨rfl, getF_setF_same _ _ _, heatOf_setF_childArr _ _ _, tapeState_setF_childArr _ _ _⟩

-- ## RELEASE messages (R447)

/-- A tape enters RELEASING with its release tick; of its registers only STATE and its partition's LAG change. -/
theorem enterReleasing_fields (s : State) (n t : Nat) (al : Bool) :
    let u := enterReleasing s n t al
    tapeState u n = 2 ∧ heatOf u n = heatOf s n ∧ getF u F.GLB_SYNC_STAT_ALIGN_LATE = getF s F.GLB_SYNC_STAT_ALIGN_LATE
      ∧ u.arrivals = s.arrivals ∧ u.tapeRel = Sparse.put s.tapeRel n (t, al) ∧ u.cad = s.cad := by
  intro u
  have hpart : getF s (F.TAPE_CFG_PART n) < 16 := getF_lt s (F.TAPE_CFG_PART n)
  have hother {f : Fld} (hlag : f.key ≠ (F.PART_SYNC_LAG_LAG (getF s (F.TAPE_CFG_PART n))).key)
      (hstate : f.key ≠ (F.TAPE_STAT_STATE n).key) : getF u f = getF s f := by
    refine (getF_setF_other _ _ hstate).trans ?_
    cases Sparse.find s.tapeSent n with
    | none => rfl
    | some t0 => exact getF_setF_other s _ hlag
  refine ⟨tapeState_setF_state _ _ _, hother ?_ ?_, hother ?_ ?_, ?_⟩
  · simp only [Fld.key, F.TAPE_HEAT_HEAT, F.PART_SYNC_LAG_LAG]
    omega
  · simp only [Fld.key, F.TAPE_HEAT_HEAT, F.TAPE_STAT_STATE]
    omega
  · simp only [Fld.key, F.GLB_SYNC_STAT_ALIGN_LATE, F.PART_SYNC_LAG_LAG]
    omega
  · simp only [Fld.key, F.GLB_SYNC_STAT_ALIGN_LATE, F.TAPE_STAT_STATE]
    omega
  · simp only [u, enterReleasing]
    cases Sparse.find s.tapeSent n <;> exact ⟨rfl, rfl, rfl⟩

/-- The state in which a tape enters RELEASING: an aligned tick that has passed sets ALIGN_LATE. -/
def releasingAt (s : State) (n t : Nat) (al : Bool) : State :=
  if al && decide (t < now s) then setF (setF (enterReleasing s n t al) F.GLB_SYNC_STAT_ALIGN_LATE 1) F.GLB_SYNC_STAT_LAST_TAPE n
  else enterReleasing s n t al

theorem releasingAt_fields (s : State) (n t : Nat) (al : Bool) :
    let u := releasingAt s n t al
    tapeState u n = 2 ∧ heatOf u n = heatOf s n ∧ u.arrivals = s.arrivals ∧ u.tapeRel = Sparse.put s.tapeRel n (t, al)
      ∧ now u = now s ∧ getF u F.GLB_SYNC_STAT_ALIGN_LATE =
        if al && decide (t < now s) then 1 else getF s F.GLB_SYNC_STAT_ALIGN_LATE := by
  intro u
  obtain ⟨hstate, hheat, hlate, harrivals, hrel, hcad⟩ := enterReleasing_fields s n t al
  have hnow : now (enterReleasing s n t al) = now s := congrArg Cadence.count hcad
  simp only [u, releasingAt]
  split
  · refine ⟨?_, ?_, harrivals, hrel, hnow, (getF_setF_other _ _ (by decide)).trans (getF_setF_same _ _ _)⟩
    · rw [tapeState_setF_below _ _ _ (by decide), tapeState_setF_below _ _ _ (by decide), hstate]
    · rw [heatOf_setF_below _ _ _ (by decide), heatOf_setF_below _ _ _ (by decide), hheat]
  · exact ⟨hstate, hheat, harrivals, hrel, hnow, hlate⟩

section
variable {s : State} {n t : Nat} (al : Bool)

theorem tapeRel_releasingAt : Sparse.find (releasingAt s n t al).tapeRel n = some (t, al) := by
  obtain ⟨-, -, -, hrel, -⟩ := releasingAt_fields s n t al
  rw [hrel, Sparse.find_put_same]

theorem tapeRun_releasingAt_early (hearly : now s < t) : tapeRun 6 (releasingAt s n t al) n = releasingAt s n t al := by
  obtain ⟨hstate, -, -, -, hnow, -⟩ := releasingAt_fields s n t al
  apply tapeRun_of_early 6 hstate
  simpa [Sparse.at, tapeRel_releasingAt, hnow] using hearly

theorem tapeRun_releasingAt_due (hdue : t ≤ now s) :
    tapeRun 6 (releasingAt s n t al) n = tapeRun 5 (releaseHeat (releasingAt s n t al) n) n := by
  obtain ⟨hstate, -, -, -, hnow, -⟩ := releasingAt_fields s n t al
  apply tapeRun_of_due 5 hstate
  simpa [Sparse.at, tapeRel_releasingAt, hnow] using hdue

end

/-- The release tick that a RELEASE message names: its own when it has one, else at once. -/
def releaseTick (s : State) (x : Nat) : Nat := if bits x 96 1 == 1 then absTick (now s) (bits x 64 32) else now s

/-- Only a tick of the message's own can have passed. -/
theorem releaseTick_passed (s : State) (x : Nat) :
    (bits x 96 1 == 1 && decide (releaseTick s x < now s)) = decide (releaseTick s x < now s) := by
  cases hown : (bits x 96 1 == 1) <;> simp [releaseTick, hown]

section
variable {m : BitVec 128} {s : State} (hrun : arrayRuns s = true)
include hrun

theorem exec_tapeReleaseMessage (hmsg : bits m.toNat 0 2 = 1) (hstate : tapeState s (bits m.toNat 2 8) ≠ 3) :
    exec (.tapeReleaseMessage m) s = .next (if tapeRefuses s m.toNat true then refuseTape s m.toNat true
      else if tapeState s (bits m.toNat 2 8) ≠ 1 ∨ bits m.toNat 32 32 ≠ heatOf s (bits m.toNat 2 8)
      then tapeFault s (bits m.toNat 2 8) 5 0x06 none
      else tapeRun 6 (releasingAt s (bits m.toNat 2 8) (releaseTick s m.toNat) (bits m.toNat 96 1 == 1)) (bits m.toNat 2 8)) := by
  change execTapeReleaseMessage m s = _
  simp [execTapeReleaseMessage, releasingAt, releaseTick, hrun, hmsg, hstate, apply_ite Host.Outcome.next]

/-- The RELEASE for the heat of a tape in UP. -/
theorem exec_tapeReleaseMessage_up (hmsg : bits m.toNat 0 2 = 1) (hok : tapeRefuses s m.toNat true = false)
    (hup : tapeState s (bits m.toNat 2 8) = 1) (hheat : bits m.toNat 32 32 = heatOf s (bits m.toNat 2 8)) :
    exec (.tapeReleaseMessage m) s = .next
      (tapeRun 6 (releasingAt s (bits m.toNat 2 8) (releaseTick s m.toNat) (bits m.toNat 96 1 == 1)) (bits m.toNat 2 8)) := by
  simp [exec_tapeReleaseMessage hrun hmsg, hok, hup, hheat]

-- ## FAULT and REFUSED messages (R449)

theorem exec_tapeFaultMessage (hmsg : bits m.toNat 0 2 = 2) (hstate : tapeState s (bits m.toNat 2 8) ≠ 3) :
    exec (.tapeFaultMessage m) s = .next (if tapeRefuses s m.toNat true then refuseTape s m.toNat false
      else tapeFault s (bits m.toNat 2 8) 6 0x06 none) := by
  change execTapeFaultMessage m s = _
  simp [execTapeFaultMessage, hrun, hmsg, hstate, apply_ite Host.Outcome.next]

theorem exec_tapeRefusedMessage (hmsg : bits m.toNat 0 2 = 3) (hstate : tapeState s (bits m.toNat 2 8) ≠ 3) :
    exec (.tapeRefusedMessage m) s = .next (if tapeRefuses s m.toNat false then refuseTape s m.toNat false
      else tapeFault s (bits m.toNat 2 8) 5 0x06 none) := by
  change execTapeRefusedMessage m s = _
  simp [execTapeRefusedMessage, hrun, hmsg, hstate, apply_ite Host.Outcome.next]

/-- A FAULTED tape ignores every message but an ARRIVE (R450). -/
theorem exec_message_of_faulted (hstate : tapeState s (bits m.toNat 2 8) = 3) : exec (.tapeReleaseMessage m) s = .next s
    ∧ exec (.tapeFaultMessage m) s = .next s ∧ exec (.tapeRefusedMessage m) s = .next s := by
  change execTapeReleaseMessage m s = _ ∧ execTapeFaultMessage m s = _ ∧ execTapeRefusedMessage m s = _
  simp [execTapeReleaseMessage, execTapeFaultMessage, execTapeRefusedMessage, hrun, hstate]

end

/-- Settles O42, one rule of a command per clause. -/
theorem tapeMessagesAct : Obligations.TapeMessagesAct := by
  intro m s hrun x n al tick w kind reply refused answered
  have hrefused (b : Bool) : refused (refuseTape s x b) := refuseTape_notes s x n b
  have harrive := exec_tapeArriveMessage (m := m) hrun
  have hrelease := exec_tapeReleaseMessage (m := m) hrun
  have hfault := exec_tapeFaultMessage (m := m) hrun
  have hrefusal := exec_tapeRefusedMessage (m := m) hrun
  refine ⟨fun hmsg hno => ?arriveRefused, fun hmsg hno hstate => ?releaseRefused, fun hmsg hno hstate => ?faultRefused,
    fun hmsg hno hstate => ?refusedRefused, exec_message_of_faulted hrun, fun hmsg hok => ?arrive, fun hmsg hok => ?release,
    fun hmsg hok hstate => ?fault, fun hmsg hok hstate => ?refusal, fun b => ⟨fun hstate => ?notReleasing, fun hstate => ?due⟩,
    fun b hb => releaseHeat_starts_next s hb⟩
  case arriveRefused => exact ⟨_, (harrive hmsg).trans (congrArg _ (if_pos hno)), hrefused true, rfl⟩
  case releaseRefused => exact ⟨_, (hrelease hmsg hstate).trans (congrArg _ (if_pos hno)), hrefused true, rfl⟩
  case faultRefused => exact ⟨_, (hfault hmsg hstate).trans (congrArg _ (if_pos hno)), hrefused false, rfl⟩
  case refusedRefused => exact ⟨_, (hrefusal hmsg hstate).trans (congrArg _ (if_pos hno)), hrefused false, rfl⟩
  case fault => exact (hfault hmsg hstate).trans (congrArg _ (if_neg (ne_true_of_eq_false hok)))
  case refusal => exact (hrefusal hmsg hstate).trans (congrArg _ (if_neg (ne_true_of_eq_false hok)))
  case notReleasing => rw [exec_tapeRelease hrun, if_neg (fun h => hstate h.1)]
  case due =>
    rw [exec_tapeRelease hrun]
    exact ⟨fun hearly => congrArg _ (if_neg (fun h => Nat.not_le.2 hearly h.2)),
      fun hdue => congrArg _ ((if_pos ⟨hstate, hdue⟩).trans (tapeRun_of_due 5 hstate hdue))⟩
  case arrive =>
    have htaken : exec (.tapeArriveMessage m) s = .next (childArrives s x) :=
      (harrive hmsg).trans (congrArg _ (if_neg (ne_true_of_eq_false hok)))
    rw [htaken]
    refine ⟨fun hkind hroom => ?current, fun hkind hroom => ?early, fun hkind hfull => ?earlyFull,
      fun hkind hfull => ?currentFull, fun c hkind => congrArg _ (childArrives_fault hkind), fun hkind => ?refused⟩
    case current =>
      obtain ⟨harrivals, hcount, hheat, hstate⟩ := takeArrival_child s x
      have hfilling := hstate.trans (tapeState_of_current hkind)
      rw [childArrives_current hkind, if_neg (Nat.not_le.2 hroom)]
      exact ⟨_, _, rfl, harrivals, rfl, rfl, rfl, hcount, hheat, hfilling,
        fun hopen => congrArg _ (tapeRun_of_incomplete 6 (by rw [hfilling]; decide) hopen)⟩
    case early =>
      exact ⟨_, _, congrArg _ ((childArrives_early hkind).trans (if_neg (Nat.not_le.2 hroom))), rfl, rfl, rfl, rfl, rfl⟩
    case earlyFull => exact congrArg _ ((childArrives_early hkind).trans (if_pos hfull))
    case currentFull => exact congrArg _ ((childArrives_current hkind).trans (if_pos hfull))
    case refused => exact ⟨_, congrArg _ (childArrives_refused hkind), rfl, rfl, rfl⟩
  case release =>
    refine ⟨fun hup hheat => ?enters, fun hstate hother => ?faults⟩
    case faults =>
      exact (hrelease hmsg hstate).trans (congrArg _ ((if_neg (ne_true_of_eq_false hok)).trans (if_pos hother)))
    case enters =>
      obtain ⟨hstate, hsame, harrivals, -, -, hlate⟩ := releasingAt_fields s n tick al
      have hexec : exec (.tapeReleaseMessage m) s = .next (tapeRun 6 (releasingAt s n tick al) n) :=
        exec_tapeReleaseMessage_up hrun hmsg hok hup hheat
      have hpassed : (al && decide (tick < now s)) = decide (tick < now s) := releaseTick_passed s x
      rw [hpassed] at hlate
      simp only [decide_eq_true_eq] at hlate
      exact ⟨fun hearly => ⟨_, hexec.trans (congrArg _ (tapeRun_releasingAt_early al hearly)), hstate, hsame, harrivals,
          tapeRel_releasingAt al⟩,
        fun hdue => ⟨_, hexec.trans (congrArg _ (tapeRun_releasingAt_due al hdue)), hstate, hsame, harrivals, hlate⟩⟩

end Sys2Proof.Machine
end

section
/-! SUPPORT. One step of the block: the command in front of the queue runs on the rest and always answers; the queue loses that
command and no other, and memory stays in canonical form. Settles O1, O3, O4 and O6. -/

namespace Sys2Proof.Machine

-- ## The command in front

/-- Settles O1: the queue's front is what a step matches on. -/
theorem frontCommandRuns : Obligations.FrontCommandRuns := fun _ _ _ => rfl

theorem step_of_front {s : State} {c : Instr} {r : List Instr} (h : s.pending = c :: r) :
    step s = exec c { s with pending := r } := by rw [step, h]

-- ## Memory and the queue (R286, R122, R626, R757, R760)

/-- Every command keeps the queue's rest, and the canonical form of memory: those that `storesMemory` lists by the laws of
what they store or clear, the others since they store nothing. -/
theorem exec_keepsForm {q : List Instr} (c : Instr) {s : State} (h : formed q (held s)) : keepsForm q (exec c s) := by
  cases hc : storesMemory c with
  | false => exact keepsForm_of_held h (exec_keepsHeld s hc)
  | true =>
    cases c
    case accessCommit bank ph => exact execAccessCommit_formed bank ph h
    case bistDone r => exact execBistDone_formed r h
    case endOfPass b => exact execEndOfPass_formed b h
    case coldReset => exact execColdReset_formed h
    case supplyReset => exact execSupplyReset_formed h
    case vaonApplied => exact execVaonApplied_formed h
    case vaonRemoved => exact execVaonRemoved_formed h
    all_goals cases hc

/-- A step leaves the queue's tail, and memory in canonical form. -/
theorem step_formed {s t : State} (hm : Memory.wf s.mem = true) (h : step s = .next t) :
    formed s.pending.tail (held t) := by
  cases hq : s.pending with
  | nil =>
    rw [step_of_empty hq] at h
    cases h
    rw [tick_held]
    exact ⟨hq, hm⟩
  | cons c r =>
    rw [step_of_front hq] at h
    exact exec_keepsForm c (s := { s with pending := r }) ⟨rfl, hm⟩ t h

-- ## The queue

theorem pending_foldl {α : Type} {g : State → α → State} (h : ∀ t x, (g t x).pending = t.pending) (l : List α) (s : State) :
    (l.foldl g s).pending = s.pending :=
  foldl_related (R := fun a b => b.pending = a.pending) (fun _ => rfl) (fun h g => g.trans h) h l s

theorem damageRow_pending (s : State) (pg : Nat) (flips : List Nat) : (damageRow s pg flips).pending = s.pending :=
  pending_foldl (fun t f => by dsimp only; split <;> rfl) flips s

theorem writeRow_pending (s : State) (pg : Nat) (d : Beat) (be : Nat) : (writeRow s pg d be).pending = s.pending :=
  pending_foldl (fun t i => by split <;> rfl) _ s

theorem storeRow_pending (s : State) (pg : Nat) (d : Beat) (be m fl : Nat) :
    (storeRow s pg d be m fl).pending = s.pending :=
  (held_pending (storeRow_held s pg d be m fl)).trans (writeRow_pending s pg d be)

theorem readSlot_pending (s : State) (r : Request) (g : Nat) (ph : Phys) : (readSlot s r g ph).2.pending = s.pending :=
  (held_pending (readSlot_held s r g ph)).trans (damageRow_pending s _ _)

theorem writeSlot_pending (s : State) (r : Request) (a : GAcc) (ph : Phys) : (writeSlot s r a ph).pending = s.pending := by
  unfold writeSlot
  extract_lets g pg s1 st s2 fi m s3 fs full zero d s4
  have h2 : s2.pending = s.pending :=
    (held_pending ((noteSlot_held _ _ _ _).trans (readStateWord_held _ _ _ _))).trans (damageRow_pending s _ _)
  have h3 : held s3 = held s2 := by
    simp only [s3, fi]
    split <;> split <;> simp only [noteParity_held, flipAt_held]
  have h4 : s4.pending = s.pending :=
    (storeRow_pending _ _ _ _ _ _).trans ((held_pending ((flipAt_held _ _ _).trans h3)).trans h2)
  clear_value s4 s2
  split
  · exact (held_pending (makeState_held _ _ _)).trans h2
  · exact (held_pending (makeState_held _ _ _)).trans h2
  · exact (held_pending (makeState_held _ _ _)).trans h4

theorem bleachSlot_pending (s : State) (r : Request) (g : Nat) (ph : Phys) : (bleachSlot s r g ph).pending = s.pending := by
  unfold bleachSlot
  extract_lets pg s1 p2 fs s2
  have hp2 : p2.2.pending = s.pending := by
    have hnotes : held p2.2 = held (damageRow s pg ph.flips) := by
      simp only [p2, s1, operandP2_held, noteSlot_held, readStateWord_held]
    exact (held_pending hnotes).trans (damageRow_pending s _ _)
  have h2 : s2.pending = s.pending :=
    (storeRow_pending _ _ _ _ _ _).trans ((held_pending (flipAt_held _ _ _)).trans hp2)
  split
  · split
    · exact h2
    · exact (held_pending (makeState_held _ _ _)).trans h2
  · exact hp2

theorem adderStore_pending (s : State) (r : Request) (g d : Nat) (st : Bool) :
    (adderStore s r g d st).pending = s.pending := by
  unfold adderStore
  rw [held_pending (makeState_held _ _ _), held_pending (setFlip_held _ _ _), held_pending (setPar_held _ _ _),
    writeRow_pending, held_pending (flipAt_held _ _ _)]

theorem accumSlots_pending (s : State) (r : Request) (a : GAcc) (ph : Phys) :
    (accumSlots s r a ph).pending = s.pending := by
  unfold accumSlots
  rw [adderStore_pending, held_pending (noteXf_held _ _ _ _), held_pending (noteAdder_held _ _ _),
    held_pending (noteSlot_held _ _ _ _), readSlot_pending, held_pending (operandP2_held _ _ _ _ _)]

theorem atomSlots_pending (s : State) (r : Request) (a : GAcc) (ph : Phys) :
    (atomSlots s r a ph).2.2.pending = s.pending := by
  unfold atomSlots
  extract_lets g w o p2 rd old x s1
  have h1 : s1.pending = s.pending := by
    rw [held_pending (noteAdder_held _ _ _), held_pending (noteSlot_held _ _ _ _), readSlot_pending,
      held_pending (operandP2_held _ _ _ _ _)]
  clear_value s1
  split
  · exact h1
  · exact (adderStore_pending _ _ _ _ _).trans h1

theorem doAccess_pending (s : State) (r : Request) (a : GAcc) (ph : Phys) :
    (doAccess s r a ph).2.2.pending = s.pending := by
  unfold doAccess
  split
  · split <;> rfl
  split
  · exact (held_pending (readAccess_held s r a ph)).trans (damageRow_pending s _ _)
  split
  · dsimp only
    split
    · exact bleachSlot_pending s r a.gran ph
    · exact writeSlot_pending s r a ph
  split
  · exact accumSlots_pending s r a ph
  · dsimp only
    split <;> exact atomSlots_pending s r a ph

theorem putByte_pending (s : State) (a : Nat) (v : Byte) : (putByte s a v).pending = s.pending := by
  unfold putByte
  extract_lets pg s1
  have h1 : s1.pending = s.pending := by
    simp only [s1]
    split
    · rw [held_pending (setFlip_held _ _ _), held_pending (setPar_held _ _ _), held_pending (setState_held _ _ _),
        writeRow_pending]
    · rfl
  exact h1

theorem putBytes_pending (s : State) (a : Nat) (l : List Byte) : (putBytes s a l).pending = s.pending := by
  induction l generalizing s a with
  | nil => rfl
  | cons v l ih => exact (ih _ _).trans (putByte_pending s a v)

theorem placeSections_pending (s : State) : (placeSections s).pending = s.pending := by
  unfold placeSections
  refine (putBytes_pending _ _ _).trans (pending_foldl (fun t x => ?_) _ s)
  split
  · exact held_pending (putSram_held _ _ _)
  · split
    · exact putBytes_pending _ _ _
    · rfl

theorem endPass_pending (s : State) : (endPass s).pending = s.pending := by
  unfold endPass
  extract_lets n src s1 s2
  have h2 : s2.pending = s.pending := placeSections_pending s1
  clear_value s2
  split
  · split
    · exact held_pending (failSlot_held _ _)
    · rfl
  split
  · exact held_pending (failSlot_held _ _)
  split
  · exact h2
  · exact (held_pending (failSlot_held _ _)).trans h2

/-- Settles O6: the waiting commands are the tail of those that waited. -/
theorem everyStepKeepsInvariant : Obligations.EveryStepKeepsInvariant := by
  intro s t hinv h
  obtain ⟨hmem, hwaiting⟩ := hinv
  obtain ⟨hpending, hmem'⟩ := step_formed hmem h
  refine ⟨hmem', ?_⟩
  have htail : t.pending = s.pending.tail := hpending
  rw [htail, List.all_eq_true]
  exact fun c hc => List.all_eq_true.1 hwaiting c (List.mem_of_mem_tail hc)

/-- Every command leaves the queue: those that store or clear bytes too. -/
theorem exec_pending {c : Instr} {s t : State} (h : exec c s = .next t) : t.pending = s.pending := by
  cases hc : storesMemory c with
  | false => exact held_pending (exec_keepsHeld s hc t h)
  | true =>
    cases c
    case accessCommit bank ph =>
      change execAccessCommit bank ph s = _ at h
      unfold execAccessCommit at h
      repeat' split at h
      all_goals cases h
      · rfl
      · rfl
      · exact (held_pending (commitAccess_held s _ _ _ ph)).trans (doAccess_pending s _ _ ph)
      · rfl
    case bistDone r =>
      change execBistDone r s = _ at h
      unfold execBistDone at h
      dsimp only at h
      have h1 : (startMarshals s r.marshals).pending = s.pending := held_pending (startMarshals_held s r.marshals)
      repeat' split at h
      all_goals cases h
      · rfl
      · exact (held_pending (bootFail_held _ _)).trans h1
      · refine (held_pending (bootOtp_held _)).trans ?_
        exact (pending_foldl (fun t k => held_pending (noteBist_held r t k)) _ _).trans h1
    case endOfPass b =>
      change execEndOfPass b s = _ at h
      unfold execEndOfPass at h
      split at h <;> cases h
      · exact endPass_pending s
      · rfl
    case coldReset =>
      change execColdReset s = _ at h
      unfold execColdReset at h
      split at h <;> cases h <;> rfl
    case supplyReset =>
      change execSupplyReset s = _ at h
      unfold execSupplyReset at h
      repeat' split at h
      all_goals cases h; rfl
    case vaonApplied => cases h; rfl
    case vaonRemoved =>
      change execVaonRemoved s = _ at h
      unfold execVaonRemoved at h
      split at h <;> cases h <;> rfl
    all_goals cases hc

/-- Settles O3: a tick leaves the empty queue, a command the queue's rest. -/
theorem queueLosesOnlyItsFront : Obligations.QueueLosesOnlyItsFront := by
  intro s t h
  cases hq : s.pending with
  | nil =>
    rw [step_of_empty hq] at h
    cases h
    exact (held_pending (tick_held s)).trans hq
  | cons c r =>
    rw [step_of_front hq] at h
    exact exec_pending h

-- ## Every command answers (log entry 9)

/-- The outcome is a next state. -/
def Answers (o : Host.Outcome State Fault Refusal) : Prop := ∃ t, o = .next t

theorem answers_next (t : State) : Answers (.next t) := ⟨t, rfl⟩

/-- Each branch of each row ends in a next state: the row is followed down its branches to that state. -/
theorem exec_answers (c : Instr) (s : State) : Answers (exec c s) := by
  cases c
  all_goals
    dsimp only [exec, execCoreCreditPacket, execChannelUp, execChannelDown, execCreditReturnTimeout, execHoldPointPass,
      execIssueRelease, execScoreboardPass, execAccessCommit, execAttachedSignalApply, execMeshRequest,
      execRemoteAnswer, execGatewayResend, execRemoteTimeout, execDedupExpiry, execCountFrame, execAnnouncementFrame,
      execWakePattern, execSourceLoss, execHoldoverExpiry, execEffectiveTick, execStepSwitch, execStepSwitchDeferred,
      execFineBucketBoundary, execLatencyDecay, execTaskEnd, execTaskCutoff, execPacerRemoteAnswer,
      execPacerRemoteResend, execHintStart, execHintEnd, execTapeArriveMessage, execTapeReleaseMessage,
      execTapeFaultMessage, execTapeRefusedMessage, execTapeRelease, execCombWindowExpiry, execMoveDescriptorRead,
      execSpill, execFill, execTierPageDelivery, execTierAck, execTierTimeout, execTierPageFailure, execShadowWrite,
      execShadowResubmit, execShadowAck, execShadowTimeout, execKeepaliveSend, execKeepalive, execPartnerLost,
      execHeartbeatTimeout, execMarshalFailure, execMarshalTakeover, execCheckpointComplete, execPartFault,
      execRecoveryWindowClose, execWarmReset, execWarmResume, execColdReset, execBistDone, execRefReady,
      execRefclkTimeout, execPllLock, execDirectory, execData, execEndOfPass, execAuthDone, execApplyDone,
      execHelloSend, execHello, execHelloReply, execNeighbourSilent, execFieldStatus, execFieldStatusTimeout,
      execReformRestart, execDozeEntry, execDozeDrainTimeout, execWakeComplete, execRetentionBrownout, execClockFault,
      execRcFail, execSafeExit, execSafeTimeout, execFmDone, execTempSample, execTripSwitch, execSupplyBelowWarn,
      execSupplyPauseEnd, execSupplyReset, execVmonRefresh, execPmonRefresh, execEstimatorWindow, execMonitorToken,
      execNoToken, execPfailAssert, execHandoffPoint, execPfailRelease, execWarmRstN, execColdRstN, execRegisterWrite,
      execCsr, execMem, execMeshLinkTrained, execMeshLinkDown, execSupplyReturn, execReferenceUsable, execLogTestDone,
      execCombWriteBackResend, execVaonRemoved, execRailsRemoved, execRailsApplied]
    repeat' first
      | exact answers_next _
      | split

/-- Settles O4. -/
theorem everyCommandHasANextState : Obligations.EveryCommandHasANextState := exec_answers

end Sys2Proof.Machine
end

section
/-! SUPPORT. What a register field holds after the updates of State, and which parts of the state a noted event leaves. -/

namespace Sys2Proof.Machine

/-- An update of other parts of the state leaves every register field. -/
@[simp] theorem getF_mk (x : State) (f : Fld) (a0 : List Instr) (a1 : Nat) (a3 : Sparse Nat) (am : List Host.Cell) (a4
    : Sparse GState) (a5 : Sparse Nat) (a6 : Sparse Nat) (a7 : List Nat) (a8 : List TInput) (a9 : Conc) (a10 :
    Cadence) (a11 : Clocks) (a12 : Sparse Nat) (a13 : Sparse Nat) (a14 : Sparse Nat) (a15 : Sparse Nat) (a16 : Sparse
    Nat) (a17 : Sparse Nat) (a18 : Sparse Nat) (a19 : Sparse Nat) (a20 : List Request) (a21 : Nat) (a22 : Nat) (a23 :
    Sparse Nat) (a24 : Sparse Tag) (a25 : Sparse Chan) (a26 : List CombEntry) (a27 : Sparse Nat) (a28 : List Nat) (a29
    : Sparse (List Handle)) (a30 : List RelayWait) (a31 : Integ) (a32 : Sparse Nat) (a33 : Sparse Nat) (a34 : Sparse
    Nat) (a35 : Trace) (a36 : Sparse Nat) (a37 : List (Nat × Nat × Nat)) (a38 : List Nat) (a39 : Nat) (a40 : Nat) (a41
    : Nat) (a42 : Nat) (a43 : List Nat) (a44 : List Waiter) (a45 : List Arrival) (a46 : Sparse (Nat × Bool)) (a47 :
    Sparse Nat) (a48 : List JEntry) (a49 : List Dedup) (a50 : List ShadowHold) (a51 : List GwEntry) (a52 : Option Nat)
    (a53 : MarshalS) (a54 : Buddy) (a55 : Sparse Nat) (a56 : Sparse Nat) (a57 : List Task) (a58 : Sparse (Nat × Nat))
    (a59 : Sparse Nat) (a60 : List Nat) (a61 : Sparse Nat) (a62 : List MvDesc) (a63 : List Move) (a64 : List PageOut)
    (a65 : Sparse Nat) (a66 : Option (Nat × Nat)) (a67 : Bool) (a68 : List (Nat × Nat)) (a69 : Est) (a70 : Roll) (a71
    : BootS) (a72 : Rst) (a73 : Wrap) (a74 : List OutPkt) :
        getF (State.mk a0 a1 x.regs a3 am a4 a5 a6 a7 a8 a9 a10 a11 a12 a13 a14 a15 a16 a17 a18 a19 a20 a21 a22 a23
    a24 a25 a26 a27 a28 a29 a30 a31 a32 a33 a34 a35 a36 a37 a38 a39 a40 a41 a42 a43 a44 a45 a46 a47 a48 a49 a50 a51
    a52 a53 a54 a55 a56 a57 a58 a59 a60 a61 a62 a63 a64 a65 a66 a67 a68 a69 a70 a71 a72 a73 a74) f = getF x f := rfl

theorem flagF_iff (s : State) (f : Fld) : flagF s f = true ↔ getF s f = 1 := beq_iff_eq

theorem flagF_eq_false_iff (s : State) (f : Fld) : flagF s f = false ↔ getF s f ≠ 1 := beq_eq_false_iff_ne

/-- A field of one bit. -/
theorem getF_bit {f : Fld} (s : State) (h : f.w = 1) : getF s f = 0 ∨ getF s f = 1 := by
  have hlt := getF_lt s f
  rw [h] at hlt
  omega

theorem Noted.clk {s t : State} (h : Noted s t) : t.clk = s.clk := by
  have hsame := congrArg (fun u : State => u.clk) h.2
  exact hsame

theorem Noted.rst {s t : State} (h : Noted s t) : t.rst = s.rst := by
  have hsame := congrArg (fun u : State => u.rst) h.2
  exact hsame

end Sys2Proof.Machine
end

section
/-! SUPPORT. The switch of the clock to a step that is due, and the wake by a wake pattern (R684, R686, R697 to R701, R719).
Settles O39 and O40. -/

namespace Sys2Proof.Machine

-- ## The switch (R684, R686, R719)

theorem curStep_lt (s : State) : curStep s < 16 := getF_lt s F.CPM_STEP_CUR_STEP

theorem retuneTo_clk (s : State) (step : Nat) : (retuneTo s step).clk = s.clk := by
  obtain ⟨cur, hi, h⟩ := retuneTo_eq s step
  rw [h]
  rfl

theorem switched_clk (s : State) (step : Nat) :
    (switched s step).clk = { s.clk with sw := none, div := 1, retune := false } := by
  change { (retuneTo (newStep s step) (curStep s)).clk with sw := none, div := 1, retune := false } = _
  rw [retuneTo_clk]
  rfl

theorem doSwitch_clk (s : State) (step cause : Nat) :
    (doSwitch s step cause).clk = { s.clk with sw := none, div := 1, retune := false } :=
  (doSwitch_noted s step cause).clk.trans (switched_clk s step)

/-- The PLLs exchange their roles. -/
theorem actPll_doSwitch (s : State) (step cause : Nat) :
    getF (doSwitch s step cause) F.CPM_CLK_STAT_ACT_PLL = (1 - getF s F.CPM_CLK_STAT_ACT_PLL) % 2 := by
  rw [(doSwitch_noted s step cause).1 _ (by decide), switched, getF_switchOver, getF_retuneTo_other _ _ (by decide)]
  simp (disch := decide) only [newStep, getF_setF_other, getF_setF_same]
  rfl

/-- A switch to one of the nine steps. -/
theorem doSwitch_switches (s : State) {step : Nat} (cause : Nat) (h : step ≤ 8) :
    curStep (doSwitch s step cause) = step ∧ (doSwitch s step cause).clk.sw = none ∧ (doSwitch s step cause).clk.div = 1
    ∧ getF (doSwitch s step cause) F.CPM_CLK_STAT_ACT_PLL = (1 - getF s F.CPM_CLK_STAT_ACT_PLL) % 2
    ∧ (doSwitch s step cause).cad = s.cad := by
  have hclk := doSwitch_clk s step cause
  refine ⟨?_, ?_, ?_, actPll_doSwitch s step cause, doSwitch_cad s step cause⟩
  · rw [curStep_doSwitch]
    omega
  · rw [hclk]
  · rw [hclk]

/-- A late switch goes on waiting, and STEP_LATE shows it. -/
theorem lateSwitch_waits (s : State) (w : StepReq) : curStep (lateSwitch s w) = curStep s
    ∧ (lateSwitch s w).clk.sw = some { w with late := true } ∧ getF (lateSwitch s w) F.CPM_CLK_STAT_STEP_LATE = 1 := by
  have hirq := irqIf_noted (setF (faultBegin { s with clk := { s.clk with sw := some { w with late := true } } } 2)
    F.CPM_CLK_STAT_STEP_LATE 1) F.CPM_CLK_CTL_CLK_IRQ_EN 10
  refine ⟨?_, ?_, ?_⟩
  · exact (hirq.1 _ (by decide)).trans (getF_setF_other _ _ (by decide))
  · exact congrArg Clocks.sw hirq.clk
  · exact (hirq.1 _ (by decide)).trans (getF_setF_same _ _ _)

theorem exec_stepSwitch {s : State} {w : StepReq} (hrun : arrayRuns s = true) (hsw : s.clk.sw = some w) :
    exec .stepSwitch s = .next (
      if w.cause = 1 ∨ w.late = true ∨ now s < w.tick then s
      else if curStep s < w.step ∧ railsAt s (tableMv s w.step) = false then lateSwitch s w
      else doSwitch s w.step w.cause) := by
  change execStepSwitch s = _
  simp [execStepSwitch, hrun, hsw, apply_ite Host.Outcome.next, or_assoc]

theorem exec_stepSwitchDeferred {s : State} {w : StepReq} (hrun : arrayRuns s = true) (hsw : s.clk.sw = some w) :
    exec .stepSwitchDeferred s
      = .next (if w.late = true ∧ railsAt s (tableMv s w.step) = true then doSwitch s w.step w.cause else s) := by
  change execStepSwitchDeferred s = _
  simp [execStepSwitchDeferred, hrun, hsw, apply_ite Host.Outcome.next]

theorem exec_tripSwitch {s : State} {w : StepReq} (hrun : arrayRuns s = true) (hsw : s.clk.sw = some w)
    (hc : w.cause = 1) : exec .tripSwitch s = .next (doSwitch s w.step 1) := by
  change execTripSwitch s = _
  simp [execTripSwitch, hrun, hsw, hc]

/-- Settles O39: a change that is due switches, unless its rails are late. -/
theorem stepChangesSwitchTheClock : Obligations.StepChangesSwitchTheClock := by
  intro w s hrun hsw hstep low switched
  have hswitch := exec_stepSwitch hrun hsw
  have hlater := exec_stepSwitchDeferred hrun hsw
  refine ⟨fun hc hl ht => ⟨fun hup => ?_, fun hlow => ?_⟩, fun _ _ ht => ?_, fun hl hr => ?_, fun _ hr => ?_, fun hc => ?_⟩
  · rw [if_neg (by simp [hc, hl, ht]), if_neg hup] at hswitch
    exact ⟨_, hswitch, doSwitch_switches s w.cause hstep⟩
  · rw [if_neg (by simp [hc, hl, ht]), if_pos hlow] at hswitch
    exact ⟨_, hswitch, lateSwitch_waits s w⟩
  · rw [hswitch, if_pos (.inr (.inr ht))]
  · rw [if_pos ⟨hl, hr⟩] at hlater
    exact ⟨_, hlater, doSwitch_switches s w.cause hstep⟩
  · rw [hlater, if_neg (by simp [hr])]
  · exact ⟨_, exec_tripSwitch hrun hsw hc, doSwitch_switches s 1 hstep⟩

-- ## A cold trigger (R754, R757)

theorem triggerCold_free {s : State} (cause : Nat) (hr : s.rst.coldRun = false) (hd : s.rst.due = 0) :
    triggerCold s cause = { s with rst := { s.rst with due := cause, warm := 0 } } := by simp [triggerCold, hr, hd]

-- ## The wake (R695, R697, R698, R701)

/-- The always-on record of a wake (R701). -/
def wakeRecorded (s : State) (w : WakeReq) : State :=
  incF (setF (setF (setF (setF (setF s F.CPM_AON_LAST_SOURCE w.src) F.CPM_AON_LAST_LANE w.lane) F.CPM_AON_LAST_LINK w.link)
    F.CPM_AON_LAST_RAILS_OFF (b2n s.clk.railsOff)) F.CPM_AON_LAST_RET_LOST (getF s F.CPM_AON_STAT_RET_LOST))
    F.CPM_AON_CNT_WAKES 1

/-- The machine is Waking by the request `w`. -/
def waking (s : State) (w : WakeReq) : State :=
  setF { wakeRecorded s w with clk := { (wakeRecorded s w).clk with wake := some w } } F.CPM_AON_STAT_AON_STATE 2

theorem wakeTo_lost {s : State} (w : WakeReq) (h : getF s F.CPM_AON_STAT_RET_LOST = 1) :
    wakeTo s w = triggerCold (wakeRecorded s w) 6 := if_pos h

theorem wakeTo_kept {s : State} (w : WakeReq) (h : getF s F.CPM_AON_STAT_RET_LOST ≠ 1) :
    wakeTo s w = if s.clk.rails then startWake (waking s w) w else waking s w := if_neg h

/-- The fields of the record. -/
theorem getF_wakeRecorded (s : State) (w : WakeReq) :
    getF (wakeRecorded s w) F.CPM_AON_LAST_SOURCE = w.src % 8 ∧ getF (wakeRecorded s w) F.CPM_AON_LAST_LINK = w.link % 4
    ∧ getF (wakeRecorded s w) F.CPM_AON_LAST_RET_LOST = getF s F.CPM_AON_STAT_RET_LOST % 2
    ∧ getF (wakeRecorded s w) F.CPM_AON_CNT_WAKES = getF (incF s F.CPM_AON_CNT_WAKES 1) F.CPM_AON_CNT_WAKES
    ∧ aonState (wakeRecorded s w) = aonState s := by
  simp (disch := decide) only [wakeRecorded, incF, aonState, getF_setF_other, getF_setF_same, and_true]
  exact ⟨rfl, rfl, rfl⟩

/-- The record is all that a wake writes of the always-on fields, whatever comes of the wake. -/
theorem getF_wakeTo (s : State) (w : WakeReq) {f : Fld} (hs : f.key ≠ F.CPM_AON_STAT_AON_STATE.key)
    (hi : f.key ≠ F.GLB_RST_CAUSE_IGNORED.key) (hc : f.key ≠ F.CPM_STEP_CUR_STEP.key) (hr : f.key ∉ retuneKeys) :
    getF (wakeTo s w) f = getF (wakeRecorded s w) f := by
  have hwaking : getF (waking s w) f = getF (wakeRecorded s w) f := (getF_setF_other _ _ hs).trans (getF_mk ..)
  by_cases h : getF s F.CPM_AON_STAT_RET_LOST = 1
  · rw [wakeTo_lost w h, triggerCold]
    split
    · exact getF_setF_other _ _ hi
    · rfl
  · rw [wakeTo_kept w h]
    split
    · exact (getF_retuneTo_other _ _ hr).trans ((getF_setF_other _ _ hc).trans hwaking)
    · exact hwaking

theorem aonState_waking (s : State) (w : WakeReq) : aonState (waking s w) = 2 := getF_setF_same _ _ _

/-- With the supplies there, the cadence unit acquires at the wake step. -/
theorem startWake_starts (s : State) (w : WakeReq) : aonState (startWake s w) = aonState s
    ∧ (startWake s w).clk.wake = s.clk.wake ∧ curStep (startWake s w) = w.step % 16
    ∧ (startWake s w).cad.st = .acquiring := by
  unfold startWake
  refine ⟨?_, ?_, ?_, ?_⟩
  · exact (getF_retuneTo_other _ _ (by decide)).trans ((getF_setF_other _ _ (by decide)).trans (getF_mk ..))
  · rw [retuneTo_clk]
    rfl
  · exact (getF_retuneTo_other _ _ (by decide)).trans (getF_setF_same _ _ _)
  · rw [retuneTo_cad]
    rfl

/-- Retention kept, the machine is Waking, and with the supplies there it starts at the wake step. -/
theorem wakeTo_wakes {s : State} (w : WakeReq) (h : getF s F.CPM_AON_STAT_RET_LOST ≠ 1) :
    aonState (wakeTo s w) = 2 ∧ (wakeTo s w).clk.wake = some w
    ∧ (s.clk.rails = true → curStep (wakeTo s w) = w.step % 16 ∧ (wakeTo s w).cad.st = .acquiring) := by
  obtain ⟨haon, hwake, hstep, hcad⟩ := startWake_starts (waking s w) w
  rw [wakeTo_kept w h]
  cases hrails : s.clk.rails with
  | true => exact ⟨haon.trans (aonState_waking s w), hwake, fun _ => ⟨hstep, hcad⟩⟩
  | false => exact ⟨aonState_waking s w, rfl, fun hno => absurd hno Bool.false_ne_true⟩

/-- Retention lost, a cold reset is due, and the machine stays in its state until then. -/
theorem wakeTo_resets {s : State} (w : WakeReq) (h : getF s F.CPM_AON_STAT_RET_LOST = 1) (hr : s.rst.coldRun = false)
    (hd : s.rst.due = 0) : aonState (wakeTo s w) = aonState s ∧ (wakeTo s w).rst.due = 6 := by
  obtain ⟨-, -, -, -, haon⟩ := getF_wakeRecorded s w
  rw [wakeTo_lost w h, triggerCold_free (s := wakeRecorded s w) 6 hr hd]
  exact ⟨haon, rfl⟩

-- ## A wake pattern (R699, R700)

/-- Forwarding a pattern leaves the register fields, the wake that is recorded, and the resets. -/
theorem wakeForwarded_keeps (s : State) (link : Nat) (f : Frame) {g : Fld} (hg : g.key ∉ noteKeys) :
    getF (wakeForwarded s link f) g = getF s g ∧ (wakeForwarded s link f).clk.wake = s.clk.wake
    ∧ (wakeForwarded s link f).clk.rails = s.clk.rails ∧ (wakeForwarded s link f).rst = s.rst := by
  unfold wakeForwarded
  split
  · exact ⟨rfl, rfl, rfl, rfl⟩
  · have hsent := sendFrames_noted { s with clk := { s.clk with wakeSeq := some f.seq } } link { f with hop := f.hop + 1 }
    rw [hsent.clk, hsent.rst, hsent.1 g hg]
    exact ⟨rfl, rfl, rfl, rfl⟩

theorem namesMe_iff (s : State) (p : Nat) : namesMe s p = true ↔
    bits p 9 5 = selfWafer s ∧ (bits p 14 1 = 1 ∨ bits p 0 9 = selfInst s) := by
  simp [namesMe, bits_eq_one_iff]

/-- Settles O40: the pattern is forwarded, and wakes the machine that it names. -/
theorem wakePatternWakesTheNamed : Obligations.WakePatternWakesTheNamed := by
  intro link f fr s htake haon hcold hdue named
  have hexec := wakePattern_taken htake
  have hkeeps := fun (g : Fld) (hg : g.key ∉ noteKeys) => wakeForwarded_keeps s link fr hg
  set u := wakeForwarded s link fr
  have hu : aonState u = 1 := (hkeeps F.CPM_AON_STAT_AON_STATE (by decide)).1.trans haon
  obtain ⟨hlost, hwake, hrails, hrst⟩ := hkeeps F.CPM_AON_STAT_RET_LOST (by decide)
  have hnamed : namesMe u fr.pay = true ↔ named := by
    rw [namesMe_iff, selfWafer, selfInst, (hkeeps F.GLB_SELF_WAFER (by decide)).1, (hkeeps F.GLB_SELF_INSTANCE (by decide)).1]
    rfl
  refine ⟨_, hexec, fun hno => ?_, fun hn => ?_⟩
  · rw [if_neg (by simp [hnamed, hno])]
    exact ⟨hu, hwake⟩
  rw [if_pos (by simp [hnamed.2 hn, hu])]
  set w : WakeReq := ⟨0, 0, link, bits fr.pay 16 4⟩
  obtain ⟨hsource, hlink, hrecord, -, -⟩ := getF_wakeRecorded u w
  refine ⟨?_, ?_, ?_, fun hkept => ?_, fun hl => ?_⟩
  · rw [getF_wakeTo u w (by decide) (by decide) (by decide) (by decide), hsource]
    rfl
  · rw [getF_wakeTo u w (by decide) (by decide) (by decide) (by decide), hlink]
  · rw [getF_wakeTo u w (by decide) (by decide) (by decide) (by decide), hrecord, hlost]
  · obtain ⟨hstate, hreq, hstart⟩ := wakeTo_wakes (s := u) w (by rw [hlost, hkept]; decide)
    refine ⟨hstate, hreq, fun hr => ?_⟩
    obtain ⟨hstep, hcad⟩ := hstart (hrails.trans hr)
    exact ⟨hstep.trans (bits_mod _ _ 4), hcad⟩
  · obtain ⟨hstate, hreset⟩ := wakeTo_resets (s := u) w (hlost.trans hl) (by rw [hrst, hcold]) (by rw [hrst, hdue])
    exact ⟨hstate.trans hu, hreset⟩

end Sys2Proof.Machine
end

section
/-! SUPPORT. Triggers of a reset, clock faults and SAFE (R677 to R681, R754, R759). Settles O52. -/

namespace Sys2Proof.Machine

-- ## A warm trigger (R754, R759)

theorem triggerWarm_free {s : State} (cause : Nat) (hr : s.rst.coldRun = false) (hd : s.rst.due = 0) (hw : s.rst.warm = 0)
    (hs : shdn s = false) (hst : s.clk.stopped = false) :
    triggerWarm s cause = { s with rst := { s.rst with due := cause } } := by simp [triggerWarm, hr, hd, hw, hs, hst]

/-- A warm trigger writes no field but the count of those ignored, and leaves the clocks. -/
theorem triggerWarm_keeps (s : State) (cause : Nat) : (triggerWarm s cause).clk = s.clk
    ∧ ∀ f : Fld, f.key ≠ F.GLB_RST_CAUSE_IGNORED.key → getF (triggerWarm s cause) f = getF s f := by
  unfold triggerWarm
  split
  · exact ⟨rfl, fun _ hf => getF_setF_other _ _ hf⟩
  · exact ⟨rfl, fun _ _ => rfl⟩

-- ## The entry of SAFE (R678, R679)

/-- The flag of a fault is none of the other clock fields. -/
theorem clockFlag_key (k : ClockFaultKind) : (clockFlag k).w = 1 ∧ (clockFlag k).key ∉ noteKeys
    ∧ (clockFlag k).key ∉ [F.CPM_CLK_STAT_SAFE.key, F.CPM_CLK_STAT_ON_PLL.key, F.CPM_CLK_STAT_UNCLEAN.key,
      F.CPM_CLK_STAT_ALT_REF.key, F.CPM_CLK_STAT_REF_READY.key, F.CPM_CLK_CTL_ALT_REF_EN.key] := by
  cases k <;> decide

/-- SAFE as a clock fault enters it, before the entry is logged. -/
def safeEntered (s : State) (k : ClockFaultKind) : State :=
  setF (setF (setF (setF s F.CPM_CLK_STAT_SAFE 1) F.CPM_CLK_STAT_ON_PLL 0) F.CPM_CLK_STAT_UNCLEAN (b2n (k == .pllOver)))
    F.CPM_CLK_STAT_ALT_REF (b2n (k == .refFail && altUsable s))

/-- The same with the clock's part of it: the tick of the entry, and whether a reference is usable. -/
def safeNoted (s : State) (k : ClockFaultKind) : State :=
  { faultBegin (safeEntered s k) 1 with
    clk := { s.clk with safeAt := now s, refUsable := refAfter s k }, est := { s.est with taint := true } }

/-- An entry of SAFE that does not follow closely on a return from it (R681). -/
theorem enterSafe_first {s : State} (k : ClockFaultKind) (h : s.clk.safeExit = 0) :
    Noted (safeNoted s k) (enterSafe s k) := by
  unfold enterSafe
  dsimp only
  rw [if_neg (by simp [h])]
  exact (irqIf_noted _ _ _).trans (logEvt_noted _ _ _ _ _ _ _ _ _)

/-- The fields that an entry of SAFE writes. -/
theorem getF_safeNoted (s : State) (k : ClockFaultKind) :
    getF (safeNoted s k) F.CPM_CLK_STAT_SAFE = 1 ∧ getF (safeNoted s k) F.CPM_CLK_STAT_ON_PLL = 0
    ∧ getF (safeNoted s k) F.CPM_CLK_STAT_UNCLEAN = b2n (k == .pllOver)
    ∧ getF (safeNoted s k) (clockFlag k) = getF s (clockFlag k) := by
  obtain ⟨-, -, hk⟩ := clockFlag_key k
  simp only [List.mem_cons, List.not_mem_nil, or_false, not_or] at hk
  obtain ⟨hsafe, hpll, hunclean, halt, -, -⟩ := hk
  simp (disch := decide) only [safeNoted, faultBegin, safeEntered, getF_mk, getF_setF_other, getF_setF_same]
  refine ⟨rfl, rfl, by cases k <;> rfl, ?_⟩
  rw [getF_setF_other _ _ halt, getF_setF_other _ _ hunclean, getF_setF_other _ _ hpll, getF_setF_other _ _ hsafe]

/-- The flag of the fault leaves what says whether a reference is usable. -/
theorem refAfter_setF_clockFlag (s : State) (k : ClockFaultKind) : refAfter (setF s (clockFlag k) 1) k
    = if k = .refFail then altUsable s else flagF s F.CPM_CLK_STAT_REF_READY := by
  obtain ⟨-, -, hk⟩ := clockFlag_key k
  simp only [List.mem_cons, List.not_mem_nil, or_false, not_or] at hk
  obtain ⟨-, -, -, -, hready, hen⟩ := hk
  rw [refAfter, altUsable, altUsable, flagF, flagF, getF_setF_other _ _ (Ne.symm hready), getF_setF_other _ _ (Ne.symm hen)]
  cases k <;> rfl

theorem exec_clockFault_outside {s : State} (k : ClockFaultKind) (hm : monitorsRun s = true)
    (hs : flagF s F.CPM_CLK_STAT_SAFE = false) :
    exec (.clockFault k) s = .next (enterSafe (setF s (clockFlag k) 1) k) := by
  change execClockFault k s = _
  simp [execClockFault, hm, hs]

theorem exec_clockFault_inside {s : State} (k : ClockFaultKind) (hm : monitorsRun s = true)
    (hs : flagF s F.CPM_CLK_STAT_SAFE = true) : exec (.clockFault k) s = .next { setF s (clockFlag k) 1 with
      clk := { s.clk with refUsable := if k = .refFail then altUsable s else s.clk.refUsable } } := by
  change execClockFault k s = _
  simp only [execClockFault, hm, hs, Bool.not_true, Bool.false_eq_true, if_false, if_true]
  rfl

theorem exec_rcFail {s : State} (hm : monitorsRun s = true) :
    exec .rcFail s = .next (clkIrq (setF s F.CPM_CLK_STAT_RC_FAIL 1)) := if_pos hm

-- ## The ways out of SAFE (R680, R681)

theorem exec_referenceUsable {s : State} (hs : flagF s F.CPM_CLK_STAT_SAFE = true) (hd : s.clk.safeDead = false) :
    exec .referenceUsable s = .next { setF s F.CPM_CLK_STAT_ALT_REF
      (b2n (flagF s F.CPM_CLK_STAT_REF_FAIL && altUsable s)) with clk := { s.clk with refUsable := true } } := by
  change execReferenceUsable s = _
  simp [execReferenceUsable, hs, hd]

/-- The clock runs on a PLL again. -/
def safeLeft (s : State) : State :=
  { faultEnd (setF (setF s F.CPM_CLK_STAT_SAFE 0) F.CPM_CLK_STAT_ON_PLL 1) 1 with
    clk := { s.clk with safeExit := now s + 1 }, est := { s.est with win := now s / 1000, cyc0 := s.cad.cycles } }

theorem exec_safeExit {s : State} (hs : flagF s F.CPM_CLK_STAT_SAFE = true) (hd : s.clk.safeDead = false)
    (hr : s.clk.refUsable = true) : exec .safeExit s
      = .next (if flagF s F.CPM_CLK_STAT_UNCLEAN = true then triggerWarm (safeLeft s) 10 else safeLeft s) := by
  change execSafeExit s = _
  simp only [execSafeExit, hs, hd, hr, Bool.not_true, Bool.or_self, Bool.false_eq_true, if_false]
  rfl

theorem getF_safeLeft (s : State) : getF (safeLeft s) F.CPM_CLK_STAT_SAFE = 0 ∧ getF (safeLeft s) F.CPM_CLK_STAT_ON_PLL = 1
    ∧ getF (safeLeft s) F.GLB_SHDN_STAT_SHDN_ACT = getF s F.GLB_SHDN_STAT_SHDN_ACT := by
  simp (disch := decide) only [safeLeft, faultEnd, getF_mk, getF_setF_other, getF_setF_same, and_true]
  exact ⟨rfl, rfl⟩

/-- SAFE_EXIT, and the warm reset that is due after an unclean stop. -/
theorem exec_safeExit_leaves {s : State} (hs : flagF s F.CPM_CLK_STAT_SAFE = true) (hd : s.clk.safeDead = false)
    (hr : s.clk.refUsable = true) : ∃ t, exec .safeExit s = .next t
      ∧ getF t F.CPM_CLK_STAT_SAFE = 0 ∧ getF t F.CPM_CLK_STAT_ON_PLL = 1 ∧ t.clk.safeExit = now s + 1
      ∧ (flagF s F.CPM_CLK_STAT_UNCLEAN = false → t.rst = s.rst)
      ∧ (flagF s F.CPM_CLK_STAT_UNCLEAN = true → s.rst.coldRun = false → s.rst.due = 0 → s.rst.warm = 0 → shdn s = false →
          s.clk.stopped = false → t.rst.due = 10) := by
  obtain ⟨hsafe, hpll, hshdn⟩ := getF_safeLeft s
  refine ⟨_, exec_safeExit hs hd hr, ?_⟩
  cases hu : flagF s F.CPM_CLK_STAT_UNCLEAN with
  | false => exact ⟨hsafe, hpll, rfl, fun _ => rfl, fun hno => absurd hno Bool.false_ne_true⟩
  | true =>
    rw [if_pos rfl]
    obtain ⟨hclk, hkeeps⟩ := triggerWarm_keeps (safeLeft s) 10
    refine ⟨(hkeeps _ (by decide)).trans hsafe, (hkeeps _ (by decide)).trans hpll, congrArg Clocks.safeExit hclk,
      fun hno => absurd hno.symm Bool.false_ne_true, fun _ hcold hdue hwarm hsh hstop => ?_⟩
    have hrun : shdn (safeLeft s) = false := by rwa [shdn, flagF, hshdn]
    rw [triggerWarm_free (s := safeLeft s) 10 hcold hdue hwarm hrun hstop]

theorem exec_safeTimeout (s : State) : exec .safeTimeout s = .next (
    if flagF s F.CPM_CLK_STAT_SAFE = true ∧ s.clk.refUsable = false ∧ s.clk.safeDead = false
      ∧ (countHeld s = true ∨ s.clk.safeAt + 10000000 ≤ now s)
    then { fenceInst s [] with clk := { s.clk with safeDead := true } } else s) := by
  change execSafeTimeout s = _
  simp [execSafeTimeout, apply_ite Host.Outcome.next, and_assoc]

theorem exec_fmDone {s : State} (n : Nat) (hm : monitorsRun s = true) : exec (.fmDone n) s = .next (
    if s.clk.fmRun = true then
      setF (setF { s with clk := { s.clk with fmRun := false } } F.CPM_FM_CNT_COUNT n) F.CPM_FM_CTL_DONE 1
    else s) := by
  change execFmDone n s = _
  cases hf : s.clk.fmRun <;> simp [execFmDone, hm, hf]

/-- Settles O52. -/
theorem clockFaultsEnterSafe : Obligations.ClockFaultsEnterSafe := by
  intro s hm
  refine ⟨fun k hs hx => ?_, fun k hs => ?_, ?_, fun hs hd => exec_referenceUsable hs hd,
    fun hs hd hr => exec_safeExit_leaves hs hd hr, fun hs hr hd => ⟨fun ht => ?_, fun hh ht => ?_⟩, fun n => ⟨fun hf => ?_, fun hf => ?_⟩⟩
  · obtain ⟨hwide, hkeys, -⟩ := clockFlag_key k
    have hnoted := enterSafe_first (s := setF s (clockFlag k) 1) k hx
    obtain ⟨hsafe, hpll, hunclean, hflag⟩ := getF_safeNoted (setF s (clockFlag k) 1) k
    refine ⟨_, exec_clockFault_outside k hm hs, ?_, ?_, ?_, ?_, ?_, ?_⟩
    · rw [flagF_iff, hnoted.1 _ (by decide), hsafe]
    · rw [flagF_iff, hnoted.1 _ hkeys, hflag, getF_setF_same, hwide]
      rfl
    · rw [hnoted.1 _ (by decide), hpll]
    · rw [flagF, hnoted.1 _ (by decide), hunclean]
      cases k <;> rfl
    · rw [hnoted.clk]
      rfl
    · rw [hnoted.clk]
      exact refAfter_setF_clockFlag s k
  · obtain ⟨hwide, -, hk⟩ := clockFlag_key k
    refine ⟨_, exec_clockFault_inside k hm hs, ?_, rfl, ?_⟩
    · rw [flagF_iff, getF_mk, getF_setF_same, hwide]
      rfl
    · refine (getF_mk ..).trans (getF_setF_other _ _ (fun h => hk ?_))
      simp [h]
  · have hnoted := irqIf_noted (setF s F.CPM_CLK_STAT_RC_FAIL 1) F.CPM_CLK_CTL_CLK_IRQ_EN 10
    refine ⟨_, exec_rcFail hm, ?_, ?_⟩
    · exact (hnoted.1 _ (by decide)).trans (getF_setF_same _ _ _)
    · exact (hnoted.1 _ (by decide)).trans (getF_setF_other _ _ (by decide))
  · refine ⟨_, exec_safeTimeout s, ?_⟩
    rw [if_pos ⟨hs, hr, hd, .inr ht⟩]
  · rw [exec_safeTimeout, if_neg]
    rintro ⟨-, -, -, hheld | hdue⟩
    · exact absurd (hh.symm.trans hheld) Bool.false_ne_true
    · exact absurd hdue (Nat.not_le.2 ht)
  · rw [exec_fmDone n hm, if_pos hf]
  · rw [exec_fmDone n hm, if_neg (by simp [hf])]

end Sys2Proof.Machine
end

section
/-! SUPPORT. What the journal's own operations change: an entry is opened, written and ended, with the events that this notes;
every other part of the state stays (`Journaled`). -/

namespace Sys2Proof.Machine

/-- The register fields that the journal's operations can change. -/
def jnlKeys : List Nat := noteKeys ++ [F.JNL_SEQ_SEQ.key, F.JNL_CNT_ABANDONED.key]

/-- The state without what the journal's operations change. -/
def unjournaled (s : State) : State := unnoted { s with jnl := [] }

/-- `t` is `s` but for journal entries without an answer, and noted events. -/
def Journaled (s t : State) : Prop := (∀ f : Fld, f.key ∉ jnlKeys → getF t f = getF s f) ∧ unjournaled t = unjournaled s

theorem Journaled.refl (s : State) : Journaled s s := ⟨fun _ _ => rfl, rfl⟩

theorem Journaled.trans {s t u : State} (h : Journaled s t) (g : Journaled t u) : Journaled s u :=
  ⟨fun f k => (g.1 f k).trans (h.1 f k), g.2.trans h.2⟩

theorem Journaled.ite {s a b : State} {c : Prop} [Decidable c] (h : Journaled s a) (g : Journaled s b) :
    Journaled s (if c then a else b) := by split <;> assumption

theorem Journaled.of_noted {s t : State} (h : Noted s t) : Journaled s t :=
  ⟨fun f k => h.1 f (fun hf => k (List.mem_append_left _ hf)), congrArg (fun u : State => { u with jnl := [] }) h.2⟩

/-- An update of what `unjournaled` forgets. -/
theorem Journaled.of_regs {s t : State} (h : t.regs = s.regs) (g : unjournaled t = unjournaled s) : Journaled s t :=
  ⟨fun f _ => getF_of_regs h f, g⟩

theorem setF_journaled (s : State) (f : Fld) (v : Nat) (h : f.key ∈ jnlKeys) : Journaled s (setF s f v) :=
  ⟨fun _ hg => getF_setF_other s v (fun e => hg (e ▸ h)), rfl⟩

theorem Journaled.clk {s t : State} (h : Journaled s t) : t.clk = s.clk := by
  have hsame := congrArg (fun u : State => u.clk) h.2
  exact hsame

theorem Journaled.rst {s t : State} (h : Journaled s t) : t.rst = s.rst := by
  have hsame := congrArg (fun u : State => u.rst) h.2
  exact hsame

theorem Journaled.tasks {s t : State} (h : Journaled s t) : t.tasks = s.tasks := by
  have hsame := congrArg (fun u : State => u.tasks) h.2
  exact hsame

theorem Journaled.parked {s t : State} (h : Journaled s t) : t.parked = s.parked := by
  have hsame := congrArg (fun u : State => u.parked) h.2
  exact hsame

theorem putEntry_journaled (s : State) (e : JEntry) : Journaled s (putEntry s e) := .of_regs rfl rfl

theorem dropEntry_journaled (s : State) (seq : Nat) : Journaled s (dropEntry s seq) := .of_regs rfl rfl

theorem jnlWrite_journaled (s : State) (e : JEntry) (st : Nat) : Journaled s (jnlWrite s e st) := by
  unfold jnlWrite
  dsimp only
  split
  · exact (putEntry_journaled _ _).trans (.of_noted (emit_noted _ _))
  · exact putEntry_journaled _ _

theorem jnlOpen_journaled (s : State) (e : JEntry) : Journaled s (jnlOpen s e) := by
  unfold jnlOpen
  extract_lets e1 s1
  have h1 : Journaled s s1 :=
    .trans (t := { s with jnl := s.jnl ++ [e1] }) (.of_regs rfl rfl) (setF_journaled _ _ _ (by decide))
  exact (h1.trans (jnlWrite_journaled _ _ _)).trans (.of_noted (ctrEvent_noted _ _ _ _ _))

/-- The end of an entry that holds no answer. -/
theorem jnlFinish_journaled (s : State) (e : JEntry) (code cause value sm : Nat) :
    Journaled s (jnlFinish s e code cause value sm none) := by
  unfold jnlFinish
  extract_lets st e1 s1 s2
  have h2 : Journaled s s2 :=
    (Journaled.ite (setF_journaled _ _ _ (by decide)) (.refl s)).trans (jnlWrite_journaled _ e1 st)
  split
  · exact h2
  · split
    · rename_i x hx
      have hans : x.ans = none := ans_of_findEntry_jnlWrite (e := e1) hx
      simp only [jnlClose, hans]
      exact h2.trans (dropEntry_journaled _ _)
    · exact h2

theorem jnlLog_noted (s : State) (src sev info : Nat) : Noted s (jnlLog s src sev info) :=
  have hlog := logEvt_noted s src sev 15 0xFF 0 0 0 info
  .ite (hlog.trans (irqIf_noted _ _ _)) hlog

theorem markEntry_journaled (s : State) (unit start : Nat) : Journaled s (markEntry s unit start) := jnlOpen_journaled _ _

/-- A mark is opened and ended at once (R574). -/
theorem writeMark_journaled (s : State) (unit start stop : Nat) : Journaled s (writeMark s unit start stop) := by
  have hopen := markEntry_journaled s unit start
  unfold writeMark
  dsimp only
  split
  · exact hopen.trans (jnlFinish_journaled _ _ _ _ _ _)
  · exact hopen

end Sys2Proof.Machine
end

section
/-! SUPPORT. Sensors, supplies, the estimator's window and the monitor chain (R710 to R716, R718 to R735). Settles O53. -/

namespace Sys2Proof.Machine

-- ## Fields written one after the other

/-- A field that one of the steps writes and the others leave. -/
theorem getF_foldl_range_same {g : State → Nat → State} {f : Fld} {i n v : Nat} (hi : i < n) (hset : ∀ t, getF (g t i) f = v)
    (hkeep : ∀ t j, j ≠ i → getF (g t j) f = getF t f) (s : State) : getF ((List.range n).foldl g s) f = v := by
  induction n with
  | zero => omega
  | succ n ih =>
    rw [List.range_succ, List.foldl_append, List.foldl_cons, List.foldl_nil]
    by_cases h : n = i
    · rw [h, hset]
    · rw [hkeep _ _ h, ih (by omega)]

-- ## The sensors (R710, R711)

theorem otpWord_setF (s : State) {f : Fld} (v : Nat) (h : ∀ w, (F.MSH_OTP_SH_SHADOW w).key ≠ f.key) :
    otpWord (setF s f v) = otpWord s := by
  simp only [otpWord, getF_setF_other _ _ (h _)]

/-- A sensor's valid reading is shown. -/
def sensed (raw : List Int) (s t : State) (i : Nat) : State :=
  setF (setF t (F.CPM_TEMP_TEMP i) (trimmed s i (raw.getD i 0)).toNat) (F.CPM_TEMP_VALID i) 1

theorem otpWord_sensed (raw : List Int) (s t : State) {i : Nat} (hi : i < 8) : otpWord (sensed raw s t i) = otpWord t := by
  have htemp : ∀ w, (F.MSH_OTP_SH_SHADOW w).key ≠ (F.CPM_TEMP_TEMP i).key := by
    intro w
    simp only [Fld.key, F.MSH_OTP_SH_SHADOW, F.CPM_TEMP_TEMP]
    omega
  have hvalid : ∀ w, (F.MSH_OTP_SH_SHADOW w).key ≠ (F.CPM_TEMP_VALID i).key := by
    intro w
    simp only [Fld.key, F.MSH_OTP_SH_SHADOW, F.CPM_TEMP_VALID]
    omega
  rw [sensed, otpWord_setF _ _ hvalid, otpWord_setF _ _ htemp]

theorem sampleOne_valid {raw : List Int} {s t : State} {i : Nat} (h : tempOk (trimmed s i (raw.getD i 0)) = true)
    (ho : otpWord t = otpWord s) : sampleOne raw t i = sensed raw s t i := by
  have htrim : trimmed t i (raw.getD i 0) = trimmed s i (raw.getD i 0) := by simp only [trimmed, otpBits, ho]
  have hrange : 0 ≤ trimmed s i (raw.getD i 0) ∧ trimmed s i (raw.getD i 0) < 1024 := by
    simp only [tempOk, Bool.and_eq_true, decide_eq_true_eq] at h
    omega
  simp only [sampleOne, htrim, h, hrange, and_self, if_true]
  rfl

/-- The state that shows eight valid readings. -/
def allSensed (raw : List Int) (s : State) : State := (List.range 8).foldl (sensed raw s) s

theorem foldl_sampleOne_valid {raw : List Int} {s : State} (h : ∀ i, i < 8 → tempOk (trimmed s i (raw.getD i 0)) = true) :
    (List.range 8).foldl (sampleOne raw) s = allSensed raw s := by
  have hrange : ∀ n, n ≤ 8 → (List.range n).foldl (sampleOne raw) s = (List.range n).foldl (sensed raw s) s
      ∧ otpWord ((List.range n).foldl (sensed raw s) s) = otpWord s := by
    intro n
    induction n with
    | zero => exact fun _ => ⟨rfl, rfl⟩
    | succ n ih =>
      intro hn
      obtain ⟨hsame, hotp⟩ := ih (by omega)
      simp only [List.range_succ, List.foldl_append, List.foldl_cons, List.foldl_nil]
      rw [hsame, sampleOne_valid (h n (by omega)) hotp, otpWord_sensed raw s _ (by omega)]
      exact ⟨rfl, hotp⟩
  exact (hrange 8 (Nat.le_refl 8)).1

/-- A sample leaves the fields of the other sensors and those past them. -/
theorem getF_sensed_other (raw : List Int) (s t : State) {i : Nat} {f : Fld}
    (h : f.key ≠ (F.CPM_TEMP_TEMP i).key ∧ f.key ≠ (F.CPM_TEMP_VALID i).key) : getF (sensed raw s t i) f = getF t f :=
  (getF_setF_other _ _ h.2).trans (getF_setF_other _ _ h.1)

theorem temp_allSensed {raw : List Int} {s : State} {i : Nat} (hi : i < 8)
    (h : tempOk (trimmed s i (raw.getD i 0)) = true) :
    getF (allSensed raw s) (F.CPM_TEMP_TEMP i) = (trimmed s i (raw.getD i 0)).toNat := by
  refine getF_foldl_range_same hi (fun t => ?_) (fun t j hj => getF_sensed_other raw s t ?_) s
  · rw [sensed, getF_setF_other, getF_setF_same]
    · refine Nat.mod_eq_of_lt ?_
      simp only [tempOk, Bool.and_eq_true, decide_eq_true_eq] at h
      change _ < 1024
      omega
    · simp only [Fld.key, F.CPM_TEMP_TEMP, F.CPM_TEMP_VALID]
      omega
  · simp only [Fld.key, F.CPM_TEMP_TEMP, F.CPM_TEMP_VALID]
    omega

theorem valid_allSensed (raw : List Int) (s : State) {i : Nat} (hi : i < 8) :
    getF (allSensed raw s) (F.CPM_TEMP_VALID i) = 1 := by
  refine getF_foldl_range_same (g := sensed raw s) hi (fun t => getF_setF_same _ _ _) (fun t j hj => getF_sensed_other raw s t ?_) s
  simp only [Fld.key, F.CPM_TEMP_TEMP, F.CPM_TEMP_VALID]
  omega

/-- The fields that a sample, the levels and a trip write beside those of the sensors. -/
def thermKeys : List Nat := noteKeys ++ retuneKeys ++ [F.CPM_THERM_STAT_TJ_MAX.key, F.CPM_THERM_STAT_HOT.key,
  F.CPM_THERM_STAT_TWARN.key, F.CPM_THERM_STAT_THROT_REQ.key, F.CPM_THERM_STAT_TRIPPED.key, F.CPM_PWR_MODE_BOOST_ACT.key]

/-- The sensors' fields are none of them. -/
theorem sensor_notin_thermKeys {i : Nat} (hi : i < 8) :
    (F.CPM_TEMP_TEMP i).key ∉ thermKeys ∧ (F.CPM_TEMP_VALID i).key ∉ thermKeys := by
  interval_cases i <;> decide

/-- A field of the thermal status is not a sensor's. -/
theorem getF_allSensed_other (raw : List Int) (s : State) {f : Fld} (h : 8 * 0x1120 ≤ f.key) :
    getF (allSensed raw s) f = getF s f := by
  have hkeep : ∀ n, n ≤ 8 → getF ((List.range n).foldl (sensed raw s) s) f = getF s f := by
    intro n
    induction n with
    | zero => exact fun _ => rfl
    | succ n ih =>
      intro hn
      rw [List.range_succ, List.foldl_append, List.foldl_cons, List.foldl_nil, getF_sensed_other, ih (by omega)]
      simp only [Fld.key, F.CPM_TEMP_TEMP, F.CPM_TEMP_VALID] at h ⊢
      omega
  exact hkeep 8 (Nat.le_refl 8)

-- ## TJ_MAX (R711)

/-- The largest reading of valid sensors is TJ_MAX. -/
theorem noteTj_valid {s : State} (h : ∀ i, i < 8 → getF s (F.CPM_TEMP_VALID i) = 1) :
    getF (noteTj s) F.CPM_THERM_STAT_TJ_MAX
      = ((List.range 8).map (fun i => getF s (F.CPM_TEMP_TEMP i))).foldl max 0 % 2 ^ 10 := by
  have hall : (List.range 8).filter (fun i => flagF s (F.CPM_TEMP_VALID i)) = List.range 8 :=
    List.filter_eq_self.2 (fun i hi => (flagF_iff _ _).2 (h i (List.mem_range.1 hi)))
  unfold noteTj
  simp only [hall, List.length_range, Nat.reduceLT, if_false]
  split
  · rw [getF_setF_other _ _ (by decide), getF_setF_same]
    rfl
  · rw [getF_setF_same]
    rfl

theorem getF_noteTj_other (s : State) {f : Fld} (hm : f.key ≠ F.CPM_THERM_STAT_TJ_MAX.key)
    (hh : f.key ≠ F.CPM_THERM_STAT_HOT.key) : getF (noteTj s) f = getF s f := by
  have hchoose : ∀ l, getF (chooseFrom s l).2 f = getF s f := by
    intro l
    unfold chooseFrom
    split <;> rfl
  unfold noteTj
  extract_lets ok g m
  split
  · rw [getF_setF_other _ _ hh, getF_setF_other _ _ hm]
    rfl
  · have hkept := hchoose (ok.filter (fun i => getF s (F.CPM_TEMP_TEMP i) == m))
    split
    · rename_i heq
      rw [heq] at hkept
      rw [getF_setF_other _ _ hh, getF_setF_other _ _ hm, hkept]
    · rename_i heq
      rw [heq] at hkept
      rw [getF_setF_other _ _ hm, hkept]

-- ## The thermal levels (R718, R719)

/-- A level that is reached raises its flag, with its interrupt and log entry. -/
theorem level_noted (s : State) (f : Fld) (src sev : Nat) :
    Noted (setF s f 1) (logEvt (thermIrq (setF s f 1)) src sev 15 0xFF 0 0 0 0) :=
  (irqIf_noted _ _ _).trans (logEvt_noted _ _ _ _ _ _ _ _ _)

/-- TWARN from 328 on. -/
def warned (s : State) (tj : Nat) : State :=
  if 328 ≤ tj && !flagF s F.CPM_THERM_STAT_TWARN then
    logEvt (thermIrq (setF s F.CPM_THERM_STAT_TWARN 1)) 0x31 0 15 0xFF 0 0 0 0
  else s

theorem thermLevels_eq (s : State) (tj : Nat) : thermLevels s tj
    = if 338 ≤ tj && !flagF (warned s tj) F.CPM_THERM_STAT_THROT_REQ then
        logEvt (thermIrq (setF (warned s tj) F.CPM_THERM_STAT_THROT_REQ 1)) 0x32 1 15 0xFF 0 0 0 0
      else if tj < 332 then setF (warned s tj) F.CPM_THERM_STAT_THROT_REQ 0
      else warned s tj := rfl

theorem getF_warned (s : State) (tj : Nat) :
    getF (warned s tj) F.CPM_THERM_STAT_TWARN = if 328 ≤ tj then 1 else getF s F.CPM_THERM_STAT_TWARN := by
  unfold warned
  by_cases hw : getF s F.CPM_THERM_STAT_TWARN = 1
  · rw [if_neg (by simp [flagF, hw]), hw, ite_self]
  by_cases ht : 328 ≤ tj
  · rw [if_pos (by simp [flagF, hw, ht]), if_pos ht, (level_noted _ _ _ _).1 _ (by decide), getF_setF_same]
    rfl
  · rw [if_neg (by simp [ht]), if_neg ht]

theorem getF_warned_other (s : State) (tj : Nat) {f : Fld} (hf : f.key ∉ noteKeys) (hw : f.key ≠ F.CPM_THERM_STAT_TWARN.key) :
    getF (warned s tj) f = getF s f := by
  unfold warned
  split
  · rw [(level_noted _ _ _ _).1 _ hf, getF_setF_other _ _ hw]
  · rfl

/-- THROT_REQ from 338 on, until below 332. -/
theorem throt_thermLevels (s : State) (tj : Nat) : getF (thermLevels s tj) F.CPM_THERM_STAT_THROT_REQ
    = if 338 ≤ tj then 1 else if tj < 332 then 0 else getF s F.CPM_THERM_STAT_THROT_REQ := by
  have hkept := getF_warned_other s tj (f := F.CPM_THERM_STAT_THROT_REQ) (by decide) (by decide)
  rw [thermLevels_eq]
  by_cases ht : 338 ≤ tj
  · rw [if_pos ht]
    by_cases hr : getF s F.CPM_THERM_STAT_THROT_REQ = 1
    · rw [if_neg (by simp [flagF, hkept, hr]), if_neg (by omega), hkept, hr]
    · rw [if_pos (by simp [flagF, hkept, hr, ht]), (level_noted _ _ _ _).1 _ (by decide), getF_setF_same]
      rfl
  · rw [if_neg (by simp [ht]), if_neg ht]
    split
    · rw [getF_setF_same]
      rfl
    · exact hkept

theorem getF_thermLevels_other (s : State) (tj : Nat) {f : Fld} (hf : f.key ∉ noteKeys)
    (hr : f.key ≠ F.CPM_THERM_STAT_THROT_REQ.key) : getF (thermLevels s tj) f = getF (warned s tj) f := by
  rw [thermLevels_eq]
  split
  · rw [(level_noted _ _ _ _).1 _ hf, getF_setF_other _ _ hr]
  · split
    · exact getF_setF_other _ _ hr
    · rfl

/-- A trip sets TRIPPED and ends Boost; the switch that it makes due retunes. -/
theorem getF_thermTrip (s : State) {f : Fld} (hn : f.key ∉ noteKeys) (hr : f.key ∉ retuneKeys) :
    getF (thermTrip s) f = getF (setF (setF s F.CPM_THERM_STAT_TRIPPED 1) F.CPM_PWR_MODE_BOOST_ACT 0) f := by
  unfold thermTrip
  extract_lets t cur s1 e s0 s2
  have h0 : getF s0 f = getF s1 f := (logEvt_noted _ _ _ _ _ _ _ _ _).1 f hn
  clear_value s0
  split
  · exact h0
  · exact (getF_retuneTo_other _ _ hr).trans h0

/-- TRIPPED from 358 on. -/
def tripped (s : State) (tj : Nat) : State := if 358 ≤ tj && !flagF s F.CPM_THERM_STAT_TRIPPED then thermTrip s else s

theorem getF_tripped (s : State) (tj : Nat) :
    getF (tripped s tj) F.CPM_THERM_STAT_TRIPPED = if 358 ≤ tj then 1 else getF s F.CPM_THERM_STAT_TRIPPED := by
  unfold tripped
  by_cases hp : getF s F.CPM_THERM_STAT_TRIPPED = 1
  · rw [if_neg (by simp [flagF, hp]), hp, ite_self]
  by_cases ht : 358 ≤ tj
  · rw [if_pos (by simp [flagF, hp, ht]), if_pos ht, getF_thermTrip s (by decide) (by decide),
      getF_setF_other _ _ (by decide), getF_setF_same]
    rfl
  · rw [if_neg (by simp [ht]), if_neg ht]

theorem getF_tripped_other (s : State) (tj : Nat) {f : Fld} (hn : f.key ∉ noteKeys) (hr : f.key ∉ retuneKeys)
    (ht : f.key ≠ F.CPM_THERM_STAT_TRIPPED.key) (hb : f.key ≠ F.CPM_PWR_MODE_BOOST_ACT.key) :
    getF (tripped s tj) f = getF s f := by
  unfold tripped
  split
  · rw [getF_thermTrip s hn hr, getF_setF_other _ _ hb, getF_setF_other _ _ ht]
  · rfl

/-- A sample below the shutdown temperature. -/
theorem exec_tempSample {raw : List Int} {s : State} {m : Nat} (hm : monitorsRun s = true)
    (hvalid : ∀ i, i < 8 → tempOk (trimmed s i (raw.getD i 0)) = true)
    (htj : getF (noteTj (allSensed raw s)) F.CPM_THERM_STAT_TJ_MAX = m) (hcool : m < 368) :
    exec (.tempSample raw) s = .next (tripped (thermLevels (noteTj (allSensed raw s)) m) m) := by
  have hhot : decide (368 ≤ m) = false := by simpa using hcool
  change execTempSample raw s = _
  simp only [execTempSample, hm, foldl_sampleOne_valid hvalid, htj, hhot, Bool.not_true, Bool.false_and,
    Bool.false_eq_true, if_false]
  rfl

/-- TEMP_SAMPLE with valid readings. -/
theorem tempSample_shows {raw : List Int} {s : State} {m : Nat} (hm : monitorsRun s = true)
    (hvalid : ∀ i, i < 8 → tempOk (trimmed s i (raw.getD i 0)) = true)
    (hmax : m = ((List.range 8).map (fun i => (trimmed s i (raw.getD i 0)).toNat)).foldl max 0) (hcool : m < 368) :
    ∃ t, exec (.tempSample raw) s = .next t
      ∧ (∀ i, i < 8 → (getF t (F.CPM_TEMP_TEMP i) : Int) = trimmed s i (raw.getD i 0) ∧ getF t (F.CPM_TEMP_VALID i) = 1)
      ∧ getF t F.CPM_THERM_STAT_TJ_MAX = m
      ∧ getF t F.CPM_THERM_STAT_TWARN = (if 328 ≤ m then 1 else getF s F.CPM_THERM_STAT_TWARN)
      ∧ getF t F.CPM_THERM_STAT_THROT_REQ = (if 338 ≤ m then 1 else if m < 332 then 0 else getF s F.CPM_THERM_STAT_THROT_REQ)
      ∧ getF t F.CPM_THERM_STAT_TRIPPED = (if 358 ≤ m then 1 else getF s F.CPM_THERM_STAT_TRIPPED) := by
  set v := allSensed raw s with hv
  have htemps : (List.range 8).map (fun i => getF v (F.CPM_TEMP_TEMP i))
      = (List.range 8).map (fun i => (trimmed s i (raw.getD i 0)).toNat) :=
    List.map_congr_left (fun i hi => temp_allSensed (List.mem_range.1 hi) (hvalid i (List.mem_range.1 hi)))
  have htj : getF (noteTj v) F.CPM_THERM_STAT_TJ_MAX = m := by
    rw [noteTj_valid (fun i hi => valid_allSensed raw s hi), htemps, ← hmax]
    exact Nat.mod_eq_of_lt (Nat.lt_trans hcool (by decide))
  have hsensor : ∀ f : Fld, f.key ∉ thermKeys → getF (tripped (thermLevels (noteTj v) m) m) f = getF v f := by
    intro f hf
    simp only [thermKeys, List.mem_append, List.mem_cons, List.not_mem_nil, or_false, not_or] at hf
    obtain ⟨⟨hn, hr⟩, hj, hh, hw, hq, hp, hb⟩ := hf
    rw [getF_tripped_other _ _ hn hr hp hb, getF_thermLevels_other _ _ hn hq, getF_warned_other _ _ hn hw,
      getF_noteTj_other _ hj hh]
  refine ⟨_, exec_tempSample hm hvalid htj hcool, fun i hi => ⟨?_, ?_⟩, ?_, ?_, ?_, ?_⟩
  · have hrange := hvalid i hi
    rw [hsensor _ (sensor_notin_thermKeys hi).1, temp_allSensed hi hrange]
    simp only [tempOk, Bool.and_eq_true, decide_eq_true_eq] at hrange
    omega
  · rw [hsensor _ (sensor_notin_thermKeys hi).2, valid_allSensed raw s hi]
  · rw [getF_tripped_other _ _ (by decide) (by decide) (by decide) (by decide), getF_thermLevels_other _ _ (by decide) (by decide),
      getF_warned_other _ _ (by decide) (by decide), htj]
  · rw [getF_tripped_other _ _ (by decide) (by decide) (by decide) (by decide), getF_thermLevels_other _ _ (by decide) (by decide),
      getF_warned, getF_noteTj_other _ (by decide) (by decide), getF_allSensed_other raw s (by decide)]
  · rw [getF_tripped_other _ _ (by decide) (by decide) (by decide) (by decide), throt_thermLevels,
      getF_noteTj_other _ (by decide) (by decide), getF_allSensed_other raw s (by decide)]
  · rw [getF_tripped, getF_thermLevels_other _ _ (by decide) (by decide), getF_warned_other _ _ (by decide) (by decide),
      getF_noteTj_other _ (by decide) (by decide), getF_allSensed_other raw s (by decide)]

end Sys2Proof.Machine
end

section
/-! SUPPORT. Supply dips, the monitors, the estimator's window and the monitor chain (R712 to R714, R723, R728 to R735).
Settles O53. -/

namespace Sys2Proof.Machine

-- ## Supply dips (R256, R714)

/-- A dip as it is noted, before its log entry. -/
def dipNoted (rail : Nat) (s : State) : State :=
  let start := if flagF s F.REG_STAT_P_DIP then s.clk.dipFrom else now s
  { setF (setF (setF (setF s F.CPM_SUP_BELOW_WARN 1) F.CPM_SUP_DIP 1) F.CPM_SUP_RAIL (b2n (rail != 0))) F.REG_STAT_P_DIP 1 with
    clk := { s.clk with dipFrom := start, supReturn := none }, est := { s.est with taint := true } }

/-- SUPPLY_BELOW_WARN notes a dip, logs it and raises its interrupt. -/
theorem exec_supplyBelowWarn {s : State} (rail : Nat) (ha : aonState s = 0) (hp : s.clk.powerOk = true)
    (hb : flagF s F.CPM_SUP_BELOW_WARN = false) :
    ∃ t, exec (.supplyBelowWarn rail) s = .next t ∧ Noted (dipNoted rail s) t := by
  refine ⟨?t, ?exec, ?noted⟩
  case exec =>
    change execSupplyBelowWarn rail s = _
    rw [execSupplyBelowWarn, if_neg (by simp [ha, hp, hb])]
  case noted => exact (logEvt_noted _ _ _ _ _ _ _ _ _).trans (irqIf_noted _ _ _)

theorem getF_dipNoted (rail : Nat) (s : State) : getF (dipNoted rail s) F.CPM_SUP_BELOW_WARN = 1
    ∧ getF (dipNoted rail s) F.CPM_SUP_DIP = 1 ∧ getF (dipNoted rail s) F.REG_STAT_P_DIP = 1
    ∧ getF (dipNoted rail s) F.CPM_SUP_RAIL = b2n (rail != 0) := by
  simp (disch := decide) only [dipNoted, getF_mk, getF_setF_other, getF_setF_same]
  exact ⟨rfl, rfl, rfl, by cases rail != 0 <;> rfl⟩

theorem exec_supplyReturn (s : State) : exec .supplyReturn s = .next (if flagF s F.CPM_SUP_BELOW_WARN = true then
    { setF s F.CPM_SUP_BELOW_WARN 0 with clk := { s.clk with supReturn := some (now s) } } else s) :=
  (apply_ite _ _ _ _).symm

theorem exec_supplyPauseEnd_early {s : State} {back : Nat} (hb : s.clk.supReturn = some back) (h : now s < back + 2000) :
    exec .supplyPauseEnd s = .next s := by
  change execSupplyPauseEnd s = _
  simp [execSupplyPauseEnd, hb, Nat.not_le.2 h]

/-- 2,000 ticks after the supply's return the pause ends: the DIP mark is written, and the dip counted. -/
theorem exec_supplyPauseEnd_due {s : State} {back : Nat} (hb : s.clk.supReturn = some back)
    (hd : flagF s F.REG_STAT_P_DIP = true) (ha : aonState s = 0) (h : back + 2000 ≤ now s) :
    ∃ u, exec .supplyPauseEnd s = .next (incF u F.JNL_DIP_DIP_CNT 1)
      ∧ Journaled (setF { s with clk := { s.clk with supReturn := none } } F.REG_STAT_P_DIP 0) u := by
  refine ⟨?u, ?exec, ?marked⟩
  case exec =>
    change execSupplyPauseEnd s = _
    simp only [execSupplyPauseEnd, hb]
    rw [if_pos (by simp [hd, ha, h])]
  case marked =>
    exact (Journaled.of_noted ((logEvt_noted _ _ _ _ _ _ _ _ _).trans (jnlLog_noted _ _ _ _))).trans (writeMark_journaled _ _ _ _)

theorem supplyPauseEnd_ends {s : State} {back : Nat} (hb : s.clk.supReturn = some back)
    (hd : flagF s F.REG_STAT_P_DIP = true) (ha : aonState s = 0) (h : back + 2000 ≤ now s) :
    ∃ t, exec .supplyPauseEnd s = .next t ∧ getF t F.REG_STAT_P_DIP = 0 ∧ t.clk.supReturn = none
      ∧ getF t F.JNL_DIP_DIP_CNT = getF (incF s F.JNL_DIP_DIP_CNT 1) F.JNL_DIP_DIP_CNT := by
  obtain ⟨u, hexec, hmarked⟩ := exec_supplyPauseEnd_due hb hd ha h
  refine ⟨_, hexec, ?_, ?_, ?_⟩
  · rw [incF, getF_setF_other _ _ (by decide), hmarked.1 _ (by decide), getF_setF_same]
    rfl
  · exact congrArg Clocks.supReturn hmarked.clk
  · rw [incF, incF, getF_setF_same, getF_setF_same, hmarked.1 _ (by decide), getF_setF_other _ _ (by decide), getF_mk]

-- ## The monitors (R712, R713)

theorem vmonRefresh_shows (l : List Nat) {s : State} (hm : monitorsRun s = true) :
    ∃ t, exec (.vmonRefresh l) s = .next t ∧ ∀ i, i < 4 → getF t (F.CPM_VMON_MV i) = l.getD i 0 % 2 ^ (F.CPM_VMON_MV i).w := by
  refine ⟨_, if_pos hm, fun i hi => getF_foldl_setF (f := F.CPM_VMON_MV) (fun i j hj => ?_) (fun j => l.getD j 0) (List.mem_range.2 hi) s⟩
  simp only [Fld.key, F.CPM_VMON_MV]
  omega

theorem pmonRefresh_shows (l : List Nat) {s : State} (hm : monitorsRun s = true) :
    ∃ t, exec (.pmonRefresh l) s = .next t
      ∧ ∀ i, i < 8 → getF t (F.CPM_PMON_COUNT i) = l.getD i 0 % 2 ^ (F.CPM_PMON_COUNT i).w := by
  refine ⟨_, if_pos hm, fun i hi => getF_foldl_setF (f := F.CPM_PMON_COUNT) (fun i j hj => ?_) (fun j => l.getD j 0) (List.mem_range.2 hi) s⟩
  simp only [Fld.key, F.CPM_PMON_COUNT]
  omega

-- ## The estimator's window (R729 to R735)

/-- What a window's close does not touch: the measured current and the requests. -/
def WindowKeeps (s t : State) : Prop := getF t F.CPM_ISENSE_IA = getF s F.CPM_ISENSE_IA ∧ t.reqs = s.reqs

theorem WindowKeeps.refl (s : State) : WindowKeeps s s := ⟨rfl, rfl⟩

theorem WindowKeeps.trans {s t u : State} (h : WindowKeeps s t) (g : WindowKeeps t u) : WindowKeeps s u :=
  ⟨g.1.trans h.1, g.2.trans h.2⟩

theorem WindowKeeps.ite {s a b : State} {c : Prop} [Decidable c] (h : WindowKeeps s a) (g : WindowKeeps s b) :
    WindowKeeps s (if c then a else b) := by split <;> assumption

theorem WindowKeeps.of_noted {s t : State} (h : Noted s t) : WindowKeeps s t := ⟨h.1 _ (by decide), h.reqs⟩

theorem setF_windowKeeps (s : State) {f : Fld} (v : Nat) (h : F.CPM_ISENSE_IA.key ≠ f.key) : WindowKeeps s (setF s f v) :=
  ⟨getF_setF_other _ _ h, rfl⟩

theorem divSt_windowKeeps (s : State) (n d : Nat) : WindowKeeps s (divSt s n d) := .ite (.refl s) ⟨rfl, rfl⟩

theorem noteGuard_windowKeeps (s : State) (b : Nat) (good : Bool) : WindowKeeps s (noteGuard s b good) :=
  have hshown := (setF_windowKeeps s (f := F.CPM_EST_STAT_BIN) b (by decide)).trans
    (setF_windowKeeps _ (f := F.CPM_EST_STAT_GUARD) (b2n (!good)) (by decide))
  .ite hshown (hshown.trans (setF_windowKeeps _ _ (by decide)))

/-- The calibration of one of the four bins lies below the measured current. -/
theorem calibrate_windowKeeps (s : State) {b : Nat} (measured : Nat) (hb : b < 4) :
    WindowKeeps s (calibrate s b measured) := by
  have hk : F.CPM_ISENSE_IA.key ≠ (F.CPM_EST_K_K b).key := by
    simp only [Fld.key, F.CPM_ISENSE_IA, F.CPM_EST_K_K]
    omega
  have hw : F.CPM_ISENSE_IA.key ≠ (F.CPM_EST_K_WINDOWS b).key := by
    simp only [Fld.key, F.CPM_ISENSE_IA, F.CPM_EST_K_WINDOWS]
    omega
  have hratio : WindowKeeps s (ratioSt s measured) := .ite ⟨rfl, rfl⟩ (divSt_windowKeeps _ _ _)
  have hround : ∀ t d, WindowKeeps t (calRound t d).2 := by
    intro t d
    unfold calRound
    split <;> exact ⟨rfl, rfl⟩
  unfold calibrate
  extract_lets s1 s2
  have hstep : WindowKeeps s s1 := (hratio.trans (hround _ _)).trans (setF_windowKeeps _ _ hk)
  have h2 : WindowKeeps s s2 := hstep.trans (setF_windowKeeps _ _ hw)
  exact .ite ((h2.trans (setF_windowKeeps _ _ (by decide))).trans (.of_noted (logEvt_noted _ _ _ _ _ _ _ _ _))) h2

theorem addEnergy_windowKeeps (s : State) {lo hi : Fld} (key x : Nat) (hlo : F.CPM_ISENSE_IA.key ≠ lo.key)
    (hhi : F.CPM_ISENSE_IA.key ≠ hi.key) : WindowKeeps s (addEnergy s lo hi key x) :=
  (setF_windowKeeps s _ hlo).trans ((setF_windowKeeps _ _ hhi).trans ⟨rfl, rfl⟩)

theorem addShare_windowKeeps (s : State) (k x : Nat) : WindowKeeps s (addShare s k x) := by
  refine .ite (.refl s) ((addEnergy_windowKeeps s _ _ ?_ ?_).trans (addEnergy_windowKeeps _ _ _ ?_ ?_))
  all_goals
    simp only [Fld.key, F.CPM_ISENSE_IA, F.CPM_ECLASS_LO_E_LO, F.CPM_ECLASS_HI_E_HI, F.PART_ENERGY_LO_E_LO, F.PART_ENERGY_HI_E_HI]
    omega

theorem shareOut_windowKeeps (s : State) (e : Nat) : WindowKeeps s (shareOut s e) := by
  unfold shareOut
  extract_lets t s0 f
  have h0 : WindowKeeps s s0 :=
    addEnergy_windowKeeps s (lo := F.CPM_ENERGY_LO_E_LO) (hi := F.CPM_ENERGY_HI_E_HI) 0 e (by decide) (by decide)
  refine .ite (h0.trans (addShare_windowKeeps _ _ _)) (h0.trans ?_)
  exact List.foldlRecOn (motive := fun p : Nat × State => WindowKeeps s0 p.2) parties _ ⟨rfl, rfl⟩
    (fun p hp i _ => hp.trans (addShare_windowKeeps _ _ _))

theorem noteAverage_windowKeeps (s : State) : WindowKeeps s (noteAverage s) := by
  unfold noteAverage
  extract_lets h n a s0 p s1
  have h0 : WindowKeeps s s0 := divSt_windowKeeps _ _ _
  have hfree : WindowKeeps s (if a < 4096 then s0 else (takeFree s0 4096).2) := .ite h0 (h0.trans ⟨rfl, rfl⟩)
  have h1 : WindowKeeps s s1 := hfree.trans (setF_windowKeeps _ (f := F.CPM_EST_STAT_P_AVG) p (by decide))
  exact .ite ((h1.trans (setF_windowKeeps _ _ (by decide))).trans
    (.of_noted ((logEvt_noted _ _ _ _ _ _ _ _ _).trans (irqIf_noted _ _ _)))) h1

/-- A window's close ends its events and begins the next window. -/
theorem closeWith_closes (s0 s : State) (raw e measured : Nat) : WindowKeeps s (closeWith s0 s raw e measured)
    ∧ (closeWith s0 s raw e measured).energy = [] ∧ (closeWith s0 s raw e measured).est.win = now s0 / 1000
    ∧ (closeWith s0 s raw e measured).est.cyc0 = s0.cad.cycles := by
  have hbin : estBin raw < 4 := Nat.lt_succ_of_le (Nat.min_le_left _ _)
  unfold closeWith
  extract_lets b s1 s2 est s3
  have h1 : WindowKeeps s s1 := noteGuard_windowKeeps _ _ _
  have h2 : WindowKeeps s s2 := .ite h1 (h1.trans (calibrate_windowKeeps _ _ hbin))
  have hkept : WindowKeeps s2 { s2 with est := { s2.est with hist := (e :: s2.est.hist).take 128 } } := ⟨rfl, rfl⟩
  have h3 : WindowKeeps s s3 := (h2.trans (hkept.trans (shareOut_windowKeeps _ _))).trans (noteAverage_windowKeeps _)
  clear_value s3
  exact ⟨h3.trans ⟨rfl, rfl⟩, rfl, rfl, rfl⟩

theorem closeEst_closes (s : State) (measured : Nat) : WindowKeeps s (closeEst s measured)
    ∧ (closeEst s measured).energy = [] ∧ (closeEst s measured).est.win = now s / 1000
    ∧ (closeEst s measured).est.cyc0 = s.cad.cycles := by
  unfold closeEst
  extract_lets raw s1 b
  obtain ⟨hkeeps, henergy, hwin, hcyc⟩ := closeWith_closes s (divSt s1 (calNum s b raw) (calDen s b)) raw
    (divVal s1 (calNum s b raw) (calDen s b)) measured
  exact ⟨((divSt_windowKeeps _ _ _).trans (divSt_windowKeeps _ _ _)).trans hkeeps, henergy, hwin, hcyc⟩

theorem exec_estimatorWindow_open {s : State} (e ma : Nat) (h : now s / 1000 ≤ s.est.win) :
    exec (.estimatorWindow e ma) s = .next s := if_pos (by simp [h])

theorem exec_estimatorWindow_closes {s : State} (e ma : Nat) (ha : aonState s = 0)
    (hs : flagF s F.CPM_CLK_STAT_SAFE = false) (h : s.est.win < now s / 1000) :
    exec (.estimatorWindow e ma) s = .next (closeEst (setF s F.CPM_ISENSE_IA (min 65535 ma)) e) :=
  if_neg (by simp [ha, hs, h])

theorem estimatorWindow_shows {s : State} (e ma : Nat) (ha : aonState s = 0) (hs : flagF s F.CPM_CLK_STAT_SAFE = false)
    (h : s.est.win < now s / 1000) : ∃ t, exec (.estimatorWindow e ma) s = .next t ∧ t.est.win = now s / 1000 ∧ t.energy = []
      ∧ t.est.cyc0 = s.cad.cycles ∧ getF t F.CPM_ISENSE_IA = min 65535 ma ∧ t.reqs = s.reqs := by
  obtain ⟨⟨hia, hreqs⟩, henergy, hwin, hcyc⟩ := closeEst_closes (setF s F.CPM_ISENSE_IA (min 65535 ma)) e
  refine ⟨_, exec_estimatorWindow_closes e ma ha hs h, hwin, henergy, hcyc, ?_, hreqs⟩
  rw [hia, getF_setF_same]
  exact Nat.mod_eq_of_lt (Nat.lt_succ_of_le (Nat.min_le_left _ _))

-- ## The monitor chain (R723, R724, R728)

theorem exec_monitorToken {s : State} (sweep : Nat) (ha : aonState s = 0) :
    let u := setF { s with clk := { s.clk with tokenAt := now s } } F.CPM_MON_STAT_LAST_SWEEP sweep
    exec (.monitorToken sweep) s = .next (emit u (.token (chainRecord (chainBody u sweep)))) := by
  change execMonitorToken sweep s = _
  rw [execMonitorToken, if_neg (by simp [ha]), if_pos ha]

theorem exec_noToken_early {s : State} (h : now s < s.clk.tokenAt + 1000000) : exec .noToken s = .next s :=
  if_neg (by simp [Nat.not_le.2 h])

theorem exec_noToken_due {s : State} (ha : aonState s = 0) (h : s.clk.tokenAt + 1000000 ≤ now s) :
    ∃ t, exec .noToken s = .next t ∧ getF t F.CPM_MON_STAT_NO_TOKEN = 1 ∧ t.clk.tokenAt = now s := by
  refine ⟨_, if_pos (by simp [ha, h]), ?_, ?_⟩
  · rw [(logEvt_noted _ _ _ _ _ _ _ _ _).1 _ (by decide), getF_setF_same]
    rfl
  · rw [(logEvt_noted _ _ _ _ _ _ _ _ _).clk]
    rfl

/-- Settles O53. -/
theorem monitorsShowTheirValues : Obligations.MonitorsShowTheirValues := by
  refine ⟨fun raw s hm hvalid hcool => tempSample_shows hm hvalid rfl hcool, fun rail s ha hp hb => ?_,
    fun s => ⟨fun hb => ?_, fun hb => ?_⟩, fun back s hb hd ha => ⟨exec_supplyPauseEnd_early hb, supplyPauseEnd_ends hb hd ha⟩,
    fun l s hm => ⟨vmonRefresh_shows l hm, pmonRefresh_shows l hm⟩,
    fun e ma s ha hs => ⟨estimatorWindow_shows e ma ha hs, exec_estimatorWindow_open e ma⟩,
    fun sweep s ha => ⟨exec_monitorToken sweep ha, exec_noToken_early, exec_noToken_due ha⟩⟩
  · obtain ⟨t, hexec, hnoted⟩ := exec_supplyBelowWarn rail ha hp hb
    obtain ⟨hwarn, hdip, hpause, hrail⟩ := getF_dipNoted rail s
    refine ⟨t, hexec, ?_, ?_, ?_, ?_, ?_, hnoted.reqs⟩
    · rw [hnoted.1 _ (by decide), hwarn]
    · rw [hnoted.1 _ (by decide), hdip]
    · rw [hnoted.1 _ (by decide), hpause]
    · rw [hnoted.1 _ (by decide), hrail]
    · rw [hnoted.clk]
      rfl
  · rw [exec_supplyReturn, if_pos hb]
  · rw [exec_supplyReturn, if_neg (by simp [hb])]

end Sys2Proof.Machine
end

section
/-! SUPPORT. The power commands, Doze and the wakes (R689 to R691, R695 to R703, R737, R740, R741, R744). Settles O51. -/

namespace Sys2Proof.Machine

-- ## The rows of the power commands (R703)

/-- The command that the supervisor's mailbox issues with a code. -/
def powerRow (c : CmdSrc) (k : Nat) : Option Instr :=
  if k = 0x20 then some (.pwrIdle c) else if k = 0x21 then some (.pwrActive c)
  else if k = 0x22 then some (.pwrDoze c) else if k = 0x23 then some (.pwrOff c) else if k = 0x24 then some (.pwrStepSet c)
  else if k = 0x28 then some (.pwrCap c) else if k = 0x29 then some (.pwrFixed c)
  else if k = 0x2A then some (.pwrBoost c) else none

theorem exec_powerRow {c : CmdSrc} {k : Nat} {i : Instr} (h : powerRow c k = some i) :
    ∃ f, ∀ s, exec i s = .next (runCmd c (fun x => x == k) (powerCmd f) s) := by
  unfold powerRow at h
  split_ifs at h <;> (subst k; obtain rfl := Option.some.inj h; exact ⟨_, fun _ => rfl⟩)

theorem powerCmd_foreign (f : State → CmdRun → State) (s : State) {r : CmdRun} (h : r.src ≠ .supervisor) :
    powerCmd f s r = refuseCmd s r 1 := if_pos (by simpa using h)

theorem powerCmd_shutdown (f : State → CmdRun → State) {s : State} {r : CmdRun} (h : r.src = .supervisor)
    (hs : shdn s = true) : powerCmd f s r = refuseCmd s r 3 := (if_neg (by simp [h])).trans (if_pos hs)

theorem powerCmd_allowed (f : State → CmdRun → State) {s : State} {r : CmdRun} (h : r.src = .supervisor ∧ shdn s = false) :
    powerCmd f s r = f s r := (if_neg (by simp [h.1])).trans (if_neg (by simp [h.2]))

/-- An allowed command takes the effect of its row. -/
theorem exec_powerCmd {c : CmdSrc} {row : Nat → Bool} {f : State → CmdRun → State} {i : Instr} {r : CmdRun} {s u : State}
    (hrow : exec i s = .next (runCmd c row (powerCmd f) s)) (htake : takeCmd s c row = some (r, u))
    (hsup : r.src = .supervisor ∧ shdn u = false) : exec i s = .next (f u r) :=
  (exec_of_take hrow htake).trans (congrArg _ (powerCmd_allowed f hsup))

-- ## PWR_DOZE (R691)

/-- The machine with the wake enables of PWR_DOZE, OPEN closed, draining until the limit. -/
def dozing (s : State) (w : Nat) : State :=
  let a := cmdArg w 0
  let s1 := setF (setF s F.CPM_AON_WAKE_EN_TMR_EN a) F.CPM_AON_WAKE_EN_LANE_EN (a / 2)
  let s2 := setF (setF s1 F.CPM_AON_WAKE_EN_THERM_EN (a / 4)) F.CPM_AON_WAKE_EN_DEBUG_EN (a / 8)
  let s3 := setF (setF s2 F.CPM_AON_TMR_PERIODS (cmdArg w 1)) F.REG_CTL_OPEN 0
  { setF s3 F.CPM_PWR_STAT_STATE 2 with
    clk := { s3.clk with dozePrior := pwrState s, dozeBy := now s + 65536 * getF s F.CPM_PWR_CTL_DOZE_TMO } }

/-- With nothing that combines, nothing is written back. -/
theorem doPwrDoze_admitted {u : State} (r : CmdRun) (hok : dozeReason u = none) (hcomb : u.comb = []) :
    doPwrDoze u r = keepRun (dozing u r.words) r [] := by
  have hnone : (dozing u r.words).comb = [] := hcomb
  unfold doPwrDoze
  rw [hok]
  change keepRun ((dozing u r.words).comb.foldl closeComb (dozing u r.words)) r [] = _
  rw [hnone]
  rfl

/-- The fields of the always-on domain and of the power state while the machine drains. -/
theorem getF_dozing (s : State) (w : Nat) :
    let t := dozing s w
    let a := cmdArg w 0
    pwrState t = 2 ∧ getF t F.REG_CTL_OPEN = 0 ∧ getF t F.CPM_AON_WAKE_EN_TMR_EN = bits a 0 1
    ∧ getF t F.CPM_AON_WAKE_EN_LANE_EN = bits a 1 1 ∧ getF t F.CPM_AON_WAKE_EN_THERM_EN = bits a 2 1
    ∧ getF t F.CPM_AON_WAKE_EN_DEBUG_EN = bits a 3 1 ∧ getF t F.CPM_AON_TMR_PERIODS = cmdArg w 1 := by
  have hperiods : cmdArg w 1 < 2 ^ 32 := bits_lt _ _ _
  intro t a
  simp (disch := decide) only [t, a, dozing, pwrState, getF_mk, getF_setF_other, getF_setF_same]
  refine ⟨rfl, rfl, ?_, rfl, rfl, rfl, Nat.mod_eq_of_lt hperiods⟩
  rw [bits, Nat.pow_zero, Nat.div_one]
  rfl

-- ## The entry of Doze (R691)

theorem trcDrain_noted (s : State) : Noted s (trcDrain s) := by
  unfold trcDrain
  split
  · exact .refl s
  next r q _ =>
    extract_lets stop trc wrap c s1 s2
    have hlost : Noted s { s with trc := { s.trc with queue := q } } := .of_regs rfl rfl
    have hkept : Noted s s1 := .of_regs rfl rfl
    have hwrap : Noted s s2 := hkept.trans (.ite (setF_noted s1 F.TRC_STAT_WRAPPED 1 (by decide)) (.refl s1))
    exact .ite (hlost.trans (incF_noted _ F.TRC_CNT_LOST_CNT 1 (by decide)))
      (.ite (hwrap.trans ((setF_noted s2 F.TRC_STAT_FULL 1 (by decide)).trans (irqIf_noted ..))) hwrap)

theorem linksDown_keeps (s : State) {f : Fld} (hf : f.key ≠ F.MESH_STAT_UP.key) : getF (linksDown s) f = getF s f := by
  refine (getF_setF_other _ _ hf).trans ?_
  refine foldl_related (R := fun s t => getF t f = getF s f) (fun _ => rfl) (fun h g => g.trans h) (fun t id => ?_) _ s
  split
  · exact getF_of_regs (channelDown_regs t _ _) f
  · rfl

/-- Before its links and clocks stop: the trace is drained and the tick of the entry noted. -/
def sleepNoted (s : State) : State :=
  let s1 := trcPush s (trcRecord s 2 s.clk.dozePrior (curStep s) (now s) 0)
  let s2 := (List.range 16).foldl (fun t _ => trcDrain t) s1
  let s3 := setF (setF s2 F.CPM_SLEEP_ENTRY_LO_VAL (now s)) F.CPM_SLEEP_ENTRY_HI_VAL (now s / 2 ^ 32)
  if s.cad.st = .locked then irqIf s3 F.CPM_CAD_CTL_IRQ_EN 0 else s3

theorem sleepTick_sleepNoted (s : State) : getF (sleepNoted s) F.CPM_SLEEP_ENTRY_LO_VAL = now s % 2 ^ 32 := by
  have hirq : ∀ t, getF t F.CPM_SLEEP_ENTRY_LO_VAL = now s % 2 ^ 32 →
      getF (if s.cad.st = .locked then irqIf t F.CPM_CAD_CTL_IRQ_EN 0 else t) F.CPM_SLEEP_ENTRY_LO_VAL = now s % 2 ^ 32 :=
    fun t ht => ((Noted.ite (irqIf_noted t F.CPM_CAD_CTL_IRQ_EN 0) (.refl t)).1 _ (by decide)).trans ht
  refine hirq _ ?_
  simp (disch := decide) only [getF_setF_other, getF_setF_same]
  rfl

theorem getF_enterDoze (s : State) {f : Fld} : getF (enterDoze s) f
    = getF (setF (setF (clocksOff (linksDown (sleepNoted s))) F.CPM_PWR_STAT_STATE 0) F.CPM_AON_STAT_AON_STATE 1) f := by
  unfold enterDoze
  extract_lets s1 s2 s3 sI s4
  exact getF_mk ..

/-- In Doze: the state, the mesh links down, the array clock off, and the tick of the entry. -/
theorem enterDoze_sleeps (s : State) : aonState (enterDoze s) = 1 ∧ pwrState (enterDoze s) = 0
    ∧ (enterDoze s).cad.st = .unlocked ∧ getF (enterDoze s) F.MESH_STAT_UP = 0
    ∧ getF (enterDoze s) F.CPM_CLK_STAT_ON_PLL = 0
    ∧ getF (enterDoze s) F.CPM_SLEEP_ENTRY_LO_VAL = now s % 2 ^ 32 := by
  have hup : getF (linksDown (sleepNoted s)) F.MESH_STAT_UP = 0 := getF_setF_same _ _ _
  have htick := (linksDown_keeps (sleepNoted s) (by decide)).trans (sleepTick_sleepNoted s)
  refine ⟨?_, ?_, rfl, ?_, ?_, ?_⟩
  all_goals
    simp (disch := decide) only [aonState, pwrState, getF_enterDoze, clocksOff, getF_setF_other, getF_setF_same, hup, htick]
  all_goals rfl

/-- The drain has ended and the result has left. -/
theorem exec_dozeEntry_enters {s : State} (hp : pwrState s = 2) (ha : aonState s = 0) (hs : shdn s = false)
    (hw : s.rst.warm = 0) (hrun : s.msh.run = none) (hj : s.jnl = []) : exec .dozeEntry s = .next (enterDoze s) := by
  change execDozeEntry s = _
  simp [execDozeEntry, hp, ha, hs, hw, hrun, hj]

theorem exec_dozeDrainTimeout {s : State} {r : CmdRun} (hp : pwrState s = 2) (hrun : s.msh.run = some r)
    (hc : cmdCode r.words = 0x22) (hd : dozeDrained s r.seq = false) :
    exec .dozeDrainTimeout s = .next (if s.clk.dozeBy < now s then dozeBack s r else s) := by
  change execDozeDrainTimeout s = _
  simp [execDozeDrainTimeout, hp, hrun, hc, hd, apply_ite Host.Outcome.next]

-- ## Wake requests (R695 to R697)

theorem wakeRequest_asleep {s : State} (source lane : Nat) (ha : aonState s = 1) :
    wakeRequest s source lane = if wakeEnabled s source then
      emit { setF s F.CPM_AON_STAT_PWR_REQ 1 with
        clk := { s.clk with wake := some ⟨source, if source = 3 then lane % 64 else 0, 0, 0⟩ } }
        (.wakeLine source (if source = 3 then lane % 64 else 0))
    else s := by
  cases h : wakeEnabled s source <;> simp [wakeRequest, ha, h]

-- ## The supervisor's WAKE (R697, R701)

/-- With no request recorded, WAKE wakes with source SUPERVISOR at its step. -/
theorem exec_cpmAonWake {s : State} (w : Word) (hr : reaches .supervisor 0x1080 s = true) (ha : aonState s = 1)
    (hw : bits w.toNat 0 1 = 1) (hs : bits w.toNat 1 4 ≤ 7) (hno : s.clk.wake = none) :
    exec (.cpmAonWake .supervisor w) s
      = .next (wakeTo (setF s F.CPM_AON_STAT_PWR_REQ 0) ⟨1, 0, 0, bits w.toNat 1 4⟩) := by
  have hbit := (bits_eq_one_iff w.toNat 0).1 hw
  refine (next_asWrite_of_reaches w.toNat hr
    (u := wakeTo (setF s F.CPM_AON_STAT_PWR_REQ 0) ⟨1, 0, 0, bits w.toNat 1 4⟩) ?_).trans ?_
  · have hle : ¬ 7 < bits w.toNat 1 4 := Nat.not_lt.2 hs
    simp [cpmAonWake, ha, hbit, hle, hno]
  · exact congrArg _ (if_neg (by simp))

theorem cpmAonWake_wakes (s : State) (step : Nat) (hs : step ≤ 7) :
    let t := wakeTo (setF s F.CPM_AON_STAT_PWR_REQ 0) ⟨1, 0, 0, step⟩
    getF t F.CPM_AON_LAST_SOURCE = 1
    ∧ getF t F.CPM_AON_CNT_WAKES = getF (incF s F.CPM_AON_CNT_WAKES 1) F.CPM_AON_CNT_WAKES
    ∧ (flagF s F.CPM_AON_STAT_RET_LOST = false → aonState t = 2 ∧ t.clk.wake = some ⟨1, 0, 0, step⟩
        ∧ (s.clk.rails = true → t.cad.st = .acquiring ∧ getF t F.CPM_STEP_CUR_STEP = step))
    ∧ (flagF s F.CPM_AON_STAT_RET_LOST = true → s.rst.coldRun = false → s.rst.due = 0 → t.rst.due = 6) := by
  intro t
  have hlost : getF (setF s F.CPM_AON_STAT_PWR_REQ 0) F.CPM_AON_STAT_RET_LOST = getF s F.CPM_AON_STAT_RET_LOST :=
    getF_setF_other _ _ (by decide)
  obtain ⟨hsource, -, -, hwakes, -⟩ := getF_wakeRecorded (setF s F.CPM_AON_STAT_PWR_REQ 0) ⟨1, 0, 0, step⟩
  refine ⟨?_, ?_, fun hkept => ?_, fun hl hr hd => ?_⟩
  · exact (getF_wakeTo _ _ (by decide) (by decide) (by decide) (by decide)).trans hsource
  · refine (getF_wakeTo _ _ (by decide) (by decide) (by decide) (by decide)).trans (hwakes.trans ?_)
    simp (disch := decide) only [incF, getF_setF_same, getF_setF_other]
  · obtain ⟨haon, hwake, hstart⟩ := wakeTo_wakes (s := setF s F.CPM_AON_STAT_PWR_REQ 0) ⟨1, 0, 0, step⟩
      (by rw [hlost]; exact (flagF_eq_false_iff _ _).1 hkept)
    refine ⟨haon, hwake, fun hrails => ?_⟩
    obtain ⟨hstep, hcad⟩ := hstart hrails
    exact ⟨hcad, hstep.trans (Nat.mod_eq_of_lt (Nat.lt_of_le_of_lt hs (by decide)))⟩
  · exact (wakeTo_resets (s := setF s F.CPM_AON_STAT_PWR_REQ 0) ⟨1, 0, 0, step⟩
      (hlost.trans ((flagF_iff _ _).1 hl)) hr hd).2

-- ## The end of a wake (R698)

/-- The machine is Active again, its clocks on and its timers taken from now. -/
def awake (s : State) : State :=
  let s1 := setF (setF (setF s F.CPM_CLK_STAT_LOCK_A 1) F.CPM_CLK_STAT_LOCK_B 1) F.CPM_CLK_STAT_ON_PLL 1
  { setF s1 F.CPM_AON_STAT_AON_STATE 0 with
    clk := { s1.clk with wake := none, tokenAt := now s }, msh := { s1.msh with hb := now s },
    buddy := { s1.buddy with kaLast := s1.buddy.kaLast.map (fun _ => now s) }, fineSeen := fineOf (now s),
    coarseSeen := coarseOf (now s), est := { s1.est with taint := true, win := now s / 1000, cyc0 := s1.cad.cycles } }

theorem exec_wakeComplete_locked {s : State} {w : WakeReq} (hw : s.clk.wake = some w) (ha : aonState s = 2)
    (hr : s.clk.rails = true) (hl : s.cad.st = .locked) :
    ∃ n, exec .wakeComplete s = .next (setF (trcPush (awake s) n) F.REG_CTL_OPEN 1) := by
  change ∃ n, execWakeComplete s = _
  unfold execWakeComplete
  rw [hw]
  exact ⟨_, if_neg (by simp [ha, hr, hl])⟩

/-- A wake that is complete opens the machine. -/
theorem awake_opens (s : State) (n : Nat) :
    let t := setF (trcPush (awake s) n) F.REG_CTL_OPEN 1
    aonState t = 0 ∧ t.clk.wake = none ∧ getF t F.REG_CTL_OPEN = 1 ∧ getF t F.CPM_CLK_STAT_ON_PLL = 1
    ∧ getF t F.CPM_CLK_STAT_LOCK_A = 1 := by
  have hpush := trcPush_noted (awake s) n
  have hkept : ∀ {f : Fld}, f.key ≠ F.REG_CTL_OPEN.key → f.key ∉ noteKeys →
      getF (setF (trcPush (awake s) n) F.REG_CTL_OPEN 1) f = getF (awake s) f :=
    fun ho hn => (getF_setF_other _ _ ho).trans (hpush.1 _ hn)
  refine ⟨(hkept (by decide) (by decide)).trans ?_, congrArg Clocks.wake hpush.clk, getF_setF_same _ _ _,
    (hkept (by decide) (by decide)).trans ?_, (hkept (by decide) (by decide)).trans ?_⟩
  all_goals
    simp (disch := decide) only [awake, getF_mk, getF_setF_other, getF_setF_same]
    rfl

theorem exec_wakeComplete_waits {s : State} {w : WakeReq} (hw : s.clk.wake = some w)
    (h : s.clk.rails = false ∨ s.cad.st ≠ .locked) : exec .wakeComplete s = .next s := by
  change execWakeComplete s = _
  unfold execWakeComplete
  rw [hw]
  exact if_pos (by rcases h with h | h <;> simp [h])

-- ## The obligation

/-- Settles O51: each power command, then Doze, the wake requests and the end of the wake. -/
theorem powerCommandsAct : Obligations.PowerCommandsAct := by
  refine ⟨fun c r s u => ?_, fun s hp ha => ⟨?_, fun hs => ?_, fun r hrun hc hd => ⟨fun hlt => ?_, fun hle => ?_⟩⟩,
    fun s ha => ⟨fun source lane he => ?_, fun source lane he => ?_, ?_, fun lane => ?_, if_pos ha, fun w hr hw hs hno => ?_⟩,
    fun s w hw ha => ⟨fun hr hl => ?_, exec_wakeComplete_waits hw⟩⟩
  · intro w a is row sup
    refine ⟨fun k i htake hrow => ?_, fun htake hsup => ?_, fun htake hsup => ?_, fun htake hsup => ?_,
      fun htake hsup => ?_, fun htake hsup => ?_, fun htake hsup hopen hann hsw => ?_, fun htake hsup hle hbusy => ?_,
      fun htake hsup hok hcomb => ?_, fun k htake hsup hbad => ?_, fun htake hsup hstate => ?_⟩
    · obtain ⟨f, hf⟩ := exec_powerRow (c := c) hrow
      have hexec := exec_of_take (hf s) htake
      exact ⟨fun hforeign => by rw [hexec, powerCmd_foreign f u hforeign],
        fun hsrc hshut => by rw [hexec, powerCmd_shutdown f hsrc hshut]⟩
    · exact exec_powerCmd (f := doPwrIdle) rfl htake hsup
    · exact exec_powerCmd (f := doPwrActive) rfl htake hsup
    · have hexec : exec (.pwrCap c) s = .next (doPwrCap u r) := exec_powerCmd rfl htake hsup
      rw [hexec]
      intro cap shares
      have hrange : ∀ n : Nat, 1 ≤ n → n ≤ 256 → ¬ (decide (n = 0) || decide (256 < n)) = true := by
        intro n hlo hhi
        simp
        omega
      exact ⟨fun h => congrArg _ (if_pos (by simpa using h)),
        fun hlo hhi hlt => congrArg _ ((if_neg (hrange _ hlo hhi)).trans (if_pos hlt)),
        fun hlo hhi hle => congrArg _ ((if_neg (hrange _ hlo hhi)).trans (if_neg (Nat.not_lt.2 hle)))⟩
    · exact exec_powerCmd (f := doPwrFixed) rfl htake hsup
    · exact exec_powerCmd (f := doPwrBoost) rfl htake hsup
    · have hexec : exec (.pwrStepSet c) s = .next (doPwrStepSet u r) := exec_powerCmd rfl htake hsup
      rw [hexec]
      refine ⟨fun hgt => congrArg _ (if_pos hgt), fun hle => congrArg _ ?_⟩
      unfold doPwrStepSet
      rw [if_neg (Nat.not_lt.2 hle), if_neg (by simp [hopen, hann]), hsw]
    · have hexec : exec (.pwrStepSet c) s = .next (doPwrStepSet u r) := exec_powerCmd rfl htake hsup
      rw [hexec]
      exact congrArg _ ((if_neg (Nat.not_lt.2 hle)).trans (if_pos (by simpa using hbusy)))
    · obtain ⟨hstate, hopen, htmr, hlane, htherm, hdebug, hperiods⟩ := getF_dozing u r.words
      exact ⟨_, (exec_powerCmd (f := doPwrDoze) rfl htake hsup).trans (congrArg _ (doPwrDoze_admitted r hok hcomb)),
        hstate, hopen, rfl, rfl, rfl, htmr, hlane, htherm, hdebug, hperiods⟩
    · refine (exec_powerCmd (f := doPwrDoze) rfl htake hsup).trans (congrArg _ ?_)
      unfold doPwrDoze
      rw [hbad]
    · exact (exec_powerCmd (f := doPwrOff) rfl htake hsup).trans (congrArg _ (if_neg hstate))
  · intro hs hw hrun hj
    exact ⟨_, exec_dozeEntry_enters hp ha hs hw hrun hj, enterDoze_sleeps s⟩
  · exact if_pos (by simp [hs])
  · rw [exec_dozeDrainTimeout hp hrun hc hd, if_pos hlt]
  · rw [exec_dozeDrainTimeout hp hrun hc hd, if_neg (Nat.not_lt.2 hle)]
  · exact congrArg _ ((wakeRequest_asleep source lane ha).trans (if_pos he))
  · exact congrArg _ ((wakeRequest_asleep source lane ha).trans (if_neg (by simp [he])))
  · exact congrArg _ (wakeRequest_asleep 2 0 ha)
  · exact congrArg _ (wakeRequest_asleep 3 lane ha)
  · exact ⟨_, exec_cpmAonWake w hr ha hw hs hno, cpmAonWake_wakes s _ hs⟩
  · obtain ⟨n, hexec⟩ := exec_wakeComplete_locked hw ha hr hl
    exact ⟨_, hexec, awake_opens s n⟩

end Sys2Proof.Machine
end

section
/-! SUPPORT. Combining entries, mesh requests and the gateway (R482, R483, R587 to R589, R804). Settles O30, O31 and O32. -/

namespace Sys2Proof.Machine

-- ## Combining entries (R482, R483)

theorem exec_combWindowExpiry {lane core slot : Nat} {e : CombEntry} {s : State} (hrun : arrayRuns s = true)
    (he : s.comb.find? (combIs lane core slot) = some e) : exec (.combWindowExpiry lane core slot) s = .next (
      if e.closing = false ∧ e.age + 16 * getF s (F.LANE_COMB_WIN lane) ≤ s.cad.cycles then closeComb s e else s) := by
  change execCombWindowExpiry lane core slot s = _
  simp [execCombWindowExpiry, hrun, he, apply_ite Host.Outcome.next]

/-- A clean entry is dropped. -/
theorem closeComb_clean (s : State) {e : CombEntry} (hc : e.closing = false) (hd : e.dirty = false) :
    closeComb s e = dropComb s e.lane e.core e.slot := by simp [closeComb, hc, hd]

theorem exec_combWriteBackResend {id lane core slot : Nat} {r : Request} {s : State} (hrun : arrayRuns s = true)
    (hr : findReq s id = some r) (horg : r.org = .combine lane core slot) (hst : r.stage = .held) :
    exec (.combWriteBackResend id) s = .next (if r.adm ≤ now s then submitWriteBack s r else s) := by
  change execCombWriteBackResend id s = _
  simp [execCombWriteBackResend, hrun, hr, horg, hst, apply_ite Host.Outcome.next]

/-- Settles O30: the window of an entry, then the tick of a refused write-back. -/
theorem combiningEntriesClose : Obligations.CombiningEntriesClose := by
  refine ⟨fun lane core slot e s hrun he => ?_, fun id lane core slot r s hrun hr horg hst => ?_⟩
  · rw [exec_combWindowExpiry hrun he]
    refine ⟨fun hc hd ha => ?_, fun hc _ ha => ?_, fun hlt => ?_⟩
    · rw [if_pos ⟨hc, ha⟩, closeComb_clean s hc hd]
      rfl
    · rw [if_pos ⟨hc, ha⟩]
    · rw [if_neg fun h => Nat.not_lt.2 h.2 hlt]
  · rw [exec_combWriteBackResend hrun hr horg hst]
    exact ⟨fun hle => by rw [if_pos hle], fun hlt => by rw [if_neg (Nat.not_le.2 hlt)]⟩

-- ## Requests over the mesh (R589, R804)

/-- A mesh link that is up, its data on. -/
def linkCarries (s : State) (link : Nat) : Bool :=
  bitAt (getF s F.MESH_STAT_UP) link && !bitAt (getF s F.MESH_STAT_DATA_OFF) link

theorem linkCarries_iff (s : State) (link : Nat) : linkCarries s link = true ↔
    bits (getF s F.MESH_STAT_UP) link 1 = 1 ∧ bits (getF s F.MESH_STAT_DATA_OFF) link 1 = 0 := by
  have hoff : bits (getF s F.MESH_STAT_DATA_OFF) link 1 = 0 ↔ bitAt (getF s F.MESH_STAT_DATA_OFF) link = false := by
    rw [← Bool.not_eq_true, ← bits_eq_one_iff]
    have hlt := bits_lt (getF s F.MESH_STAT_DATA_OFF) link 1
    omega
  rw [linkCarries, bits_eq_one_iff, hoff]
  simp

theorem exec_meshRequest_down {m : MeshPkt} {s : State} (h : linkCarries s m.link = false) :
    exec (.meshRequest m) s = .next s := by
  change execMeshRequest m s = _
  simp only [linkCarries, Bool.and_eq_false_iff, Bool.not_eq_false'] at h
  rcases h with h | h <;> simp [execMeshRequest, h]

/-- What has arrived goes on to another machine, or is taken here. -/
theorem exec_meshRequest_up {m : MeshPkt} {s : State} (hrun : arrayRuns s = true) (hports : portsHeld s = false)
    (hlink : m.link < 4) (h : linkCarries s m.link = true) : exec (.meshRequest m) s = .next (
      let h := decodeHdr m.hdr
      if isSelf s h.addr || isAlias h.addr then
        meshDup (energyEvt (ctrEvent s 0x12 m.link m.beats.length ⟨0xD0 + m.link, h.tag, h.part, some h.cls, 0⟩)
          4 h.part h.cls m.beats.length) m h
      else if addrWafer h.addr ≤ 23 && siteGood s (addrWafer h.addr) (addrInst h.addr) then
        emit s (.mesh (.request (addrWafer h.addr) (addrInst h.addr) m.owafer m.oinst m.oreq m.hdr.toNat
          (m.beats.map (fun b => b.toNat))))
      else emit s (.mesh (.answer m.owafer m.oinst m.oreq h.tag 5 5 0 []))) := by
  obtain ⟨hup, hon⟩ : bitAt (getF s F.MESH_STAT_UP) m.link = true ∧ bitAt (getF s F.MESH_STAT_DATA_OFF) m.link = false := by
    simpa [linkCarries] using h
  change execMeshRequest m s = _
  simp [execMeshRequest, hrun, hports, hup, hon, Nat.not_le.2 hlink, apply_ite Host.Outcome.next]

/-- A new request of the mesh that passes the checks goes to admission. -/
theorem meshNew_checked {s u : State} {m : MeshPkt} {h : Hdr} {r : Request} (ha : isAlias h.addr = false)
    (hb : h.bib = false) (hz : isZeroAddr h.op = false) (h11 : h.op ≠ 0x11) (h13 : h.op ≠ 0x13) (hp : pastTop h = false)
    (h4 : meshCheck4 m.hdr.toNat h m.beats = none) (hpart : partCreated s h.part = true)
    (h8 : checks8 { s with nextId := s.nextId + 1, reqs := s.reqs ++ [blankReq s.nextId
        (.mesh m.link m.owafer m.oinst m.oreq) h m.beats (now s)] }
      (blankReq s.nextId (.mesh m.link m.owafer m.oinst m.oreq) h m.beats (now s)) m.up = (.ok r, u)) :
    meshNew s m h = check11 (putReq u r) r := by
  unfold meshNew
  extract_lets org r0 s1
  have hcreated : partCreated s1 h.part = true := hpart
  simp only [h4, ha, hb, hz, hp, hcreated]
  rw [if_neg (by simp [h11, h13]), if_neg (by simp), h8]

/-- Settles O31: what a link does not carry, what goes on, and what is accepted here. -/
theorem meshRequestIsTaken : Obligations.MeshRequestIsTaken := by
  intro m s hrun hports hlink h org up
  refine ⟨fun hdown => ?_, fun hup hself halias hw hgood => ?_,
    fun r r1 pl u v w hup hself halias hretry hb hz h11 h13 hp h4 hw hpart h8 hadm => ?_⟩
  · exact exec_meshRequest_down (Bool.eq_false_of_not_eq_true fun hc => hdown ((linkCarries_iff s m.link).1 hc))
  · refine (exec_meshRequest_up hrun hports hlink ((linkCarries_iff s m.link).2 hup)).trans (congrArg _ ?_)
    exact (if_neg (by simp [hself, halias, h])).trans (if_pos (by simpa using ⟨hw, hgood⟩))
  · refine (exec_meshRequest_up hrun hports hlink ((linkCarries_iff s m.link).2 hup)).trans (congrArg _ ?_)
    refine (if_pos (by simp [hself, h])).trans ?_
    rw [← (check11_of_admitted hadm).1]
    subst hw
    refine Eq.trans ?_ (meshNew_checked halias hb hz h11 h13 hp h4 hpart h8)
    exact if_neg (Bool.eq_false_iff.1 hretry)

-- ## The gateway (R587, R588)

theorem exec_remoteAnswer {a : MeshAns} {e : GwEntry} {s : State} {r : Request} (hrun : arrayRuns s = true)
    (he : findGw s a.seq = some e) (hst : e.stream = none)
    (hr : e.rid.bind (findReq (dropGw (noteInbound s e.link a.data.length (gwCtx s e)) a.seq)) = some r) :
    exec (.remoteAnswer a) s = .next (takeRemote (dropGw (noteInbound s e.link a.data.length (gwCtx s e)) a.seq) r a) := by
  change execRemoteAnswer a s = _
  simp [execRemoteAnswer, hrun, he, hst, hr]

theorem exec_gatewayResend {seq : Nat} {e : GwEntry} {s : State} (hrun : arrayRuns s = true) (he : findGw s seq = some e)
    (h0 : e.retryAt = 0) : exec (.gatewayResend seq) s = .next (
      if e.resends < 2 ∧ e.promised + 4000 * (e.resends + 1) ≤ now s then
        gwTransmit (putGw s { e with resends := e.resends + 1 }) { e with resends := e.resends + 1 } true
      else s) := by
  change execGatewayResend seq s = _
  simp [execGatewayResend, hrun, he, h0, apply_ite Host.Outcome.next]

theorem exec_remoteTimeout_early {seq : Nat} {e : GwEntry} {s : State} (he : findGw s seq = some e)
    (h : now s < e.promised + 12000) : exec (.remoteTimeout seq) s = .next s := by
  change execRemoteTimeout seq s = _
  simp [execRemoteTimeout, he, Nat.not_le.2 h]

theorem exec_dedupExpiry {w n q tag : Nat} {d : Dedup} {s : State} (hd : findDedup s w n q tag = some d)
    (hf : d.filled = true) :
    exec (.dedupExpiry w n q tag) s = .next (if d.expiry ≤ now s then dropDedup s w n q tag else s) := by
  change execDedupExpiry w n q tag s = _
  simp [execDedupExpiry, hd, hf, apply_ite Host.Outcome.next]

/-- Settles O32: the answer, the two resends and the timeout of a request over the mesh, and the filter's expiry. -/
theorem gatewayKeepsItsRequests : Obligations.GatewayKeepsItsRequests := by
  refine ⟨fun a e s he h0 => ⟨fun r hrun hst hr => exec_remoteAnswer hrun he hst hr, fun hrun hn hp => ?_, fun hno => ?_,
    exec_remoteTimeout_early he, fun r hp hr => ?_, fun q st hp hrid hstream => ?_⟩, fun w n q tag d s hd hf => ?_⟩
  · rw [exec_gatewayResend hrun he h0, if_pos ⟨hn, hp⟩]
  · cases hrun : arrayRuns s with
    | true => rw [exec_gatewayResend hrun he h0, if_neg (by omega)]
    | false => exact if_pos (by simp [hrun])
  · change execRemoteTimeout a.seq s = _
    simp [execRemoteTimeout, he, h0, hp, hr]
  · change execRemoteTimeout a.seq s = _
    simp [execRemoteTimeout, he, h0, hp, hrid, hstream]
  · rw [exec_dedupExpiry hd hf]
    exact ⟨fun hle => by rw [if_pos hle], fun hlt => by rw [if_neg (Nat.not_le.2 hlt)]⟩

end Sys2Proof.Machine
end

section
/-! SUPPORT. The stages of a request from the hold point to its accesses (R257, R258, R354 to R357, R383, R473, R475, R486,
R518, R599). Settles O26. -/

namespace Sys2Proof.Machine

-- ## The requests and the granule states that a step leaves

/-- `t` holds the requests and the granule states of `s`. -/
def SameWork (s t : State) : Prop := t.reqs = s.reqs ∧ t.gst = s.gst

theorem SameWork.refl (s : State) : SameWork s s := ⟨rfl, rfl⟩

theorem SameWork.trans {s t u : State} (h : SameWork s t) (g : SameWork t u) : SameWork s u :=
  ⟨g.1.trans h.1, g.2.trans h.2⟩

theorem SameWork.ite {s a b : State} {c : Prop} [Decidable c] (h : SameWork s a) (g : SameWork s b) :
    SameWork s (if c then a else b) := by split <;> assumption

theorem SameWork.of_noted {s t : State} (h : Noted s t) : SameWork s t :=
  have hgst := congrArg State.gst h.2
  ⟨h.reqs, hgst⟩

theorem SameWork.of_journaled {s t : State} (h : Journaled s t) : SameWork s t :=
  have hreqs := congrArg State.reqs h.2
  have hgst := congrArg State.gst h.2
  ⟨hreqs, hgst⟩

theorem setF_sameWork (s : State) (f : Fld) (v : Nat) : SameWork s (setF s f v) := ⟨rfl, rfl⟩

theorem flipAt_sameWork (s : State) (r : Request) (point : Nat) : SameWork s (flipAt s r point).2 := by
  unfold flipAt
  split
  · exact .ite ⟨rfl, rfl⟩ ⟨rfl, rfl⟩
  · exact .refl s

theorem noteP4_sameWork (s : State) (r : Request) (t : Nat) (src : Bool) (g m : Nat) (flip : Bool) :
    SameWork s (noteP4 s r t src g m flip) := by
  unfold noteP4
  extract_lets s1 s2 s3 s4
  have h3 : SameWork s s3 := ⟨rfl, rfl⟩
  exact h3.trans (.of_noted (((irqIf_noted _ _ _).trans (ctrEvent_noted _ _ _ _ _)).trans (logEvt_noted ..)))

theorem noteXf_sameWork (s : State) (t sat nan : Nat) : SameWork s (noteXf s t sat nan) := by
  unfold noteXf
  split <;> split <;> exact ⟨rfl, rfl⟩

theorem narrowP4_sameWork (s : State) (r : Request) (p4 : List (Nat × BitVec 64)) : SameWork s (narrowP4 s r p4).2 := by
  refine List.foldlRecOn (motive := fun p : List Nat × State => SameWork s p.2) _ _ (.refl s) (fun p hp k _ => ?_)
  have hflip := hp.trans (flipAt_sameWork p.2 r 3)
  dsimp only
  split
  · exact hflip
  · exact hflip.trans (noteP4_sameWork ..)

theorem convertWrite_sameWork (s : State) (r : Request) (pd : List (Nat × BitVec 64)) :
    SameWork s (convertWrite s r pd).2 := by
  unfold convertWrite
  split
  · exact ((narrowP4_sameWork s r pd).trans (noteXf_sameWork ..)).trans
      (.of_noted ((ctrEvent_noted ..).trans (energyEvt_noted ..)))
  · exact .refl s

theorem convertWrite_id (s : State) (r : Request) (pd : List (Nat × BitVec 64)) : (convertWrite s r pd).1.id = r.id := by
  unfold convertWrite
  split <;> rfl

theorem jnlRunning_journaled (s : State) (rid : Nat) : Journaled s (jnlRunning s rid) := by
  unfold jnlRunning
  split
  · exact .ite (jnlWrite_journaled ..) (.refl s)
  · exact .refl s

-- ## A request that is put in its place

theorem findReq_congr {s t : State} (h : t.reqs = s.reqs) (id : Nat) : findReq t id = findReq s id := by
  rw [findReq, findReq, h]

theorem findReq_id {s : State} {id : Nat} {r : Request} (h : findReq s id = some r) : r.id = id := by
  simpa using List.find?_some h

theorem findReq_putReq {s : State} {id : Nat} {r : Request} (q : Request) (h : findReq s id = some r) (hq : q.id = id) :
    findReq (putReq s q) id = some q := by
  have hkey : ∀ x : Request, ((if x.id == q.id then q else x).id == id) = (x.id == id) := by
    intro x
    by_cases hx : x.id = q.id
    · simp [hx]
    · rw [if_neg (by simpa using hx)]
  have hfind : s.reqs.find? (fun x => x.id == id) = some r := h
  have hid : r.id = q.id := (findReq_id h).trans hq.symm
  simp only [findReq, putReq, List.find?_map, Function.comp_def, hkey, hfind, Option.map_some, hid, beq_self_eq_true, if_true]

-- ## Release (R257, R258)

theorem moveCharged_reqs (s : State) (r : Request) : (moveCharged s r).reqs = s.reqs ∧ (moveCharged s r).orderNo = s.orderNo := by
  unfold moveCharged
  split <;> exact ⟨rfl, rfl⟩

/-- A released request stands at the scoreboard, next in the order of arrival there. -/
theorem enterStage3_enters {s : State} {id : Nat} {r : Request} (h : findReq s id = some r) :
    (enterStage3 s r).orderNo = s.orderNo + 1 ∧ (enterStage3 s r).mem = s.mem
    ∧ ∃ q, findReq (enterStage3 s r) id = some q ∧ q.stage = .stage3 ∧ q.order = s.orderNo ∧ q.h = r.h ∧ q.accs = r.accs := by
  have hid := findReq_id h
  have hmem : (enterStage3 s r).mem = s.mem := held_mem (enterStage3_held s r)
  obtain ⟨hreqs, horder⟩ := moveCharged_reqs { s with orderNo := s.orderNo + 1 } r
  rw [show (enterStage3 s r).mem = s.mem from hmem]
  unfold enterStage3
  extract_lets r1 s1
  have hfind : ∀ t : State, t.reqs = s1.reqs → findReq t id = some r := fun t ht => by
    rw [findReq_congr (ht.trans hreqs), ← h]
    rfl
  split
  · have hctr := ctrEvent_noted (incF s1 F.GLB_SB_HOLD_HOLD_CNT 1) 0x14 0 1 (ctxOf r)
    have horder2 := congrArg State.orderNo hctr.2
    exact ⟨horder2.trans horder, rfl, _, findReq_putReq _ (hfind _ hctr.reqs) hid, rfl, rfl, rfl, rfl⟩
  · have hfull : ∀ c : Bool, (if c then setF s1 F.GLB_SB_STAT_SB_FULL 1 else s1).reqs = s1.reqs
        ∧ (if c then setF s1 F.GLB_SB_STAT_SB_FULL 1 else s1).orderNo = s1.orderNo := by
      intro c
      cases c <;> exact ⟨rfl, rfl⟩
    exact ⟨(hfull _).2.trans horder, rfl, _, findReq_putReq _ (hfind _ (hfull _).1) hid, rfl, rfl, rfl, rfl⟩

/-- An admitted request that nothing holds back is released when its test passes. -/
theorem exec_issueRelease {id : Nat} {r : Request} {s : State} (hrun : arrayRuns s = true) (hr : findReq s id = some r)
    (hst : r.stage = .admitted) (hp : s.parked = false) (hm : moveWaits s r = false) : exec (.issueRelease id) s = .next (
      match releaseTest s r with
      | some s1 => if r.h.op = 0x16 then startTask s1 r else enterStage3 s1 r
      | none => s) := by
  change execIssueRelease id s = _
  simp only [execIssueRelease, hrun, hr, hst, hp, hm]
  cases releaseTest s r <;> rfl

/-- A fine bucket releases at its first tick, a coarse one at the first tick of its last fine bucket, none at once. -/
theorem releaseTest_due {s : State} {r : Request} {b : Nat} (h : (r.place = .fine b ∧ 64 * b ≤ now s) ∨ r.place = .free
    ∨ (r.place = .coarse b ∧ coarseFirst s r b = true ∧ 65536 * b + 65472 ≤ now s)) : releaseTest s r = some s := by
  unfold releaseTest
  rcases h with ⟨hpl, hle⟩ | hpl | ⟨hpl, hfirst, hle⟩
  · simp [hpl, hle]
  · simp [hpl]
  · have hin : ¬ coarseOf (now s) < b := by
      unfold coarseOf
      omega
    have hlast : 65536 * (b + 1) - 64 ≤ now s := by omega
    simp [hpl, hfirst, hin, hlast]

theorem releaseTest_early {s : State} {r : Request} {b : Nat} (hpl : r.place = .fine b) (hlt : now s < 64 * b)
    (he : earlyRel s = false) : releaseTest s r = none := by simp [releaseTest, hpl, Nat.not_le.2 hlt, he]

theorem releaseTest_task {s : State} {r : Request} {b n : Nat} (hpl : r.place = .task b n) (hle : 64 * b ≤ now s) :
    releaseTest s r = some s := by simp [releaseTest, hpl, hle]

-- ## The scoreboard (R354 to R357)

theorem exec_scoreboardPass {id : Nat} {p4 : List (Nat × BitVec 64)} {r : Request} {s : State} (hrun : arrayRuns s = true)
    (hr : findReq s id = some r) (hst : r.stage = .stage3) : exec (.scoreboardPass ⟨id, p4⟩) s = .next (
      if sbHeld s r then s else if sbNoEntry s r then setF s F.GLB_SB_STAT_SB_FULL 1
      else if sbBehind s r then s else passStage3 s r p4) := by
  change execScoreboardPass ⟨id, p4⟩ s = _
  simp [execScoreboardPass, hrun, hr, hst, apply_ite Host.Outcome.next]

/-- A request that passes has its accesses at the concourse. -/
theorem passStage3_passes {s : State} {id : Nat} {r : Request} (p4 : List (Nat × BitVec 64)) (h : findReq s id = some r) :
    (findReq (passStage3 s r p4) id).map (fun q => q.stage) = some .access ∧ (passStage3 s r p4).mem = s.mem
    ∧ (passStage3 s r p4).gst = s.gst := by
  refine ⟨?_, held_mem (passStage3_held s r p4), ?_⟩
  all_goals
    unfold passStage3
    extract_lets c _ s1 used
    have hconv : SameWork s c.2 := convertWrite_sameWork s r p4
    have hrunning := SameWork.of_journaled (jnlRunning_journaled (putReq c.2 { c.1 with stage := .access }) r.id)
    have hpeak : SameWork s1 (if getF s1 F.GLB_SB_STAT_PEAK < used then setF s1 F.GLB_SB_STAT_PEAK used else s1) :=
      .ite (setF_sameWork _ _ _) (.refl s1)
  · have hput := findReq_putReq { c.1 with stage := .access } ((findReq_congr hconv.1 id).trans h)
      ((convertWrite_id s r p4).trans (findReq_id h))
    rw [findReq_congr (hpeak.1.trans hrunning.1), hput]
    rfl
  · exact (hpeak.2.trans hrunning.2).trans hconv.2

-- ## The hold point (R473, R475, R486)

theorem exec_holdPointPass {id lane ch : Nat} {r : Request} {s : State} (hrun : arrayRuns s = true)
    (hr : findReq s id = some r) (horg : r.org = .lane lane ch) :
    exec (.holdPointPass id) s = .next (if r.stage = .held then present s r else s) := by
  change execHoldPointPass id s = _
  simp [execHoldPointPass, hrun, hr, horg, apply_ite Host.Outcome.next]

/-- Settles O26: the hold point, the release and the scoreboard. -/
theorem requestsPassTheirStages : Obligations.RequestsPassTheirStages := by
  refine ⟨fun id lane ch r s u hrun hr horg => ⟨fun hst => ?_, fun hst => ?_⟩, fun id r s hrun hr hst => ⟨fun hp hw => ?_,
    fun hm => ?_, fun hp hm => ⟨fun b hdue hop => ?_, fun b hpl hlt he => ?_, fun b n hpl hle hop => ?_⟩⟩,
    fun id p4 r s hrun hr hst => ?_⟩
  · rw [exec_holdPointPass hrun hr horg, if_pos hst, present]
    exact ⟨fun h => by rw [h], fun e h => by rw [h], fun h => by rw [h]⟩
  · rw [exec_holdPointPass hrun hr horg, if_neg hst]
  · change execIssueRelease id s = _
    simp [execIssueRelease, hrun, hr, hp, hw]
  · change execIssueRelease id s = _
    simp [execIssueRelease, hrun, hr, hm]
  · rw [exec_issueRelease hrun hr hst hp hm, releaseTest_due hdue]
    exact ⟨_, congrArg _ (if_neg hop), enterStage3_enters hr⟩
  · rw [exec_issueRelease hrun hr hst hp hm, releaseTest_early hpl hlt he]
  · rw [exec_issueRelease hrun hr hst hp hm, releaseTest_task hpl hle]
    exact congrArg _ (if_pos hop)
  · rw [exec_scoreboardPass hrun hr hst]
    refine ⟨fun h => ?_, fun h g => ?_, fun h g k => ?_, fun h g k => ?_⟩
    · rw [if_pos h]
    · rw [if_neg (by simp [h]), if_pos g]
    · rw [if_neg (by simp [h]), if_neg (by simp [g]), if_pos k]
    · rw [if_neg (by simp [h]), if_neg (by simp [g]), if_neg (by simp [k])]
      exact ⟨_, rfl, passStage3_passes p4 hr⟩

end Sys2Proof.Machine
end

section
/-! SUPPORT. The journal shadow on the buddy and the keepalives of the partner (R579, R583 to R586). Settles O44. -/

namespace Sys2Proof.Machine

-- ## What arrives for the shadow (R583)

theorem noteInbound_noted (s : State) (k n : Nat) (c : EvCtx) : Noted s (noteInbound s k n c) :=
  (ctrEvent_noted ..).trans (energyEvt_noted ..)

theorem noteInbound_shHold (s : State) (k n : Nat) (c : EvCtx) : (noteInbound s k n c).shHold = s.shHold := by
  have hsame := congrArg State.shHold (noteInbound_noted s k n c).2
  exact hsame

/-- A shadow write is held, while the hold has room. -/
def shadowHeld (t : State) (w : ShadowHold) : State :=
  if 64 ≤ t.shHold.length then t else { t with shHold := t.shHold ++ [w] }

/-- A write for an enabled shadow is held behind what is held, and else submitted. -/
theorem exec_shadowWrite {link desc : Nat} (data : Beat) {s : State} (hrun : arrayRuns s = true) (hl : link < 4)
    (hd : desc < 8192) (hu : linkUsable s link = true) (hen : flagF s F.JNL_SHADOW_EN = true) :
    let u := noteInbound s link 1 ⟨0xD0 + link, 0, 15, some 7, 0⟩
    exec (.shadowWrite link desc data) s = .next (
      if s.shHold != [] then shadowHeld u ⟨link, desc, data, now s, 0⟩
      else match submitShadow u link desc data with
        | (some v, t) => shadowHeld t ⟨link, desc, data, now s, v⟩
        | (none, t) => t) := by
  intro u
  change execShadowWrite link desc data s = _
  simp only [execShadowWrite, hrun, Nat.not_le.2 hl, Nat.not_le.2 hd, hu, hen]
  rw [if_neg (by simp), if_neg (by simp)]
  cases s.shHold != []
  · change (match submitShadow u link desc data with
      | (some v, t) => Host.Outcome.next (shadowHeld t ⟨link, desc, data, now s, v⟩)
      | (none, t) => .next t) = _
    rcases submitShadow u link desc data with ⟨_ | v, t⟩ <;> rfl
  · rfl

-- ## What is held (R583)

/-- The oldest held write is discarded, waits or is submitted. -/
theorem exec_shadowResubmit {s : State} {w : ShadowHold} {l : List ShadowHold} (hrun : arrayRuns s = true)
    (hh : s.shHold = w :: l) : exec .shadowResubmit s = .next (
      if w.arrived + 16000 ≤ now s then { s with shHold := l } else if now s < w.at_ then s
      else match submitShadow s w.link w.desc w.data with
        | (some v, t) => { t with shHold := { w with at_ := v } :: l }
        | (none, t) => { t with shHold := l }) := by
  change execShadowResubmit s = _
  simp only [execShadowResubmit, hrun, hh, apply_ite Host.Outcome.next]
  rw [if_neg (by simp)]
  rcases submitShadow s w.link w.desc w.data with ⟨_ | v, t⟩ <;> rfl

-- ## The states that wait for the buddy (R579, R584)

theorem exec_shadowAck {seq st tick : Nat} {e : JEntry} {l : List (Nat × Nat)} {s : State} (hrun : arrayRuns s = true)
    (he : findEntry s seq = some e) (hst : e.states = (st, tick) :: l) : exec (.shadowAck seq) s
      = .next (settleUnits (ackState (putEntry s { e with states := l }) { e with states := l } st)) := by
  change execShadowAck seq s = _
  simp [execShadowAck, hrun, he, hst]

theorem exec_shadowTimeout {seq st tick : Nat} {e : JEntry} {l : List (Nat × Nat)} {s : State}
    (he : findEntry s seq = some e) (hst : e.states = (st, tick) :: l) :
    exec (.shadowTimeout seq) s = .next (if tick + 20000 ≤ now s then loseShadow s else s) := by
  change execShadowTimeout seq s = _
  simp [execShadowTimeout, he, hst, apply_ite Host.Outcome.next]

-- ## The partner (R585, R586)

theorem exec_keepaliveSend {s : State} (hset : flagF s F.JNL_BUDDY_SET = true) (hen : flagF s F.JNL_CTL_SHADOW_EN = true)
    (hup : getF s F.MESH_STAT_UP ≠ 0) : exec .keepaliveSend s = .next (
      if now s / 65536 ≤ s.buddy.kaSent then s
      else sendKeepalive { s with buddy := { s.buddy with kaSent := now s / 65536 } }) := by
  change execKeepaliveSend s = _
  simp [execKeepaliveSend, hset, hen, hup, apply_ite Host.Outcome.next]

/-- The partner has been silent for four intervals. -/
def partnerSilent (s : State) : Bool :=
  match s.buddy.kaLast with
  | some t => decide (t + 262144 ≤ now s)
  | none => false

/-- The shadow of a lost partner is scanned and its rows are cleared. -/
def partnerCleared (s : State) : State :=
  let s1 := scanShadow 8192 0 s
  let s2 := setF (clearRows s1 (getF s1 F.JNL_SHADOW_ROW) 16) F.JNL_STAT_PARTNER_LOST 1
  { s2 with buddy := { s2.buddy with kaLast := none, cold := false } }

theorem exec_partnerLost {s : State} (hen : flagF s F.JNL_SHADOW_EN = true) :
    exec .partnerLost s = .next (if partnerSilent s || s.buddy.cold then jnlLog (partnerCleared s) 0x29 3 0 else s) := by
  change execPartnerLost s = _
  unfold execPartnerLost
  rw [hen]
  change (if !true || !(partnerSilent s || s.buddy.cold) then Host.Outcome.next s
    else .next (jnlLog (partnerCleared s) 0x29 3 0)) = _
  cases partnerSilent s || s.buddy.cold <;> rfl

theorem partnerLost_shows (s : State) : getF (jnlLog (partnerCleared s) 0x29 3 0) F.JNL_STAT_PARTNER_LOST = 1
    ∧ (jnlLog (partnerCleared s) 0x29 3 0).buddy.kaLast = none ∧ (jnlLog (partnerCleared s) 0x29 3 0).buddy.cold = false := by
  have hlog := jnlLog_noted (partnerCleared s) 0x29 3 0
  have hbuddy := congrArg State.buddy hlog.2
  refine ⟨(hlog.1 _ (by decide)).trans ?_, ?_, ?_⟩
  · exact (getF_mk ..).trans (getF_setF_same _ F.JNL_STAT_PARTNER_LOST 1)
  · exact congrArg Buddy.kaLast hbuddy
  · exact congrArg Buddy.cold hbuddy

/-- Settles O44: what arrives for the shadow, what is held, what waits for the buddy, and the partner's keepalives. -/
theorem shadowWritesAndKeepalives : Obligations.ShadowWritesAndKeepalives := by
  refine ⟨fun link desc data s hrun hl hd hu hen => ?_, fun w l s hrun hh => ?_, fun seq e st tick l s he hst => ?_,
    fun s hset hen hup => ?_, fun s hen => ⟨fun _ => if_pos hen, fun k hk hc hlt => ?_, fun hlost => ?_⟩⟩
  · intro u
    have hkeep : u.shHold = s.shHold := noteInbound_shHold ..
    rw [exec_shadowWrite data hrun hl hd hu hen]
    refine ⟨fun t hnone hsub => ?_, fun v t hnone hsub hempty => ?_, fun hsome hroom => ?_, fun hfull => ?_⟩
    · rw [if_neg (by simp [hnone]), hsub]
    · rw [if_neg (by simp [hnone]), hsub]
      simp [shadowHeld, hempty]
    · rw [if_pos (by simpa using hsome), shadowHeld, if_neg (by rw [hkeep]; exact Nat.not_le.2 hroom), hkeep]
    · rw [if_pos (by simpa using fun h : s.shHold = [] => by simp [h] at hfull), shadowHeld,
        if_pos (by rw [hkeep]; exact hfull)]
  · rw [exec_shadowResubmit hrun hh]
    refine ⟨fun h => by rw [if_pos h], fun hno hw => by rw [if_neg (Nat.not_le.2 hno), if_pos hw], fun hno hw => ?_⟩
    rw [if_neg (Nat.not_le.2 hno), if_neg (Nat.not_lt.2 hw)]
    exact ⟨fun t h => by rw [h], fun v t h => by rw [h]⟩
  · intro e1
    refine ⟨fun hrun => exec_shadowAck hrun he hst, fun hlt => ?_, fun hle => ?_⟩
    · rw [exec_shadowTimeout he hst, if_neg (Nat.not_le.2 hlt)]
    · rw [exec_shadowTimeout he hst, if_pos hle]
  · intro k
    rw [exec_keepaliveSend hset hen hup]
    exact ⟨fun h => by rw [if_pos h], fun h => by rw [if_neg (Nat.not_le.2 h)]; rfl⟩
  · rw [exec_partnerLost hen, if_neg (by simp [partnerSilent, hk, hc, Nat.not_le.2 hlt])]
  · rw [exec_partnerLost hen, if_pos ?_]
    · exact ⟨_, rfl, partnerLost_shows s⟩
    · rcases hlost with ⟨k, hk, hle⟩ | hc
      · simp [partnerSilent, hk, hle]
      · simp [hc]

end Sys2Proof.Machine
end

section
/-! SUPPORT. The marshal pair, the checkpoint and the recovery window (R591, R592, R594, R597, R603 to R605). Settles O45. -/

namespace Sys2Proof.Machine

-- ## The heartbeat (R591)

theorem exec_heartbeatTimeout {s : State} (hact : s.activeM.isSome = true) (hfw : firmwareRuns s = true)
    (ha : aonState s = 0) : exec .heartbeatTimeout s
      = .next (if s.msh.hb + 1024 * getF s F.JNL_HB_HB_TMO ≤ now s then failover s else s) := by
  change execHeartbeatTimeout s = _
  simp [execHeartbeatTimeout, hact, hfw, ha, apply_ite Host.Outcome.next]

-- ## The failover to a standby that is fit (R592)

/-- The failed marshal is out, noted, and its restart recorded. -/
def marshalOut (s : State) (a : Nat) : State :=
  noteReset (setF (setF { s with activeM := none, msh := { s.msh with copy := none, remap := Sparse.del s.msh.remap a } }
    (failBit a) 1) F.JNL_CKPT_CMD_BUSY 0) 12

/-- The standby takes over, and the recovery window of the marshal opens. -/
def standbyTaking (s : State) (a : Nat) : State :=
  let s2 := jnlLog (marshalOut s a) 0x24 3 0
  setF { s2 with msh := { s2.msh with taking := some (1 - a) } } F.MSH_STAT_STBY_OK 0

theorem failBit_key (a : Nat) : (failBit a).key = F.MSH_STAT_M0_FAIL.key ∨ (failBit a).key = F.MSH_STAT_M1_FAIL.key := by
  unfold failBit
  split
  · exact .inl rfl
  · exact .inr rfl

theorem Noted.activeM {s t : State} (h : Noted s t) : t.activeM = s.activeM := by
  have hsame := congrArg State.activeM h.2
  exact hsame

/-- What the failing marshal's reset leaves. -/
theorem getF_marshalOut_other (s : State) (a : Nat) {f : Fld} (h0 : f.key ≠ F.MSH_STAT_M0_FAIL.key)
    (h1 : f.key ≠ F.MSH_STAT_M1_FAIL.key) (hb : f.key ≠ F.JNL_CKPT_CMD_BUSY.key) (hp : f.key ≠ F.GLB_RST_CAUSE_PREV.key)
    (hc : f.key ≠ F.GLB_RST_CAUSE_CAUSE.key) (hn : f.key ≠ F.GLB_RST_CAUSE_COUNT.key) :
    getF (marshalOut s a) f = getF s f := by
  have hbit : f.key ≠ (failBit a).key := by
    rcases failBit_key a with h | h <;> rw [h] <;> assumption
  simp only [marshalOut, noteReset, incF, getF_setF_other _ _ hn, getF_setF_other _ _ hc, getF_setF_other _ _ hp,
    getF_setF_other _ _ hb, getF_setF_other _ _ hbit, getF_mk]

theorem failBit_marshalOut (s : State) (a : Nat) : getF (marshalOut s a) (failBit a) = 1 := by
  unfold failBit marshalOut noteReset incF failBit
  split <;> simp (disch := decide) only [getF_setF_other, getF_setF_same] <;> rfl

theorem failover_standby {s : State} {a : Nat} (ha : s.activeM = some a) (hok : flagF s F.MSH_STAT_STBY_OK = true) :
    failover s = declarePart (standbyTaking s a) 5 0 := by
  have hlog := jnlLog_noted (marshalOut s a) 0x24 3 0
  have hready : flagF (jnlLog (marshalOut s a) 0x24 3 0) F.MSH_STAT_STBY_OK = true := by
    rw [flagF_iff, hlog.1 _ (by decide), getF_marshalOut_other s a (by decide) (by decide) (by decide) (by decide) (by decide)
      (by decide)]
    exact (flagF_iff _ _).1 hok
  unfold failover
  rw [ha]
  exact if_pos hready

theorem openPart_eq_none_iff (s : State) : openPart s = none ↔ flagF s F.JNL_STAT_RECOVERING = false := by simp [openPart]

/-- Declaring a marshal's failure while no window is open changes only the window's fields, the fault count and the log. -/
theorem declarePart_marshal {s : State} (ho : openPart s = none) :
    declarePart s 5 0 = openWindow (faultBegin (jnlLog (incF s F.JNL_DIP_FAULT_CNT 1) 0x20 3 5) 0) (5, 0) := by
  have hlog := jnlLog_noted (incF s F.JNL_DIP_FAULT_CNT 1) 0x20 3 5
  have hclosed : openPart (faultBegin (jnlLog (incF s F.JNL_DIP_FAULT_CNT 1) 0x20 3 5) 0) = none := by
    rw [openPart_eq_none_iff, flagF_eq_false_iff] at ho ⊢
    rw [faultBegin, getF_mk, hlog.1 _ (by decide), incF, getF_setF_other _ _ (by decide)]
    exact ho
  unfold declarePart
  dsimp only
  rw [hclosed]

theorem openWindow_marshal (s : State) : openWindow s (5, 0)
    = setF (setF (setF s F.JNL_STAT_RECOVERING 1) F.JNL_FAULT_CLASS 5) F.JNL_FAULT_INDEX 0 := rfl

/-- The standby takes over, and the failed marshal is shown. -/
theorem failover_fails {s : State} {a : Nat} (ha : s.activeM = some a) (hok : flagF s F.MSH_STAT_STBY_OK = true)
    (ho : openPart s = none) : (failover s).activeM = none ∧ (failover s).msh.taking = some (1 - a)
      ∧ flagF (failover s) (failBit a) = true := by
  have hlog := jnlLog_noted (marshalOut s a) 0x24 3 0
  have hopen : openPart (standbyTaking s a) = none := by
    rw [openPart_eq_none_iff, flagF_eq_false_iff] at ho ⊢
    unfold standbyTaking
    rw [getF_setF_other _ _ (by decide), getF_mk, hlog.1 _ (by decide), getF_marshalOut_other s a (by decide) (by decide)
      (by decide) (by decide) (by decide) (by decide)]
    exact ho
  have hdeclared := jnlLog_noted (incF (standbyTaking s a) F.JNL_DIP_FAULT_CNT 1) 0x20 3 5
  rw [failover_standby ha hok, declarePart_marshal hopen, openWindow_marshal]
  generalize jnlLog (incF (standbyTaking s a) F.JNL_DIP_FAULT_CNT 1) 0x20 3 5 = t at hdeclared ⊢
  have hbit : ∀ f : Fld, f.key = F.MSH_STAT_M0_FAIL.key ∨ f.key = F.MSH_STAT_M1_FAIL.key → f.key ∉ noteKeys
      ∧ f.key ≠ F.JNL_FAULT_INDEX.key ∧ f.key ≠ F.JNL_FAULT_CLASS.key ∧ f.key ≠ F.JNL_STAT_RECOVERING.key
      ∧ f.key ≠ F.JNL_DIP_FAULT_CNT.key ∧ f.key ≠ F.MSH_STAT_STBY_OK.key := by
    rintro f (h | h) <;> rw [h] <;> decide
  obtain ⟨hnote, hidx, hcls, hrec, hcnt, hstby⟩ := hbit _ (failBit_key a)
  refine ⟨?_, ?_, ?_⟩
  · have hout : (standbyTaking s a).activeM = none := hlog.activeM
    exact hdeclared.activeM.trans hout
  · have htaking : (standbyTaking s a).msh.taking = some (1 - a) := rfl
    exact (congrArg MarshalS.taking hdeclared.msh).trans htaking
  · rw [flagF_iff, getF_setF_other _ _ hidx, getF_setF_other _ _ hcls, getF_setF_other _ _ hrec, faultBegin, getF_mk,
      hdeclared.1 _ hnote, incF, getF_setF_other _ _ hcnt, standbyTaking, getF_setF_other _ _ hstby, getF_mk, hlog.1 _ hnote]
    exact failBit_marshalOut s a

-- ## The takeover (R594, R597)

/-- The marshal that takes over is the active one, its heartbeat taken from now. -/
def tookOver (s : State) (m : Nat) : State :=
  setF { s with activeM := some m, msh := { s.msh with taking := none, hb := now s } } F.MSH_STAT_ACTIVE m

/-- What it has replayed is counted, and the machine is open again. -/
def replayed (s : State) (m n : Nat) : State :=
  let s2 := incF (tookOver s m) F.JNL_CNT_REPLAYED n
  { setF s2 F.REG_CTL_OPEN 1 with rst := { s2.rst with pause := false } }

theorem exec_marshalTakeover {s : State} {m : Nat} {sl : Slot} (ht : s.msh.taking = some m) (hs : shdn s = false)
    (hslot : pickSlot (tookOver s m) m = some sl) : exec .marshalTakeover s = .next (replayed s m
      ((s.msh.done.filter (fun q => decide (sl.jseq < q))).length + (s.jnl.filter (fun e => e.kind == 4)).length)) := by
  have hno : ∀ n, shdn (incF (tookOver s m) F.JNL_CNT_REPLAYED n) = false := by
    intro n
    simp (disch := decide) only [shdn, flagF, incF, tookOver, getF_setF_other, getF_mk]
    exact hs
  change execMarshalTakeover s = _
  unfold execMarshalTakeover
  rw [ht]
  change (match pickSlot (tookOver s m) m with | some sl => _ | none => _) = _
  rw [hslot]
  exact if_neg (ne_true_of_eq_false (hno _))

theorem getF_replayed (s : State) {m : Nat} (n : Nat) (hm : m < 2) : getF (replayed s m n) F.MSH_STAT_ACTIVE = m
    ∧ getF (replayed s m n) F.JNL_CNT_REPLAYED = getF (incF s F.JNL_CNT_REPLAYED n) F.JNL_CNT_REPLAYED
    ∧ getF (replayed s m n) F.REG_CTL_OPEN = 1 := by
  simp (disch := decide) only [replayed, tookOver, incF, getF_mk, getF_setF_other, getF_setF_same, true_and]
  exact ⟨Nat.mod_eq_of_lt hm, rfl⟩

-- ## The checkpoint (R603)

theorem exec_checkpointComplete {s : State} {c : CkptCopy} {a : Nat} (hc : s.msh.copy = some c) (ha : s.activeM = some a) :
    let g := (getF s F.JNL_CKPT_GEN + 1) % 2 ^ 32
    ∃ t sl, exec .checkpointComplete s = .next t ∧ getF t F.JNL_CKPT_GEN = g % 2 ^ F.JNL_CKPT_GEN.w
      ∧ getF t F.JNL_STAT_CKPT_SLOT = c.slot % 2 ^ F.JNL_STAT_CKPT_SLOT.w ∧ getF t F.JNL_CKPT_CMD_BUSY = 0
      ∧ t.msh.copy = none ∧ Sparse.find t.msh.slots (2 * (1 - a) + c.slot) = some sl ∧ sl.gen = g ∧ sl.jseq = c.jseq
      ∧ sl.len = c.len ∧ t.mem = s.mem ∧ t.reqs = s.reqs := by
  intro g
  have hexec : exec .checkpointComplete s = execCheckpointComplete s := rfl
  unfold execCheckpointComplete at hexec
  rw [hc, ha] at hexec
  refine ⟨_, _, hexec, ?_, ?_, getF_setF_same _ _ _, rfl, Sparse.find_put_same _ _ _, rfl, rfl, rfl, rfl, rfl⟩
  · simp (disch := decide) only [getF_setF_other, getF_setF_same]
    rfl
  · exact (getF_setF_other _ _ (by decide)).trans (getF_setF_same _ _ _)

/-- Settles O45: the heartbeat, the failover, the takeover, the checkpoint and the recovery window. -/
theorem marshalsAndPartsFail : Obligations.MarshalsAndPartsFail := by
  refine ⟨fun s hact hfw ha => ?_, fun s ha => if_pos ha, fun a s ha hok ho => failover_fails ha hok ho,
    fun m sl s ht hm hs => ?_, fun c a s hc ha => exec_checkpointComplete hc ha, fun cls idx s hp ha => ?_,
    fun s => ⟨fun h => if_pos h, fun h => if_neg (by simp [h])⟩⟩
  · rw [exec_heartbeatTimeout hact hfw ha]
    exact ⟨fun h => by rw [if_neg (Nat.not_le.2 h)], fun h => by rw [if_pos h]⟩
  · intro u hslot n
    obtain ⟨hactive, hreplayed, hopen⟩ := getF_replayed s n hm
    exact ⟨_, exec_marshalTakeover ht hs hslot, rfl, rfl, rfl, hactive, hreplayed, hopen, rfl, rfl, rfl⟩
  · exact if_neg (by simp [hp, ha])

end Sys2Proof.Machine
end

section
/-! SUPPORT. What the admission of a request changes: the requests and combining entries, the calendars and their charges, the
journal, and the events that this notes; every other part of the state stays (`Submitted`). -/

namespace Sys2Proof.Machine

/-- The keys of the register fields that an admission can change; a track's or a lane's field stands in each block of 1,024
bytes. -/
def submitKey (k : Nat) : Bool := decide (k ∈ jnlKeys) || k % 8192 == 1072 || k % 8192 == 2064 || k % 8192 == 2096

/-- The state without what an admission changes. -/
def unsubmitted (s : State) : State :=
  unjournaled { s with reqs := [], nextId := 0, comb := [], fine := [], coarse := [], pcharge := [], pagesOut := [] }

/-- `t` is `s` but for what an admission changes. -/
def Submitted (s t : State) : Prop :=
  (∀ f : Fld, submitKey f.key = false → getF t f = getF s f) ∧ unsubmitted t = unsubmitted s

theorem Submitted.refl (s : State) : Submitted s s := ⟨fun _ _ => rfl, rfl⟩

theorem Submitted.trans {s t u : State} (h : Submitted s t) (g : Submitted t u) : Submitted s u :=
  ⟨fun f k => (g.1 f k).trans (h.1 f k), g.2.trans h.2⟩

theorem Submitted.ite {s a b : State} {c : Prop} [Decidable c] (h : Submitted s a) (g : Submitted s b) :
    Submitted s (if c then a else b) := by split <;> assumption

theorem Submitted.of_journaled {s t : State} (h : Journaled s t) : Submitted s t := by
  refine ⟨fun f hk => h.1 f fun hf => ?_, ?_⟩
  · simp [submitKey, hf] at hk
  · exact congrArg (fun u : State =>
      { u with reqs := [], nextId := 0, comb := [], fine := [], coarse := [], pcharge := [], pagesOut := [] }) h.2

theorem Submitted.of_noted {s t : State} (h : Noted s t) : Submitted s t := .of_journaled (.of_noted h)

/-- An update of what `unsubmitted` forgets. -/
theorem Submitted.of_regs {s t : State} (h : t.regs = s.regs) (g : unsubmitted t = unsubmitted s) : Submitted s t :=
  ⟨fun f _ => getF_of_regs h f, g⟩

theorem setF_submitted (s : State) (f : Fld) (v : Nat) (h : submitKey f.key = true) : Submitted s (setF s f v) :=
  ⟨fun _ hg => getF_setF_other s v fun e => by simp [e, h] at hg, rfl⟩

theorem Submitted.foldl {α : Type} {g : State → α → State} (h : ∀ t x, Submitted t (g t x)) (l : List α) (s : State) :
    Submitted s (l.foldl g s) := foldl_related .refl .trans h l s

theorem Submitted.rst {s t : State} (h : Submitted s t) : t.rst = s.rst := by
  have hsame := congrArg State.rst h.2
  exact hsame

theorem Submitted.parked {s t : State} (h : Submitted s t) : t.parked = s.parked := by
  have hsame := congrArg State.parked h.2
  exact hsame

theorem Submitted.tasks {s t : State} (h : Submitted s t) : t.tasks = s.tasks := by
  have hsame := congrArg State.tasks h.2
  exact hsame

theorem Submitted.moves {s t : State} (h : Submitted s t) : t.moves = s.moves := by
  have hsame := congrArg State.moves h.2
  exact hsame

-- ## The calendars (R247, R254, R280)

theorem notePeak_submitted (s : State) (b : Nat) (c : Charge) : Submitted s (notePeak s b c) := by
  refine .foldl (fun t p => ?_) c.tracks s
  dsimp only
  refine .ite (setF_submitted _ _ _ ?_) (.refl t)
  have hkey : (F.TRK_CAL_STAT_PEAK p.1).key % 8192 = 2064 := by
    simp only [Fld.key, F.TRK_CAL_STAT_PEAK]
    omega
  simp [submitKey, hkey]

theorem countRef_submitted (s : State) (bf be : Nat) (c : Charge) : Submitted s (countRef s bf be c) := by
  unfold countRef
  extract_lets l
  clear_value l
  split
  · exact .refl s
  next t _ =>
    have hkey : (F.TRK_CAL_CNT_REF t).key % 8192 = 2096 := by
      simp only [Fld.key, F.TRK_CAL_CNT_REF]
      omega
    exact setF_submitted _ _ _ (by simp [submitKey, hkey])

theorem bookCoarse_submitted (s : State) (step k : Nat) (c : Charge) : Submitted s (bookCoarse s step k c) := .of_regs rfl rfl

theorem bookFine_submitted (s : State) (step b : Nat) (c : Charge) : Submitted s (bookFine s step b c) := by
  unfold bookFine
  extract_lets s1
  have h1 : Submitted s s1 := .of_regs rfl rfl
  refine ((h1.trans (bookCoarse_submitted s1 step (b / 1024) c)).trans (notePeak_submitted _ b c)).trans ?_
  exact .of_regs rfl rfl

theorem decideAdm_submitted (s : State) (trx promise : Nat) (c : Charge) : Submitted s (decideAdm s trx promise c).2 := by
  unfold decideAdm
  extract_lets d bf be st s1
  have h1 : Submitted s s1 := countRef_submitted s bf be c
  repeat' split
  · exact .refl s
  · exact bookFine_submitted ..
  · exact bookCoarse_submitted ..
  all_goals exact h1

theorem admission_submitted (s : State) (cls trx promise : Nat) (c : Charge) :
    Submitted s (admission s cls trx promise c).2 := by
  unfold admission
  split
  · exact .refl s
  · split
    · exact .refl s
    · exact decideAdm_submitted ..

theorem bookWindow_submitted (step : Nat) (c : Charge) (n : Nat) (s : State) (b : Nat) {t : State}
    (h : bookWindow step c n s b = some t) : Submitted s t := by
  induction n generalizing s b with
  | zero =>
    obtain rfl := Option.some.inj h
    exact .refl s
  | succ n ih =>
    unfold bookWindow at h
    split at h
    · exact (bookFine_submitted ..).trans (ih _ _ h)
    · cases h

-- ## The requests

theorem putReq_submitted (s : State) (r : Request) : Submitted s (putReq s r) := .of_regs rfl rfl

theorem addReq_submitted (s : State) (r : Request) : Submitted s (addReq s r) := .of_regs rfl rfl

theorem dropReq_submitted (s : State) (id : Nat) : Submitted s (dropReq s id) := .of_regs rfl rfl

theorem dropComb_submitted (s : State) (l c k : Nat) : Submitted s (dropComb s l c k) := .of_regs rfl rfl

/-- An accepted access of a unit or of a combining entry waits for its release. -/
theorem accept_submitted {r : Request} (s : State) (pl : Place) (hlane : ∀ l c, r.org ≠ .lane l c)
    (hmesh : ∀ k w i q, r.org ≠ .mesh k w i q) (hdata : isData r.h.op = true) : Submitted s (accept s r pl) := by
  have hlaunch : r.h.op ≠ 0x16 := fun e => absurd (e ▸ hdata) (by decide)
  have hctr : Submitted s (ctrEvent s 0x03 (reqId r.org) 1 (ctxOf r)) := .of_noted (ctrEvent_noted ..)
  unfold accept
  extract_lets b r1 s1 s2 go
  have h2 : s2 = s1 := by
    cases horg : r.org <;> simp only [s2, horg]
    exact absurd horg (hlane _ _)
  have hdone : Submitted s (proceed s2 r1) := by
    rw [h2, proceed, if_pos (by simp [r1, hdata])]
    exact hctr.trans (putReq_submitted _ _)
  split
  next k w i q horg => exact absurd horg (hmesh _ _ _ _)
  next => rwa [if_neg hlaunch]

theorem submitUnit_submitted {s u : State} {r : Request} (hlane : ∀ l c, r.org ≠ .lane l c)
    (hmesh : ∀ k w i q, r.org ≠ .mesh k w i q) (hdata : isData r.h.op = true) (h : submitUnit s r = some u) :
    Submitted s u := by
  unfold submitUnit at h
  extract_lets p c at h
  have hadm := admission_submitted s r.h.cls (now s) p c.1
  split at h
  next pl s1 hres =>
    obtain rfl := Option.some.inj h
    rw [hres] at hadm
    exact hadm.trans (accept_submitted s1 pl hlane hmesh hdata)
  · cases h

-- ## Combining entries that close (R482, R483)

theorem submitWriteBack_submitted (s : State) {r : Request} {l c k : Nat} (horg : r.org = .combine l c k)
    (hdata : isData r.h.op = true) : Submitted s (submitWriteBack s r) := by
  unfold submitWriteBack
  extract_lets p ch lane again
  have hagain : ∀ t v, Submitted t (again t v) := fun t v =>
    .ite ((dropComb_submitted t _ _ _).trans (dropReq_submitted _ _)) (putReq_submitted t _)
  have hadm := admission_submitted s 7 (now s) p ch.1
  split
  next pl s1 hres =>
    rw [hres] at hadm
    refine hadm.trans (accept_submitted s1 pl ?_ ?_ hdata)
    · intro l c h
      cases horg.symm.trans h
    · intro k w i q h
      cases horg.symm.trans h
  all_goals
    next v s1 hres =>
      rw [hres] at hadm
      exact hadm.trans (hagain s1 v)

theorem closeComb_submitted (s : State) (e : CombEntry) : Submitted s (closeComb s e) := by
  have hkey : (F.LANE_COMB_CNT_WRBACK e.lane).key % 8192 = 1072 := by
    simp only [Fld.key, F.LANE_COMB_CNT_WRBACK]
    omega
  unfold closeComb
  extract_lets h beat r0 r s1 mark
  have h1 : Submitted s s1 := setF_submitted _ _ _ (by simp [submitKey, hkey])
  refine .ite (.refl s) (.ite (dropComb_submitted s _ _ _) (h1.trans ?_))
  have hmark : Submitted s1 { s1 with comb := s1.comb.map mark, reqs := s1.reqs ++ [r], nextId := s1.nextId + 1 } :=
    .of_regs rfl rfl
  exact hmark.trans (submitWriteBack_submitted _ rfl rfl)

-- ## The pages of a move (R498)

theorem readPage_submitted (s : State) (m : Move) (j k : Nat) : Submitted s (readPage s m j k) := by
  have hout : Submitted s { s with pagesOut := s.pagesOut ++ [⟨m.id, j, k, 0, 0, []⟩] } := .of_regs rfl rfl
  exact hout.trans (.foldl (fun t b => addReq_submitted t _) _ _)

theorem startPages_submitted (s : State) (m : Move) : Submitted s (startPages s m) := by
  refine .foldl (fun t x => ?_) m.pend s
  split
  · exact readPage_submitted ..
  · exact .of_noted (emit_noted _ _)

end Sys2Proof.Machine
end

section
/-! SUPPORT. The triggers of the resets, the cold and the warm reset, and the supplies (R599, R716, R753 to R757, R759, R760,
R766). Settles O46. -/

namespace Sys2Proof.Machine

-- ## The fields that a reset keeps

theorem find_keep {α : Type} (m : Sparse α) (p : Nat → Bool) (k : Nat) :
    Sparse.find (Sparse.keep m p) k = if p k then Sparse.find m k else none := by
  induction m with
  | nil => simp [Sparse.keep]
  | cons x m ih =>
    obtain ⟨j, v⟩ := x
    have hcons : Sparse.keep ((j, v) :: m) p = if p j then (j, v) :: Sparse.keep m p else Sparse.keep m p :=
      List.filter_cons
    rw [hcons, Sparse.find]
    by_cases hj : j = k
    · subst hj
      cases hp : p j <;> simp [hp, ih, Sparse.find]
    · cases hp : p j <;> simp [hj, ih, Sparse.find]

/-- A field that the test keeps. -/
theorem getF_keepFields_kept (s : State) {keep : Fld → Bool} {f : Fld} (hat : fldAt f.key = some f) (h : keep f = true) :
    getF (keepFields s keep) f = getF s f := by
  simp [getF, keepFields, Sparse.at, find_keep, hat, h]

/-- A field that the test does not keep has its value after reset. -/
theorem getF_keepFields_reset (s : State) {keep : Fld → Bool} {f : Fld} (hat : fldAt f.key = some f) (h : keep f = false) :
    getF (keepFields s keep) f = f.rst % 2 ^ f.w := by
  simp [getF, keepFields, Sparse.at, find_keep, hat, h]

-- ## The cold reset (R753, R756)

/-- The state of a cold reset before its cause is noted. -/
def coldCleared (s : State) : State :=
  let k := keepFields s alwaysOn
  let c := State.reset
  let s1 : State := { c with
    pending := s.pending, free := s.free, out := s.out, regs := k.regs, integ := { c.integ with gasp := s.integ.gasp },
    msh := { c.msh with otp := s.msh.otp }, rst := { c.rst with pfail := s.rst.pfail },
    clk := { c.clk with rails := s.clk.rails, vaon := s.clk.vaon, powerOk := s.clk.powerOk } }
  setF s1 F.CPM_AON_STAT_AON_STATE 0

theorem coldState_eq (s : State) (cause : Nat) : coldState s cause = noteReset (coldCleared s) cause := rfl

/-- What a noted reset changes. -/
theorem getF_noteReset (s : State) (cause : Nat) :
    getF (noteReset s cause) F.GLB_RST_CAUSE_CAUSE = cause % 16
    ∧ getF (noteReset s cause) F.GLB_RST_CAUSE_PREV = getF s F.GLB_RST_CAUSE_CAUSE
    ∧ getF (noteReset s cause) F.GLB_RST_CAUSE_COUNT = getF (incF s F.GLB_RST_CAUSE_COUNT 1) F.GLB_RST_CAUSE_COUNT := by
  have hlt : getF s F.GLB_RST_CAUSE_CAUSE < 16 := getF_lt s F.GLB_RST_CAUSE_CAUSE
  simp (disch := decide) only [noteReset, incF, getF_setF_other, getF_setF_same, and_true]
  exact ⟨rfl, Nat.mod_eq_of_lt hlt⟩

theorem getF_noteReset_other (s : State) (cause : Nat) {f : Fld} (hp : f.key ≠ F.GLB_RST_CAUSE_PREV.key)
    (hc : f.key ≠ F.GLB_RST_CAUSE_CAUSE.key) (hn : f.key ≠ F.GLB_RST_CAUSE_COUNT.key) :
    getF (noteReset s cause) f = getF s f := by
  simp only [noteReset, incF, getF_setF_other _ _ hn, getF_setF_other _ _ hc, getF_setF_other _ _ hp]

theorem getF_coldCleared {s : State} {f : Fld} (h : f.key ≠ F.CPM_AON_STAT_AON_STATE.key) :
    getF (coldCleared s) f = getF (keepFields s alwaysOn) f :=
  (getF_setF_other _ _ h).trans (getF_of_regs rfl f)

/-- After a cold reset: its cause, the record of the last wake, the burned OTP, and no work. -/
theorem coldState_clears (s : State) {cause : Nat} (hc : cause < 16) :
    let t := coldState s cause
    getF t F.GLB_RST_CAUSE_CAUSE = cause ∧ getF t F.GLB_RST_CAUSE_PREV = getF s F.GLB_RST_CAUSE_CAUSE ∧ aonState t = 0
    ∧ getF t F.GLB_RST_CAUSE_COUNT = getF (incF s F.GLB_RST_CAUSE_COUNT 1) F.GLB_RST_CAUSE_COUNT
    ∧ getF t F.CPM_AON_LAST_SOURCE = getF s F.CPM_AON_LAST_SOURCE ∧ getF t F.REG_CTL_OPEN = 0
    ∧ t.mem = [] ∧ t.reqs = [] ∧ t.jnl = [] ∧ t.tasks = [] ∧ t.msh.otp = s.msh.otp ∧ t.rst.coldRun = true ∧ t.rst.due = 0
    ∧ t.cad.st = .unlocked := by
  intro t
  obtain ⟨hcause, hprev, hcount⟩ := getF_noteReset (coldCleared s) cause
  refine ⟨hcause.trans (Nat.mod_eq_of_lt hc), hprev.trans ?_, ?_, hcount.trans ?_, ?_, ?_, rfl, rfl, rfl, rfl, rfl, rfl,
    rfl, rfl⟩
  · exact (getF_coldCleared (by decide)).trans (getF_keepFields_kept s (by decide) (by decide))
  · exact (getF_noteReset_other _ cause (by decide) (by decide) (by decide)).trans (getF_setF_same _ _ _)
  · rw [incF, incF, getF_setF_same, getF_setF_same, getF_coldCleared (by decide),
      getF_keepFields_kept s (by decide) (by decide)]
  · exact (getF_noteReset_other _ cause (by decide) (by decide) (by decide)).trans
      ((getF_coldCleared (by decide)).trans (getF_keepFields_kept s (by decide) (by decide)))
  · exact (getF_noteReset_other _ cause (by decide) (by decide) (by decide)).trans
      ((getF_coldCleared (by decide)).trans (getF_keepFields_reset s (by decide) (by decide)))

-- ## The warm reset (R599, R755)

/-- The warm reset runs: its cause is noted, and the work pauses. -/
def warmTaken (s : State) : State :=
  let s1 := noteReset s s.rst.due
  { s1 with rst := { s1.rst with due := 0, warm := s.rst.due, pause := true },
            clk := { s1.clk with stopped := false, safeDead := false } }

theorem exec_warmReset {s : State} (hlo : 8 ≤ s.rst.due) (hhi : s.rst.due ≤ 10) (ha : aonState s = 0) :
    exec .warmReset s = .next (parkWork (warmTaken s)) :=
  if_neg (by simp [ha]; omega)

theorem parkWork_submitted (s : State) :
    Submitted { s with parked := true, tasks := s.tasks.map (setParked true) } (parkWork s) :=
  .foldl closeComb_submitted _ _

/-- A warm reset parks all work, and keeps the cause. -/
theorem warmReset_parks {s : State} (hlo : 8 ≤ s.rst.due) (hhi : s.rst.due ≤ 10) :
    let t := parkWork (warmTaken s)
    t.rst.warm = s.rst.due ∧ t.rst.due = 0 ∧ t.parked = true ∧ getF t F.GLB_RST_CAUSE_CAUSE = s.rst.due
    ∧ getF t F.GLB_RST_CAUSE_PREV = getF s F.GLB_RST_CAUSE_CAUSE ∧ ∀ k ∈ t.tasks, k.parked = true := by
  intro t
  have hpark : Submitted _ t := parkWork_submitted (warmTaken s)
  obtain ⟨hcause, hprev, -⟩ := getF_noteReset s s.rst.due
  refine ⟨congrArg Rst.warm hpark.rst, congrArg Rst.due hpark.rst, hpark.parked, ?_, ?_, ?_⟩
  · exact (hpark.1 _ (by decide)).trans (hcause.trans (Nat.mod_eq_of_lt (by omega)))
  · exact (hpark.1 _ (by decide)).trans hprev
  · rw [hpark.tasks]
    intro k hk
    obtain ⟨x, -, rfl⟩ := List.mem_map.1 hk
    rfl

-- ## The end of a warm reset

/-- `t` is in the reset that `s` is in, its work parked or not as in `s`. -/
def SameReset (s t : State) : Prop := t.rst = s.rst ∧ t.parked = s.parked

theorem SameReset.refl (s : State) : SameReset s s := ⟨rfl, rfl⟩

theorem SameReset.trans {s t u : State} (h : SameReset s t) (g : SameReset t u) : SameReset s u :=
  ⟨g.1.trans h.1, g.2.trans h.2⟩

theorem SameReset.of_submitted {s t : State} (h : Submitted s t) : SameReset s t := ⟨h.rst, h.parked⟩

theorem SameReset.foldl {α : Type} {g : State → α → State} (h : ∀ t x, SameReset t (g t x)) (l : List α) (s : State) :
    SameReset s (l.foldl g s) := foldl_related .refl .trans h l s

theorem jnlWrite_sameReset (s : State) (e : JEntry) (st : Nat) : SameReset s (jnlWrite s e st) :=
  .of_submitted (.of_journaled (jnlWrite_journaled s e st))

theorem parkEntries_sameReset (s : State) : SameReset s (parkEntries s) := .foldl (fun t e => jnlWrite_sameReset t e 2) _ s

theorem warmLogic_sameReset (s : State) : SameReset s (warmLogic s) := by
  unfold warmLogic
  extract_lets s1 s2 s3 m msh s4
  have h4 : SameReset s s4 := ⟨rfl, rfl⟩
  have hend : SameReset s4 (faultEnd s4 0) := ⟨rfl, rfl⟩
  clear_value s4
  refine (h4.trans hend).trans (.foldl (fun t id => ?_) _ _)
  split
  · exact ⟨rfl, rfl⟩
  · exact .refl t

theorem restartMove_sameReset (s : State) (m : Move) : SameReset s (restartMove s m) := by
  unfold restartMove
  extract_lets m1
  have hput : SameReset s (putMove (withdrawMove s m.id 0) m1) := ⟨rfl, rfl⟩
  exact hput.trans (.of_submitted (startPages_submitted _ m1))

theorem resumeWork_resumes (s : State) : (resumeWork s).rst = s.rst ∧ (resumeWork s).parked = false := by
  unfold resumeWork
  extract_lets s1 s2
  have h2 : SameReset s1 s2 := .foldl (fun t e => jnlWrite_sameReset t e 1) _ s1
  obtain ⟨hrst, hparked⟩ := h2.trans (.foldl restartMove_sameReset _ s2)
  exact ⟨hrst, hparked⟩

/-- The warm reset ends, and the work goes on. -/
def warmEnded (s : State) : State := resumeWork { s with rst := { s.rst with warm := 0 } }

/-- The warm logic reset, and the work that goes on after it. -/
def warmResumed (s : State) : State := warmEnded (warmLogic (writeMark (parkEntries s) 3 0 0))

theorem warmResumed_resumes (s : State) : (warmResumed s).rst = { s.rst with warm := 0 } ∧ (warmResumed s).parked = false := by
  have hmark : SameReset s (writeMark (parkEntries s) 3 0 0) :=
    (parkEntries_sameReset s).trans (.of_submitted (.of_journaled (writeMark_journaled ..)))
  have hlogic := hmark.trans (warmLogic_sameReset _)
  obtain ⟨hrst, hparked⟩ := resumeWork_resumes { warmLogic (writeMark (parkEntries s) 3 0 0) with
    rst := { (warmLogic (writeMark (parkEntries s) 3 0 0)).rst with warm := 0 } }
  exact ⟨hrst.trans (congrArg (fun r : Rst => { r with warm := 0 }) hlogic.1), hparked⟩

/-- The drain's end ends the warm reset; what it logs and traces is noted. -/
theorem exec_warmResume_drained {s : State} (hw : s.rst.warm ≠ 0) (hd : drained s = true) (hs : s.rst.shutDue = false) :
    ∃ t, exec .warmResume s = .next t ∧ Noted (warmResumed s) t := by
  have hexec : exec .warmResume s = execWarmResume s := rfl
  unfold execWarmResume at hexec
  rw [if_neg (by simp [hw, hd])] at hexec
  extract_lets c s1 rst s2 s3 s4 at hexec
  have h1 : warmEnded s1 = warmResumed s := rfl
  clear_value s1
  have h2 : s2 = warmEnded s1 := rfl
  rw [← h1, ← h2]
  have hlog := jnlLog_noted s2 0x2A 0 0
  have hevt := logEvt_noted (jnlLog s2 0x2A 0 0) 0x3D 0 15 0xFF 0 0 0 c
  have h3 : Noted s2 s3 := hlog.trans hevt
  have h4 : Noted s2 s4 := h3.trans (trcPush_noted s3 _)
  have hno : s4.rst.shutDue = false := by
    rw [h4.rst, h2, h1, (warmResumed_resumes s).1]
    exact hs
  clear_value s4
  rw [if_neg (by simp [hno])] at hexec
  exact ⟨s4, hexec, h4⟩

theorem exec_warmResume_busy {s : State} (hd : drained s = false) : exec .warmResume s = .next s := if_pos (by simp [hd])

-- ## The triggers (R753 to R755, R757)

theorem triggerCold_busy {s : State} (cause : Nat) (h : s.rst.coldRun = true ∨ (s.rst.due ≠ 0 ∧ s.rst.due ≤ 7)) :
    triggerCold s cause = incF s F.GLB_RST_CAUSE_IGNORED 1 := if_pos (by simpa using h)

theorem triggerCold_takes {s : State} (cause : Nat) (h : ¬ (s.rst.coldRun = true ∨ (s.rst.due ≠ 0 ∧ s.rst.due ≤ 7))) :
    triggerCold s cause = { s with rst := { s.rst with due := cause, warm := 0 } } := if_neg (by simpa using h)

theorem triggerWarm_busy {s : State} (cause : Nat)
    (h : s.rst.coldRun = true ∨ s.rst.due ≠ 0 ∨ s.rst.warm ≠ 0 ∨ shdn s = true) :
    triggerWarm s cause = incF s F.GLB_RST_CAUSE_IGNORED 1 :=
  if_pos (by
    simp only [Bool.or_eq_true, bne_iff_ne]
    rcases h with h | h | h | h <;> simp [h])

/-- A master other than a marshal and the debug port issues a reset by its register. -/
theorem exec_rstCmd {m : Master} {s : State} (hr : reaches m 0x14 s = true) (hdbg : m ≠ .debug) (hmsh : m ≠ .marshal) :
    exec (.warm m) s = .next (triggerWarm s 9) ∧ exec (.cold m) s = .next (triggerCold s 3) := by
  have hmark : ∀ w t, debugMark m 0x14 w t = t := fun w t => if_neg fun h => hdbg h.1
  refine ⟨?_, ?_⟩
  · refine (next_asWrite_of_reaches 1 hr rfl).trans (congrArg _ ?_)
    rw [hmark, rstWarm, if_neg hmsh]
  · refine (next_asWrite_of_reaches 2 hr rfl).trans (congrArg _ ?_)
    rw [hmark, rstCold, if_neg hmsh]

-- ## The supplies (R716, R759, R760, R766)

theorem exec_supplyReset {s : State} (ha : aonState s = 0 ∨ aonState s = 2) (hp : s.clk.powerOk = true)
    (h : ¬ (s.rst.coldRun = true ∨ (s.rst.due ≠ 0 ∧ s.rst.due ≤ 7))) :
    exec .supplyReset s = .next (coldState { s with clk := { s.clk with powerOk := false } } 4) := by
  change execSupplyReset s = _
  unfold execSupplyReset
  rw [if_neg (by rcases ha with ha | ha <;> simp [ha, hp]), if_neg (by simpa using h)]

theorem exec_railsApplied_off {s : State} (ha : aonState s = 3) (hr : s.clk.rails = false) (hv : s.clk.vaon = true)
    (h : ¬ (s.rst.coldRun = true ∨ (s.rst.due ≠ 0 ∧ s.rst.due ≤ 7))) : exec .railsApplied s = .next
      { s with rst := { s.rst with due := 7, warm := 0 }, clk := { s.clk with rails := true } } := by
  change execRailsApplied s = _
  unfold execRailsApplied
  rw [if_neg (by simp [hr, hv]), if_pos ha]
  exact congrArg _ (triggerCold_takes (s := { s with clk := { s.clk with rails := true } }) 7 h)

/-- Settles O46: the triggers, the cold and the warm reset, and the supplies. -/
theorem resetsAreTakenWhenDue : Obligations.ResetsAreTakenWhenDue := by
  intro s busyCold ignored coldDue warmFree afterCold
  refine ⟨fun hv hb => ?_, fun hv hb => ?_, fun hv hf => ?_, fun hv hb => ?_, fun m hr hdbg hmsh => ⟨fun hf => ?_, fun hb => ?_⟩,
    fun hlo hhi hv => ?_, fun hd => ⟨?_, ?_⟩, fun hlo hhi ha => ?_, fun hw hd hs => ?_, fun _ hd => exec_warmResume_busy hd,
    fun ha hp hb => ?_, rfl, fun ha => if_pos (by simpa using ha), fun ha hr hv hb => exec_railsApplied_off ha hr hv hb, ?_,
    fun ha => ?_⟩
  · exact (if_pos hv).trans (congrArg _ (triggerCold_busy 2 hb))
  · exact (if_pos hv).trans (congrArg _ (triggerCold_takes 2 hb))
  · obtain ⟨hr, hd, hw, hs, hstop⟩ := hf
    exact (if_pos hv).trans (congrArg _ (triggerWarm_free 8 hr hd hw hs hstop))
  · exact (if_pos hv).trans (congrArg _ (triggerWarm_busy 8 hb))
  · obtain ⟨hr', hd, hw, hs, hstop⟩ := hf
    rw [(exec_rstCmd hr hdbg hmsh).1, triggerWarm_free 9 hr' hd hw hs hstop]
  · rw [(exec_rstCmd hr hdbg hmsh).2, triggerCold_takes 3 hb]
  · exact ⟨_, if_pos ⟨hlo, hhi, hv⟩, coldState_clears s (by omega), rfl⟩
  · exact if_neg fun h => absurd h.1 (by omega)
  · exact if_pos (by simp [hd])
  · exact ⟨_, exec_warmReset hlo hhi ha, warmReset_parks hlo hhi⟩
  · obtain ⟨t, hexec, hnoted⟩ := exec_warmResume_drained hw hd hs
    obtain ⟨hrst, hparked⟩ := warmResumed_resumes s
    exact ⟨t, hexec, by rw [hnoted.rst, hrst], (SameReset.of_submitted (.of_noted hnoted)).2.trans hparked⟩
  · exact ⟨_, exec_supplyReset ha hp hb, coldState_clears _ (by decide), rfl⟩
  · exact ⟨_, rfl, rfl, rfl, rfl, rfl, rfl⟩
  · refine ⟨_, if_pos (by simpa using ha), getF_setF_same _ _ _, rfl, rfl, rfl, ?_⟩
    exact getF_setF_other _ _ (by decide)

end Sys2Proof.Machine
end

section
/-! SUPPORT. The spills and fills between the array and its tiers (R505, R507, R511, R514, R517 to R519). Settles O43. -/

namespace Sys2Proof.Machine

-- ## The fields of a bib (R332)

theorem bibField_submitKey {b : Nat} (hb : b < 4096) : submitKey (F.BIB_CTL_PLACE b).key = false := by
  have hout : ∀ k ∈ jnlKeys, k < 8 * 0x30000 ∨ 8 * 0x40000 ≤ k := by decide
  have hkey : (F.BIB_CTL_PLACE b).key = 8 * 0x30000 + 128 * b + 1 := by
    simp only [Fld.key, F.BIB_CTL_PLACE]
    omega
  have hnot : (F.BIB_CTL_PLACE b).key ∉ jnlKeys := fun h => by
    have := hout _ h
    omega
  have h1 : (F.BIB_CTL_PLACE b).key % 8192 ≠ 1072 := by omega
  have h2 : (F.BIB_CTL_PLACE b).key % 8192 ≠ 2064 := by omega
  have h3 : (F.BIB_CTL_PLACE b).key % 8192 ≠ 2096 := by omega
  simp [submitKey, hnot, h1, h2, h3]

theorem place_ne_loc (b c : Nat) : (F.BIB_CTL_PLACE b).key ≠ (F.BIB_LOC_LOC c).key := by
  simp only [Fld.key, F.BIB_CTL_PLACE, F.BIB_LOC_LOC]
  omega

theorem place_ne_place {b c : Nat} (h : b ≠ c) : (F.BIB_CTL_PLACE b).key ≠ (F.BIB_CTL_PLACE c).key := by
  simp only [Fld.key, F.BIB_CTL_PLACE]
  omega

-- ## The doorbell of a ring (R507)

/-- The read of the descriptor that a ring takes next. -/
def descRead (s : State) (p : Nat) : Request :=
  let i := Sparse.at s.ringTaken p 0 % ringLen s p
  let a := ringAddr s p i 0
  { blankReq s.nextId (.spill p) (unitHdr 0 7 15 63 a) [] (now s) with
    base := a, accs := [readAcc (a / 64) 0 0 0], aux := [1, i] }

/-- The ring's doorbell has rung for one more descriptor than it has taken. -/
def doorbellRung (s : State) (p : Nat) : Bool :=
  reached (getF s (F.BTN_CNT_COUNT (getF s (F.SPL_RING_BATON_DOORBELL p)))) ((Sparse.at s.ringTaken p 0 + 1) % 2 ^ 32)

theorem exec_moveDescriptorRead_silent {p : Nat} {s : State} (hno : doorbellRung s p = false) :
    exec (.moveDescriptorRead p) s = .next s := by
  have hreached : reached (getF s (F.BTN_CNT_COUNT (getF s (F.SPL_RING_BATON_DOORBELL p))))
      ((Sparse.at s.ringTaken p 0 + 1) % 2 ^ 32) = false := hno
  change execMoveDescriptorRead p s = _
  unfold execMoveDescriptorRead
  cases arrayRuns s with
  | false => rfl
  | true => exact (if_neg (by simp)).trans (if_pos (by rw [hreached, Bool.not_false, Bool.or_true]))

theorem exec_moveDescriptorRead_rung {p : Nat} {s u : State} (hrun : arrayRuns s = true) (hp : p < 16)
    (hen : flagF s F.SPL_CTL_EN = true) (hring : ringUsable s p = true) (hpark : s.parked = false)
    (hrung : doorbellRung s p = true)
    (hsub : submitUnit { s with reqs := s.reqs ++ [descRead s p], nextId := s.nextId + 1 } (descRead s p) = some u) :
    exec (.moveDescriptorRead p) s = .next
      (setF { u with ringTaken := Sparse.set u.ringTaken p ((Sparse.at s.ringTaken p 0 + 1) % 2 ^ 32) 0 }
        (F.SPL_RING_POS_TAKEN p) (Sparse.at s.ringTaken p 0 + 1)) := by
  change execMoveDescriptorRead p s = _
  unfold execMoveDescriptorRead
  extract_lets taken i a blank r
  have hreached : reached (getF s (F.BTN_CNT_COUNT (getF s (F.SPL_RING_BATON_DOORBELL p)))) ((taken + 1) % 2 ^ 32) = true :=
    hrung
  have hread : submitUnit { s with reqs := s.reqs ++ [r], nextId := s.nextId + 1 } r = some u := hsub
  rw [if_neg (by simp [hrun]), if_neg (by rw [hen, hring, hpark, hreached]; simp [hp]), hread]

-- ## A descriptor is taken (R511, R514)

/-- A descriptor that fails a check gets a completion record with the CODE and the CAUSE. -/
theorem takeDesc_refused {s s0 : State} {d : MvDesc} {e : MoveStop} (h0 : s0 = { s with descs := s.descs.erase d })
    (h : checkMove s0 d = .error e) : takeDesc s d [] = writeRecord (noteMoveRefused s0 e) d.p d.idx d.word e.1.1 e.1.2.1 0
      (if e.1.1 = 7 then 0 else e.1.2.2) 0 (if e.1.1 = 7 then e.1.2.2 else 0) := by
  unfold takeDesc
  rw [← h0]
  extract_lets u s1
  have h1 : s1 = s0 := by simp only [s1, u, readBibs_sound, ite_self]
  rw [h1, h]
  simp only [beq_iff_eq]

theorem takeDesc_admitted {s s0 : State} {d : MvDesc} {m : MovePlan} {x n prom : Nat} {ch : Charge}
    (h0 : s0 = { s with descs := s.descs.erase d }) (h : checkMove s0 d = .ok (m, x, n, ch, prom)) :
    takeDesc s d [] = admitMove s0 d m x n ch prom := by
  unfold takeDesc
  rw [← h0]
  extract_lets u s1
  have h1 : s1 = s0 := by simp only [s1, u, readBibs_sound, ite_self]
  rw [h1, h]

/-- The PLACE of a bib that a move of a kind holds. -/
def heldPlace (kind : Nat) : Nat := if kind = 1 then 5 else 4

theorem getF_claimBib (s : State) (kind b g c : Nat) : getF (claimBib s kind b g) (F.BIB_CTL_PLACE c)
    = if c = b then heldPlace kind else getF s (F.BIB_CTL_PLACE c) := by
  have hset : ∀ v, v < 8 → getF (setF s (F.BIB_CTL_PLACE b) v) (F.BIB_CTL_PLACE c)
      = if c = b then v else getF s (F.BIB_CTL_PLACE c) := by
    intro v hv
    by_cases hc : c = b
    · subst hc
      rw [if_pos rfl, getF_setF_same]
      exact Nat.mod_eq_of_lt hv
    · rw [if_neg hc, getF_setF_other _ _ (place_ne_place hc)]
  unfold claimBib heldPlace
  split
  · exact hset 5 (by decide)
  · rw [getF_setF_other _ _ (place_ne_loc c b)]
    exact hset 4 (by decide)

/-- Each bib that a move claims is held. -/
theorem getF_claimed (kind : Nat) (bib gran : Nat → Nat) (c : Nat) (js : List Nat) (s : State)
    (h : getF s (F.BIB_CTL_PLACE c) = heldPlace kind ∨ ∃ j ∈ js, bib j = c) :
    getF (js.foldl (fun t j => claimBib t kind (bib j) (gran j)) s) (F.BIB_CTL_PLACE c) = heldPlace kind := by
  induction js generalizing s with
  | nil => simpa using h
  | cons j js ih =>
    refine ih _ ?_
    rw [getF_claimBib]
    by_cases hj : c = bib j
    · exact .inl (if_pos hj)
    · rcases h with h | ⟨i, hi, rfl⟩
      · exact .inl (by rw [if_neg hj, h])
      · rcases List.mem_cons.1 hi with rfl | hi
        · exact absurd rfl hj
        · exact .inr ⟨i, hi, rfl⟩

theorem claimed_moves (kind : Nat) (bib gran : Nat → Nat) (js : List Nat) (s : State) :
    (js.foldl (fun t j => claimBib t kind (bib j) (gran j)) s).moves = s.moves := by
  refine foldl_related (R := fun s t => t.moves = s.moves) (fun _ => rfl) (fun h g => g.trans h) (fun t j => ?_) js s
  unfold claimBib
  split <;> rfl

theorem startMove_submitted (s : State) (id : Nat) : Submitted s (startMove s id) := by
  unfold startMove
  split
  · exact (Submitted.of_journaled (jnlRunning_journaled s id)).trans (startPages_submitted _ _)
  · exact .refl s

/-- An admitted descriptor becomes a move that holds its bibs. -/
theorem admitMove_moves (s : State) (d : MvDesc) (m : MovePlan) (x n : Nat) (ch : Charge) (prom : Nat)
    (hb : ∀ b ∈ m.bibs, b < 4096) : ∃ mv, (admitMove s d m x n ch prom).moves = s.moves ++ [mv] ∧ mv.id = s.nextId
      ∧ mv.p = d.p ∧ mv.kind = bits d.word 0 4 ∧ mv.start = x ∧ mv.n = n ∧ mv.promised = prom ∧ mv.bibs = m.bibs
      ∧ ∀ b ∈ m.bibs, getF (admitMove s d m x n ch prom) (F.BIB_CTL_PLACE b) = heldPlace (bits d.word 0 4) := by
  unfold admitMove
  extract_lets kind id js s1 mv s2 e0 e s3
  have h1 : Submitted s s1 := by
    cases hbook : bookWindow (admitStep s) ch n s x with
    | none =>
      simp only [s1, hbook, Option.getD_none]
      exact .refl s
    | some t =>
      simp only [s1, hbook, Option.getD_some]
      exact bookWindow_submitted _ _ _ _ _ hbook
  have h2 : s2.moves = s.moves := (claimed_moves _ _ _ js s1).trans h1.moves
  have hplace : ∀ b ∈ m.bibs, getF s2 (F.BIB_CTL_PLACE b) = heldPlace kind := by
    intro b hbm
    obtain ⟨j, hj, rfl⟩ := List.mem_iff_getElem.1 hbm
    refine getF_claimed kind _ _ _ js s1 (.inr ⟨j, List.mem_range.2 hj, ?_⟩)
    simp [List.getD_eq_getElem?_getD, hj]
  have h3 : Submitted { s2 with moves := s2.moves ++ [mv], nextId := id + 1 } s3 := .of_journaled (jnlOpen_journaled _ e)
  have hend := h3.trans (.ite (c := shadowOn s3 = true) (.refl s3) (startMove_submitted s3 id))
  refine ⟨mv, hend.moves.trans (congrArg (· ++ [mv]) h2), rfl, rfl, rfl, rfl, rfl, rfl, rfl, fun b hbm => ?_⟩
  exact (hend.1 _ (bibField_submitKey (hb b hbm))).trans (hplace b hbm)

/-- SPILL takes a descriptor of any KIND but FILL's. -/
theorem exec_spill {p : Nat} {d : MvDesc} {s : State} (hrun : arrayRuns s = true) (hpark : s.parked = false)
    (hd : headDesc s p = some d) :
    exec (.spill ⟨p, []⟩) s = .next (if bits d.word 0 4 = 2 then s else takeDesc s d []) := by
  change execSpill ⟨p, []⟩ s = _
  by_cases hk : bits d.word 0 4 = 2 <;> simp [execSpill, hrun, hd, hpark, hk]

theorem exec_fill {p : Nat} {d : MvDesc} {s : State} (hrun : arrayRuns s = true) (hpark : s.parked = false)
    (hd : headDesc s p = some d) :
    exec (.fill ⟨p, []⟩) s = .next (if bits d.word 0 4 = 2 then takeDesc s d [] else s) := by
  change execFill ⟨p, []⟩ s = _
  by_cases hk : bits d.word 0 4 = 2 <;> simp [execFill, hrun, hd, hpark, hk]

-- ## A page that a tier delivers (R517)

theorem findMove_id {s : State} {id : Nat} {m : Move} (h : findMove s id = some m) : m.id = id := by
  simpa using List.find?_some h

theorem findMove_putMove {s : State} {id : Nat} {m : Move} (q : Move) (h : findMove s id = some m) (hq : q.id = id) :
    findMove (putMove s q) id = some q := by
  have hkey : ∀ x : Move, ((if x.id == q.id then q else x).id == id) = (x.id == id) := by
    intro x
    by_cases hx : x.id = q.id
    · simp [hx]
    · rw [if_neg (by simpa using hx)]
  have hfind : s.moves.find? (fun x => x.id == id) = some m := h
  have hid : m.id = q.id := (findMove_id h).trans hq.symm
  simp only [findMove, putMove, List.find?_map, Function.comp_def, hkey, hfind, Option.map_some, hid, beq_self_eq_true,
    if_true]

theorem findMove_congr {s t : State} (h : t.moves = s.moves) (id : Nat) : findMove t id = findMove s id := by
  rw [findMove, findMove, h]

/-- Each burst of a list adds one request. -/
theorem addReqs_reqs {α : Type} (mk : State → α → Request) (P : Request → Prop) (hP : ∀ t b, P (mk t b)) (l : List α)
    (s : State) : ∃ rs, (l.foldl (fun t b => addReq t (mk t b)) s).reqs = s.reqs ++ rs ∧ rs.length = l.length
      ∧ ∀ r ∈ rs, P r := by
  induction l generalizing s with
  | nil => exact ⟨[], by simp⟩
  | cons b l ih =>
    obtain ⟨rs, hreqs, hlen, hall⟩ := ih (addReq s (mk s b))
    refine ⟨mk s b :: rs, ?_, by simp [hlen], fun r hr => ?_⟩
    · rw [List.foldl_cons, hreqs]
      simp [addReq]
    · rcases List.mem_cons.1 hr with rfl | hr
      · exact hP s b
      · exact hall r hr

/-- The move with the page delivered, its stained granules counted. -/
def pageGot (s : State) (m : Move) (j k bad : Nat) : State :=
  putMove (noteTier s m (m.tl.getD j 0) (pageLen s m j k + 5)) { m with got := m.got ++ [(j, k)], stain := m.stain + bad }

/-- The page is stained: the tier's error registers and the log show it. -/
def pageStained (s : State) (m : Move) (j k kind : Nat) : State :=
  let t1 := incF (setF s F.SPL_STAT_PAGE_STAIN 1) F.SPL_ERR_CNT_PAGE_STAIN_CNT 1
  let t2 := if kind = 3 then setF t1 F.SPL_STAT_TIER_ERR 1 else t1
  logEvt (tierErr t2 m kind j k) 0x0D 2 m.p 0xD4 (m.gb.getD j 0 + 1024 * k) 0 0 0

theorem pageGot_keeps (s : State) {m : Move} {d : TierPage} (bad : Nat) (hm : findMove s d.mv = some m) :
    (pageGot s m d.bib d.page bad).reqs = s.reqs
    ∧ findMove (pageGot s m d.bib d.page bad) d.mv
      = some { m with got := m.got ++ [(d.bib, d.page)], stain := m.stain + bad } := by
  have htier : Noted s (noteTier s m (m.tl.getD d.bib 0) (pageLen s m d.bib d.page + 5)) :=
    (ctrEvent_noted ..).trans (energyEvt_noted ..)
  have hsame := (findMove_congr (Submitted.of_noted htier).moves d.mv).trans hm
  exact ⟨htier.reqs, findMove_putMove _ hsame (show m.id = d.mv from findMove_id hm)⟩

theorem tierErr_keeps (s : State) (m : Move) (kind j page : Nat) : (tierErr s m kind j page).reqs = s.reqs
    ∧ (tierErr s m kind j page).moves = s.moves
    ∧ getF (tierErr s m kind j page) F.SPL_STAT_PAGE_STAIN = getF s F.SPL_STAT_PAGE_STAIN := by
  unfold tierErr
  extract_lets s1 s2
  have hirq := irqIf_noted (setF s2 F.SPL_ERR_PAGE_PAGE (m.pg.getD j 0 + page)) F.SPL_CTL_ERR_IRQ_EN 6
  refine ⟨hirq.reqs, (Submitted.of_noted hirq).moves, (hirq.1 _ (by decide)).trans ?_⟩
  simp (disch := decide) only [s1, s2, getF_setF_other]

theorem pageStained_keeps (s : State) (m : Move) (j k kind : Nat) : (pageStained s m j k kind).reqs = s.reqs
    ∧ (pageStained s m j k kind).moves = s.moves ∧ getF (pageStained s m j k kind) F.SPL_STAT_PAGE_STAIN = 1 := by
  unfold pageStained
  extract_lets t1 t2
  have h1 : t1.reqs = s.reqs ∧ t1.moves = s.moves ∧ getF t1 F.SPL_STAT_PAGE_STAIN = 1 := by
    refine ⟨rfl, rfl, ?_⟩
    simp (disch := decide) only [t1, incF, getF_setF_other, getF_setF_same]
    rfl
  have h2 : t2.reqs = t1.reqs ∧ t2.moves = t1.moves ∧ getF t2 F.SPL_STAT_PAGE_STAIN = getF t1 F.SPL_STAT_PAGE_STAIN := by
    unfold t2
    split
    · exact ⟨rfl, rfl, getF_setF_other _ _ (by decide)⟩
    · exact ⟨rfl, rfl, rfl⟩
  obtain ⟨hreqs, hmoves, hstain⟩ := tierErr_keeps t2 m kind j k
  have hlog := logEvt_noted (tierErr t2 m kind j k) 0x0D 2 m.p 0xD4 (m.gb.getD j 0 + 1024 * k) 0 0 0
  exact ⟨hlog.reqs.trans (hreqs.trans (h2.1.trans h1.1)),
    (Submitted.of_noted hlog).moves.trans (hmoves.trans (h2.2.1.trans h1.2.1)),
    (hlog.1 _ (by decide)).trans (hstain.trans (h2.2.2.trans h1.2.2))⟩

/-- The state before a delivered page is written: the page recorded, and its stain shown where it has one. -/
def pageTaken (s : State) (m : Move) (j k bad : Nat) (kind : Option Nat) : State :=
  match kind with
  | none => pageGot s m j k bad
  | some kind => pageStained (pageGot s m j k bad) m j k kind

theorem pageTaken_keeps (s : State) {m : Move} {d : TierPage} (bad : Nat) (kind : Option Nat)
    (hm : findMove s d.mv = some m) : (pageTaken s m d.bib d.page bad kind).reqs = s.reqs
    ∧ findMove (pageTaken s m d.bib d.page bad kind) d.mv
      = some { m with got := m.got ++ [(d.bib, d.page)], stain := m.stain + bad }
    ∧ (kind ≠ none → getF (pageTaken s m d.bib d.page bad kind) F.SPL_STAT_PAGE_STAIN = 1) := by
  obtain ⟨hreqs, hfind⟩ := pageGot_keeps s bad hm
  cases kind with
  | none => exact ⟨hreqs, hfind, fun h => absurd rfl h⟩
  | some kind =>
    obtain ⟨hr, hmv, hstain⟩ := pageStained_keeps (pageGot s m d.bib d.page bad) m d.bib d.page kind
    exact ⟨hr.trans hreqs, (findMove_congr hmv d.mv).trans hfind, fun _ => hstain⟩

/-- The writes of a page's bursts, one request for each. -/
def pageWrites (m : Move) (j k : Nat) (accs : Nat × Nat × Nat → List GAcc) (bursts : List (Nat × Nat × Nat)) (s : State) :
    State := bursts.foldl (fun t b => addReq t (moveReq t m 4 4 j k b (accs b))) s

theorem pageWrites_submitted (m : Move) (j k : Nat) (accs : Nat × Nat × Nat → List GAcc) (bursts : List (Nat × Nat × Nat))
    (s : State) : Submitted s (pageWrites m j k accs bursts s) := .foldl (fun t _ => addReq_submitted t _) _ _

theorem pageWrites_reqs (m : Move) (j k : Nat) (accs : Nat × Nat × Nat → List GAcc) (bursts : List (Nat × Nat × Nat))
    (s : State) : ∃ l, (pageWrites m j k accs bursts s).reqs = s.reqs ++ l ∧ l.length = bursts.length
      ∧ ∀ r ∈ l, r.h.op = 4 ∧ r.stage = .admitted ∧ r.aux = [4, m.id, j, k] :=
  addReqs_reqs (fun t b => moveReq t m 4 4 j k b (accs b)) _ (fun _ _ => ⟨rfl, rfl, rfl⟩) bursts s

/-- The writes of a delivered page follow one another. -/
theorem exec_tierPageDelivery {d : TierPage} {m : Move} {s : State} (hrun : arrayRuns s = true)
    (hm : findMove s d.mv = some m) (hk : m.kind = 2) (hpend : (d.bib, d.page) ∈ m.pend) (hgot : (d.bib, d.page) ∉ m.got) :
    let ps := pageStates s m d.bib d.page d
    let bad := (ps.1.filter (fun x => x == .stained || x == .lost)).length
    ∃ accs : Nat × Nat × Nat → List GAcc, exec (.tierPageDelivery d) s = .next
      (pageWrites m d.bib d.page accs (pageBursts s m d.bib d.page 5) (pageTaken s m d.bib d.page bad ps.2)) := by
  intro ps bad
  have hpend' : m.pend.contains (d.bib, d.page) = true := by simpa using hpend
  have hgot' : m.got.contains (d.bib, d.page) = false := by simpa using hgot
  change ∃ accs : Nat × Nat × Nat → List GAcc, execTierPageDelivery d s = _
  unfold execTierPageDelivery
  rw [if_neg (by simp [hrun]), hm]
  dsimp only
  rw [if_neg (by rw [hk, hpend', hgot']; decide)]
  exact ⟨_, rfl⟩

theorem tierPageDelivery_delivers {d : TierPage} {m : Move} {s : State} (hrun : arrayRuns s = true)
    (hm : findMove s d.mv = some m) (hk : m.kind = 2) (hpend : (d.bib, d.page) ∈ m.pend) (hgot : (d.bib, d.page) ∉ m.got) :
    let ps := pageStates s m d.bib d.page d
    let bad := (ps.1.filter (fun x => x == .stained || x == .lost)).length
    ∃ t l, exec (.tierPageDelivery d) s = .next t ∧ t.reqs = s.reqs ++ l
      ∧ l.length = (pageBursts s m d.bib d.page 5).length
      ∧ (∀ r ∈ l, r.h.op = 4 ∧ r.stage = .admitted ∧ r.aux = [4, m.id, d.bib, d.page])
      ∧ findMove t d.mv = some { m with got := m.got ++ [(d.bib, d.page)], stain := m.stain + bad }
      ∧ (ps.2 ≠ none → getF t F.SPL_STAT_PAGE_STAIN = 1) := by
  intro ps bad
  obtain ⟨accs, hexec⟩ := exec_tierPageDelivery hrun hm hk hpend hgot
  obtain ⟨hreqs, hfind, hstain⟩ := pageTaken_keeps s bad ps.2 hm
  obtain ⟨l, hl, hlen, hall⟩ := pageWrites_reqs m d.bib d.page accs (pageBursts s m d.bib d.page 5)
    (pageTaken s m d.bib d.page bad ps.2)
  have hadded := pageWrites_submitted m d.bib d.page accs (pageBursts s m d.bib d.page 5)
    (pageTaken s m d.bib d.page bad ps.2)
  exact ⟨_, l, hexec, hl.trans (by rw [hreqs]), hlen, hall, (findMove_congr hadded.moves d.mv).trans hfind,
    fun h => (hadded.1 _ (by decide)).trans (hstain h)⟩

-- ## The end of a page and of a bib (R518, R519)

theorem exec_tierAck {mv bib page : Nat} {m : Move} {s : State} (hrun : arrayRuns s = true) (hm : findMove s mv = some m)
    (hk : m.kind = 1) (hgot : (bib, page) ∈ m.got) (hpend : (bib, page) ∈ m.pend) :
    exec (.tierAck mv bib page) s = .next (settleMove (putMove s { m with pend := m.pend.erase (bib, page) }) mv) := by
  change execTierAck mv bib page s = _
  simp [execTierAck, hrun, hm, hk, hgot, hpend]

theorem exec_tierPageFailure {mv bib : Nat} {m : Move} {s : State} (hm : findMove s mv = some m) (he : m.ended = false)
    (howed : m.pend.any (fun x => x.1 == bib && owedByTier m x) = true) :
    exec (.tierPageFailure mv bib) s = .next (failMove s m bib 2) := by
  change execTierPageFailure mv bib s = _
  unfold execTierPageFailure
  rw [hm]
  exact if_pos (by rw [he, howed]; rfl)

theorem exec_tierTimeout {mv : Nat} {m : Move} {x : Nat × Nat} {l : List (Nat × Nat)} {s : State}
    (hm : findMove s mv = some m) (he : m.ended = false) (howed : m.pend.filter (owedByTier m) = x :: l) :
    exec (.tierTimeout mv) s = .next (
      if m.promised + 1024 * getF s (F.SPL_TIER_CFG_TMO (m.tl.getD x.1 0)) ≤ now s then failMove s m x.1 1 else s) := by
  change execTierTimeout mv s = _
  simp only [execTierTimeout, hm, howed, he, apply_ite Host.Outcome.next]
  simp

theorem getF_completeBib (s : State) (m : Move) (j : Nat) (f : Fld) : getF (completeBib s m j) f = getF
    (if m.kind = 1 then setF (setF s (F.BIB_CTL_PLACE (m.bibs.getD j 0)) (m.tl.getD j 0 + 1))
        (F.BIB_LOC_LOC (m.bibs.getD j 0)) (m.pg.getD j 0)
      else setF s (F.BIB_CTL_PLACE (m.bibs.getD j 0)) 0) f := rfl

/-- A bib that completes lies in its tier after a SPILL, and in the array after a FILL. -/
theorem completeBib_places (s : State) (m : Move) (j : Nat) (ht : m.tl.getD j 0 < 4) :
    let b := m.bibs.getD j 0
    (m.kind = 1 → getF (completeBib s m j) (F.BIB_CTL_PLACE b) = m.tl.getD j 0 + 1
        ∧ getF (completeBib s m j) (F.BIB_LOC_LOC b) = m.pg.getD j 0 % 2 ^ 32)
    ∧ (m.kind = 2 → getF (completeBib s m j) (F.BIB_CTL_PLACE b) = 0) := by
  intro b
  simp only [getF_completeBib]
  refine ⟨fun hk => ?_, fun hk => ?_⟩
  · rw [if_pos hk, getF_setF_other _ _ (place_ne_loc _ _), getF_setF_same, getF_setF_same]
    have hplace : m.tl.getD j 0 + 1 < 2 ^ 3 := by omega
    exact ⟨Nat.mod_eq_of_lt hplace, rfl⟩
  · rw [if_neg (by rw [hk]; decide), getF_setF_same]
    exact Nat.zero_mod _

/-- Settles O43: the doorbell, the checks of a descriptor, the pages of a move, and the end of a bib. -/
theorem movesBetweenArrayAndTiers : Obligations.MovesBetweenArrayAndTiers := by
  refine ⟨fun p s hrun hp hen hring hpark => ?_, fun p d s hrun hpark hd => ?_,
    fun d m s hrun hm hk hpend hgot => tierPageDelivery_delivers hrun hm hk hpend hgot,
    fun mv bib page m s hm => ⟨fun hrun hk hgot hpend => exec_tierAck hrun hm hk hgot hpend,
      fun he howed => exec_tierPageFailure hm he howed, fun x l he howed => ?_⟩,
    fun m j s ht => completeBib_places s m j ht⟩
  · intro taken rung i a r
    refine ⟨fun hno => exec_moveDescriptorRead_silent hno, fun u hrung hsub => ?_⟩
    exact ⟨_, exec_moveDescriptorRead_rung hrun hp hen hring hpark hrung hsub, rfl, Sparse.at_set_same _ _ _ _,
      getF_setF_same _ _ _⟩
  · intro isFill s0 moved
    have hspill := exec_spill hrun hpark hd
    have hfill := exec_fill hrun hpark hd
    refine ⟨fun hf => by rw [hspill, if_pos hf], fun hf => by rw [hfill, if_neg hf], fun e he => ?_,
      fun m x n ch prom hok hb => ?_⟩
    · intro last t
      have ht : takeDesc s d [] = t := takeDesc_refused rfl he
      exact ⟨fun hf => by rw [hspill, if_neg hf, ht], fun hf => by rw [hfill, if_pos hf, ht]⟩
    · have ht : takeDesc s d [] = admitMove s0 d m x n ch prom := takeDesc_admitted rfl hok
      obtain ⟨mv, hmoves, hid, hp, hkind, hstart, hn, hprom, hbibs, hplace⟩ := admitMove_moves s0 d m x n ch prom hb
      refine ⟨fun hf => ⟨_, by rw [hspill, if_neg hf, ht], mv, hmoves, hid, hp, hkind, hstart, hn, hprom, hbibs, hplace⟩,
        fun hf => ⟨_, by rw [hfill, if_pos hf, ht], mv, hmoves, hid, hp, hkind, hstart, hn, hprom, hbibs, fun b hbm => ?_⟩⟩
      rw [hplace b hbm, heldPlace, if_neg (by rw [show bits d.word 0 4 = 2 from hf]; decide)]
  · intro limit
    rw [exec_tierTimeout hm he howed]
    exact ⟨fun hlt => by rw [if_neg (Nat.not_le.2 hlt)], fun hle => by rw [if_pos hle]⟩

end Sys2Proof.Machine
end

section
/-! SUPPORT. The messages of the roll-call, its steps, and the address that ends it (R660 to R663, R665). Settles O49. -/

namespace Sys2Proof.Machine

-- ## HELLO (R660, R662)

/-- HELLO on a trained link; one that is not trained counts as silent. -/
def helloLink (s : State) (k : Nat) : State :=
  if rollLinkUp s k then emit s (.rollLink k (rollBits s 0 (quarters s) 0)) else setNbr s k 0

theorem exec_helloSend {s : State} (hstep : rollStep s = 1) : exec .helloSend s = .next (
    if s.roll.sent = now s / 100000 + 1 then s
    else (List.range 4).foldl helloLink { s with roll := { s.roll with sent := now s / 100000 + 1 } }) := by
  change execHelloSend s = _
  unfold execHelloSend
  by_cases hsent : s.roll.sent = now s / 100000 + 1
  · rw [if_pos hsent]
    exact if_pos (by simp [hsent])
  · rw [if_neg hsent]
    exact if_neg (by simp [hstep, hsent])

/-- Where every link of a list is trained, each sends its message; what is sent changes no message that follows. -/
theorem sendLinks_out (links : List Nat) (s : State) (hup : ∀ k ∈ links, rollLinkUp s k = true) :
    let t := links.foldl helloLink s
    t.roll = s.roll ∧ t.regs = s.regs
    ∧ t.out = s.out ++ links.map (fun k => OutPkt.rollLink k (rollBits s 0 (quarters s) 0)) := by
  induction links generalizing s with
  | nil => exact ⟨rfl, rfl, (List.append_nil _).symm⟩
  | cons k links ih =>
    obtain ⟨hroll, hregs, hout⟩ := ih (emit s (.rollLink k (rollBits s 0 (quarters s) 0)))
      (fun j hj => hup j (List.mem_cons_of_mem k hj))
    rw [List.foldl_cons, helloLink, if_pos (hup k List.mem_cons_self)]
    refine ⟨hroll, hregs, hout.trans ?_⟩
    simp only [List.map_cons, emit, List.append_assoc, List.cons_append, List.nil_append]
    rfl

/-- A message of the partner changes only what is noted of the partner. -/
theorem notePartner_keeps (s : State) (m : RollMsg) : (notePartner s m).regs = s.regs ∧ (notePartner s m).out = s.out
    ∧ (notePartner s m).activeM = s.activeM := by
  unfold notePartner
  split <;> exact ⟨rfl, rfl, rfl⟩

theorem exec_hello {link : Nat} {m : BitVec 128} {r : RollMsg} {s : State} (hup : rollLinkUp s link = true)
    (hr : parseRoll m.toNat = some r) (hk : r.kind = 0) : exec (.hello link m) s = .next
      (emit (takeFree (notePartner s r) (2 ^ 16)).2 (.rollLink link
        (rollBits s 1 (quarters s + 2 ^ 32 * (r.body % 2 ^ 32)) (takeFree (notePartner s r) (2 ^ 16)).1))) := by
  change execHello link m s = _
  unfold execHello
  rw [if_neg (by simp [hup]), hr]
  exact if_pos hk

-- ## The status of a neighbour (R662, R663)

/-- The status of a link is noted and final. -/
def nbrNoted (s : State) (k st : Nat) : State := orF (setF s (F.GLB_RC_NBR_NBR k) st) F.GLB_RC_NBR_DONE k

theorem sendFieldStatus_regs (s : State) : (sendFieldStatus s).regs = s.regs := by
  unfold sendFieldStatus
  refine foldl_related (R := fun s t => t.regs = s.regs) (fun _ => rfl) (fun h g => g.trans h) (fun t i => ?_) _ s
  rfl

/-- With the fourth status step 2 begins; the status itself changes no other field. -/
theorem getF_setNbr {s : State} {k : Nat} (st : Nat) (h : nbrDone s k = false) (f : Fld) : getF (setNbr s k st) f
    = if getF (nbrNoted s k st) F.GLB_RC_NBR_DONE = 15 then getF (setF (nbrNoted s k st) F.GLB_RC_STAT_STEP 2) f
      else getF (nbrNoted s k st) f := by
  unfold setNbr
  rw [if_neg (by simp [h])]
  extract_lets s1 roll
  rw [apply_ite (getF · f), getF_of_regs (sendFieldStatus_regs _) f, getF_mk]
  rfl

theorem nbr_key (k : Nat) : (F.GLB_RC_NBR_NBR k).key = 8 * 0x204 + 2 * k := by
  simp only [Fld.key, F.GLB_RC_NBR_NBR]
  omega

theorem getF_setNbr_other {s : State} {k : Nat} (st : Nat) {f : Fld} (hn : f.key ≠ (F.GLB_RC_NBR_NBR k).key)
    (hd : f.key ≠ F.GLB_RC_NBR_DONE.key) (hs : f.key ≠ F.GLB_RC_STAT_STEP.key) : getF (setNbr s k st) f = getF s f := by
  have hnoted : getF (nbrNoted s k st) f = getF s f := (getF_setF_other _ _ hd).trans (getF_setF_other _ _ hn)
  cases h : nbrDone s k with
  | true => rw [setNbr, if_pos h]
  | false => rw [getF_setNbr st h, getF_setF_other _ _ hs, ite_self, hnoted]

/-- The bit of a link's status, set in the four bits of DONE. -/
theorem doneBits : ∀ x < 16, ∀ k < 4, bitAt (Nat.lor x (2 ^ k) % 16) k = true
    ∧ (bitAt x k = false → Nat.lor x (2 ^ k) % 16 = x + 2 ^ k) := by decide

theorem done_nbrNoted (s : State) {k : Nat} (st : Nat) (hk : k < 4) :
    getF (nbrNoted s k st) F.GLB_RC_NBR_DONE = Nat.lor (getF s F.GLB_RC_NBR_DONE) (2 ^ k) % 16 := by
  have hkey : F.GLB_RC_NBR_DONE.key ≠ (F.GLB_RC_NBR_NBR k).key := by
    rw [nbr_key, show F.GLB_RC_NBR_DONE.key = 8 * 0x204 + 8 from rfl]
    omega
  rw [nbrNoted, orF, getF_setF_same, getF_setF_other _ _ hkey]
  rfl

/-- A link without a final status takes it; with the fourth, step 2 begins. -/
theorem setNbr_sets {s : State} {k : Nat} (st : Nat) (hk : k < 4) (h : nbrDone s k = false) :
    nbrDone (setNbr s k st) k = true ∧ getF (setNbr s k st) (F.GLB_RC_NBR_NBR k) = st % 4
    ∧ (getF s F.GLB_RC_NBR_DONE + 2 ^ k = 15 → getF (setNbr s k st) F.GLB_RC_STAT_STEP = 2) := by
  obtain ⟨hset, hsum⟩ := doneBits _ (getF_lt s F.GLB_RC_NBR_DONE) k hk
  have hdone := done_nbrNoted s st hk
  have hnd : (F.GLB_RC_NBR_NBR k).key ≠ F.GLB_RC_NBR_DONE.key := by
    rw [nbr_key, show F.GLB_RC_NBR_DONE.key = 8 * 0x204 + 8 from rfl]
    omega
  have hns : (F.GLB_RC_NBR_NBR k).key ≠ F.GLB_RC_STAT_STEP.key := by
    rw [nbr_key, show F.GLB_RC_STAT_STEP.key = 8 * 0x200 from rfl]
    omega
  refine ⟨?_, ?_, fun hall => ?_⟩
  · rw [nbrDone, getF_setNbr st h, getF_setF_other _ _ (by decide), ite_self, hdone]
    exact hset
  · rw [getF_setNbr st h, getF_setF_other _ _ hns, ite_self, nbrNoted, orF, getF_setF_other _ _ hnd, getF_setF_same]
    rfl
  · rw [getF_setNbr st h, if_pos (hdone.trans ((hsum h).trans hall)), getF_setF_same]
    rfl

-- ## A reply of a neighbour (R661, R662)

/-- The measured delay of a link, in half ticks rounded up (R662). -/
def replyNoted (s : State) (link receipt : Nat) (r : RollMsg) : State :=
  setF (notePartner s r) (F.CPM_LINK_DLY_DELAY link)
    (((receipt % 2 ^ 32 + 2 ^ 33 - bits r.body 32 32 - r.hold) % 2 ^ 32 + 1) / 2)

theorem exec_helloReply {link : Nat} {m : BitVec 128} {r : RollMsg} (receipt : Nat) {s : State}
    (hup : rollLinkUp s link = true) (hr : parseRoll m.toNat = some r) (hk : r.kind = 1) (hstep : rollStep s = 1) :
    exec (.helloReply link m receipt) s = .next (
      if r.status = 0 then
        if (Sparse.find (replyNoted s link receipt r).roll.booting link).isSome then replyNoted s link receipt r
        else { replyNoted s link receipt r with roll := { (replyNoted s link receipt r).roll with
          booting := Sparse.put (replyNoted s link receipt r).roll.booting link (now s + 1) } }
      else setNbr (replyNoted s link receipt r) link r.status) := by
  change execHelloReply link m receipt s = _
  unfold execHelloReply
  rw [if_neg (by simp [hup, hstep]), hr]
  simp only [hk, if_true, apply_ite Host.Outcome.next]
  rfl

theorem delay_key (k : Nat) : (F.CPM_LINK_DLY_DELAY k).key = 8 * 0x1014 + 32 * k := by
  simp only [Fld.key, F.CPM_LINK_DLY_DELAY]
  omega

/-- A reply changes no field but the link's delay. -/
theorem getF_replyNoted (s : State) (link receipt : Nat) (r : RollMsg) {f : Fld}
    (h : f.key ≠ (F.CPM_LINK_DLY_DELAY link).key) : getF (replyNoted s link receipt r) f = getF s f :=
  (getF_setF_other _ _ h).trans (getF_of_regs (notePartner_keeps s r).1 f)

theorem helloReply_measures {link : Nat} {m : BitVec 128} {r : RollMsg} (receipt : Nat) {s : State}
    (hup : rollLinkUp s link = true) (hr : parseRoll m.toNat = some r) (hk : r.kind = 1) (hstep : rollStep s = 1) :
    let d := (receipt % 2 ^ 32 + 2 ^ 33 - bits r.body 32 32 - r.hold) % 2 ^ 32
    ∃ t, exec (.helloReply link m receipt) s = .next t
      ∧ getF t (F.CPM_LINK_DLY_DELAY link) = (d + 1) / 2 % 2 ^ (F.CPM_LINK_DLY_DELAY link).w
      ∧ (r.status ≠ 0 → nbrDone s link = false → nbrDone t link = true
          ∧ getF t (F.GLB_RC_NBR_NBR link) = r.status % 2 ^ (F.GLB_RC_NBR_NBR link).w)
      ∧ (r.status = 0 → getF t F.GLB_RC_NBR_DONE = getF s F.GLB_RC_NBR_DONE) := by
  intro d
  have hlink : link < 4 := by
    simp only [rollLinkUp, Bool.and_eq_true, decide_eq_true_eq] at hup
    exact hup.1.1
  have hexec := exec_helloReply receipt hup hr hk hstep
  have hdelay : getF (replyNoted s link receipt r) (F.CPM_LINK_DLY_DELAY link)
      = (d + 1) / 2 % 2 ^ (F.CPM_LINK_DLY_DELAY link).w := getF_setF_same _ _ _
  have hdone : getF (replyNoted s link receipt r) F.GLB_RC_NBR_DONE = getF s F.GLB_RC_NBR_DONE :=
    getF_replyNoted s link receipt r (by
      rw [delay_key, show F.GLB_RC_NBR_DONE.key = 8 * 0x204 + 8 from rfl]
      omega)
  by_cases hst : r.status = 0
  · rw [if_pos hst] at hexec
    refine ⟨_, hexec, ?_, fun h => absurd hst h, fun _ => ?_⟩
    · split
      · exact hdelay
      · exact (getF_mk ..).trans hdelay
    · split
      · exact hdone
      · exact (getF_mk ..).trans hdone
  · rw [if_neg hst] at hexec
    refine ⟨_, hexec, ?_, fun _ hno => ?_, fun h => absurd h hst⟩
    · rw [getF_setNbr_other]
      · exact hdelay
      · rw [delay_key, nbr_key]
        omega
      · rw [delay_key, show F.GLB_RC_NBR_DONE.key = 8 * 0x204 + 8 from rfl]
        omega
      · rw [delay_key, show F.GLB_RC_STAT_STEP.key = 8 * 0x200 from rfl]
        omega
    · have hno' : nbrDone (replyNoted s link receipt r) link = false := by rw [nbrDone, hdone]; exact hno
      obtain ⟨hset, hval, -⟩ := setNbr_sets r.status hlink hno'
      exact ⟨hset, hval⟩

theorem exec_neighbourSilent {link since : Nat} {s : State} (hlink : link < 4) (hstep : rollStep s = 1)
    (hb : Sparse.find s.roll.booting link = some (since + 1)) :
    exec (.neighbourSilent link) s = .next (if since + 1000000000 ≤ now s then setNbr s link 0 else s) := by
  have htick : since + 1 + 999999999 = since + 1000000000 := by omega
  change execNeighbourSilent link s = _
  unfold execNeighbourSilent
  rw [if_neg (by simp [Nat.not_le.2 hlink, hstep]), hb]
  simp only [htick, apply_ite Host.Outcome.next]

-- ## The field (R663)

/-- The status of a site of the field is noted. -/
def statusHeard (s : State) (r : RollMsg) : State :=
  { notePartner s r with
    roll := { (notePartner s r).roll with heard := Sparse.put (notePartner s r).roll.heard (r.inst % 12) r.status } }

/-- The status of every site of the field is known. -/
def fieldKnown (s : State) : Bool := (List.range 12).all (fun i => (siteStatus s i).isSome)

theorem fieldKnown_iff (s : State) : fieldKnown s = true ↔ ∀ i, i < 12 → (siteStatus s i).isSome = true := by
  simp only [fieldKnown, List.all_eq_true, List.mem_range]

theorem rollStep_statusHeard (s : State) (r : RollMsg) : rollStep (statusHeard s r) = rollStep s := by
  obtain ⟨hregs, -, hact⟩ := notePartner_keeps s r
  have hget : ∀ f, getF (statusHeard s r) f = getF s f := fun f => (getF_mk ..).trans (getF_of_regs hregs f)
  have hactive : (statusHeard s r).activeM = s.activeM := hact
  rw [rollStep, rollStep, aonState, aonState, hget, hget, hactive]

theorem exec_fieldStatus {m : BitVec 128} {r : RollMsg} {s : State} (ha : aonState s = 0)
    (hr : parseRoll m.toNat = some r) (hk : r.kind = 2) (hf : r.inst / 12 = Config.siteField) (hc : s.roll.closed = false) :
    exec (.fieldStatus m) s = .next (
      if rollStep s = 2 ∧ fieldKnown (statusHeard s r) = true then closeField (statusHeard s r) else statusHeard s r) := by
  change execFieldStatus m s = _
  unfold execFieldStatus
  rw [if_neg (by simp [ha]), hr]
  dsimp only
  rw [if_pos (by simp [hk, hf, hc])]
  change (if (decide (rollStep (statusHeard s r) = 2) && fieldKnown (statusHeard s r)) = true
    then Host.Outcome.next (closeField (statusHeard s r)) else .next (statusHeard s r)) = _
  rw [rollStep_statusHeard, ← apply_ite Host.Outcome.next]
  simp only [Bool.and_eq_true, decide_eq_true_eq]

theorem exec_fieldStatusTimeout {s : State} (hstep : rollStep s = 2) (h1 : s.roll.step1 ≠ 0) :
    exec .fieldStatusTimeout s = .next (if s.roll.step1 + 4999999 ≤ now s then closeField s else s) := by
  change execFieldStatusTimeout s = _
  simp [execFieldStatusTimeout, hstep, h1, apply_ite Host.Outcome.next]

-- ## The address of the machine (R93, R665)

theorem getF_forceField_same (s : State) {f : Fld} (v : Nat) (h : f.mn = 0) :
    getF (forceField s f v) f = if v ≤ f.mx then v % 2 ^ f.w else getF s f := by
  unfold forceField
  simp only [h, Nat.zero_le, true_and, apply_ite (getF · f), getF_setF_same]

theorem getF_forceField_other (s : State) {f g : Fld} (v : Nat) (h : g.key ≠ f.key) :
    getF (forceField s f v) g = getF s g := by
  unfold forceField
  split
  · exact getF_setF_other _ _ h
  · rfl

/-- GLB_SELF takes the word's fields where they are defined. -/
def selfTaken (s : State) (w : Nat) : State :=
  forceField (forceField (forceField s F.GLB_SELF_INSTANCE (bits w 0 9)) F.GLB_SELF_WAFER (bits w 16 5))
    F.GLB_SELF_ASSIGNED (bits w 31 1)

theorem selfTaken_other (s : State) (w : Nat) {f : Fld} (hi : f.key ≠ F.GLB_SELF_INSTANCE.key)
    (hw : f.key ≠ F.GLB_SELF_WAFER.key) (ha : f.key ≠ F.GLB_SELF_ASSIGNED.key) : getF (selfTaken s w) f = getF s f :=
  (getF_forceField_other _ _ ha).trans ((getF_forceField_other _ _ hw).trans (getF_forceField_other _ _ hi))

theorem forceField_cad (s : State) (f : Fld) (v : Nat) : (forceField s f v).cad = s.cad
    ∧ (forceField s f v).boot = s.boot := by
  unfold forceField
  split <;> exact ⟨rfl, rfl⟩

theorem selfTaken_cad (s : State) (w : Nat) : (selfTaken s w).cad = s.cad ∧ (selfTaken s w).boot = s.boot := by
  unfold selfTaken
  simp only [forceField_cad, and_self]

theorem getF_selfTaken (s : State) (w : Nat) :
    getF (selfTaken s w) F.GLB_SELF_INSTANCE
      = (if bits w 0 9 ≤ F.GLB_SELF_INSTANCE.mx then bits w 0 9 else getF s F.GLB_SELF_INSTANCE)
    ∧ getF (selfTaken s w) F.GLB_SELF_WAFER
      = (if bits w 16 5 ≤ F.GLB_SELF_WAFER.mx then bits w 16 5 else getF s F.GLB_SELF_WAFER)
    ∧ getF (selfTaken s w) F.GLB_SELF_ASSIGNED = bits w 31 1 := by
  have hbit : bits w 31 1 ≤ F.GLB_SELF_ASSIGNED.mx := Nat.le_of_lt_succ (bits_lt w 31 1)
  refine ⟨?_, ?_, ?_⟩
  · rw [selfTaken, getF_forceField_other _ _ (by decide), getF_forceField_other _ _ (by decide),
      getF_forceField_same _ _ rfl]
    exact if_congr Iff.rfl (bits_mod w 0 9) rfl
  · rw [selfTaken, getF_forceField_other _ _ (by decide), getF_forceField_same _ _ rfl,
      getF_forceField_other _ _ (by decide)]
    exact if_congr Iff.rfl (bits_mod w 16 5) rfl
  · rw [selfTaken, getF_forceField_same _ _ rfl, if_pos hbit]
    exact bits_mod w 31 1

-- ## The end of the roll-call (R665, R668)

/-- The partner's wafer is known, and stage CADENCE begins. -/
def cadenceStage (s : State) : State :=
  let s1 := if s.boot.unused then s else setF (setF s F.JNL_BUDDY_WAFER (selfWafer s)) F.JNL_BUDDY_SET 1
  let s2 := if flagF s1 F.JNL_SHADOW_EN then setF s1 F.JNL_SHADOW_PWAFER (selfWafer s) else s1
  setF (setF s2 F.MSH_BOOT_STAGE 9) F.GLB_RC_STAT_STEP 5

theorem cadenceStage_cad (s : State) : (cadenceStage s).cad = s.cad := by
  unfold cadenceStage
  extract_lets s1 s2
  have h1 : s1.cad = s.cad := by
    unfold s1
    split <;> rfl
  have h2 : s2.cad = s1.cad := by
    unfold s2
    split <;> rfl
  exact h2.trans h1

/-- The fields that stage CADENCE starts with. -/
theorem getF_cadenceStage (s : State) :
    getF (cadenceStage s) F.GLB_RC_STAT_STEP = 5 ∧ getF (cadenceStage s) F.MSH_BOOT_STAGE = 9
    ∧ (∀ f : Fld, f.key < 4096 → getF (cadenceStage s) f = getF s f)
    ∧ (s.boot.unused = false → getF (cadenceStage s) F.JNL_BUDDY_WAFER = selfWafer s
        ∧ getF (cadenceStage s) F.JNL_BUDDY_SET = 1) := by
  unfold cadenceStage
  extract_lets s1 s2
  have hshadow : ∀ f : Fld, f.key ≠ F.JNL_SHADOW_PWAFER.key → getF s2 f = getF s1 f := by
    intro f hf
    unfold s2
    rw [apply_ite (getF · f), getF_setF_other _ _ hf, ite_self]
  have hlast : ∀ f : Fld, f.key ≠ F.GLB_RC_STAT_STEP.key → f.key ≠ F.MSH_BOOT_STAGE.key →
      getF (setF (setF s2 F.MSH_BOOT_STAGE 9) F.GLB_RC_STAT_STEP 5) f = getF s2 f :=
    fun f hstep hstage => (getF_setF_other _ _ hstep).trans (getF_setF_other _ _ hstage)
  refine ⟨getF_setF_same _ _ _, (getF_setF_other _ _ (by decide)).trans (getF_setF_same _ _ _), fun f hlow => ?_,
    fun hunused => ?_⟩
  · have hne : ∀ g : Fld, 4096 ≤ g.key → f.key ≠ g.key := fun g hg => Nat.ne_of_lt (Nat.lt_of_lt_of_le hlow hg)
    have h1 : getF s1 f = getF s f := by
      unfold s1
      rw [apply_ite (getF · f), getF_setF_other _ _ (hne F.JNL_BUDDY_SET (by decide)),
        getF_setF_other _ _ (hne F.JNL_BUDDY_WAFER (by decide)), ite_self]
    rw [hlast _ (hne _ (by decide)) (hne _ (by decide)), hshadow _ (hne _ (by decide)), h1]
  · have h1 : s1 = setF (setF s F.JNL_BUDDY_WAFER (selfWafer s)) F.JNL_BUDDY_SET 1 := if_neg (by simp [hunused])
    have hwafer : selfWafer s < 32 := getF_lt s F.GLB_SELF_WAFER
    refine ⟨?_, ?_⟩
    · rw [hlast _ (by decide) (by decide), hshadow _ (by decide), h1, getF_setF_other _ _ (by decide), getF_setF_same]
      exact Nat.mod_eq_of_lt hwafer
    · rw [hlast _ (by decide) (by decide), hshadow _ (by decide), h1, getF_setF_same]
      rfl

theorem endRollCall_framed (s : State) : Framed (cadenceStage s) (endRollCall s) := by
  unfold endRollCall
  change Framed (cadenceStage s) (match (cadenceStage s).cad.st with
    | .locked => lockCad (cadenceStage s) (cadenceStage s).cad.src (cadenceStage s).cad.hop (now (cadenceStage s))
    | .holdover => cadenceStage s
    | _ => { cadenceStage s with cad := { (cadenceStage s).cad with st := .acquiring, loaded := none } })
  split
  · exact lockCad_framed _ _ _ _
  · exact .refl _
  · exact .of_regs rfl

theorem endRollCall_unlocked {s : State} (h : s.cad.st = .unlocked) : endRollCall s
    = { cadenceStage s with cad := { (cadenceStage s).cad with st := .acquiring, loaded := none } } := by
  have hst : (cadenceStage s).cad.st = .unlocked := by rw [cadenceStage_cad, h]
  change (match (cadenceStage s).cad.st with
    | .locked => lockCad (cadenceStage s) (cadenceStage s).cad.src (cadenceStage s).cad.hop (now (cadenceStage s))
    | .holdover => cadenceStage s
    | _ => { cadenceStage s with cad := { (cadenceStage s).cad with st := .acquiring, loaded := none } }) = _
  rw [hst]

/-- The active marshal's write of GLB_SELF in stage ROLLCALL or RING_READY. -/
theorem exec_glbSelfWrite_marshal {w : Nat} {s : State} (hact : s.activeM.isSome = true) (hr : reaches .marshal 8 s = true)
    (hw : w < 2 ^ 32) (hset : bits w 31 1 = 1) (hstage : getF s F.MSH_BOOT_STAGE = 8) :
    exec (.glbSelfWrite .marshal w) s = .next (endRollCall (selfTaken (rollStep4 s) w)) := by
  have hword : ((w : Nat) : Word).toNat = w := by
    rw [BitVec.natCast_eq_ofNat, BitVec.toNat_ofNat, Nat.mod_eq_of_lt hw]
  have hkeep : getF (rollStep4 s) F.MSH_BOOT_STAGE = 8 ∧ (rollStep4 s).activeM = s.activeM := by
    unfold rollStep4
    split
    · exact ⟨(getF_setF_other _ _ (by decide)).trans hstage, rfl⟩
    · exact ⟨hstage, rfl⟩
  have hassigned : assigned (selfTaken (rollStep4 s) w) = true := by
    rw [assigned, flagF_iff, (getF_selfTaken _ w).2.2, hset]
  have hstage' : getF (selfTaken (rollStep4 s) w) F.MSH_BOOT_STAGE = 8 :=
    (selfTaken_other _ w (by decide) (by decide) (by decide)).trans hkeep.1
  refine (next_asWrite_of_reaches _ hr (u := endRollCall (selfTaken (rollStep4 s) w)) ?_).trans (congrArg _ (if_neg (by simp)))
  rw [hword, if_pos rfl]
  unfold glbSelfWrite
  rw [if_neg (by simp [hkeep.2, Option.isNone_eq_false_iff.2 hact])]
  exact if_pos (by rw [show forceField _ _ _ = selfTaken (rollStep4 s) w from rfl, hassigned, hstage']; rfl)

theorem glbSelfWrite_assigns {w : Nat} {s : State} (hset : bits w 31 1 = 1) :
    let t := endRollCall (selfTaken (rollStep4 s) w)
    getF t F.GLB_SELF_INSTANCE = (if bits w 0 9 ≤ F.GLB_SELF_INSTANCE.mx then bits w 0 9 else getF s F.GLB_SELF_INSTANCE)
    ∧ getF t F.GLB_SELF_WAFER = (if bits w 16 5 ≤ F.GLB_SELF_WAFER.mx then bits w 16 5 else getF s F.GLB_SELF_WAFER)
    ∧ getF t F.GLB_SELF_ASSIGNED = 1 ∧ getF t F.GLB_RC_STAT_STEP = 5
    ∧ (s.boot.unused = false → getF t F.JNL_BUDDY_WAFER = getF t F.GLB_SELF_WAFER ∧ getF t F.JNL_BUDDY_SET = 1)
    ∧ (s.cad.st = .unlocked → getF t F.MSH_BOOT_STAGE = 9 ∧ t.cad.st = .acquiring) := by
  intro t
  obtain ⟨hinst, hwafer, hassigned⟩ := getF_selfTaken (rollStep4 s) w
  obtain ⟨hstep, hstage, hlow, hbuddy⟩ := getF_cadenceStage (selfTaken (rollStep4 s) w)
  obtain ⟨hcad, hboot⟩ := selfTaken_cad (rollStep4 s) w
  have hframe : Framed _ t := endRollCall_framed (selfTaken (rollStep4 s) w)
  have hself : ∀ f : Fld, f.key ∉ frameKeys → f.key < 4096 → getF t f = getF (selfTaken (rollStep4 s) w) f :=
    fun f hf hk => (hframe f hf).trans (hlow f hk)
  have h4 : (rollStep4 s).cad = s.cad ∧ (rollStep4 s).boot = s.boot
      ∧ ∀ f : Fld, f.key ≠ F.GLB_RC_STAT_STEP.key → getF (rollStep4 s) f = getF s f := by
    unfold rollStep4
    split
    · exact ⟨rfl, rfl, fun f hf => getF_setF_other _ _ hf⟩
    · exact ⟨rfl, rfl, fun _ _ => rfl⟩
  obtain ⟨hcad4, hboot4, hget4⟩ := h4
  refine ⟨?_, ?_, ?_, ?_, fun hunused => ?_, fun hcst => ?_⟩
  · rw [hself _ (by decide) (by decide), hinst, hget4 _ (by decide)]
  · rw [hself _ (by decide) (by decide), hwafer, hget4 _ (by decide)]
  · rw [hself _ (by decide) (by decide), hassigned, hset]
  · exact (hframe _ (by decide)).trans hstep
  · obtain ⟨hw, hs⟩ := hbuddy (by rw [hboot, hboot4, hunused])
    exact ⟨(hframe _ (by decide)).trans (hw.trans (hself _ (by decide) (by decide)).symm), (hframe _ (by decide)).trans hs⟩
  · have ht : t = _ := endRollCall_unlocked (s := selfTaken (rollStep4 s) w) (by rw [hcad, hcad4, hcst])
    rw [ht]
    exact ⟨(getF_mk ..).trans hstage, rfl⟩

/-- Settles O49: the messages of step 1, the statuses of step 2, and the address that ends the roll-call. -/
theorem rollCallExchangesStatus : Obligations.RollCallExchangesStatus := by
  refine ⟨fun s hstep hsent => ?_, fun s hstep hsent hup => ?_, fun link m r s hup hr => ⟨fun hk => ?_, fun receipt hk hstep => ?_⟩,
    fun link since s hlink hstep hb => ?_, fun m r s ha hr hk hf hc => ?_, fun s hstep h1 => ?_,
    fun w s hact hr hw hset hstage => ⟨_, exec_glbSelfWrite_marshal hact hr hw hset hstage, glbSelfWrite_assigns hset⟩⟩
  · rw [exec_helloSend hstep, if_pos hsent]
  · obtain ⟨hroll, hregs, hout⟩ := sendLinks_out (List.range 4) { s with roll := { s.roll with sent := now s / 100000 + 1 } }
      (fun k hk => hup k (List.mem_range.1 hk))
    exact ⟨_, by rw [exec_helloSend hstep, if_neg hsent], congrArg Roll.sent hroll, hregs, hout⟩
  · obtain ⟨hregs, hout, -⟩ := notePartner_keeps s r
    exact ⟨_, _, exec_hello hup hr hk, hregs, congrArg (· ++ _) hout⟩
  · exact helloReply_measures receipt hup hr hk hstep
  · rw [exec_neighbourSilent hlink hstep hb]
    refine ⟨fun hlt => by rw [if_neg (Nat.not_le.2 hlt)], fun hle hno => ?_⟩
    obtain ⟨hset, hval, hfull⟩ := setNbr_sets 0 hlink hno
    exact ⟨_, by rw [if_pos hle], hset, hval, hfull⟩
  · intro u known
    have hexec := exec_fieldStatus ha hr hk hf hc
    have hknown : fieldKnown (statusHeard s r) = true ↔ known := fieldKnown_iff _
    refine ⟨fun hstep hall => ?_, fun hno => ?_⟩
    · rw [hexec, if_pos ⟨hstep, hknown.2 hall⟩]
      rfl
    · rw [hexec, if_neg fun h => hno.elim (fun hn => hn h.1) (fun hn => hn (hknown.1 h.2))]
      rfl
  · rw [exec_fieldStatusTimeout hstep h1]
    exact ⟨fun hlt => by rw [if_neg (by omega)], fun hle => by rw [if_pos (by omega)]⟩

end Sys2Proof.Machine
end

section
/-! SUPPORT. The instructions of the test wrapper, and the mesh links that train and go down (R783 to R788, R801). Settles
O58. -/

namespace Sys2Proof.Machine

-- ## The words of the wrapper (R784 to R786)

theorem fieldsWord_nil : fieldsWord [] = 0 := rfl

/-- The fields of a word add up. -/
theorem fieldsWord_cons (p v : Nat) (l : List (Nat × Nat)) : fieldsWord ((p, v) :: l) = v * 2 ^ p + fieldsWord l := by
  have hfrom : ∀ (l : List (Nat × Nat)) (a : Nat),
      l.foldl (fun a p => a + p.2 * 2 ^ p.1) a = a + l.foldl (fun a p => a + p.2 * 2 ^ p.1) 0 := by
    intro l
    induction l with
    | nil => exact fun a => rfl
    | cons q l ih =>
      intro a
      rw [List.foldl_cons, List.foldl_cons, ih, ih (0 + _)]
      omega
  rw [fieldsWord, List.foldl_cons, hfrom, Nat.zero_add]
  rfl

theorem bit_le (s : State) {f : Fld} (h : f.w = 1) : getF s f ≤ 1 := by
  rcases getF_bit s h with h | h <;> omega

theorem b2n_le (b : Bool) : b2n b ≤ 1 := by cases b <;> decide

/-- STATUS shows the always-on state; the stage, OPEN and the count where the machine is awake. -/
theorem statusWord_shows (s : State) : bits (statusWord s) 8 2 = aonState s
    ∧ (aonState s = 0 ∨ aonState s = 2 → bits (statusWord s) 0 4 = getF s F.MSH_BOOT_STAGE
        ∧ bits (statusWord s) 10 1 = getF s F.REG_CTL_OPEN ∧ bits (statusWord s) 32 32 = now s % 2 ^ 32) := by
  have haon : aonState s < 4 := getF_lt s F.CPM_AON_STAT_AON_STATE
  have hlog := bit_le s (f := F.INT_STAT_LOG_LOST) rfl
  have hlost := bit_le s (f := F.CPM_AON_STAT_RET_LOST) rfl
  have hstage : getF s F.MSH_BOOT_STAGE < 16 := getF_lt s F.MSH_BOOT_STAGE
  have hcause : getF s F.MSH_BOOT_CAUSE < 16 := getF_lt s F.MSH_BOOT_CAUSE
  have hopen := bit_le s (f := F.REG_CTL_OPEN) rfl
  have hfenced := b2n_le (fenced s)
  have hsafe := bit_le s (f := F.CPM_CLK_STAT_SAFE) rfl
  have htrip := bit_le s (f := F.CPM_THERM_STAT_TRIPPED) rfl
  have hbleach := b2n_le (s.integ.bleach != [])
  have hinst : selfInst s < 512 := getF_lt s F.GLB_SELF_INSTANCE
  have hwafer : selfWafer s < 32 := getF_lt s F.GLB_SELF_WAFER
  have hassigned := b2n_le (assigned s)
  unfold statusWord
  dsimp only
  split
  · simp only [fieldsWord_cons, fieldsWord_nil, bits]
    refine ⟨by omega, fun h => ?_⟩
    omega
  · simp only [List.cons_append, List.nil_append, fieldsWord_cons, fieldsWord_nil, bits]
    refine ⟨by omega, fun _ => ⟨by omega, by omega, by omega⟩⟩

/-- CSR's data, its address and WRITE, its CODE and DONE. -/
theorem csrWord_shows {v a c : Nat} (hv : v < 2 ^ 32) (ha : a < 2 ^ 21) (hc : c < 8) :
    let dr := fieldsWord [(0, v), (32, a), (54, c), (58, 1)]
    bits dr 58 1 = 1 ∧ bits dr 54 3 = c ∧ bits dr 0 32 = v := by
  intro dr
  simp only [dr, fieldsWord_four, bits]
  refine ⟨by omega, by omega, by omega⟩

theorem memBusy_shows {a : Nat} (ha : a < 2 ^ 27) : bits (fieldsWord [(0, fieldsWord [(64, a)]), (95, 1)]) 95 1 = 1 := by
  simp only [fieldsWord_cons, fieldsWord_nil, bits]
  omega

-- ## CSR (R785)

/-- The wrapper's access to the control space is enabled. -/
def csrEnabled (s : State) : Bool :=
  !(aonState s == 1 || aonState s == 3 || !s.clk.powerOk || !flagF s F.GLB_DBG_CTL_CSR_EN)

theorem csrEnabled_iff (s : State) : csrEnabled s = true ↔
    aonState s ≠ 1 ∧ aonState s ≠ 3 ∧ s.clk.powerOk = true ∧ flagF s F.GLB_DBG_CTL_CSR_EN = true := by
  simp [csrEnabled, and_assoc]

theorem exec_csr_refused {d : BitVec 59} {s : State} (h : csrEnabled s = false) : exec (.csr d) s = .next (refuseWir s) :=
  if_pos (by simpa only [csrEnabled, Bool.not_eq_false'] using h)

/-- A started access shows its CODE and its data, with DONE. -/
theorem exec_csr_started {d : BitVec 59} {s : State} (h : csrEnabled s = true) (hs : bitAt d.toNat 53 = true) :
    let x := d.toNat
    let a := csrAccess (bits x 32 20) (bits x 0 32) (bitAt x 52) s
    ∃ t, exec (.csr d) s = .next t ∧ t.wrap.wir = 5 ∧ t.regs = a.2.regs ∧ t.wrap.dr = fieldsWord
      [(0, if bitAt x 52 then bits x 0 32 else a.1.2), (32, bits x 32 21), (54, a.1.1), (58, 1)] := by
  intro x a
  have hexec : exec (.csr d) s = execCsr d s := rfl
  unfold execCsr at hexec
  dsimp only at hexec
  rw [if_neg (ne_true_of_eq_false (by simpa only [csrEnabled, Bool.not_eq_true'] using h)), if_pos hs] at hexec
  exact ⟨_, hexec, rfl, rfl, rfl⟩

-- ## MEM (R786)

/-- The wrapper's access to the data is enabled. -/
def memEnabled (s : State) : Bool :=
  !(aonState s == 1 || aonState s == 3 || !s.clk.powerOk || !flagF s F.GLB_DBG_CTL_MEM_EN)

theorem memEnabled_iff (s : State) : memEnabled s = true ↔
    aonState s ≠ 1 ∧ aonState s ≠ 3 ∧ s.clk.powerOk = true ∧ flagF s F.GLB_DBG_CTL_MEM_EN = true := by
  simp [memEnabled, and_assoc]

theorem exec_mem_refused {d : BitVec 97} {s : State} (h : memEnabled s = false) : exec (.mem d) s = .next (refuseWir s) :=
  if_pos (by simpa only [memEnabled, Bool.not_eq_false'] using h)

/-- What a MEM access leaves: an overrun where one waits, its request or answer, or nothing without START. -/
def memAccessed (x : Nat) (s : State) : State :=
  if !bitAt x 91 then s
  else if s.reqs.any (fun r => r.org == .debug) then setF s F.GLB_DBG_STAT_DBG_OVR 1
  else debugAccess (bits x 64 26) (bits x 0 64) (bitAt x 90) s

theorem exec_mem_loaded {d : BitVec 97} {s : State} (h : memEnabled s = true) : ∃ t, exec (.mem d) s = .next t
    ∧ t.wrap.wir = 6 ∧ t.regs = (memAccessed d.toNat s).regs ∧ t.reqs = (memAccessed d.toNat s).reqs
    ∧ ((memAccessed d.toNat s).reqs.any (fun r => r.org == .debug) = true →
      t.wrap.dr = fieldsWord [(0, fieldsWord [(64, bits d.toNat 64 27)]), (95, 1)]) := by
  have hexec : exec (.mem d) s = execMem d s := rfl
  unfold execMem at hexec
  dsimp only at hexec
  rw [if_neg (ne_true_of_eq_false (by simpa only [memEnabled, Bool.not_eq_true'] using h))] at hexec
  exact ⟨_, hexec, rfl, rfl, rfl, fun hbusy => if_pos hbusy⟩

-- ## The mesh links (R801)

theorem exec_meshLinkTrained {k : Nat} {s : State} (hk : k < 4) (ha : aonState s = 0 ∨ aonState s = 2) :
    exec (.meshLinkTrained k) s = .next (orF s F.MESH_STAT_UP k) := by
  change execMeshLinkTrained k s = _
  rcases ha with ha | ha <;> simp [execMeshLinkTrained, Nat.not_le.2 hk, ha]

/-- The bits of the other links stay. -/
theorem otherBits : ∀ x < 16, ∀ k < 4, ∀ j < 4, j ≠ k → bitAt (Nat.lor x (2 ^ k) % 16) j = bitAt x j := by decide

/-- Settles O58: each instruction of the wrapper, permitted and refused, and the mesh links. -/
theorem wrapperInstructionsLoad : Obligations.WrapperInstructionsLoad := by
  refine ⟨fun s => ⟨rfl, ⟨_, rfl, rfl, rfl, rfl⟩, ⟨_, rfl, rfl, rfl, statusWord_shows s⟩, fun hf => ⟨?_, ?_⟩,
    fun hf hd => ⟨?_, ?_⟩, fun b => ⟨_, rfl, rfl, rfl, rfl⟩⟩, fun d s => ?_, fun d s => ?_, fun k s hk ha => ⟨?_, fun hup => ?_⟩⟩
  · exact ⟨loadWir 1 0 s, congrArg Host.Outcome.next (if_pos hf), rfl, rfl⟩
  · exact ⟨loadWir 2 0 s, congrArg Host.Outcome.next (if_pos hf), rfl, rfl⟩
  · exact congrArg _ ((if_neg hf).trans (if_neg hd))
  · exact congrArg _ ((if_neg hf).trans (if_neg hd))
  · intro x allowed
    have hen : csrEnabled s = true ↔ allowed := csrEnabled_iff s
    refine ⟨fun hno => exec_csr_refused (Bool.eq_false_of_not_eq_true fun h => hno (hen.1 h)),
      fun hok hs hw hal => ?_, fun hok hs hr hal hlt => ?_⟩
    · have hwrite : bitAt d.toNat 52 = true := (bits_eq_one_iff _ _).1 hw
      obtain ⟨t, hexec, hwir, hregs, hdr⟩ := exec_csr_started (hen.2 hok) ((bits_eq_one_iff _ _).1 hs)
      have hacc : csrAccess (bits d.toNat 32 20) (bits d.toNat 0 32) true s
          = ((if debugBarred (bits d.toNat 32 20) then 4 else 0, 0), debugMark .debug (bits d.toNat 32 20) (bits d.toNat 0 32)
            (writeAny .debug (bits d.toNat 32 20) (bits d.toNat 0 32) s)) := (if_neg (by simpa using hal)).trans (if_pos rfl)
      have hcode : (if debugBarred (bits d.toNat 32 20) then 4 else 0) < 8 := by split <;> decide
      obtain ⟨hdone, hshow, -⟩ := csrWord_shows (bits_lt d.toNat 0 32) (bits_lt d.toNat 32 21) hcode
      rw [hwrite, hacc] at hregs hdr
      rw [if_pos rfl] at hdr
      exact ⟨t, hexec, hwir, hdr ▸ hdone, hdr ▸ hshow, hregs⟩
    · have hread : bitAt d.toNat 52 = false := Bool.eq_false_of_not_eq_true fun h => by
        have h1 := (bits_eq_one_iff _ _).2 h
        exact absurd (h1.symm.trans hr) (by decide)
      obtain ⟨t, hexec, hwir, -, hdr⟩ := exec_csr_started (hen.2 hok) ((bits_eq_one_iff _ _).1 hs)
      have hacc : csrAccess (bits d.toNat 32 20) (bits d.toNat 0 32) false s
          = ((0, (readReg .debug (bits d.toNat 32 20) s).1), (readReg .debug (bits d.toNat 32 20) s).2) :=
        (if_neg (by simpa using hal)).trans (if_neg (by decide))
      obtain ⟨hdone, hshow, hdata⟩ := csrWord_shows hlt (bits_lt d.toNat 32 21) (show 0 < 8 by decide)
      rw [hread, hacc] at hdr
      rw [if_neg (by decide)] at hdr
      exact ⟨t, hexec, hwir, hdr ▸ hdone, hdr ▸ hshow, hdr ▸ hdata⟩
  · intro x allowed waiting
    have hen : memEnabled s = true ↔ allowed := memEnabled_iff s
    refine ⟨fun hno => exec_mem_refused (Bool.eq_false_of_not_eq_true fun h => hno (hen.1 h)),
      fun hok hs hwait => ?_, fun hok hs hwait => ?_, fun hok hs => ?_⟩
    all_goals obtain ⟨t, hexec, hwir, hregs, hreqs, hbusy⟩ := exec_mem_loaded (d := d) (hen.2 hok)
    · have hstart : bitAt d.toNat 91 = true := (bits_eq_one_iff _ _).1 hs
      have hacc : memAccessed d.toNat s = setF s F.GLB_DBG_STAT_DBG_OVR 1 :=
        (if_neg (by simp [hstart])).trans (if_pos hwait)
      rw [hacc] at hregs hbusy
      exact ⟨t, hexec, hwir, hbusy hwait ▸ memBusy_shows (bits_lt d.toNat 64 27),
        (getF_of_regs hregs _).trans (getF_setF_same _ _ _)⟩
    · have hstart : bitAt d.toNat 91 = true := (bits_eq_one_iff _ _).1 hs
      have hacc : memAccessed d.toNat s = debugAccess (bits d.toNat 64 26) (bits d.toNat 0 64) (bitAt d.toNat 90) s :=
        (if_neg (by simp [hstart])).trans (if_neg (ne_true_of_eq_false hwait))
      rw [hacc] at hregs hreqs
      exact ⟨t, hexec, hwir, hreqs, hregs⟩
    · have hstart : bitAt d.toNat 91 = false := Bool.eq_false_of_not_eq_true fun h => by
        have h1 := (bits_eq_one_iff _ _).2 h
        exact absurd (h1.symm.trans hs) (by decide)
      have hacc : memAccessed d.toNat s = s := if_pos (by simp [hstart])
      rw [hacc] at hregs hreqs
      exact ⟨t, hexec, hwir, hregs, hreqs⟩
  · have hor : getF (orF s F.MESH_STAT_UP k) F.MESH_STAT_UP = Nat.lor (getF s F.MESH_STAT_UP) (2 ^ k) % 16 :=
      getF_setF_same _ _ _
    have hlt : getF s F.MESH_STAT_UP < 16 := getF_lt s F.MESH_STAT_UP
    refine ⟨_, exec_meshLinkTrained hk ha, ?_, fun j hj hne => ?_⟩
    · rw [hor]
      exact (doneBits _ hlt k hk).1
    · rw [hor]
      exact otherBits _ hlt k hk j hj hne
  · exact if_neg (by simp [Nat.not_le.2 hk, hup])

end Sys2Proof.Machine
end
